-- ==== Sys2Proof/Word.lean ====
section
/-!
DEFINITION. The word types of the ON-960: bytes, 16-, 32-, 64- and 128-bit words (00_scope.md R6).
-/
namespace Sys2Proof

/-- One byte. -/
abbrev Byte := BitVec 8
/-- A 16-bit word: status codes and opcodes (03 R55, R72). -/
abbrev W16 := BitVec 16
/-- A 32-bit register word (21 R557). -/
abbrev W32 := BitVec 32
/-- A 64-bit register word: IOVAs, NTB values, sequences (21 R557). -/
abbrev W64 := BitVec 64
/-- One AES block, most significant byte first. -/
abbrev W128 := BitVec 128
/-- A run of bytes, lowest address first. -/
abbrev Bytes := List Byte

end Sys2Proof
end

