-- ==== Sys2Proof/Syntax.lean ====
section
/-!
DEFINITION. The commands of the block: one constructor per row of spec/opcode_table.json, with the operands a sender
supplies. A command of the opcode map (03 R73) names its job by journal sequence; register writes carry the value written;
frames carry their bytes; an arrival carries what the host returned.
-/
namespace Sys2Proof

/-- Why a host read failed (03 R51, 11 R317). -/
inductive ReadFail where
  | unsupported | completerAbort | poisoned | timeout
  deriving DecidableEq, Repr

/-- What a host read returned (03 R51). -/
inductive ReadResult where
  | data (bytes : Bytes)
  | failed (cause : ReadFail)
  deriving DecidableEq, Repr

/-- A host read in flight, named for its time-out (20 R568). -/
inductive ReadRef where
  | descriptor (p : Fin 256) (ring : Fin 16)
  | input (seq off : Nat)
  | blob (seq : Nat) (second : Bool)
  deriving DecidableEq, Repr

/-- A unit whose known-answer test ends (17 R480): Gecko engine, PIN vault unit, Newt core, Iguana unit 0 to 27 (09 R284). -/
inductive TestUnit where
  | gecko (n : Fin 32)
  | pinv (n : Fin 4)
  | newt (n : Fin 16)
  | igu (n : Fin 28)
  deriving DecidableEq, Repr

/-- The kind of an internal access (17 R492). -/
inductive AccessKind where
  | read | write | fetch
  deriving DecidableEq, Repr

/-- One region of a Guard unit (17 R485, R492). -/
structure GuardRegion where
  /-- Region enabled. -/
  en : Bool
  /-- Base address. -/
  base : W32
  /-- log2 of the size, 12 to 32. -/
  size : BitVec 6
  /-- Bit i disables sub-region i. -/
  srd : Byte
  /-- Worlds admitted: bit 0 CUSTODIAN, 1 SERVICE, 2 PARTITION. -/
  worlds : BitVec 3
  deriving DecidableEq, Repr

/-- The commands of the module, one per row of the table of operations and events. -/
inductive Instr where
  /-- SQ_TAIL (R53): Host writes a new submission tail through the doorbell, and the Ring engine starts fetching unless back-pressure holds it. -/
  | sqTail (p : Fin 256) (ring : Fin 16) (word : Bool) (value : W32)
  /-- CQ_HEAD (R60): Host writes a new completion head, releasing completion slots for reservation. -/
  | cqHead (p : Fin 256) (ring : Fin 16) (word : Bool) (value : W32)
  /-- DESCRIPTOR_FETCH (R54): The Ring engine issues a descriptor read of up to 8 descriptors once Cirque, slots and completion slots allow. -/
  | descriptorFetch
  /-- DESCRIPTOR_ARRIVAL (R76): A fetched descriptor arrives and Cirque runs admission checks, admits or refuses it, and assigns a journal sequence. -/
  | descriptorArrival (p : Fin 256) (ring : Fin 16) (r : ReadResult)
  /-- FENCE_RELEASE (R64): A fenced descriptor is admitted once every earlier completion of its ring has been written. -/
  | fenceRelease (p : Fin 256) (ring : Fin 16)
  /-- JOB_DISPATCH (R95): The dispatcher gives a ready job a Gecko hardware thread. -/
  | jobDispatch
  /-- JOB_INPUT_ARRIVAL (R569): A host read of job input arrives, or fails and ends the command with ST_ACCESS. -/
  | jobInputArrival (seq off : Nat) (r : ReadResult)
  /-- BLOB_LOAD (R132): A blob table entry and blob arrive, are checked, unwrapped and loaded into the blob cache. -/
  | blobLoad (seq : Nat) (second : Bool) (entry blob : ReadResult)
  /-- HOST_READ_TIMEOUT (R568): A non-posted request gets no completion within the completion timeout and counts as failed. -/
  | hostReadTimeout (what : ReadRef)
  /-- NEWT_GRANT (R213): The Newt dispatcher grants a free eligible core to a waiting request. -/
  | newtGrant (core : Fin 16)
  /-- IGUANA_GRANT (R271): A class 3 job enters a free operand bank of a big-number core. -/
  | iguanaGrant (core : Fin 16) (bank : Bool)
  /-- PINV_GRANT (R150): A free PIN vault unit takes a command and runs it as one segment. -/
  | pinvGrant (unit : Fin 4)
  /-- UNIT_GRANT (R250): A free lattice or hash unit takes a waiting request. -/
  | unitGrant (unit : Fin 12)
  /-- YIELD_POINT (R96): A job reaches a yield point, where pending cancel or reset acts and the class arbiter may switch units. -/
  | yieldPoint (seq : Nat)
  /-- BANK_ZEROISE_DONE (R249): An operand bank finishes its 256-cycle zeroisation and can take a new job. -/
  | bankZeroiseDone (core : Fin 16) (bank : Bool)
  /-- JOB_RETIRE (R78): A job's engine work ends, its bindings are released and its journal entry is updated with the final status. -/
  | jobRetire (seq : Nat)
  /-- COMPLETION_WRITE (R12): A completion is written after output and journal update, once its flow, slot and JACK waits allow. -/
  | completionWrite (seq : Nat)
  /-- INT_MODERATION_TIMER (R62): The moderation timer of a ring expires and its MSI-X message is sent. -/
  | intModerationTimer (p : Fin 256) (ring : Fin 16)
  /-- MSIX_VECTOR_UNMASK (R62): Host unmasks a vector with its pending bit set, and the message goes out. -/
  | msixVectorUnmask (p : Fin 256) (vector : Fin 64)
  /-- CURSOR_ADVANCE (R85): NTB crosses a multiple of 256 ns, and the calendar cursor advances one bucket. -/
  | cursorAdvance
  /-- SERVICE_WINDOW (R98): A 1 ms service-floor window ends, and entitlement and received service are reset. -/
  | serviceWindow
  /-- RING_ENABLE (R48): Host writes 1 to RING_CTRL.EN, which enables the ring pair or sets CFG_ERR. -/
  | ringEnable (p : Fin 256) (ring : Fin 16)
  /-- RING_DISABLE (R50): Host writes 0 to RING_CTRL.EN, which stops fetching while admitted jobs complete. -/
  | ringDisable (p : Fin 256) (ring : Fin 16)
  /-- PART_CREATE (R315): Creates a partition with vault master, DRBG instance and configuration. -/
  | partCreate (seq : Nat)
  /-- PART_DESTROY (R316): Destroys a partition, zeroising all its keys and its master. -/
  | partDestroy (seq : Nat)
  /-- PART_CONFIGURE (R313): Commits a partition's configuration record. -/
  | partConfigure (seq : Nat)
  /-- PART_FREEZE (R323): Stops a partition's fetching, drains it and makes it FROZEN. -/
  | partFreeze (seq : Nat)
  /-- PART_THAW (R324): Returns a FROZEN partition to ACTIVE according to its migration sub-state. -/
  | partThaw (seq : Nat)
  /-- PART_SAVE_SAVE (R328): The source checks an offer and issues a sealed image of a frozen partition. -/
  | partSaveSave (seq : Nat)
  /-- PART_SAVE_RELEASE (R333): The source checks a receipt, destroys the partition and signs a release. -/
  | partSaveRelease (seq : Nat)
  /-- PART_SAVE_REISSUE (R333): The source signs a release anew for a matching receipt. -/
  | partSaveReissue (seq : Nat)
  /-- PART_RESTORE_OFFER (R327): The target issues a signed migration offer with ephemeral keys. -/
  | partRestoreOffer (seq : Nat)
  /-- PART_RESTORE_RESTORE (R331): The target checks and commits an image, and outputs a receipt. -/
  | partRestoreRestore (seq : Nat)
  /-- PART_RESTORE_ACTIVATE (R334): The target checks a release and makes the restored partition ACTIVE. -/
  | partRestoreActivate (seq : Nat)
  /-- PART_RESTORE_ABORT (R334): The target zeroises restored contents and the open offer. -/
  | partRestoreAbort (seq : Nat)
  /-- TDES_SET_ENABLE (R230): Enables TDES for a partition under dual control. -/
  | tdesSetEnable (seq : Nat)
  /-- TDES_SET_DISABLE (R231): Disables TDES for a partition and completes once earlier TDES bindings drain. -/
  | tdesSetDisable (seq : Nat)
  /-- AUTH_CHALLENGE (R345): Returns a fresh 32-byte challenge with its issue stamp. -/
  | authChallenge (seq : Nat)
  /-- CUSTODIAN_SESSION_OPEN (R353): Opens a key component session and outputs a signed session offer. -/
  | custodianSessionOpen (seq : Nat)
  /-- CUSTODIAN_SESSION_EXCHANGE (R355): Checks a token message and places the decrypted component in the pending load. -/
  | custodianSessionExchange (seq : Nat)
  /-- CUSTODIAN_SESSION_CLOSE (R352): Closes a custodian's session and zeroises its ephemeral keys. -/
  | custodianSessionClose (seq : Nat)
  /-- CUSTODIAN_ENROL (R341): Enrols, replaces or removes a custodian table entry. -/
  | custodianEnrol (seq : Nat)
  /-- MASTER_LOAD (R357): Makes a vault master the XOR of pending components and increments its generation. -/
  | masterLoad (seq : Nat)
  /-- POLICY_SET_TAMPER (R386): Replaces the whole tamper policy under class TAMPER. -/
  | policySetTamper (seq : Nat)
  /-- POLICY_SET_RULES (R344): Replaces all 11 M-of-N rules. -/
  | policySetRules (seq : Nat)
  /-- POLICY_SET_CELL_WINDOW (R358): Opens a cell-service window. -/
  | policySetCellWindow (seq : Nat)
  /-- LC_TRANSITION (R394): Moves the module to a later life-cycle state through the ordered steps of R396. -/
  | lcTransition (seq : Nat)
  /-- FW_UPDATE_LOAD (R407): Writes image bytes into the inactive firmware slot. -/
  | fwUpdateLoad (seq : Nat)
  /-- FW_UPDATE_ACTIVATE (R407): Verifies the inactive image and marks its slot pending. -/
  | fwUpdateActivate (seq : Nat)
  /-- DEBUG_CERT_ACCEPT (R403): Accepts a debug certificate, zeroising first for secret-adjacent rights, and opens the debug port. -/
  | debugCertAccept (seq : Nat)
  /-- ATTEST (R361): Outputs a signed attestation statement about the submitting partition. -/
  | attest (seq : Nat)
  /-- PAIR_STATUS_READ (R442): Outputs the 64-byte pair status. -/
  | pairStatusRead (seq : Nat)
  /-- PAIR_STATUS_REPAIR (R439): Brings the peer into step through catch-up. -/
  | pairStatusRepair (seq : Nat)
  /-- PAIR_STATUS_HANDOVER (R438): Hands the active role to an in-step standby after a drain. -/
  | pairStatusHandover (seq : Nat)
  /-- KEY_IMPORT (R148): Unwraps a key block under a KEK into a new node. -/
  | keyImport (seq : Nat)
  /-- KEY_IMPORT_RESTORE (R139): A KEY_IMPORT with handle A zero restores a node from a keystore put record. -/
  | keyImportRestore (seq : Nat)
  /-- KEY_EXPORT (R148): Wraps an exportable key as a key block under a KEK. -/
  | keyExport (seq : Nat)
  /-- KEY_GENERATE (R148): Generates a symmetric key node from a template. -/
  | keyGenerate (seq : Nat)
  /-- KEY_REPLACE (R141): Replaces a node's material if the check value matches, and increments its generation. -/
  | keyReplace (seq : Nat)
  /-- KEY_ERASE (R143): Zeroises a node, frees its slot and orphans its descendants. -/
  | keyErase (seq : Nat)
  /-- KEY_INVALIDATE (R142): Increments a parent's generation so that every descendant is lost. -/
  | keyInvalidate (seq : Nat)
  /-- KEY_ATTR_READ (R148): Returns node bytes 0 to 63. -/
  | keyAttrRead (seq : Nat)
  /-- KEY_CHECK_VALUE (R117): Returns a key's check value. -/
  | keyCheckValue (seq : Nat)
  /-- KEY_TRANSLATE (R148): Re-wraps a key block from one KEK to another without creating a node. -/
  | keyTranslate (seq : Nat)
  /-- BLOB_TABLE_SET (R131): Names the partition's blob table and evicts its loaded blobs. -/
  | blobTableSet (seq : Nat)
  /-- BLOB_EVICT (R132): Evicts a loaded blob from the blob cache. -/
  | blobEvict (seq : Nat)
  /-- DERIV_CONTEXT_SET (R128): Sets a derivation context with a parent, a label and attributes. -/
  | derivContextSet (seq : Nat)
  /-- KEYSTORE_RING_SET (R133): Sets or removes the partition's keystore ring. -/
  | keystoreRingSet (seq : Nat)
  /-- DERIVED_CACHE_FLUSH (R148): Frees the partition's derived-key cache entries. -/
  | derivedCacheFlush (seq : Nat)
  /-- TR34_IMPORT (R205): Imports a key from a TR-34 one-pass message after signature and freshness checks. -/
  | tr34Import (seq : Nat)
  /-- PIN_TRANSLATE (R165): Deciphers a PIN block and enciphers the PIN under another key and format. -/
  | pinTranslate (seq : Nat)
  /-- PIN_VERIFY_OFFSET (R167): Verifies a PIN against an offset by the offset method. -/
  | pinVerifyOffset (seq : Nat)
  /-- PIN_VERIFY_PVV (R169): Verifies a PIN against a PVV. -/
  | pinVerifyPvv (seq : Nat)
  /-- PIN_OFFSET_GEN (R167): Generates a PIN offset. -/
  | pinOffsetGen (seq : Nat)
  /-- PVV_GEN (R169): Generates a PIN verification value. -/
  | pvvGen (seq : Nat)
  /-- PIN_GENERATE (R171): Generates a random PIN and returns it only as an enciphered block. -/
  | pinGenerate (seq : Nat)
  /-- DECTAB_LOAD (R172): Installs a MAC-protected decimalisation table. -/
  | dectabLoad (seq : Nat)
  /-- ARQC_VERIFY (R188): Verifies an ARQC and optionally generates an ARPC. -/
  | arqcVerify (seq : Nat)
  /-- ARPC_GENERATE (R189): Generates an ARPC without verifying the ARQC. -/
  | arpcGenerate (seq : Nat)
  /-- SM_MAC (R190): Generates or verifies a secure messaging MAC. -/
  | smMac (seq : Nat)
  /-- SM_ENCRYPT (R190): Enciphers secure messaging data under the session key. -/
  | smEncrypt (seq : Nat)
  /-- SM_PIN_CHANGE (R191): Builds the enciphered PIN data of an EMV PIN change in a PIN vault unit. -/
  | smPinChange (seq : Nat)
  /-- CVV_GENERATE (R175): Generates a card verification value. -/
  | cvvGenerate (seq : Nat)
  /-- CVV_VERIFY (R175): Verifies a card verification value. -/
  | cvvVerify (seq : Nat)
  /-- DUKPT_INIT_EXPORT (R198): Exports a DUKPT initial key as a key block. -/
  | dukptInitExport (seq : Nat)
  /-- DUKPT_DECRYPT (R198): Decrypts data under a DUKPT working key. -/
  | dukptDecrypt (seq : Nat)
  /-- DUKPT_ENCRYPT (R198): Encrypts data under a DUKPT working key. -/
  | dukptEncrypt (seq : Nat)
  /-- DUKPT_MAC_GENERATE (R198): Generates a MAC under a DUKPT working key. -/
  | dukptMacGenerate (seq : Nat)
  /-- DUKPT_MAC_VERIFY (R198): Verifies a MAC under a DUKPT working key. -/
  | dukptMacVerify (seq : Nat)
  /-- ENCRYPT (R228): Encrypts data with a symmetric mode on a Newt core. -/
  | encrypt (seq : Nat)
  /-- DECRYPT (R229): Decrypts data with a symmetric mode, checking tags and padding. -/
  | decrypt (seq : Nat)
  /-- MAC_GENERATE (R200): Generates a MAC over the input. -/
  | macGenerate (seq : Nat)
  /-- MAC_VERIFY (R200): Verifies a MAC in fixed time. -/
  | macVerify (seq : Nat)
  /-- FF1_TOKENISE (R201): Applies FF1 encryption to a numeral string. -/
  | ff1Tokenise (seq : Nat)
  /-- FF1_DETOKENISE (R201): Applies FF1 decryption to a numeral string. -/
  | ff1Detokenise (seq : Nat)
  /-- PK_SIGN (R257): Makes a public-key signature. -/
  | pkSign (seq : Nat)
  /-- PK_VERIFY (R258): Verifies a public-key signature after input validation. -/
  | pkVerify (seq : Nat)
  /-- PK_KEYPAIR (R259): Generates an asymmetric key pair node. -/
  | pkKeypair (seq : Nat)
  /-- PK_AGREE (R260): Performs key agreement with an optional KDF. -/
  | pkAgree (seq : Nat)
  /-- KEM_ENCAPS (R261): Performs ML-KEM encapsulation. -/
  | kemEncaps (seq : Nat)
  /-- KEM_DECAPS (R261): Performs ML-KEM decapsulation with implicit rejection. -/
  | kemDecaps (seq : Nat)
  /-- RSA_DECRYPT (R262): Performs RSAES-OAEP decryption. -/
  | rsaDecrypt (seq : Nat)
  /-- RSA_ENCRYPT (R262): Performs RSAES-OAEP encryption. -/
  | rsaEncrypt (seq : Nat)
  /-- CURVE_LOAD (R268): Checks and loads, or clears, a partition curve slot. -/
  | curveLoad (seq : Nat)
  /-- RANDOM (R74): Writes random bytes equal to the output capacity, with an optional reseed first. -/
  | random (seq : Nat)
  /-- HASH (R263): Computes a digest or SHAKE output. -/
  | hash (seq : Nat)
  /-- HMAC (R263): Computes an HMAC under an M7 key. -/
  | hmac (seq : Nat)
  /-- NOP (R73): Completes with no effect. -/
  | nop (seq : Nat)
  /-- FENCE (R65): Completes once every earlier job of its partition has completed. -/
  | fence (seq : Nat)
  /-- CANCEL (R66): Cancels admitted jobs by scope and completes after its targets. -/
  | cancel (seq : Nat)
  /-- TIME_READ (R73): Returns the NTB stamp and TIME_ERR_BOUND. -/
  | timeRead (seq : Nat)
  /-- JOURNAL_MARK (R74): Records a journal entry that carries a host value. -/
  | journalMark (seq : Nat)
  /-- TIME_PAIR (R25): The upper-word write of a host time pair applies it as the NTB at its arrival. -/
  | timePair (upper : W32)
  /-- ACCEPT_FREE (R32): Partition 0 writes TIME_CTRL.ACCEPT_FREE, moving HOLDOVER to FREE. -/
  | acceptFree
  /-- TIME_CFG_WRITE (R38): A TIME_CFG write changes or locks the source, and records Scree 0x0C6. -/
  | timeCfgWrite (value : W32)
  /-- TIME_PPS_EDGE (R24): A rising edge on TIME_PPS_IN is latched and judged for lock. -/
  | timePpsEdge
  /-- TIME_OF_DAY_FRAME (R28): A time-of-day frame received on TIME_TOD_RX is checked for validity. -/
  | timeOfDayFrame (frame : Bytes)
  /-- EDGE_REPORT (R29): 100 ms after a latched edge, the module sends an edge report on TIME_TOD_TX. -/
  | edgeReport
  /-- PTM_REQUEST (R26): The PTM period expires and a PTM request is issued. -/
  | ptmRequest
  /-- PTM_EXCHANGE_DONE (R24): A PTM exchange completes or fails and is judged for lock or loss. -/
  | ptmExchangeDone (master : Option W64)
  /-- SOURCE_LOSS (R32): The selected source meets its loss condition and NTB enters HOLDOVER. -/
  | sourceLoss
  /-- SLEW_DONE (R22): A slew's remaining offset reaches zero, possibly leading to LOCKED. -/
  | slewDone
  /-- SWEEP_VISIT (R144): The orphan sweep visits one node or cache entry every 16 ns and frees orphans. -/
  | sweepVisit
  /-- GENERATION_CHANGE_COMMIT (R144): A waiting generation change commits once a full sweep pass has finished. -/
  | generationChangeCommit (seq : Nat)
  /-- MAS_KS_HEAD_WRITE (R137): Host advances the keystore ring head, freeing record space. -/
  | masKsHeadWrite (p : Fin 256) (value : W32)
  /-- KEYSTORE_RECORD_WRITE (R135): A command waiting for keystore space writes its record and commits. -/
  | keystoreRecordWrite (seq : Nat)
  /-- PINV_UNIT_FAULT (R155): A PIN vault unit fault ends its command with ST_ENGINE_FAULT and raises Tarn PINV. -/
  | pinvUnitFault (unit : Fin 4) (datapath : Bool) (info : W32)
  /-- NEWT_CORE_FAULT (R238): A Newt core fault ends its request and raises Tarn NEWTc. -/
  | newtCoreFault (core : Fin 16) (datapath : Bool) (info : W32)
  /-- IGU_UNIT_FAULT (R275): An Iguana, lattice or hash unit fault ends its jobs and raises Tarn. -/
  | iguUnitFault (unit : Fin 28) (datapath : Bool) (info : W32)
  /-- NEWT_PERIODIC_TEST (R237): Every ST_PERIOD seconds, firmware starts a known-answer test on one Newt core. -/
  | newtPeriodicTest
  /-- IGU_PERIODIC_TEST (R276): Every ST_PERIOD seconds, firmware starts a test on one Iguana unit. -/
  | iguPeriodicTest
  /-- NEWT_WIN_START (R245): Partition 0 writes NEWT_WIN_CTRL.START to request a core and run a test suite. -/
  | newtWinStart (value : W32)
  /-- IGU_WIN_START (R284): Partition 0 writes IGU_WIN_CTRL.START to test a unit. -/
  | iguWinStart (value : W32)
  /-- NEWT_WIN_TIMEOUT (R236): A window test holds its core for 4 µs, so the lock is taken and the test fails. -/
  | newtWinTimeout
  /-- WINDOW_TEST_DONE (R480): A unit's known-answer test ends, returning it to service or leaving it out. -/
  | windowTestDone (unit : TestUnit) (pass : Bool) (cycles : BitVec 14)
  /-- RNG_STARTUP_TEST_DONE (R287): A noise source completes its 1,024-sample start-up test. -/
  | rngStartupTestDone (source : Fin 3) (pass : Bool)
  /-- RNG_SOURCE_FAIL (R300): A noise source fails a health test and leaves service, stopping the service if fewer than two remain. -/
  | rngSourceFail (source : Fin 3) (apt : Bool)
  /-- RNG_BLOCK_CLOSE (R288): A conditioned block reaches 512 bits of credit and is conditioned into the pool. -/
  | rngBlockClose (raw : Bytes)
  /-- RNG_READY (R291): Every pair of sources reaches 512 bits, and all DRBG instances are instantiated or reseeded. -/
  | rngReady (raw : Bytes)
  /-- RNG_RESEED (R297): A pool block serves a waiting reseed request of an instance. -/
  | rngReseed
  /-- RNG_CTRL_RESTART (R301): Partition 0 restarts out-of-service sources, beginning a fresh collection. -/
  | rngCtrlRestart (value : W32)
  /-- VF_FLR (R319): A function-level reset of a VF starts its partition reset. -/
  | vfFlr (p : Fin 256)
  /-- PF_FLR (R319): A PF function-level reset resets every partition including partition 0. -/
  | pfFlr
  /-- VF_ENABLE_CLEAR (R319): Clearing VF Enable resets every partition 1 to 255. -/
  | vfEnableClear
  /-- PART_VF_CTRL_RESET (R319): A write of PART_VF_CTRL.RESET starts a partition reset. -/
  | partVfCtrlReset (p : Fin 256) (value : W32)
  /-- PART_CTRL_RESET (R319): Partition 0 writes PART_CTRL.RESET for the selected partition. -/
  | partCtrlReset (value : W32)
  /-- PART_RESET_DONE (R320): After its jobs stop and are scrubbed, a partition reset ends and the state returns to ACTIVE or FROZEN. -/
  | partResetDone (p : Fin 256)
  /-- BUS_MASTER_ENABLE_CLEAR (R308): Bus Master Enable clears, stopping DMA and fetching for the partition. -/
  | busMasterEnableClear (p : Fin 256)
  /-- BUS_MASTER_ENABLE_SET (R308): Bus Master Enable sets, and fetching and waiting jobs resume within 1 µs. -/
  | busMasterEnableSet (p : Fin 256)
  /-- D3HOT_ENTRY (R539): A function enters D3hot, which stops its DMA. -/
  | d3hotEntry (p : Fin 256)
  /-- CHALLENGE_EXPIRY (R345): A challenge expires 600 s after issue. -/
  | challengeExpiry
  /-- SESSION_EXPIRY (R352): A custodian session closes 300 s after opening. -/
  | sessionExpiry (custodian : Fin 32)
  /-- CELL_WINDOW_EXPIRY (R358): A cell-service window closes, and a still-absent cell counts as removed outside a window. -/
  | cellWindowExpiry
  /-- CUSTODIAN_KEY_STORE_ERASE (R340): After ZEROISE_ALL, the flash custodian key store is erased in the background. -/
  | custodianKeyStoreErase
  /-- MONITOR_EXCURSION (R369): A detector trips, and an event occurs when the count reaches N in W, applying the response. -/
  | monitorExcursion (monitor : Fin 5) (detA detB : Bool)
  /-- DETECTOR_DISAGREEMENT (R367): One detector of a pair stays tripped alone beyond the agreement time, a monitor fault. -/
  | detectorDisagreement (monitor : Fin 6) (detA : Bool)
  /-- TAMPER_CLOCK_FAULT (R367): A tamper clock stops or drifts by more than 10 %, a monitor fault. -/
  | tamperClockFault (clockB : Bool)
  /-- ZEROISE_READBACK_DONE (R375): The read-back after a zeroisation ends, with FATAL on failure. -/
  | zeroiseReadbackDone (ok : Bool)
  /-- CELL_REMOVAL (R382): A cell is removed and judged against the window and the other cell. -/
  | cellRemoval (cellB : Bool)
  /-- CELL_INSERTION (R382): A cell is inserted and begins settling. -/
  | cellInsertion (cellB : Bool) (volts : Byte)
  /-- CELL_SETTLED (R382): An inserted cell stays in range for 1 s and counts as present. -/
  | cellSettled (cellB : Bool)
  /-- CELL_LOW (R368): A present cell's voltage falls between 1.5 V and 2.6 V. -/
  | cellLow (cellB : Bool) (volts : Byte)
  /-- HOLDUP_EXPIRY (R383): 90 s after the last cell leaves without main power, the vault die loses power. -/
  | holdupExpiry
  /-- TMP_CTRL_RESUME (R373): Partition 0 requests leaving a tamper SUSPEND. -/
  | tmpCtrlResume
  /-- TMP_CTRL_EVREG_CLEAR (R380): Clears read evidence register entries and the overflow count. -/
  | tmpCtrlEvregClear
  /-- TMP_EVREG_DATA_READ (R387): A read of an evidence register entry clears its unread bit. -/
  | tmpEvregDataRead (word : Fin 4)
  /-- DBG_CTRL_CLOSE (R404): Partition 0 closes the debug session. -/
  | dbgCtrlClose
  /-- DEBUG_SESSION_EXPIRY (R404): NTB reaches the debug certificate's not-after, and the session closes. -/
  | debugSessionExpiry
  /-- DEBUG_PAGE_REFRESH (R402): Every 100 µs the debug status page is refreshed while right 0 or 1 is held. -/
  | debugPageRefresh (trace : Bytes)
  /-- DEBUG_ACCESS (R405): A JTAG debug access reaches the fabric or the I/O ring. -/
  | debugAccess (kind : AccessKind) (address : W32)
  /-- GRD_COMMIT (R488): Firmware writes GRD_COMMIT, and new accesses are held. -/
  | grdCommit (map : List (Fin 8 × Fin 32 × GuardRegion))
  /-- GRD_COMMIT_APPLY (R488): When old accesses retire, the new rule set takes effect and the epoch increments. -/
  | grdCommitApply
  /-- FW_BOOT_TIMEOUT (R408): A pending image does not reach ready within 1 s, and the boot ROM restarts from the other slot. -/
  | fwBootTimeout
  /-- PAIR_CLAIM (R415): The claim conditions and delay hold, and the module drives PAIR_ACT_OUT high. -/
  | pairClaim
  /-- CLAIM_CHECK (R415): 2 µs after a claim, PAIR_INHIBIT_IN is sampled for a collision or effective active. -/
  | claimCheck
  /-- PAIR_INHIBIT_CHANGE (R414): PAIR_INHIBIT_IN changes level, affecting the effective-active gate. -/
  | pairInhibitChange (high : Bool)
  /-- LIVENESS_TIMEOUT (R416): The core die's liveness signal is not refreshed for 200 µs, and PAIR_ACT_OUT goes low. -/
  | livenessTimeout
  /-- LINK_TRAINING (R417): The Ulistade link trains or retrains its lanes. -/
  | linkTraining (lanes : BitVec 4)
  /-- HANDSHAKE_RETRY (R418): 1 s after a failed or ended session, the handshake is retried. -/
  | handshakeRetry
  /-- CERT (R418): A CERT frame with a certificate chain part is received. -/
  | cert (frame : Bytes)
  /-- HELLO (R418): A HELLO frame with position A's session offer is received. -/
  | hello (frame : Bytes)
  /-- KEYX (R418): A KEYX frame from position B is received and checked. -/
  | keyx (frame : Bytes)
  /-- CONFIRM (R418): A CONFIRM frame completes the session handshake. -/
  | confirm (frame : Bytes)
  /-- HEARTBEAT (R434): A HEARTBEAT frame is received, keeping the in-band path alive. -/
  | heartbeat (frame : Bytes)
  /-- HEARTBEAT_SEND (R434): Every 20 µs the module sends a HEARTBEAT frame and a sideband character. -/
  | heartbeatSend
  /-- SIDEBAND_CHARACTER (R434): A sideband heartbeat character is received on HB_RX. -/
  | sidebandCharacter (counter : BitVec 6) (role : BitVec 2)
  /-- PATH_LOST (R435): A heartbeat path carries nothing valid for 100 µs and is judged lost. -/
  | pathLost (sideband : Bool)
  /-- LINK_ACK_TIMEOUT (R421): The acknowledgement has not advanced for 4 µs, so unacknowledged frames are resent. -/
  | linkAckTimeout
  /-- ADMIT (R424): The standby receives an ADMIT frame and journals the sequence. -/
  | admitFrame (frame : Bytes)
  /-- DISPATCH_FRAME (R424): The standby receives a DISPATCH frame, binds keys and dispatches its copy. -/
  | dispatchFrame (frame : Bytes)
  /-- DATA_FRAME (R423): The standby receives forwarded host read data. -/
  | dataFrame (frame : Bytes)
  /-- RANDOM_FRAME (R423): The standby receives forwarded random values. -/
  | randomFrame (frame : Bytes)
  /-- COMMIT_FRAME (R425): The standby applies a commit to a lasting object at the index named. -/
  | commitFrame (frame : Bytes)
  /-- DONE_FRAME (R427): The standby receives a job's end and compares or adopts its result. -/
  | doneFrame (frame : Bytes)
  /-- RESULT_FRAME (R428): The active receives the standby's result comparison. -/
  | resultFrame (frame : Bytes)
  /-- JACK (R431): The active receives JACK and releases SYNC completions. -/
  | jack (frame : Bytes)
  /-- HANDOVER (R438): A standby receives HANDOVER and claims the active role at once. -/
  | handover (frame : Bytes)
  /-- HANDOVER_DRAINED (R438): Every admitted job has retired on both modules, so HANDOVER is sent and the role released. -/
  | handoverDrained
  /-- SNAPSHOT (R440): A joining peer receives a snapshot record of one lasting object. -/
  | snapshot (frame : Bytes)
  /-- SNAPSHOT_END (R440): A joining peer checks the record count and digest and enters CATCHING_UP. -/
  | snapshotEnd (frame : Bytes)
  /-- CATCHUP_IN_STEP (R440): Every job up to the cut sequence retires, and both modules enter IN_STEP. -/
  | catchupInStep
  /-- DETACH (R441): A DETACH frame is received and the module leaves the pair. -/
  | detach (frame : Bytes)
  /-- PAIR_CTRL_DETACH (R441): Partition 0 writes PAIR_CTRL.DETACH, and the module becomes ALONE. -/
  | pairCtrlDetach
  /-- MARK_RAISE (R447): The next sequence comes within 2^31 of the mark, and the mark is raised by 2^32. -/
  | markRaise
  /-- JRN_HR_CFG_WRITE (R453): A write to JRN_HR_CFG sets and enables the host journal ring, or sets CFG_ERR. -/
  | jrnHrCfgWrite (p : Fin 256) (value : W32)
  /-- JRN_WIN_SEQ_WRITE (R456): A write of JRN_WIN_SEQ starts a journal search. -/
  | jrnWinSeqWrite (p : Fin 256) (upper : W32)
  /-- JRN_SEARCH_DONE (R456): A journal search ends and copies the entry and result. -/
  | jrnSearchDone (p : Fin 256)
  /-- JRN_WIN_ENTRY_READ (R456): A read of JRN_WIN_ENTRY bytes 24–31 starts the next search. -/
  | jrnWinEntryRead (p : Fin 256)
  /-- SCREE_RECORD_CLOSE (R460): The Scree writer takes an item from a FIFO and closes its record. -/
  | screeRecordClose
  /-- TOKEN_REFILL (R462): An event code's token bucket gains one token. -/
  | tokenRefill (code : BitVec 12)
  /-- SUPPRESSED (R462): 10 ms after an episode opens, a SUPPRESSED summary record is issued. -/
  | suppressed (code : BitVec 12)
  /-- SCR_CTRL_FREEZE (R466): Partition 0 freezes Scree. -/
  | scrCtrlFreeze
  /-- SCR_CTRL_THAW (R466): Partition 0 ends a Scree freeze, and SCREE_FROZEN is written. -/
  | scrCtrlThaw
  /-- FREEZE_MAX_EXPIRY (R466): A freeze reaches FREEZE_MAX ms and ends. -/
  | freezeMaxExpiry
  /-- SCR_ACK_WRITE (R468): Host acknowledges a Scree position, rearming the fill interrupt. -/
  | scrAckWrite (upper : W32)
  /-- TARN_ERROR_EVENT (R477): An error line latches its Tarn bit and applies the effective severity. -/
  | tarnErrorEvent (source : Fin 60) (kind : BitVec 6) (unit : Byte) (info : W32)
  /-- TARN_ESCALATION (R478): A set bit's escalation timer expires, and its effective severity rises one step. -/
  | tarnEscalation (source : Fin 60)
  /-- TARN_STATUS_CLEAR (R479): Software writes 1 to a TARN_STATUS bit, clearing or re-setting it. -/
  | tarnStatusClear (mask gone : W64)
  /-- TARN_SEV_WRITE (R482): A write to TARN_SEV0 or TARN_SEV1 changes source severities. -/
  | tarnSevWrite (high : Bool) (value : W64)
  /-- TARN_INJECT (R490): TARN_INJECT.GO latches a test fault on a source. -/
  | tarnInject (value : W32)
  /-- ERR_READBACK_MISMATCH (R483): ERR_P or ERR_N reads back different from driven for 10 µs, raising CONN. -/
  | errReadbackMismatch (pinP pinN : Bool)
  /-- PMC_CLEAR_ALL (R494): PMC_CTRL.CLEAR_ALL clears every device-wide counter. -/
  | pmcClearAll
  /-- PMC_SR_CFG_WRITE (R500): A write to PMC_SR_CFG sets and enables the sample ring. -/
  | pmcSrCfgWrite (value : W32)
  /-- PMC_P_DUMP_CFG_WRITE (R503): A write to PMC_P_DUMP_CFG sets and enables a partition's dump ring. -/
  | pmcPDumpCfgWrite (p : Fin 256) (value : W32)
  /-- PMC_DUMP (R503): The dump period expires, and all eight partition counters are latched and written. -/
  | pmcDump (p : Fin 256)
  /-- PERST_N_RELEASE (R516): PERST_N is released with 12 V good, and the start sequence begins. -/
  | perstNRelease (posB : Bool) (fuseOk pufOk : Bool)
  /-- PERST_N_ASSERT (R526): PERST_N is asserted while running: a module reset. -/
  | perstNAssert
  /-- POWER_DOMAIN_SLOT (R511): A 25 µs start slot is reached and the next domain is switched on. -/
  | powerDomainSlot
  /-- DOMAIN_REGULATION_TIMEOUT (R511): A domain has not regulated 20 µs after its switch, so PWR is raised. -/
  | domainRegulationTimeout (domain : Fin 60)
  /-- START_UP_COMPLETE (R516): Start-up reaches step 13: CRS ends, ERR pair goes normal and READY sets. -/
  | startUpComplete
  /-- START_FAULT (R519): A start-up check fails and the start stops with a fault code. -/
  | startFault (code : Fin 8)
  /-- MAIN_POWER_LOSS (R508): 12 V falls below 10.2 V for 2 µs, and the module drops to the vault. -/
  | mainPowerLoss
  /-- AUX_CHANGE (R509): The 3.3 V auxiliary rail is lost or restored. -/
  | auxChange (good : Bool)
  /-- AUTO_OFF_IDLE (R513): An engine domain idle for IDLE × 100 µs is switched off. -/
  | autoOffIdle (domain : Fin 60)
  /-- DOMAIN_WAKE (R513): A class queue holds a job beyond its segment maximum, so an off unit is switched on. -/
  | domainWake (domain : Fin 60)
  /-- DOMAIN_SWITCH_ON (R512): A queued switch-on request is served within the two-per-25 µs limit. -/
  | domainSwitchOn
  /-- QUIESCE_REQ_N_ASSERT (R522): QUIESCE_REQ_N held low for 10 µs requests a quiesce. -/
  | quiesceReqNAssert
  /-- QUIESCE_REQ_N_RELEASE (R524): QUIESCE_REQ_N held high for 10 µs withdraws the pin request. -/
  | quiesceReqNRelease
  /-- PWR_CTRL_QUIESCE (R522): Partition 0 requests a quiesce. -/
  | pwrCtrlQuiesce
  /-- PWR_CTRL_UNQUIESCE (R524): Partition 0 withdraws its quiesce request. -/
  | pwrCtrlUnquiesce
  /-- QUIESCE_DRAINED (R522): Every admitted job has ended, so the module hands over or detaches and asserts SAFE_REMOVE. -/
  | quiesceDrained
  /-- QUIESCE_MAX_EXPIRY (R523): QUIESCE_MAX ms pass, and remaining jobs end at their next yield point with ST_CANCELLED. -/
  | quiesceMaxExpiry
  /-- SMB_STATUS (R541): SMBus STATUS read. -/
  | smbStatus (pec : Bool)
  /-- SMB_HEALTH (R541): SMBus HEALTH block read. -/
  | smbHealth (pec : Bool)
  /-- SMB_TEMPERATURE (R541): SMBus TEMPERATURE block read. -/
  | smbTemperature (pec : Bool)
  /-- SMB_EVIDENCE (R541): SMBus EVIDENCE word read. -/
  | smbEvidence (pec : Bool)
  /-- SMB_INVENTORY (R541): SMBus INVENTORY block read. -/
  | smbInventory (pec : Bool)
  /-- SMB_QUIESCE_STATE (R541): SMBus QUIESCE_STATE read. -/
  | smbQuiesceState (pec : Bool)
  /-- ALERT_RESPONSE_READ (R540): A read of the Alert Response Address releases SMB_ALERT_N. -/
  | alertResponseRead
  /-- SYS_LOCK_WRITE (R554): A SYS_LOCK write sets the lock bits of several blocks at once. -/
  | sysLockWrite (value : W32)
  /-- CUST_CERT_SEL_WRITE (R362): Selects a certificate and resets the read pointer. -/
  | custCertSelWrite (value : W32)
  /-- CUST_CERT_DATA_READ (R362): A read returns the next 4 certificate bytes and advances the pointer. -/
  | custCertDataRead
  /-- LOWER_WORD_READ (R558): A read of the lower word of a 64-bit register captures it and latches the upper word. -/
  | lowerWordRead (p : Fin 256) (offset : Nat)
  /-- REGISTER_WRITE (R559): A write to a register with no row of its own stores, stages, ignores or refuses the value under the access and lock rules. -/
  | registerWrite (p : Fin 256) (offset size : Nat) (value : W64)
  /-- MAIN_POWER_GOOD (R520): The 12 V main supply returns to its range, PD_VAULT moves back from the cells to main power, and with PERST_N already released the module starts as if PERST_N had been released at that moment. -/
  | mainPowerGood (posB : Bool) (fuseOk pufOk : Bool)
  /-- LINK_TRAINING_LOST (R418): The Ulistade link loses training on every lane for longer than the 1 ms retrain time, which ends the link session and makes the module ALONE. -/
  | linkTrainingLost
  /-- D3HOT_EXIT (R539): A function returns from D3hot to D0, which ends the stop of its DMA so that fetching and waiting jobs proceed again. -/
  | d3hotExit (p : Fin 256)
  deriving DecidableEq, Repr

end Sys2Proof
end

