-- ==== Sys2Proof/Decode.lean ====
section
/-!
DEFINITION. The command a table word spells. spec/opcode_table.json gives no row any bits (every row's field list is empty),
so no word spells a command. The opcode map of 03 R73 is decoded where the spec has it decoded, when a descriptor
arrives (Machine/Operands.lean).
-/
namespace Sys2Proof

/-- The command that a word of the table's bits spells: none, for the table gives no row bits. -/
def decodeTableWord (_nbits _w : Nat) : Option Instr := none

end Sys2Proof
end

