-- ==== Sys2Proof/Machine/Bytes.lean ====
section
/-!
DEFINITION. Byte-order and bit-field helpers: little-endian fields (00_scope.md R6), big-endian integers
inside key derivation inputs (R6, 05_key_tree.md R108), nibbles and packed BCD (06 R163).
-/
namespace Sys2Proof

/-- The byte at offset `i`; beyond the end a run of bytes reads zero. -/
def byteAt (bs : Bytes) (i : Nat) : Byte := bs.getD i 0

/-- `n` bytes from offset `i`, zero beyond the end. -/
def slice (bs : Bytes) (i n : Nat) : Bytes := (List.range n).map fun k => byteAt bs (i + k)

/-- Little-endian value of a run of bytes (00 R6). -/
def leNat : Bytes → Nat
  | [] => 0
  | b :: bs => b.toNat + 256 * leNat bs

/-- Big-endian value of a run of bytes. -/
def beNat (bs : Bytes) : Nat := bs.foldl (fun a b => 256 * a + b.toNat) 0

/-- `n` bytes of `v`, little-endian (00 R6). -/
def leBytes : Nat → Nat → Bytes
  | 0, _ => []
  | n + 1, v => BitVec.ofNat 8 v :: leBytes n (v / 256)

/-- `n` bytes of `v`, big-endian. -/
def beBytes (n v : Nat) : Bytes := (leBytes n v).reverse

/-- A little-endian field of a layout: `n` bytes at offset `i`. -/
def leField (bs : Bytes) (i n : Nat) : Nat := leNat (slice bs i n)

/-- A big-endian field: `n` bytes at offset `i`. -/
def beField (bs : Bytes) (i n : Nat) : Nat := beNat (slice bs i n)

/-- `n` zero bytes. -/
def zeros (n : Nat) : Bytes := List.replicate n 0

/-- Every byte of the run is zero (reserved fields, 00 R9). -/
def allZero (bs : Bytes) : Bool := bs.all (· == 0)

/-- The bytes `i` to `j - 1` are zero. -/
def zeroAt (bs : Bytes) (i j : Nat) : Bool := allZero (slice bs i (j - i))

/-- Exactly `n` bytes: cut or zero-filled at the end. -/
def fit (n : Nat) (bs : Bytes) : Bytes := slice bs 0 n

/-- Bytewise exclusive or, as long as the shorter run. -/
def xorBytes (a b : Bytes) : Bytes := List.zipWith (· ^^^ ·) a b

/-- The bits `hi` down to `lo` of a number. -/
def bitsOf (v hi lo : Nat) : Nat := (v / 2 ^ lo) % 2 ^ (hi + 1 - lo)

/-- Bit `i` of a number. -/
def bitOf (v i : Nat) : Bool := v.testBit i

/-- A flag as a bit. -/
def b2n (b : Bool) : Nat := if b then 1 else 0

/-- A flag placed at bit `i`. -/
def flagAt (b : Bool) (i : Nat) : Nat := if b then 2 ^ i else 0

/-- A bit vector of 8n bits from big-endian bytes. -/
def beVec (w : Nat) (bs : Bytes) : BitVec w := BitVec.ofNat w (beNat bs)

/-- The bytes of a 128-bit block, most significant first. -/
def blockBytes (b : W128) : Bytes := beBytes 16 b.toNat

/-- The 16-byte block at the head of a run. -/
def toBlock (bs : Bytes) : W128 := beVec 128 (slice bs 0 16)

/-- High nibble first. -/
def nibbles : Bytes → List Nat
  | [] => []
  | b :: bs => (b.toNat / 16) :: (b.toNat % 16) :: nibbles bs

/-- Pack nibbles, high nibble first; an odd last nibble takes a low nibble of zero. -/
def packNibbles : List Nat → Bytes
  | [] => []
  | [a] => [BitVec.ofNat 8 (16 * a)]
  | a :: b :: r => BitVec.ofNat 8 (16 * a + b) :: packNibbles r

/-- Cut a run of bytes into pieces of `n` bytes (the last may be shorter). `fuel` bounds the pieces. -/
def chunksFuel (n : Nat) : Nat → Bytes → List Bytes
  | 0, _ => []
  | _ + 1, [] => []
  | f + 1, bs => bs.take n :: chunksFuel n f (bs.drop n)

/-- Pieces of `n` bytes, `n` positive. -/
def chunks (n : Nat) (bs : Bytes) : List Bytes := chunksFuel n bs.length bs

/-- The ASCII bytes of a text. -/
def ascii (s : String) : Bytes := s.toList.map fun c => BitVec.ofNat 8 c.toNat

/-- The upper-case hexadecimal digit of a nibble, in ASCII. -/
def hexDigit (n : Nat) : Byte := BitVec.ofNat 8 (if n < 10 then 48 + n else 55 + n)

/-- A run of bytes as upper-case hexadecimal characters (05 R130). -/
def hexOf (bs : Bytes) : Bytes := (nibbles bs).map hexDigit

/-- The value of a hexadecimal character; `none` for any other byte. -/
def hexVal (b : Byte) : Option Nat :=
  let n := b.toNat
  if 48 ≤ n ∧ n ≤ 57 then some (n - 48)
  else if 65 ≤ n ∧ n ≤ 70 then some (n - 55)
  else if 97 ≤ n ∧ n ≤ 102 then some (n - 87)
  else none

/-- Read hexadecimal characters in pairs. -/
def unhex : Bytes → Option Bytes
  | [] => some []
  | [_] => none
  | a :: b :: r =>
    match hexVal a, hexVal b, unhex r with
    | some x, some y, some t => some (BitVec.ofNat 8 (16 * x + y) :: t)
    | _, _, _ => none

/-- The value of decimal characters; `none` when one is not a digit. -/
def decVal (bs : Bytes) : Option Nat :=
  bs.foldl (fun a b => match a with
    | none => none
    | some v => if 48 ≤ b.toNat ∧ b.toNat ≤ 57 then some (10 * v + (b.toNat - 48)) else none) (some 0)

/-- `n` decimal characters of `v`. -/
def decChars : Nat → Nat → Bytes
  | 0, _ => []
  | n + 1, v => decChars n (v / 10) ++ [BitVec.ofNat 8 (48 + v % 10)]

/-- The number of set bits below bit `n`. -/
def popCount (n v : Nat) : Nat := ((List.range n).filter fun i => v.testBit i).length

/-- Ceiling of a quotient. -/
def ceilDiv (a b : Nat) : Nat := (a + b - 1) / b

/-- A value held inside its range. -/
def clampTo (lo hi v : Nat) : Nat := if v < lo then lo else if hi < v then hi else v

/-- A count that stops at its greatest value (saturating counters). -/
def satAdd (top v n : Nat) : Nat := if v + n < top then v + n else top

end Sys2Proof
end

