-- ==== Sys2Proof/Machine/Tab.lean ====
section
/-!
DEFINITION. Sparse tables: plain data for the module's large arrays (256 partitions, 131,072 nodes, the Scree ring's bytes).
A table lists (index, entry) pairs with rising indices and no entry equal to what an unlisted index reads as,
so equal contents are equal data.
-/
namespace Sys2Proof

/-- A sparse table. -/
abbrev Tab (α : Type) := List (Nat × α)

/-- The entry at `k`, with what an unlisted index reads as. -/
def Tab.get {α : Type} (dflt : α) : Tab α → Nat → α
  | [], _ => dflt
  | (i, v) :: r, k => if i = k then v else Tab.get dflt r k

/-- Take the entry at `k` out. -/
def Tab.drop {α : Type} : Tab α → Nat → Tab α
  | [], _ => []
  | (i, v) :: r, k => if i = k then r else (i, v) :: Tab.drop r k

/-- Put `v` at `k`, in index order. -/
def Tab.put {α : Type} : Tab α → Nat → α → Tab α
  | [], k, v => [(k, v)]
  | (i, w) :: r, k, v =>
    if k < i then (k, v) :: (i, w) :: r
    else if k = i then (k, v) :: r
    else (i, w) :: Tab.put r k v

/-- Write `v` at `k`: an entry equal to what an unlisted index reads as is not listed. -/
def Tab.set {α : Type} [DecidableEq α] (dflt : α) (t : Tab α) (k : Nat) (v : α) : Tab α :=
  if v = dflt then Tab.drop t k else Tab.put t k v

/-- Change the entry at `k`. -/
def Tab.modify {α : Type} [DecidableEq α] (dflt : α) (t : Tab α) (k : Nat) (f : α → α) : Tab α :=
  Tab.set dflt t k (f (Tab.get dflt t k))

/-- Every listed index is above `k`. -/
def Tab.above {α : Type} (k : Nat) : Tab α → Bool
  | [] => true
  | (i, _) :: _ => decide (k < i)

/-- The canonical form: indices rise and no entry reads as an unlisted index does. -/
def Tab.wf {α : Type} [DecidableEq α] (dflt : α) : Tab α → Bool
  | [] => true
  | (i, v) :: r => decide (v ≠ dflt) && Tab.above i r && Tab.wf dflt r

/-- Write a run of bytes from address `a`, wrapping at `size`. -/
def Tab.writeBytes (dflt : Byte) (size : Nat) (t : Tab Byte) (a : Nat) : Bytes → Tab Byte
  | [] => t
  | b :: bs => Tab.writeBytes dflt size (Tab.set dflt t (a % size) b) (a + 1) bs

/-- Read `n` bytes from address `a`, wrapping at `size`. -/
def Tab.readBytes (dflt : Byte) (size : Nat) (t : Tab Byte) (a n : Nat) : Bytes :=
  (List.range n).map fun k => Tab.get dflt t ((a + k) % size)

/-- A byte memory of the module: the Scree ring and the firmware slots. -/
abbrev Memory := List Host.Cell

/-- The canonical form of a byte memory whose unlisted addresses read `dflt`. -/
def Memory.wf (dflt : Byte) (m : Memory) : Bool := Tab.wf dflt m

end Sys2Proof
end

