-- ==== Sys2Proof/Machine/State.lean ====
section
/-!
DEFINITION. The state of the module as plain data, block by block, and its value at reset. Each field's docstring names the
rule of spec/ that gives it; INVENTORY.md lists them with their reset values.
-/
namespace Sys2Proof.Machine

/-! ## Network time (02) -/

/-- NTB states (02 R30), in the order of their encoding. -/
inductive NtbState where
  | unset | locked | holdover | free
  deriving DecidableEq, Repr

/-- A valid next-edge frame (02 R27, R28). -/
structure TodFrame where
  /-- NTB of the edge it names. -/
  edge : Nat
  /-- Flag bit 1: the source is in its own holdover. -/
  holdover : Bool
  /-- The source's error bound, ns. -/
  error : Nat
  /-- Monotonic time of its last byte. -/
  at_ : Nat
  deriving DecidableEq, Repr

/-- The network time unit (02). -/
structure TimeBlk where
  /-- Monotonic count, ns (R23). -/
  mono : Nat
  /-- NTB, whole ns (R20). -/
  ntb : W64
  /-- Fractional accumulator (R20). -/
  frac : W32
  /-- TIME_STATUS.STATE (R30). -/
  state : NtbState
  /-- NTB at which it first became LOCKED or FREE since start (07 R206). -/
  firstSet : Option Nat
  /-- TIME_CFG.LOCK (R38). -/
  lock : Bool
  /-- TIME_CFG.SRC, 0 to 2 (R38). -/
  src : Nat
  /-- Monotonic time at which the source was selected. -/
  srcSince : Nat
  /-- TIME_CFG.PTM_PERIOD (R38). -/
  ptmPeriod : Nat
  /-- TIME_CFG.TOD_TX_EN (R38). -/
  todTx : Bool
  /-- TIME_PTM_OFFSET (R26). -/
  ptmOffset : W64
  /-- Remaining offset of the slew in progress, source minus NTB, in 2^-32 ns (R22). -/
  slew : Option Int
  /-- The running slew is backward and began above 1 ms (R22). -/
  slewBack : Bool
  /-- The source met its loss condition since the slew began (R31, R32). -/
  lost : Bool
  /-- Moment of the loss on the monotonic count (R31). -/
  lostAt : Nat
  /-- E0 of R31. -/
  e0 : Nat
  /-- Monotonic time of the last host pair (R24). -/
  lastPair : Option Nat
  /-- Monotonic time of the last PPS edge (R24). -/
  lastEdge : Option Nat
  /-- Consecutive edges 1 s apart named by frames (R24). -/
  goodEdges : Nat
  /-- Consecutive edges without a valid frame (R24). -/
  bareEdges : Nat
  /-- NTB named for the last good edge (R24). -/
  lastNamed : Option Nat
  /-- A valid next-edge frame waiting for its edge (R28). -/
  frame : Option TodFrame
  /-- Flag bit 1 error of the frame in force (R29). -/
  frameError : Nat
  /-- TIME_STATUS.TOD_VALID (R39). -/
  todValid : Bool
  /-- TIME_FRAME_ERR (R37). -/
  frameErr : W32
  /-- Edge report to send: latched NTB and monotonic time of the edge (R29). -/
  report : Option (Nat × Nat)
  /-- Monotonic time of the last PTM request (R26). -/
  ptmSent : Nat
  /-- A PTM exchange is open (R26). -/
  ptmOpen : Bool
  /-- Consecutive exchanges agreeing within 1 µs (R24). -/
  ptmGood : Nat
  /-- Consecutive failed exchanges (R24). -/
  ptmFail : Nat
  /-- Offset the last exchange found (R24). -/
  ptmLast : Option Int
  /-- TIME_STATUS.PTM_OK (R39). -/
  ptmOk : Bool
  deriving DecidableEq, Repr

/-! ## Rings (03) -/

/-- A descriptor read in flight (03 R54). -/
structure FetchRead where
  /-- Ring index of its next descriptor. -/
  first : Nat
  /-- Descriptors still to arrive. -/
  count : Nat
  /-- Issued before a partition reset: discarded on arrival (R54, 11 R320). -/
  discard : Bool
  /-- Monotonic time of issue (20 R568, 04 R81). -/
  issued : Nat
  deriving DecidableEq, Repr

/-- One ring pair (03 R43). -/
structure Ring where
  /-- RING_SQ_BASE. -/
  sqBase : W64
  /-- RING_CQ_BASE. -/
  cqBase : W64
  /-- RING_CFG.LOG2_SIZE (R44). -/
  log2 : Nat
  /-- RING_INT_CFG.TIMER (R45). -/
  timer : Nat
  /-- RING_INT_CFG.COUNT (R45). -/
  count : Nat
  /-- RING_INT_CFG.ERR_INT (R45). -/
  errInt : Bool
  /-- RING_INT_CFG.VECTOR (R45). -/
  vector : Nat
  /-- RING_CTRL.EN (R46). -/
  en : Bool
  /-- RING_STATUS.FETCH_ERR (R47). -/
  fetchErr : Bool
  /-- RING_STATUS.DB_ERR (R47). -/
  dbErr : Bool
  /-- RING_STATUS.CFG_ERR (R47). -/
  cfgErr : Bool
  /-- RING_SQ_HEAD. -/
  sqHead : Nat
  /-- RING_SQ_TAIL. -/
  sqTail : Nat
  /-- RING_CQ_TAIL index. -/
  cqTail : Nat
  /-- RING_CQ_HEAD. -/
  cqHead : Nat
  /-- The phase the next completion carries (R60). -/
  phase : Bool
  /-- Descriptor reads outstanding (R54). -/
  reads : List FetchRead
  /-- Descriptors that arrived and wait for their admission checks (R64, 06 R174): index and bytes. -/
  held : List (Nat × Bytes)
  /-- Sequence of the admitted fenced descriptor not yet completed (R64). -/
  fence : Option Nat
  /-- Completion slots reserved and not written (R54, R60). -/
  reserved : Nat
  /-- Requesting completions since the last message (R62). -/
  modCount : Nat
  /-- Monotonic time of the first of them (R62). -/
  modFirst : Nat
  deriving DecidableEq, Repr

/-- A ring set at its reset values (03 R44 to R47). -/
def Ring.reset : Ring :=
  { sqBase := 0, cqBase := 0, log2 := 6, timer := 0, count := 1, errInt := true, vector := 0, en := false,
    fetchErr := false, dbErr := false, cfgErr := false, sqHead := 0, sqTail := 0, cqTail := 0, cqHead := 0,
    phase := false, reads := [], held := [], fence := none, reserved := 0, modCount := 0, modFirst := 0 }

/-- A descriptor in native fields (03 R55; version 1 through R70). -/
structure Desc where
  /-- Opcode. -/
  opcode : W16
  /-- Fence flag. -/
  fence : Bool
  /-- Inline input flag. -/
  inlined : Bool
  /-- Completion interrupt flag. -/
  irq : Bool
  /-- No-journal flag. -/
  noJournal : Bool
  /-- Format version. -/
  version : Byte
  /-- Flow index. -/
  flow : Nat
  /-- Class: 0 deadline, 1 background. -/
  cls : Nat
  /-- Deadline, NTB ns; 0 with none. -/
  deadline : Nat
  /-- Key handle A. -/
  keyA : W32
  /-- Key handle B. -/
  keyB : W32
  /-- Input IOVA, or the inline input bytes as a little-endian number. -/
  inIova : Nat
  /-- Input length. -/
  inLen : Nat
  /-- Output capacity. -/
  outCap : Nat
  /-- Output IOVA. -/
  outIova : Nat
  /-- User tag. -/
  tag : W64
  /-- Parameter bytes 56 to 63. -/
  params : Bytes
  deriving DecidableEq, Repr

/-! ## Keys (05) -/

/-- What a key block says of its key (05 R113 bytes 4 to 31). -/
structure Attrs where
  /-- X9.143 usage, two ASCII characters, first high. -/
  usage : W16
  /-- Algorithm character. -/
  alg : Byte
  /-- Mode of use character. -/
  mode : Byte
  /-- Exportability character. -/
  exp : Byte
  /-- Engine mask (R121). -/
  mask : W16
  /-- Key version, two ASCII characters. -/
  version : W16
  /-- Not-before, NTB; 0 open. -/
  notBefore : Nat
  /-- Not-after, NTB; 0 open. -/
  notAfter : Nat
  /-- Algorithm code of 09 R251 of an asymmetric key; 0 otherwise. -/
  code : Nat
  deriving DecidableEq, Repr

/-- Parent reference (05 R113 bytes 36 to 39). -/
inductive ParentRef where
  | node (index gen : Nat)
  | master (gen : Nat)
  deriving DecidableEq, Repr

/-- Node states (05 R113), by code 0 to 4. -/
inductive NodeState where
  | free | current | ext | blob | held
  deriving DecidableEq, Repr

/-- A node table entry (05 R113). -/
structure Node where
  /-- State. -/
  state : NodeState
  /-- Generation, 1 to 8,191; 0 before first use. -/
  gen : Nat
  /-- Owner partition. -/
  owner : Nat
  /-- Persistent flag. -/
  persistent : Bool
  /-- Attributes. -/
  attrs : Attrs
  /-- Depth, 1 to 8. -/
  depth : Nat
  /-- Parent reference. -/
  parent : ParentRef
  /-- GCM invocation counter (R146). -/
  gcm : Nat
  /-- GCM reservation (R147). -/
  gcmRes : Nat
  /-- First extension index. -/
  extFirst : Nat
  /-- Extension count. -/
  extCount : Nat
  /-- Check value (R117). -/
  check : Bytes
  /-- Material, whole (its bytes beyond 64 lie in the extension slots, R114). -/
  material : Bytes
  /-- Event 0x106 was recorded for this node (R146). -/
  exhausted : Bool
  /-- Sweep passes completed when its generation last changed, plus 1 for a pass then running; `none` before any change (R144). -/
  changedAt : Option Nat
  deriving DecidableEq, Repr

/-- No attributes. -/
def Attrs.none : Attrs :=
  { usage := 0, alg := 0, mode := 0, exp := 0, mask := 0, version := 0, notBefore := 0, notAfter := 0, code := 0 }

/-- A node slot that nothing has used. -/
def Node.empty : Node :=
  { state := .free, gen := 0, owner := 0, persistent := false, attrs := Attrs.none, depth := 0, parent := .master 0, gcm := 0,
    gcmRes := 0, extFirst := 0, extCount := 0, check := [], material := [], exhausted := false, changedAt := none }

/-- A derivation context (05 R128). -/
structure Ctx where
  /-- Handle of the parent as given. -/
  parent : W32
  /-- Attributes. -/
  attrs : Attrs
  /-- Key length in bytes. -/
  length : Nat
  /-- Label. -/
  label : Bytes
  deriving DecidableEq, Repr

/-- A derived-key cache entry (05 R126). -/
structure CacheEntry where
  /-- Its place among the 16,384 entries, in whose order the sweep visits them (R144). -/
  slot : Nat
  /-- Partition. -/
  part : Nat
  /-- Parent node index. -/
  parent : Nat
  /-- Parent generation. -/
  gen : Nat
  /-- Derivation kind (07 R180; 0x80 for a derivation context). -/
  kind : Nat
  /-- Label (the tag holds its digest). -/
  label : Bytes
  /-- The key. -/
  key : Bytes
  /-- Jobs that hold it bound. -/
  holders : List Nat
  /-- Flushed while bound: it is freed as its jobs retire (R148). -/
  flushed : Bool
  deriving DecidableEq, Repr

/-- A loaded blob (05 R132). -/
structure LoadedBlob where
  /-- Partition. -/
  part : Nat
  /-- Blob table index. -/
  blob : Nat
  /-- Its node in the blob cache range. -/
  node : Nat
  /-- Jobs that hold it bound. -/
  holders : List Nat
  deriving DecidableEq, Repr

/-- A partition's keystore ring (05 R133). -/
structure KsRing where
  /-- MAS_KS_STATUS.EN. -/
  en : Bool
  /-- Ring IOVA. -/
  base : Nat
  /-- k. -/
  log2 : Nat
  /-- Next keystore sequence. -/
  seq : Nat
  /-- MAS_KS_HEAD. -/
  head : Nat
  /-- MAS_KS_TAIL. -/
  tail : Nat
  deriving DecidableEq, Repr

/-- A loaded curve (09 R267). -/
structure Curve where
  /-- Field bits. -/
  bits : Nat
  /-- Cofactor. -/
  h : Nat
  /-- CURVE_LOAD input. -/
  raw : Bytes
  /-- Curve digest, 8 bytes. -/
  digest : Bytes
  deriving DecidableEq, Repr

/-- Massif's own state (05). -/
structure Massif where
  /-- Node table (R109). -/
  nodes : Tab Node
  /-- Loaded blobs, least recently used first (R132). -/
  blobs : List LoadedBlob
  /-- Derived-key cache, least recently used first (R126). -/
  cache : List CacheEntry
  /-- Next visit of the orphan sweep, 0 to 147,455 (R144). -/
  sweep : Nat
  /-- Full passes finished (R144). -/
  passes : Nat
  /-- Sweep mark of the last generation change of each vault master, as `Node.changedAt` (12 R357). -/
  masterMarks : Tab (Option Nat)
  deriving DecidableEq, Repr

/-! ## Commits and jobs -/

/-- A partition's configuration record (11 R311). -/
structure PartCfg where
  /-- Job-slot quota. -/
  slots : Nat
  /-- Flow-context quota. -/
  flows : Nat
  /-- Key-node quota. -/
  nodes : Nat
  /-- Node range first index. -/
  rangeFirst : Nat
  /-- Node range count. -/
  rangeCount : Nat
  /-- Blob-table quota. -/
  blobs : Nat
  /-- Derivation-context quota. -/
  ctxs : Nat
  /-- Derived-key cache limit. -/
  cache : Nat
  /-- Loaded-curve quota. -/
  curves : Nat
  /-- Cirque weight. -/
  weight : Nat
  /-- Mirror mode SYNC. -/
  sync : Bool
  /-- Deadline policy RUN_LATE. -/
  runLate : Bool
  /-- Pinned cluster. -/
  pin : Option Nat
  /-- IOVA window base. -/
  base : Nat
  /-- IOVA window size. -/
  size : Nat
  deriving DecidableEq, Repr

/-- What the vault holds of a partition (11 R310). -/
structure VaultPart where
  /-- The partition exists. -/
  exists_ : Bool
  /-- Vault master, 32 bytes (05 R107). -/
  master : Option Bytes
  /-- Master generation. -/
  gen : Nat
  /-- TDES enable (08 R230). -/
  tdes : Bool
  /-- FROZEN flag. -/
  frozen : Bool
  /-- MIG sub-state, 0 to 3. -/
  mig : Nat
  /-- LOST flag. -/
  lost : Bool
  /-- Last release: offer nonce and image digest (11 R333). -/
  release : Option (Bytes × Bytes)
  deriving DecidableEq, Repr

/-- A vault record of no partition. -/
def VaultPart.absent : VaultPart :=
  { exists_ := false, master := none, gen := 0, tdes := false, frozen := false, mig := 0, lost := false, release := none }

/-- An accepted TR-34 message (07 R206). -/
structure TrEntry where
  /-- Signing time, s. -/
  time : Nat
  /-- First 16 bytes of SHA-256 over the message. -/
  digest : Bytes
  deriving DecidableEq, Repr

/-- An enrolled custodian as the vault holds it (12 R340). -/
structure Custodian where
  /-- Algorithm code 0x02 or 0x39. -/
  alg : Byte
  /-- Group 0 to 7. -/
  group : Nat
  /-- SHA-384 of the public key, 48 bytes. -/
  digest : Bytes
  deriving DecidableEq, Repr

/-- An M-of-N rule (12 R343). -/
structure Rule where
  /-- M. -/
  m : Nat
  /-- D. -/
  d : Nat
  /-- Group mask. -/
  mask : Byte
  deriving DecidableEq, Repr

/-- A cell-service window (12 R358). -/
structure CellWindow where
  /-- Cell mask: 1 cell A, 2 cell B. -/
  cells : Nat
  /-- Monotonic time of its end. -/
  until_ : Nat
  /-- Duration, s. -/
  secs : Nat
  deriving DecidableEq, Repr

/-- A tamper policy entry (13 R371). -/
structure Policy where
  /-- Response code of R370. -/
  response : Nat
  /-- N. -/
  n : Nat
  /-- W, µs; 0 where N is fixed to 1. -/
  w : Nat
  deriving DecidableEq, Repr

/-- A pending component load (12 R356). -/
structure PendingLoad where
  /-- Target master. -/
  master : Nat
  /-- Filled slots: number 1 to 8, component, custodian. -/
  slots : List (Nat × Bytes × Nat)
  deriving DecidableEq, Repr

/-- A Scree event to be recorded: code, source cluster (16 R459), payload fields. -/
structure Ev where
  /-- Event code. -/
  code : Nat
  /-- Source cluster. -/
  cluster : Nat
  /-- Payload fields in the order of the chapter's event table. -/
  fields : List Nat
  deriving DecidableEq, Repr

/-- A change to a lasting object (15 R422 COMMIT kinds 1 to 8): what a command of status ST_OK commits (03 R75). -/
inductive Commit where
  | node (index : Nat) (n : Node)
  | freeNode (index : Nat) (gen owner : Nat)
  | ctx (p index : Nat) (c : Ctx)
  | curve (p slot : Nat) (c : Option Curve)
  | dectab (p table : Nat) (digits : Bytes)
  | config (p : Nat) (cfg : PartCfg)
  | vault (p : Nat) (v : VaultPart)
  | tr34 (p : Nat) (e : TrEntry)
  | custodian (index : Nat) (c : Option Custodian) (pub : Bytes)
  | rules (rs : List Rule)
  | policy (ps : List Policy)
  | window (cells secs : Nat)
  | pendingLoad (l : Option PendingLoad)
  deriving DecidableEq, Repr

/-- A key bound to a job: the copy of 05 R125. -/
structure Binding where
  /-- Handle as bound. -/
  handle : W32
  /-- Node index (the blob's node; the parent's for a context). -/
  node : Nat
  /-- Generation bound. -/
  gen : Nat
  /-- Attributes. -/
  attrs : Attrs
  /-- Depth. -/
  depth : Nat
  /-- Check value. -/
  check : Bytes
  /-- Material. -/
  material : Bytes
  /-- GCM invocation value taken (R146). -/
  gcm : Nat
  /-- Node bytes 0 to 63 as bound (R113; R148 for a context). -/
  image : Bytes
  /-- CURVE_LOAD input of the loaded curve the key is on (09 R270). -/
  curve : Bytes
  deriving DecidableEq, Repr

/-- Where a job stands. -/
inductive Phase where
  /-- In its flow FIFO (04 R89). -/
  | fifo
  /-- In a ready list (04 R84). -/
  | ready
  /-- Dispatched: reads its input (03 R569). -/
  | reading
  /-- Waits in the queue of an engine class (04 R82). -/
  | queued
  /-- Holds what it needs; its command may run. -/
  | running
  /-- A generation change waits for a sweep pass (05 R144). -/
  | waitSweep
  /-- A record waits for keystore room (05 R135). -/
  | waitKeystore
  /-- COMMIT frames wait for their acknowledgement (15 R426). -/
  | waitAck
  /-- A dispatched FENCE or CANCEL waits (03 R65). -/
  | waiting
  /-- A RANDOM or draw waits for the random service (10 R298, R299). -/
  | waitRandom
  /-- Its engine work has ended: to be retired (04 R78). -/
  | ended
  /-- Retired: its completion is to be written (04 R78). -/
  | retired
  /-- Its completion has been written; its slot waits for the standby to retire it (15 R429). -/
  | lag
  deriving DecidableEq, Repr

/-- What a command's completion waits for once it has committed: jobs of its partition that have not retired. -/
inductive Drain where
  /-- Nothing. -/
  | none
  /-- Every job that had bound any key (05 R142, R143). -/
  | bound
  /-- Every job that had bound a node at a generation (05 R141). -/
  | node (index gen : Nat)
  /-- Every job that had bound a TDES key (08 R231). -/
  | tdes
  /-- Every job admitted before (11 R313). -/
  | all
  deriving DecidableEq, Repr

/-- How a job ended, as DONE says (15 R422). -/
inductive Ending where
  | ran | cancelled | yielded | dropped | reset
  deriving DecidableEq, Repr

/-- A unit a job holds: class and unit; for class 3 the bank. -/
inductive UnitRef where
  | newt (core : Nat)
  | pinv (unit : Nat)
  | iguana (core : Nat) (bank : Bool)
  | lattice (unit : Nat)
  | hash (unit : Nat)
  deriving DecidableEq, Repr

/-- An admitted job (04 R78). -/
structure Job where
  /-- Journal sequence. -/
  seq : Nat
  /-- Partition. -/
  part : Nat
  /-- Ring. -/
  ring : Nat
  /-- Submission ring index. -/
  index : Nat
  /-- Slot (R91). -/
  slot : Nat
  /-- The descriptor. -/
  desc : Desc
  /-- Admission NTB. -/
  admitted : Nat
  /-- Where it stands. -/
  phase : Phase
  /-- Order of entry into its ready list or class queue. -/
  entry : Nat
  /-- In the overdue list (R84). -/
  overdue : Bool
  /-- In the far list (R84). -/
  far : Bool
  /-- It has been dispatched (03 R58, R95). -/
  ran : Bool
  /-- Gecko engine whose thread it holds (R95). -/
  thread : Option Nat
  /-- A cancel is pending (03 R66). -/
  cancel : Bool
  /-- Status it is to end with at its next yield point or its end (11 R320, 13 R372). -/
  doom : Option W16
  /-- The standby's copy of a forwarded job (15 R424). -/
  fwd : Bool
  /-- Events recorded when its commits take effect or it ends. -/
  events : List Ev
  /-- Its completion is never written (11 R320, 15 R436). -/
  suppressed : Bool
  /-- Bound key A. -/
  keyA : Option Binding
  /-- Bound key B. -/
  keyB : Option Binding
  /-- Input requests outstanding: offset, length, time of issue (03 R569). -/
  reads : List (Nat × Nat × Nat)
  /-- Offset of the next input request. -/
  readNext : Nat
  /-- Bytes of blob table entries and blobs it has read: its input follows them in its read stream (15 R422). -/
  blobBytes : Nat
  /-- Its DISPATCH frame has gone to the standby (15 R423). -/
  told : Bool
  /-- Input pieces that have arrived. -/
  pieces : List (Nat × Bytes)
  /-- Unit held. -/
  unit : Option UnitRef
  /-- Loaded curves of its partition at its grant (09 R270). -/
  curves : Tab (Option Curve)
  /-- Parked in the other bank of its core (09 R248). -/
  parked : Bool
  /-- Yield points passed (15 R422). -/
  yields : Nat
  /-- Final status once known. -/
  status : W16
  /-- How it ended. -/
  ending : Ending
  /-- Output to write. -/
  output : Bytes
  /-- Commits waiting for their gates. -/
  commits : List Commit
  /-- Node or master whose generation the commits change (R144): node index, or 0x20000 + partition for a master. -/
  change : Option Nat
  /-- It has committed a change to a lasting object (11 R322). -/
  committed : Bool
  /-- What its completion is to wait for. -/
  drain : Drain
  /-- The standby has acknowledged its COMMIT frames (15 R426). -/
  acked : Bool
  /-- Jobs whose retirement its completion awaits (05 R142). -/
  afterRetired : List Nat
  /-- Jobs whose completion it awaits (03 R65, R67). -/
  afterDone : List Nat
  /-- Link sequence of its last COMMIT frame (15 R426). -/
  commitLink : Nat
  /-- JACK has named it (15 R431). -/
  jacked : Bool
  /-- The standby has reported its RESULT (15 R428, R429). -/
  resulted : Bool
  /-- Digests of its commits, for the result digest (15 R428). -/
  commitLog : List Bytes
  /-- DRBG bytes forwarded so far (15 R422 RANDOM). -/
  randomOff : Nat
  /-- It inherits from a failed active: no completion (15 R436). -/
  inherited : Bool
  deriving DecidableEq, Repr

/-! ## Engines (06, 08, 09) -/

/-- Who holds a unit. -/
inductive Owner where
  | free
  | job (seq : Nat)
  | window
  deriving DecidableEq, Repr

/-- A PIN vault unit (06 R150) or a lattice or hash unit (09 R250): it holds nothing between commands (06 R152). -/
structure Engine where
  /-- In service. -/
  up : Bool
  /-- Owner. -/
  owner : Owner
  deriving DecidableEq, Repr

/-- A Newt core (08 R213): it is zeroised at every release (R216). -/
structure Core where
  /-- In service. -/
  up : Bool
  /-- Owner (NEWT_LOCK). -/
  owner : Owner
  /-- Partition it is reserved to by pinning (R232, R233). -/
  colour : Option Nat
  deriving DecidableEq, Repr

/-- State of an operand bank (09 R283). -/
inductive Bank where
  | free
  | running (seq : Nat)
  | parked (seq : Nat)
  | zeroising
  deriving DecidableEq, Repr

/-- A big-number core (09 R248). -/
structure BigCore where
  /-- In service. -/
  up : Bool
  /-- Bank 0. -/
  bank0 : Bank
  /-- Bank 1. -/
  bank1 : Bank
  /-- Bank the array works on. -/
  active : Bool
  /-- Held by the test window (R276). -/
  window : Bool
  deriving DecidableEq, Repr

/-- A window test block: NEWT_WIN_* (08 R245) or IGU_WIN_* (09 R284). -/
structure Win where
  /-- Unit field. -/
  unit : Nat
  /-- SUITE field. -/
  suite : Nat
  /-- STATE: 0 idle, 1 waiting, 2 running, 3 done. -/
  state : Nat
  /-- CYCLES. -/
  cycles : Nat
  /-- FAIL. -/
  fail : Bool
  /-- PASS. -/
  pass : Bool
  /-- Monotonic time at which the test took the unit. -/
  since : Nat
  deriving DecidableEq, Repr

/-- No test. -/
def Win.idle : Win := { unit := 0, suite := 0, state := 0, cycles := 0, fail := false, pass := false, since := 0 }

/-- Newt, Iguana, lattice, hash, PIN vault and Gecko units (04 R82, 06, 08, 09). -/
structure Engines where
  /-- Gecko engines in service (17 R480). -/
  gecko : Tab Bool
  /-- PIN vault units. -/
  pinv : Tab Engine
  /-- Newt cores. -/
  newt : Tab Core
  /-- Big-number cores. -/
  big : Tab BigCore
  /-- Lattice units. -/
  lat : Tab Engine
  /-- Hash units. -/
  hash : Tab Engine
  /-- NEWT_CFG.LOCK (08 R243). -/
  newtLock : Bool
  /-- NEWT_CFG.ST_PERIOD as written. -/
  newtPeriod : Nat
  /-- IGU_CFG.LOCK (09 R282). -/
  iguLock : Bool
  /-- IGU_CFG.ST_PERIOD as written. -/
  iguPeriod : Nat
  /-- Cluster pinning in force (NEWT_COLOUR, 08 R244): cluster to partition. -/
  colour : Tab (Option Nat)
  /-- NEWT window. -/
  newtWin : Win
  /-- IGU window. -/
  iguWin : Win
  /-- Tests started by a Tarn clear and not ended (17 R480). -/
  tests : List TestUnit
  /-- Next core and last time of the periodic Newt test (08 R237). -/
  newtNext : Nat
  /-- Monotonic time of the last periodic Newt test. -/
  newtLast : Nat
  /-- Next unit of the periodic Iguana test (09 R276). -/
  iguNext : Nat
  /-- Monotonic time of the last periodic Iguana test. -/
  iguLast : Nat
  /-- IGU_CURVE_SEL (09 R284): slot and partition. -/
  curveSlot : Nat
  /-- IGU_CURVE_SEL.PARTITION. -/
  curvePart : Nat
  deriving DecidableEq, Repr

/-! ## Random service (10) -/

/-- A noise source (10 R305). -/
structure Source where
  /-- 0 start-up test, 1 in service, 2 out of service. -/
  state : Nat
  /-- RCT_FAILS. -/
  rctFails : Nat
  /-- APT_FAILS. -/
  aptFails : Nat
  /-- CAUSE. -/
  cause : Nat
  /-- Start-up test failures so far (R293). -/
  tries : Nat
  /-- Monotonic time from which its credit counts (R291). -/
  since : Nat
  /-- Restarted through RNG_CTRL (R287). -/
  again : Bool
  deriving DecidableEq, Repr

/-- A DRBG generator (10 R294). -/
structure Drbg where
  /-- Instantiated. -/
  up : Bool
  /-- Key, 32 bytes. -/
  key : Bytes
  /-- V, 16 bytes. -/
  v : Bytes
  /-- Requests since the last reseed (RNG_INST_INFO.COUNT). -/
  count : Nat
  /-- RESEED_REQUIRED (R300). -/
  required : Bool
  /-- RESEED_PENDING. -/
  pending : Bool
  /-- Event 0x1C4 recorded for the blocking episode (R298). -/
  blockedNoted : Bool
  deriving DecidableEq, Repr

/-- A generator not instantiated. -/
def Drbg.off : Drbg := { up := false, key := [], v := [], count := 0, required := false, pending := false, blockedNoted := false }

/-- The random service (10). -/
structure Rng where
  /-- RNG_CFG.LOCK. -/
  lock : Bool
  /-- RNG_CFG.RESERVE as written. -/
  reserve : Nat
  /-- RNG_STATUS.STATE: 0 collecting, 1 ready, 2 one source out, 3 fault. -/
  state : Nat
  /-- Sources A, B, C. -/
  sources : Tab Source
  /-- Pool, oldest block first (R290). -/
  pool : List Bytes
  /-- A held block, conditioned when room comes (R290). -/
  heldBlock : Option Bytes
  /-- Block counter (R288). -/
  counter : Nat
  /-- Generators 0 to 260 (R294). -/
  drbg : Tab Drbg
  /-- RNG_INST_SEL. -/
  sel : Nat
  /-- Jobs waiting for an explicit reseed (R297, R299). -/
  explicit : List Nat
  /-- Partition after which the round-robin goes on (R297). -/
  explicitLast : Nat
  /-- Monotonic time at which the collection began (R306). -/
  began : Nat
  /-- Monotonic time at which the block in progress began to gather (R288). -/
  blockAt : Nat
  deriving DecidableEq, Repr

/-! ## Partitions (11) -/

/-- A host ring of entries: journal (16 R453), sample or dump (18 R500, R503). -/
structure HostRing where
  /-- Base. -/
  base : W64
  /-- EN. -/
  en : Bool
  /-- LOG2_SIZE. -/
  log2 : Nat
  /-- Entries since enable. -/
  count : W64
  /-- SKIPPED. -/
  skipped : Bool
  /-- CFG_ERR. -/
  cfgErr : Bool
  deriving DecidableEq, Repr

/-- A host ring at reset with its LOG2_SIZE. -/
def HostRing.reset (k : Nat) : HostRing := { base := 0, en := false, log2 := k, count := 0, skipped := false, cfgErr := false }

/-- A partition reset in progress (11 R320). -/
structure ResetRun where
  /-- Monotonic time of the trigger. -/
  t0 : Nat
  /-- Cause of event 0x1E4: 1 function-level reset, 2 register, 3 PF reset or VF Enable cleared. -/
  cause : Nat
  /-- Jobs ended. -/
  ended : Nat
  deriving DecidableEq, Repr

/-- A partition's migration data (11 R326): open offer, issued image digests, restored image. -/
structure Migration where
  /-- Offer bytes 0 to 1343 and private ML-KEM and P-384 keys. -/
  offer : Option (Bytes × Bytes × Bytes)
  /-- Issued images: target serial, nonce, digest. -/
  images : List (Bytes × Bytes × Bytes)
  /-- Restored image: source serial, nonce, digest. -/
  restored : Option (Bytes × Bytes × Bytes)
  deriving DecidableEq, Repr

/-- The main-domain state of a partition (11). -/
structure Part where
  /-- Configuration record (R311). -/
  cfg : PartCfg
  /-- PART_CFG.PMC_USER_READ (00 R11). -/
  pmcUserRead : Bool
  /-- Reset in progress. -/
  resetting : Option ResetRun
  /-- DESTROYING. -/
  destroying : Bool
  /-- A freeze drains (R323). -/
  freezing : Bool
  /-- PART_VF_ERR.RESET_DONE. -/
  errResetDone : Bool
  /-- PART_VF_ERR.READ_FAIL. -/
  errReadFail : Bool
  /-- PART_VF_ERR.RING. -/
  errRing : Bool
  /-- PART_VF_ERR.ACCESS. -/
  errAccess : Bool
  /-- PART_VF_ERR_ADDR. -/
  errAddr : W64
  /-- PART_VF_ERR_INFO. -/
  errInfo : W32
  /-- Bus Master Enable (R308). -/
  bme : Bool
  /-- The function is in D3hot (20 R539). -/
  d3hot : Bool
  /-- Migration data. -/
  migr : Migration
  /-- Blob table: IOVA and entry count (05 R131). -/
  blobTable : Option (Nat × Nat)
  /-- Derivation contexts (05 R128). -/
  ctxs : Tab (Option Ctx)
  /-- Loaded curves (09 R267). -/
  curves : Tab (Option Curve)
  /-- Decimalisation tables (06 R173). -/
  dectabs : Tab (Option Bytes)
  /-- TR-34 table (07 R206). -/
  tr34 : List TrEntry
  /-- TR-34 floor, s, once an entry was dropped (07 R206); the NTB first set is a floor beside it. -/
  trFloor : Option Nat
  /-- Keystore ring. -/
  ks : KsRing
  /-- A DECTAB_LOAD waiting for or in service: its ring, and its sequence once admitted (06 R174). -/
  dectabHold : Option (Nat × Option Nat)
  /-- Fetch deficit (04 R94). -/
  deficit : Nat
  /-- Ring after which the round-robin goes on (04 R94). -/
  ringLast : Nat
  /-- Weight in the service window now running (04 R98, 11 R313). -/
  weightWin : Nat
  /-- Background dispatches spent this round (04 R94). -/
  bgSpent : Nat
  /-- CIRQ_P_ADMITTED (04 R101). -/
  admitted : W64
  /-- CIRQ_P_DREJECT. -/
  dreject : W64
  /-- CIRQ_P_MISSED. -/
  missed : W64
  /-- CIRQ_P_LATE. -/
  late : W64
  /-- CIRQ_P_FLOOR. -/
  floor : W64
  /-- Entitlement by class, in 2^-32 unit-ns (04 R98). -/
  entitled : Tab Nat
  /-- Received service by class, unit-ns (04 R98). -/
  received : Tab Nat
  /-- Host journal ring (16 R453). -/
  jrn : HostRing
  /-- JRN_HR_CFG.ALL. -/
  jrnAll : Bool
  /-- JRN_WIN_SEQ. -/
  winSeq : W64
  /-- JRN_WIN_STATUS.BUSY. -/
  winBusy : Bool
  /-- JRN_WIN_STATUS.RESULT. -/
  winResult : Nat
  /-- JRN_WIN_ENTRY. -/
  winEntry : Bytes
  /-- Sequence of the PART_CREATE (16 R452). -/
  createSeq : Nat
  /-- The last microsecond of the monotonic count, plus 1, counted in PMC_P_CNT[7] (18 R501). -/
  bpUs : Nat
  /-- PMC_P_CNT (18 R501). -/
  cnt : Tab W64
  /-- Dump ring (18 R503). -/
  dump : HostRing
  /-- PMC_P_DUMP_CFG.PERIOD as written. -/
  dumpPeriod : Nat
  /-- Monotonic time of the last dump or the enable. -/
  dumpLast : Nat
  /-- Writes to host memory that wait for the function's DMA, oldest first (R308). -/
  heldWrites : List (Nat × Bytes)
  /-- The dump ring of a dump that fell due in a reset (18 R503). -/
  dumpOwed : Option HostRing
  deriving DecidableEq, Repr

/-- The configuration of partition 1 to 255 after each start (11 R312). -/
def PartCfg.afterStart : PartCfg :=
  { slots := 0, flows := 0, nodes := 0, rangeFirst := 0, rangeCount := 0, blobs := 0, ctxs := 0, cache := 0, curves := 0,
    weight := 1, sync := false, runLate := false, pin := none, base := 0, size := 0 }

/-- The configuration of partition 0 after each start (11 R312, 04 R91). -/
def PartCfg.custodian : PartCfg :=
  { PartCfg.afterStart with slots := 512, flows := 512, nodes := 4096, blobs := 4096, ctxs := 256, cache := 1024, weight := 16 }

/-- A partition at start. -/
def Part.reset : Part :=
  { cfg := PartCfg.afterStart, pmcUserRead := false, resetting := none, destroying := false, freezing := false,
    errResetDone := false, errReadFail := false, errRing := false, errAccess := false, errAddr := 0, errInfo := 0,
    bme := false, d3hot := false, migr := { offer := none, images := [], restored := none }, blobTable := none,
    ctxs := [], curves := [], dectabs := [], tr34 := [], trFloor := none,
    ks := { en := false, base := 0, log2 := 0, seq := 0, head := 0, tail := 0 }, dectabHold := none,
    deficit := 0, ringLast := 15, weightWin := 1, bgSpent := 0, admitted := 0, dreject := 0, missed := 0, late := 0, floor := 0,
    entitled := [], received := [], jrn := HostRing.reset 10, jrnAll := false, winSeq := 0, winBusy := false, winResult := 2,
    winEntry := [], createSeq := 0, bpUs := 0, cnt := [], dump := HostRing.reset 4, dumpPeriod := 1000, dumpLast := 0, heldWrites := [], dumpOwed := none }

/-! ## Custodians, tamper, life cycle (12, 13, 14) -/

/-- The vault SRAM (05 R107, 11 R310, 12 R340, 13 R374). -/
structure Vault where
  /-- Partition records. -/
  parts : Tab VaultPart
  /-- Custodian table. -/
  custodians : Tab (Option Custodian)
  /-- Rules by class 1 to 11. -/
  rules : Tab Rule
  /-- Cell-service window. -/
  window : Option CellWindow
  /-- Pending load. -/
  load : Option PendingLoad
  /-- Tamper policy by entry 0 to 6. -/
  policy : Tab (Option Policy)
  /-- ZEROISE_PENDING (13 R377). -/
  zeroisePending : Bool
  /-- Main power was lost while running (19 R508); 2 for PERST_N with work in flight. -/
  lossCause : Nat
  /-- Quiesce state at the loss (19 R529). -/
  lossQuiesce : Nat
  deriving DecidableEq, Repr

/-- An evidence register entry (13 R380). -/
structure Evidence where
  /-- Monitor entry, 7 both cells, 8 cell in a window. -/
  monitor : Nat
  /-- Response applied. -/
  response : Nat
  /-- Power: 0 main, 1 cells, 2 holdup. -/
  power : Nat
  /-- Burn pending. -/
  burn : Bool
  /-- Unread. -/
  unread : Bool
  /-- Tamper-clock seconds. -/
  secs : W32
  /-- NTB stamp, or 0. -/
  stamp : W64
  deriving DecidableEq, Repr

/-- OTP, flash and retention cells: no zeroisation reaches them (13 R374, 14, 16 R447). -/
structure Nv where
  /-- Stage words 0 to 7 (14 R392). -/
  stage : Tab W32
  /-- Stage word being written and the monotonic time its writing began (14 R393, R396). -/
  writing : Option (Nat × Nat)
  /-- Evidence counter copies A and B (13 R384). -/
  otpA : BitVec 2048
  /-- Copy B. -/
  otpB : BitVec 2048
  /-- Anti-rollback count (14 R408). -/
  rollback : Nat
  /-- Firmware slot A: bytes that differ from the factory image's slot contents are listed (14 R406). -/
  slotA : Memory
  /-- Firmware slot B. -/
  slotB : Memory
  /-- Slot A holds the factory image under its listed bytes. -/
  factoryA : Bool
  /-- Current slot: false A, true B. -/
  current : Bool
  /-- A slot is pending activation (14 R407). -/
  pending : Bool
  /-- Custodian key store: public keys (12 R340). -/
  keyStore : Tab Bytes
  /-- The key store is to be erased (12 R340). -/
  keyStoreErase : Bool
  /-- Evidence register, oldest first, at most 16 (13 R380). -/
  evreg : List Evidence
  /-- Overflow count (13 R380). -/
  evOvf : Nat
  /-- Transition record: target state code (14 R396). -/
  transition : Option Nat
  /-- Sequence mark (16 R447). -/
  mark : W64
  /-- Root fuses, PUF data and flash erased by scrapping (14 R398). -/
  scrapped : Bool
  /-- Tamper-clock seconds (13 R380). -/
  secs : W32
  /-- Burns the reservoir can still serve, 0 to 4 (13 R381). -/
  reservoir : Nat
  deriving DecidableEq, Repr

/-- A key component session (12 R352). -/
structure Session where
  /-- Offer bytes 0 to 1343. -/
  offer : Bytes
  /-- Private ML-KEM-768 key. -/
  kem : Bytes
  /-- Private P-384 key. -/
  ec : Bytes
  /-- Monotonic time of opening. -/
  opened : Nat
  deriving DecidableEq, Repr

/-- Main-domain state of custodians and identity (12). -/
structure Cust where
  /-- Outstanding challenges, oldest first: value and monotonic issue time (R345). -/
  challenges : List (Bytes × Nat)
  /-- Sessions by custodian. -/
  sessions : Tab (Option Session)
  /-- CUST_SEL.RULE. -/
  selRule : Nat
  /-- CUST_SEL.CUSTODIAN. -/
  selCust : Nat
  /-- CUST_CERT_SEL.CHAIN. -/
  certChain : Bool
  /-- CUST_CERT_SEL.LEVEL. -/
  certLevel : Nat
  /-- Certificate read pointer. -/
  certPos : Nat
  deriving DecidableEq, Repr

/-- A monitor entry's detectors and window (13 R388). -/
structure Monitor where
  /-- Detector A tripped. -/
  a : Bool
  /-- Detector B tripped. -/
  b : Bool
  /-- Monotonic times of the excursions counted. -/
  times : List Nat
  deriving DecidableEq, Repr

/-- A cell of the bay (13 R382). -/
structure Cell where
  /-- 0 present, 1 absent, 2 low, 3 settling. -/
  state : Nat
  /-- Voltage, 20 mV units. -/
  volts : Byte
  /-- Monotonic time of insertion. -/
  since : Nat
  deriving DecidableEq, Repr

/-- The tamper controller (13). -/
structure Tamper where
  /-- Monitors by entry. -/
  mons : Tab Monitor
  /-- A tamper SUSPEND holds (R373). -/
  suspended : Bool
  /-- TMP_STATUS.ALARM. -/
  alarm : Bool
  /-- TMP_STATUS.LEVEL. -/
  level : Nat
  /-- TMP_STATUS.MON_FAULT. -/
  monFault : Bool
  /-- TMP_STATUS.RESUME_REFUSED. -/
  refused : Bool
  /-- A zeroisation or its read-back is in progress: scope 3 or 4, start, cause. -/
  zeroising : Option (Nat × Nat × Nat)
  /-- TMP_STATUS.EVIDENCE_MISMATCH (R384). -/
  mismatch : Bool
  /-- TMP_MON_SEL. -/
  monSel : Nat
  /-- TMP_EVREG_SEL. -/
  evSel : Nat
  /-- Cell A. -/
  cellA : Cell
  /-- Cell B. -/
  cellB : Cell
  /-- Tamper clock A good (R367). -/
  clockA : Bool
  /-- Tamper clock B good. -/
  clockB : Bool
  /-- The holdup capacitor alone feeds PD_VAULT, since this time (R383). -/
  holdup : Option Nat
  deriving DecidableEq, Repr

/-- A debug session (14 R402 to R404). -/
structure Debug where
  /-- Open. -/
  open_ : Bool
  /-- Rights. -/
  rights : BitVec 11
  /-- Not-after, NTB. -/
  notAfter : Nat
  /-- MARKED. -/
  marked : Bool
  /-- Debug status page: status registers in block order, then the trace (R402). -/
  page : Bytes
  /-- Monotonic time of the last refresh. -/
  refreshed : Nat
  /-- It held a secret-adjacent right, or replaced a session that did: it ends with a restart (14 R404). -/
  restart : Bool
  deriving DecidableEq, Repr

/-! ## Pair (15) -/

/-- Pair states (15 R442), in code order. -/
inductive PairState where
  | solo | alone | joining | catchingUp | inStep | diverged
  deriving DecidableEq, Repr

/-- A forwarded job as the standby holds it (15 R424). -/
structure Fwd where
  /-- Sequence. -/
  seq : Nat
  /-- ADMIT payload fields: stamp, partition, ring, status, index, descriptor. -/
  stamp : W64
  /-- Partition. -/
  part : Nat
  /-- Ring. -/
  ring : Nat
  /-- Status of the ADMIT frame. -/
  status : W16
  /-- Descriptor index. -/
  index : Nat
  /-- Descriptor bytes. -/
  desc : Bytes
  /-- DISPATCH received: NTB at binding, number of bindings, GCM values of A and B. -/
  dispatched : Option (Nat × Nat × Nat × Nat)
  /-- Bindings made on the standby. -/
  keyA : Option Binding
  /-- Binding B. -/
  keyB : Option Binding
  /-- DATA pieces. -/
  data : List (Nat × Bytes)
  /-- RANDOM pieces. -/
  random : List (Nat × Bytes)
  /-- COMMIT frames received, in order: kind, object index, contents. -/
  commits : List (Nat × Nat × Bytes)
  /-- Massif, partitions and vault as they stood before the first of them, from which its copy still runs (R424, R425). -/
  before : Option (Massif × Tab Part × Vault)
  /-- DONE received: status, ending, output length, active digest. -/
  done : Option (W16 × Nat × Nat × Bytes)
  /-- The standby's own result: status and digest. -/
  result : Option (W16 × Bytes)
  deriving DecidableEq, Repr

/-- The Ulistade block and the pair logic (15). -/
structure Pair where
  /-- PAIR_CFG.LOCK. -/
  lock : Bool
  /-- PAIR_CFG.AUTO_JOIN. -/
  autoJoin : Bool
  /-- PAIR_CFG.CLAIM_EN. -/
  claimEn : Bool
  /-- PAIR_CFG.PAIRED. -/
  paired : Bool
  /-- PAIR_PEER_SERIAL. -/
  peer : BitVec 128
  /-- PAIR_STATE.STATE. -/
  state : PairState
  /-- PAIR_STATE.ROLE: 0 standby, 1 active, 2 neither. -/
  role : Nat
  /-- PAIR_ACT_OUT. -/
  actOut : Bool
  /-- Monotonic time of the claim. -/
  claimedAt : Nat
  /-- The claim's cause of event 0x262. -/
  claimCause : Nat
  /-- PAIR_INHIBIT_IN. -/
  inhibit : Bool
  /-- Monotonic time since which PAIR_INHIBIT_IN has its level. -/
  inhibitAt : Nat
  /-- The module is effective active (R414). -/
  effective : Bool
  /-- Position B. -/
  posB : Bool
  /-- Lanes in use. -/
  lanes : BitVec 4
  /-- PAIR_LINK.TRAINED. -/
  trained : Bool
  /-- PAIR_LINK.SESSION. -/
  session : Bool
  /-- PAIR_LINK.RETRAINS. -/
  retrains : Nat
  /-- Handshake: peer chain bytes received so far. -/
  chain : Bytes
  /-- Total chain length announced. -/
  chainLen : Nat
  /-- Own session offer and private keys (position A), or own message (position B). -/
  offer : Option (Bytes × Bytes × Bytes)
  /-- Transcript t, once derived. -/
  transcript : Option Bytes
  /-- Keys k_ab and k_ba. -/
  keys : Option (Bytes × Bytes)
  /-- Monotonic time from which the 1 s to the next handshake counts: its beginning, or its failure (R418). -/
  retryAt : Option Nat
  /-- The handshake has failed: frames count for nothing until its retry. -/
  failed : Bool
  /-- Peer serial, life-cycle state from its chain. -/
  peerSerial : Bytes
  /-- Peer life-cycle state. -/
  peerLc : Nat
  /-- Next link sequence to send. -/
  txSeq : Nat
  /-- Highest link sequence acknowledged by the peer. -/
  acked : Nat
  /-- Frames sent and not acknowledged, oldest first: sequence and bytes (R421). -/
  replay : List (Nat × Bytes)
  /-- Frames waiting for room in the replay buffer: type and payload (R421). -/
  backlog : List (Nat × Bytes)
  /-- Monotonic time at which the acknowledgement last advanced. -/
  ackAt : Nat
  /-- Highest link sequence received in order. -/
  rxSeq : Nat
  /-- Monotonic time of the last valid frame. -/
  inbandAt : Option Nat
  /-- PAIR_STATE.INBAND_OK. -/
  inbandOk : Bool
  /-- Role the peer reported in-band. -/
  peerRole : Nat
  /-- Pair state, NTB state and LEVEL of the last HEARTBEAT, bytes 1 to 3 of its payload. -/
  peerLevel : Nat
  /-- Monotonic time at which a valid frame or character last reported the peer as active (R415). -/
  peerActiveAt : Option Nat
  /-- Monotonic time of the last valid sideband character. -/
  sidebandAt : Option Nat
  /-- PAIR_STATE.SIDEBAND_OK. -/
  sidebandOk : Bool
  /-- Last sideband counter. -/
  sideCounter : Option Nat
  /-- Role the peer reported on the sideband. -/
  sideRole : Nat
  /-- Own HB counter. -/
  hbCounter : Nat
  /-- Monotonic time of the last HEARTBEAT sent. -/
  hbSent : Nat
  /-- Jobs forwarded to this standby. -/
  fwd : List Fwd
  /-- Active: DONE frames awaiting RESULT: sequence, monotonic time and digest. -/
  digests : List (Nat × Nat × Bytes)
  /-- HANDOVER received: claim without delay. -/
  handover : Bool
  /-- A hand-over drains; sequence of its PAIR_STATUS, or 0 for a quiesce. -/
  handing : Option Nat
  /-- PAIR_DIV_SEQ. -/
  divSeq : W64
  /-- PAIR_DIV_INFO partition. -/
  divPart : Nat
  /-- PAIR_DIV_INFO opcode. -/
  divOpcode : W16
  /-- Divergences since reset. -/
  divergences : Nat
  /-- Claims since reset. -/
  claims : Nat
  /-- Sequence at which IN_STEP was last entered. -/
  inStepSeq : Nat
  /-- Highest sequence the standby has journalled. -/
  highest : Nat
  /-- Catch-up, joining side: records received, their bytes, staged vault records. -/
  snapCount : Nat
  /-- Record bytes for the digest. -/
  snapBytes : Bytes
  /-- Staged vault records (R440 step 2). -/
  snapVault : List (Nat × Bytes)
  /-- Sequence of the last commit of each object, by kind × 2^25 + index (R440). -/
  commitSeqs : Tab Nat
  /-- Cut sequence C. -/
  cut : Option Nat
  /-- Catch-up started by this PAIR_STATUS on the active, 0 for AUTO_JOIN. -/
  catchJob : Option Nat
  /-- The vault is copied. -/
  vaultCopy : Bool
  deriving DecidableEq, Repr

/-! ## Journal, Scree, Tarn, Guard, counters, power (16 to 19) -/

/-- A journal entry (16 R448). -/
structure Entry where
  /-- Sequence. -/
  seq : Nat
  /-- Acceptance stamp. -/
  stamp : W64
  /-- Partition. -/
  part : Nat
  /-- Ring. -/
  ring : Nat
  /-- Descriptor index. -/
  index : Nat
  /-- Opcode as read. -/
  opcode : W16
  /-- Status. -/
  status : W16
  /-- Digest, 6 bytes. -/
  digest : Bytes
  deriving DecidableEq, Repr

/-- The command journal (16). -/
structure Journal where
  /-- JRN_FIRST_SEQ. -/
  first : Nat
  /-- JRN_NEXT_SEQ. -/
  next : Nat
  /-- Entries held, by sequence, oldest first. -/
  entries : List Entry
  deriving DecidableEq, Repr

/-- An item in a Scree FIFO (16 R461). -/
structure ScreeItem where
  /-- Event code. -/
  code : Nat
  /-- Stamp. -/
  stamp : W64
  /-- Cluster of the header: the FIFO's, or 0xFF. -/
  cluster : Nat
  /-- Payload bytes. -/
  payload : Bytes
  deriving DecidableEq, Repr

/-- A cluster FIFO (16 R461). -/
structure Fifo where
  /-- Items, oldest first, at most 16. -/
  items : List ScreeItem
  /-- Lost count. -/
  lost : Nat
  /-- Stamp of the first loss. -/
  firstLoss : W64
  deriving DecidableEq, Repr

/-- The limiter of an event code (16 R462). -/
structure CodeState where
  /-- Tokens spent from the capacity. -/
  spent : Nat
  /-- RATE as written. -/
  rate : Nat
  /-- Monotonic time of the last refill. -/
  refilled : Nat
  /-- Open episode: start, count, first stamp, last stamp, cluster. -/
  episode : Option (Nat × Nat × W64 × W64 × Nat)
  /-- SCR_CODE_STAT. -/
  suppressed : Nat
  deriving DecidableEq, Repr

/-- A code's limiter at reset: a full bucket at RATE 64. -/
def CodeState.reset : CodeState := { spent := 0, rate := 64, refilled := 0, episode := none, suppressed := 0 }

/-- Scree (16). -/
structure Scree where
  /-- FIFOs by cluster. -/
  fifos : Tab Fifo
  /-- Limiters by code. -/
  codes : Tab CodeState
  /-- Ring bytes (1 MiB, R464). -/
  ring : Memory
  /-- SCR_WR_POS. -/
  wrPos : W64
  /-- SCR_OLD_POS. -/
  oldPos : W64
  /-- SCR_CURSOR. -/
  cursor : W64
  /-- SCR_ACK. -/
  ack : W64
  /-- SCR_STATUS.CURSOR_LOST. -/
  cursorLost : Bool
  /-- SCR_STATUS.OVERRUN. -/
  overrun : Bool
  /-- SCR_STATUS.GAPS. -/
  gaps : Bool
  /-- Freeze in force: monotonic start and stamp. -/
  frozen : Option (Nat × W64)
  /-- A SCREE_FROZEN record is the next to be written. -/
  thawRecord : Option ScreeItem
  /-- Vector 49 may be raised (R468). -/
  armed : Bool
  /-- FIFO after which the round-robin goes on. -/
  last : Nat
  /-- SCR_CFG.LOCK. -/
  lock : Bool
  /-- SCR_CFG.FREEZE_MAX as written. -/
  freezeMax : Nat
  /-- SCR_CFG.THRESH as written. -/
  thresh : Nat
  /-- SCR_CODE_SEL. -/
  sel : Nat
  deriving DecidableEq, Repr

/-- A Tarn source (17 R475 to R478). -/
structure TarnSrc where
  /-- TARN_STATUS bit. -/
  set : Bool
  /-- Effective severity, 0 to 3. -/
  eff : Nat
  /-- COUNT. -/
  count : Nat
  /-- KIND. -/
  kind : Nat
  /-- UNIT. -/
  unit : Nat
  /-- INFO. -/
  info : W32
  /-- Escalation timer's start. -/
  timer : Option Nat
  /-- The first event was injected (R490). -/
  injected : Bool
  deriving DecidableEq, Repr

/-- A source not set. -/
def TarnSrc.clear : TarnSrc :=
  { set := false, eff := 0, count := 0, kind := 0, unit := 0, info := 0, timer := none, injected := false }

/-- Tarn (17). -/
structure Tarn where
  /-- Sources. -/
  srcs : Tab TarnSrc
  /-- TARN_CAUSE: causes of kind C that last, by source: KIND, UNIT and INFO of their error line. -/
  live : Tab (Option (Nat × Nat × W32))
  /-- TARN_CFG.LOCK. -/
  lock : Bool
  /-- TARN_CFG.ESC_TIMER as written. -/
  esc : Nat
  /-- TARN_SEV0. -/
  sev0 : W64
  /-- TARN_SEV1. -/
  sev1 : W64
  /-- TARN_DSEL. -/
  dsel : Nat
  /-- ERR_P, ERR_N driven: `none` undriven. -/
  errPair : Option (Bool × Bool)
  deriving DecidableEq, Repr

/-- A Guard violation record (17 R492). -/
structure Viol where
  /-- VALID. -/
  valid : Bool
  /-- GRD_VIOL_ADDR. -/
  addr : W32
  /-- GRD_VIOL_INFO without VALID. -/
  info : W32
  /-- GRD_VCOUNT. -/
  count : W32
  deriving DecidableEq, Repr

/-- The Guard units (17). -/
structure Guard where
  /-- Regions in force, by unit × 32 + region. -/
  regions : Tab (Option GuardRegion)
  /-- Boot default: CUSTODIAN only, before the first commit (R486). -/
  boot : Bool
  /-- Staged regions of a commit in progress. -/
  staged : Option (List (Fin 8 × Fin 32 × GuardRegion))
  /-- Monotonic time of the commit. -/
  since : Nat
  /-- GRD_EPOCH. -/
  epoch : W32
  /-- GRD_SEL: unit × 32 + region. -/
  sel : Nat
  /-- Violations by unit. -/
  viols : Tab Viol
  deriving DecidableEq, Repr

/-- A device-wide counter (18 R494, R505). -/
structure Counter where
  /-- Value, 48 bits. -/
  value : BitVec 48
  /-- PMC_EVT. -/
  evt : W32
  /-- PMC_MASTER. -/
  master : W32
  /-- PMC_ADDR_LO. -/
  lo : W32
  /-- PMC_ADDR_HI. -/
  hi : W32
  /-- PMC_PERIOD. -/
  period : W32
  deriving DecidableEq, Repr

/-- A counter at reset. -/
def Counter.reset : Counter := { value := 0, evt := 0, master := 0, lo := 0, hi := 0, period := 0 }

/-- The counter block (18). -/
structure Pmc where
  /-- PMC_CFG.LOCK. -/
  lock : Bool
  /-- PMC_CFG.EN. -/
  en : Bool
  /-- PMC_STATUS.SAMPLE_LOST. -/
  lost : W32
  /-- PMC_SEL. -/
  sel : Nat
  /-- Counters. -/
  counters : Tab Counter
  /-- Sample ring. -/
  ring : HostRing
  /-- Monotonic time of the last sample written. -/
  lastSample : Option Nat
  /-- Monotonic time of the last vector 54. -/
  lastMsg : Option Nat
  deriving DecidableEq, Repr

/-- The power sequencer and start-up (19). -/
structure Power where
  /-- 12 V is good. -/
  main : Bool
  /-- Auxiliary rail good. -/
  aux : Bool
  /-- PERST_N asserted. -/
  perst : Bool
  /-- Monotonic time of t0 of the start. -/
  t0 : Nat
  /-- The fuse read of this start gives the root (05 R106). -/
  rootFuse : Bool
  /-- The PUF regeneration of this start gives the root. -/
  rootPuf : Bool
  /-- Monotonic time from which the image that starts has its 1 s (14 R408). -/
  bootAt : Nat
  /-- PWR_STATUS.PHASE. -/
  phase : Nat
  /-- PWR_STATUS.FAULT. -/
  fault : Nat
  /-- PWR_STATUS.READY. -/
  ready : Bool
  /-- PWR_START_TIME, µs. -/
  startTime : W32
  /-- PWR_DOMAIN_ON. -/
  domains : W64
  /-- Next start slot, 0 to 57; 58 when done. -/
  slot : Nat
  /-- Switch-on requests, oldest first: domain and whether it is automatic (R512). -/
  queue : List (Nat × Bool)
  /-- Monotonic times of the last two run-time switch-ons. -/
  switched : List Nat
  /-- PWR_CFG.LOCK. -/
  lock : Bool
  /-- QUIESCE_MAX as written. -/
  quiesceMax : Nat
  /-- IDLE as written. -/
  idle : Nat
  /-- AUTO_OFF. -/
  autoOff : Bool
  /-- Monotonic time since which an engine domain has held no job. -/
  idleSince : Tab Nat
  /-- QUIESCE_REQ_N recognised low. -/
  qPin : Bool
  /-- PWR_STATUS.QUIESCE_REG. -/
  qReg : Bool
  /-- PWR_STATUS.QUIESCE. -/
  quiesce : Nat
  /-- Monotonic time of the request. -/
  qSince : Nat
  /-- Jobs ended at QUIESCE_MAX. -/
  qEnded : Nat
  /-- Burns made at this start (event 0x2E1). -/
  burns : Nat
  /-- Running slot: false A, true B. -/
  running : Bool
  /-- The image started is pending (14 R408). -/
  pendingRun : Bool
  /-- PWR_MON as last read: input power (10 mW) and voltage (mV). -/
  mon : W32
  deriving DecidableEq, Repr

/-- The SMBus slave (20 R540). -/
structure Smb where
  /-- SMB_ALERT_N asserted. -/
  alert : Bool
  /-- STATUS bits 3 to 7 last seen. -/
  seen : Nat
  /-- Address straps. -/
  straps : BitVec 2
  deriving DecidableEq, Repr

/-- The SYS block (21 R551) and the halves of 64-bit registers (R558). -/
structure Sys where
  /-- SYS_SCRATCH. -/
  scratch : W32
  /-- SYS_ACC_ERR: SIZE, UNMAPPED, LOCKED in bits 0 to 2. -/
  accErr : BitVec 3
  /-- SYS_ACC_ADDR. -/
  accAddr : BitVec 24
  /-- Latched upper words: function × 2^24 + offset. -/
  latch : Tab (Option W32)
  /-- Staged lower words. -/
  stage : Tab (Option W32)
  /-- PART_SEL. -/
  partSel : Nat
  /-- CIRQ_PSEL. -/
  cirqSel : Nat
  /-- CIRQ_EST_SEL. -/
  estSel : W32
  /-- Completion Timeout Value (20 R568). -/
  cto : BitVec 4
  deriving DecidableEq, Repr

/-- An MSI-X vector (21 R555). -/
structure Vector_ where
  /-- Message address. -/
  addr : W64
  /-- Message data. -/
  data : W32
  /-- Mask bit. -/
  mask : Bool
  /-- Pending bit. -/
  pend : Bool
  deriving DecidableEq, Repr

/-- Cirque's module-wide state (04). -/
structure Cirque where
  /-- CIRQ_CFG.LOCK. -/
  lock : Bool
  /-- CIRQ_CFG.PKE_THREADS. -/
  pke : Nat
  /-- CIRQ_CFG.GUARD as written. -/
  guard : Nat
  /-- B: NTB of the cursor's bucket, a multiple of 256 (R84). -/
  cursor : Nat
  /-- Counter of list entries. -/
  entries : Nat
  /-- Partition after which the fetch round goes on (R94). -/
  fetchLast : Nat
  /-- Host read latencies of the last 1 ms: completion time and ns (R81). -/
  reads : List (Nat × Nat)
  /-- Peer journalling times of the last 1 ms (R81). -/
  mirrors : List (Nat × Nat)
  /-- Monotonic start of the service window (R98). -/
  window : Nat
  deriving DecidableEq, Repr

/-- What leaves the module at its boundary, in order (log entry 6). -/
inductive Output where
  /-- A posted write to host memory by a partition's function. -/
  | hostWrite (p : Nat) (iova : Nat) (bytes : Bytes)
  /-- A read request to host memory. -/
  | hostRead (p : Nat) (iova len : Nat)
  /-- An MSI-X message. -/
  | msix (p vector : Nat)
  /-- A PTM request (02 R26). -/
  | ptm
  /-- A frame on TIME_TOD_TX (02 R27). -/
  | tod (bytes : Bytes)
  /-- A frame on the Ulistade link (15 R419). -/
  | frame (bytes : Bytes)
  /-- A sideband character: counter and role (15 R434). -/
  | sideband (counter role : Nat)
  /-- The answer to a register read. -/
  | read (p : Nat) (offset : Nat) (value : Nat)
  /-- The answer to an SMBus read. -/
  | smbus (bytes : Bytes)
  /-- A NACK on SMBus (20 R540). -/
  | smbusNack
  /-- The answer to a debug access (14 R405). -/
  | debug (bytes : Bytes)
  deriving DecidableEq, Repr

/-! ## The whole -/

/-- The module. -/
structure State where
  /-- Network time. -/
  time : TimeBlk
  /-- Ring sets by partition × 16 + ring. -/
  rings : Tab Ring
  /-- Cirque. -/
  cirq : Cirque
  /-- Admitted jobs, in admission order. -/
  jobs : List Job
  /-- Refused descriptors whose completion is to be written, as jobs. -/
  refused : List Job
  /-- Massif. -/
  mas : Massif
  /-- Engine units. -/
  eng : Engines
  /-- Random service. -/
  rng : Rng
  /-- Partitions. -/
  parts : Tab Part
  /-- Vault SRAM. -/
  vault : Vault
  /-- OTP, flash, retention cells. -/
  nv : Nv
  /-- Custodians. -/
  cust : Cust
  /-- Tamper controller. -/
  tmp : Tamper
  /-- Debug session. -/
  dbg : Debug
  /-- Pair. -/
  pair : Pair
  /-- Journal. -/
  jrn : Journal
  /-- Scree. -/
  scr : Scree
  /-- Tarn. -/
  tarn : Tarn
  /-- Guard units. -/
  grd : Guard
  /-- Counters. -/
  pmc : Pmc
  /-- Power. -/
  pwr : Power
  /-- SMBus. -/
  smb : Smb
  /-- SYS and register halves. -/
  sys : Sys
  /-- MSI-X vectors by function × 64 + vector. -/
  msix : Tab Vector_
  /-- Outputs at the boundary, oldest first (the model's own record, log entry 6). -/
  out : List Output
  /-- Next free value (the model's own counter, log entry 5). -/
  freeCtr : Nat
  /-- Commands waiting, first in first out. -/
  pending : List Instr
  deriving DecidableEq, Repr

/-! ## What unlisted entries read as -/

/-- A PIN vault, lattice or hash unit at start. -/
def Engine.idle : Engine := { up := true, owner := .free }
/-- A Newt core at start. -/
def Core.idle : Core := { up := true, owner := .free, colour := none }
/-- A big-number core at start. -/
def BigCore.idle : BigCore := { up := true, bank0 := .free, bank1 := .free, active := false, window := false }
/-- A noise source at start (10 R305). -/
def Source.start : Source := { state := 0, rctFails := 0, aptFails := 0, cause := 0, tries := 0, since := 0, again := false }
/-- A monitor at rest. -/
def Monitor.quiet : Monitor := { a := false, b := false, times := [] }
/-- The default rule of every class (12 R343). -/
def Rule.default_ : Rule := { m := 2, d := 1, mask := 0xFF }
/-- An empty FIFO. -/
def Fifo.empty : Fifo := { items := [], lost := 0, firstLoss := 0 }
/-- No violation. -/
def Viol.none_ : Viol := { valid := false, addr := 0, info := 0, count := 0 }
/-- An MSI-X entry at reset: masked (21 R555). -/
def Vector_.reset : Vector_ := { addr := 0, data := 0, mask := true, pend := false }
/-- A cell in place at 3.0 V. -/
def Cell.good : Cell := { state := 0, volts := 150, since := 0 }

/-! ## Reset -/

/-- Network time at reset (02 R21, R38, R39). -/
def TimeBlk.reset : TimeBlk :=
  { mono := 0, ntb := 0, frac := 0, state := .unset, firstSet := none, lock := false, src := 0, srcSince := 0, ptmPeriod := 7, todTx := false, ptmOffset := 0,
    slew := none, slewBack := false, lost := false, lostAt := 0, e0 := 0, lastPair := none, lastEdge := none, goodEdges := 0,
    bareEdges := 0, lastNamed := none, frame := none, frameError := 0, todValid := false, frameErr := 0, report := none,
    ptmSent := 0, ptmOpen := false, ptmGood := 0, ptmFail := 0, ptmLast := none, ptmOk := false }

/-- Cirque at reset (04 R102). -/
def Cirque.reset : Cirque :=
  { lock := false, pke := 64, guard := 20, cursor := 0, entries := 0, fetchLast := 255, reads := [], mirrors := [], window := 0 }

/-- Massif at reset: the node table clear (05 R115, 19 R516). -/
def Massif.reset : Massif := { nodes := [], blobs := [], cache := [], sweep := 0, passes := 0, masterMarks := [] }

/-- Units at reset (08 R243 to R245, 09 R282 to R284). -/
def Engines.reset : Engines :=
  { gecko := [], pinv := [], newt := [], big := [], lat := [], hash := [], newtLock := false, newtPeriod := 10, iguLock := false,
    iguPeriod := 10, colour := [], newtWin := Win.idle, iguWin := Win.idle, tests := [], newtNext := 0, newtLast := 0,
    iguNext := 0, iguLast := 0, curveSlot := 0, curvePart := 0 }

/-- The random service at reset (10 R304, R305). -/
def Rng.reset : Rng :=
  { lock := false, reserve := 4, state := 0, sources := [], pool := [], heldBlock := none, counter := 0, drbg := [], sel := 0,
    explicit := [], explicitLast := 255, began := 0, blockAt := 0 }

/-- The vault of a module as it leaves the factory (14 R391, 11 R310): partition 0 alone. -/
def Vault.factory : Vault :=
  { parts := [(0, { VaultPart.absent with exists_ := true })], custodians := [], rules := [], window := none, load := none,
    policy := [], zeroisePending := false, lossCause := 0, lossQuiesce := 0 }

/-- OTP, flash and retention cells as the module leaves the factory: PROVISIONED, evidence count 0 (14 R391, R392, 16 R447). -/
def Nv.factory : Nv :=
  { stage := [(0, 0x5A5AA5A5), (1, 0x3C3CC3C3)], writing := none, otpA := 0, otpB := 0, rollback := 0, slotA := [], slotB := [], factoryA := true,
    current := false, pending := false, keyStore := [], keyStoreErase := false, evreg := [], evOvf := 0, transition := none,
    mark := 0x100000000, scrapped := false, secs := 0, reservoir := 4 }

/-- Custodians at reset (12 R363). -/
def Cust.reset : Cust :=
  { challenges := [], sessions := [], selRule := 1, selCust := 0, certChain := false, certLevel := 0, certPos := 0 }

/-- The tamper controller at reset (13 R388). -/
def Tamper.reset : Tamper :=
  { mons := [], suspended := false, alarm := false, level := 0, monFault := false, refused := false, zeroising := none,
    mismatch := false, monSel := 0, evSel := 0, cellA := Cell.good, cellB := Cell.good, clockA := true, clockB := true, holdup := none }

/-- No debug session (14 R410). -/
def Debug.closed : Debug :=
  { open_ := false, rights := 0, notAfter := 0, marked := false, page := [], refreshed := 0, restart := false }

/-- The pair logic at reset (15 R444). -/
def Pair.reset : Pair :=
  { lock := false, autoJoin := false, claimEn := true, paired := true, peer := 0, state := .alone, role := 2, actOut := false,
    claimedAt := 0, claimCause := 0, inhibit := false, inhibitAt := 0, effective := false, posB := false, lanes := 0,
    trained := false, session := false, retrains := 0, chain := [], chainLen := 0, offer := none, transcript := none, keys := none,
    retryAt := none, failed := false, peerSerial := [], peerLc := 0, txSeq := 1, acked := 0, replay := [], backlog := [], ackAt := 0, rxSeq := 0,
    inbandAt := none, inbandOk := false, peerRole := 2, peerLevel := 0, peerActiveAt := none, sidebandAt := none, sidebandOk := false,
    sideCounter := none, sideRole := 2, hbCounter := 0, hbSent := 0, fwd := [], digests := [], handover := false, handing := none,
    divSeq := 0, divPart := 0, divOpcode := 0, divergences := 0, claims := 0, inStepSeq := 0, highest := 0, snapCount := 0,
    snapBytes := [], snapVault := [], commitSeqs := [], cut := none, catchJob := none, vaultCopy := false }

/-- Scree at reset (16 R464, R474). -/
def Scree.reset : Scree :=
  { fifos := [], codes := [], ring := [], wrPos := 0, oldPos := 0, cursor := 0, ack := 0, cursorLost := false, overrun := false,
    gaps := false, frozen := none, thawRecord := none, armed := true, last := 37, lock := false, freezeMax := 50, thresh := 64,
    sel := 0 }

/-- Tarn at reset; severities at the defaults of 17 R475, two bits a source. -/
def Tarn.reset : Tarn :=
  { srcs := [], live := [], lock := false, esc := 100, sev0 := 0x5AAAAA9FFFF6ABDF, sev1 := 0x0077555555F5FD55, dsel := 0,
    errPair := none }

/-- The Guard units at reset (17 R486, R492). -/
def Guard.reset : Guard :=
  { regions := [], boot := true, staged := none, since := 0, epoch := 0, sel := 0, viols := [] }

/-- The counters at reset (18 R505). -/
def Pmc.reset : Pmc :=
  { lock := false, en := false, lost := 0, sel := 0, counters := [], ring := HostRing.reset 4, lastSample := none, lastMsg := none }

/-- Power at reset: in a carrier with 12 V and the auxiliary rail good, PERST_N asserted (19 R510, R516, R528). -/
def Power.reset : Power :=
  { main := true, aux := true, perst := true, t0 := 0, rootFuse := true, rootPuf := true, bootAt := 0, phase := 0, fault := 0, ready := false, startTime := 0, domains := 3,
    slot := 0, queue := [], switched := [], lock := false, quiesceMax := 100, idle := 100, autoOff := false, idleSince := [],
    qPin := false, qReg := false, quiesce := 0, qSince := 0, qEnded := 0, burns := 0, running := false, pendingRun := false, mon := 0 }

/-- SYS at reset (21 R552, R556). -/
def Sys.reset : Sys :=
  { scratch := 0, accErr := 0, accAddr := 0, latch := [], stage := [], partSel := 0, cirqSel := 0, estSel := 0,
    cto := 0 }

/-- Partition 0 at start (11 R312). -/
def Part.custodian : Part := { Part.reset with cfg := PartCfg.custodian, weightWin := 16 }

/-- The module right after reset, as it leaves the factory in a powered carrier with PERST_N asserted (log entry 7). -/
def State.reset : State :=
  { time := TimeBlk.reset, rings := [], cirq := Cirque.reset, jobs := [], refused := [], mas := Massif.reset, eng := Engines.reset,
    rng := Rng.reset, parts := [(0, Part.custodian)], vault := Vault.factory, nv := Nv.factory, cust := Cust.reset, tmp := Tamper.reset,
    dbg := Debug.closed, pair := Pair.reset, jrn := { first := 0, next := 0, entries := [] }, scr := Scree.reset,
    tarn := Tarn.reset, grd := Guard.reset, pmc := Pmc.reset, pwr := Power.reset,
    smb := { alert := false, seen := 0, straps := 0 }, sys := Sys.reset, msix := [], out := [], freeCtr := 0, pending := [] }

/-! ## Ways a step can stop -/

/-- Faults: the spec names no behaviour that stops the module without an effect, so no meaning raises one. -/
inductive Fault where
  /-- Raised by nothing: kept so that the type has a name (safe). -/
  | none_
  deriving DecidableEq, Repr

/-- Refusals. -/
inductive Refusal where
  /-- A command whose meaning is not written yet, by mnemonic (safe). -/
  | notModelled (mnemonic : String)
  deriving DecidableEq, Repr

end Sys2Proof.Machine
end

