-- ==== Sys2Proof/Config.lean ====
section
/-!
DEFINITION. What an implementation or an outside standard fixes and this spec does not state: cryptographic primitives the
spec names by standard, factory and firmware data, and the free values. None has a body, so no proof can see a value.
Log entries 3 (primitives), 4 (factory and firmware data) and 5 (free values).
-/
namespace Sys2Proof.Config

/-! ## Primitives named by standard (log entry 3) -/

/-- AES under a key of 16, 24 or 32 bytes: a permutation of 128-bit blocks (08 R217). -/
opaque aes : Bytes → Equiv.Perm W128
/-- Single DES under an 8-byte key: a permutation of 64-bit blocks (08 R219, 06 R175). -/
opaque des : Bytes → Equiv.Perm W64
/-- SHA-1, used only by option B of 07 R184. -/
opaque sha1 : Bytes → BitVec 160
/-- SHA-256 (09 R256). -/
opaque sha256 : Bytes → BitVec 256
/-- SHA-384 (09 R256). -/
opaque sha384 : Bytes → BitVec 384
/-- SHA-512 (09 R256). -/
opaque sha512 : Bytes → BitVec 512
/-- SHA-512/256 (09 R256). -/
opaque sha512t : Bytes → BitVec 256
/-- SHA3-256 (09 R256). -/
opaque sha3t256 : Bytes → BitVec 256
/-- SHA3-384 (09 R256). -/
opaque sha3t384 : Bytes → BitVec 384
/-- SHA3-512 (09 R256). -/
opaque sha3t512 : Bytes → BitVec 512
/-- Byte `i` of the SHAKE128 (`false`) or SHAKE256 (`true`) output (09 R256, R263). -/
opaque shake : Bool → Bytes → Nat → Byte
/-- EdDSA, RSASSA and ML-DSA signatures (09 R256 schemes 2 to 5): scheme, hash, algorithm of R251, private material of R253, context,
message (its digest for the RSA schemes), randomness. -/
opaque pkSign : (scheme hash alg : Nat) → (key ctx msg rnd : Bytes) → Bytes
/-- Their verification under a public key in the encoding of 09 R252. -/
opaque pkVerify : (scheme hash alg : Nat) → (pub ctx msg sig : Bytes) → Bool
/-- Parameters p, a, b, Gx, Gy, n of a named Weierstrass curve of 09 R251. -/
opaque curveParams : (alg : Nat) → Nat × Nat × Nat × Nat × Nat × Nat
/-- X25519 of a scalar and a u-coordinate (09 R260). -/
opaque x25519 : (scalar u : Bytes) → Bytes
/-- ML-KEM encapsulation: ciphertext and shared secret from key and message m (09 R261). -/
opaque kemEncaps : (set : Nat) → (ek m : Bytes) → Bytes × Bytes
/-- ML-KEM decapsulation with implicit rejection (09 R261). -/
opaque kemDecaps : (set : Nat) → (dk ct : Bytes) → Bytes
/-- RSAES-OAEP encryption: hash code, key, label, message, seed (09 R262). -/
opaque oaepEncrypt : (hash : Nat) → (pub label msg seed : Bytes) → Bytes
/-- RSAES-OAEP decryption; `none` when decoding fails (09 R262). -/
opaque oaepDecrypt : (hash : Nat) → (priv label ct : Bytes) → Option Bytes
/-- The public key of private material that does not carry it (EdDSA, X25519, lattice; 09 R252). -/
opaque publicOf : (alg : Nat) → (key : Bytes) → Bytes
/-- A and R of an EdDSA signature are canonical and decode to curve points and S is below the group order (09 R265). -/
opaque edValid : (alg : Nat) → (pub sig : Bytes) → Bool
/-- The 12 encodings of points of order dividing 8 of X25519 (09 R265). -/
opaque x25519LowOrder : Nat → Bool
/-- Miller–Rabin with bases from SHA-256 over the input, and the strong Lucas test (09 R268 check 2). -/
opaque probablePrime : (n : Nat) → (input : Bytes) → Bool
/-- An X.509 chain verifies to the Zalilys root: serial number, life-cycle state, P-384 key, ML-DSA-65 key (12 R360). -/
opaque chainVerify : (chain : Bytes) → Option (Bytes × Nat × Bytes × Bytes)

/-- The parts of a TR-34 one-pass message (07 R204). -/
structure Cms where
  /-- The SignerInfo's algorithm: scheme code of 09 R256. -/
  scheme : Nat
  /-- The bytes the signature covers. -/
  signedBytes : Bytes
  /-- The signature under key B. -/
  signature : Bytes
  /-- The message-digest attribute agrees with the encapsulated content. -/
  digestOk : Bool
  /-- signing-time, seconds since 1970-01-01 (07 R206). -/
  signingTime : Nat
  /-- The recipient's SubjectKeyIdentifier. -/
  recipient : Bytes
  /-- The RSAES-OAEP ciphertext of the content key. -/
  wrappedKey : Bytes
  /-- IV of the AES-256-CBC content encryption. -/
  iv : Bytes
  /-- The enciphered content. -/
  content : Bytes
  deriving DecidableEq, Repr, Inhabited

/-- Parse of the CMS structure and attributes; `none` when it breaks 07 R204. -/
opaque cmsParse : Bytes → Option Cms

/-! ## Factory and firmware data (log entry 4) -/

/-- The root secret as the fuses and the PUF regenerate it (05 R105, R106). -/
opaque root : BitVec 256
/-- Module serial number, 16 bytes (12 R362). -/
opaque serial : BitVec 128
/-- Part: 0 ON-960-S, 1 ON-960-S/C (21 R552). -/
opaque part : BitVec 1
/-- Build level (21 R552). -/
opaque build : Byte
/-- Private identity keys: P-384 (`false`) and ML-DSA-65 (`true`), 12 R359. -/
opaque identityKey : Bool → Bytes
/-- The module's certificates: chain (P-384 or ML-DSA-65) and level 0 to 2 (12 R360). -/
opaque certificate : (mldsa : Bool) → (level : Nat) → Bytes
/-- Public keys of the Zalilys life-cycle authority (14 R400): P-384, ML-DSA-65. -/
opaque lifeCycleAuthority : Bool → Bytes
/-- Public keys of the Zalilys firmware authority (14 R406): P-384, ML-DSA-65. -/
opaque firmwareAuthority : Bool → Bytes
/-- The firmware image of slot A at the factory, header and body (14 R406). -/
opaque factoryImage : Bytes
/-- Estimates of 04 R81 by opcode: item 0 s0, 1 s1, 2 to 7 e(c), in ns. -/
opaque estimate : (opcode item : Nat) → BitVec 32
/-- Which lattice parameter set (0, 1 or 2 of a family of 09 R251) imported seed material is of: a key block does not say. -/
opaque importedSet : (material : Bytes) → Fin 3
/-- The bytes of a Scree payload, whose layout 16 R458 does not give: event code and payload fields. -/
opaque screePayload : (code : Nat) → (fields : List Nat) → Bytes

/-- The Guard unit whose targets an internal fabric address lies in (17 R484): the spec gives no fabric address map. -/
opaque fabricUnit : (address : W32) → Fin 8
/-- Fabric address of the debug status page, 64 KiB of the descriptor and data buffers (14 R402). -/
opaque debugPage : W32

/-! ## Free values (log entry 5) -/

/-- A free byte: result data the spec leaves open. -/
opaque freeByte : Nat → Byte
/-- A free 32-bit word. -/
opaque freeWord : Nat → W32

end Sys2Proof.Config
end

