-- ==== Sys2Proof/Machine/Symmetric.lean ====
section
/-!
DEFINITION. Block-cipher modes, MACs and paddings of 08_newt_cores.md R217 to R229, over the keyed permutations of Config.lean.
Nothing here reads the state: the functions take a key and bytes.
-/
namespace Sys2Proof.Machine

/-- Block size of AES (`tdes` false) or TDES. -/
def blockSize (tdes : Bool) : Nat := if tdes then 8 else 16

/-- The 8-byte pieces of a two- or three-key TDES key. -/
def tdesPart (key : Bytes) (i : Nat) : Bytes :=
  if key.length ≤ 16 ∧ i = 2 then slice key 0 8 else slice key (8 * i) 8

/-- An 8-byte block as a word. -/
def toBlock8 (bs : Bytes) : W64 := beVec 64 (slice bs 0 8)

/-- TDES encryption of a block: encrypt, decrypt, encrypt (08 R219). -/
def tdesEnc (key : Bytes) (b : W64) : W64 :=
  Config.des (tdesPart key 2) ((Config.des (tdesPart key 1)).symm (Config.des (tdesPart key 0) b))

/-- TDES decryption of a block. -/
def tdesDec (key : Bytes) (b : W64) : W64 :=
  (Config.des (tdesPart key 0)).symm (Config.des (tdesPart key 1) ((Config.des (tdesPart key 2)).symm b))

/-- Encrypt one block of bytes. -/
def blockEnc (tdes : Bool) (key b : Bytes) : Bytes :=
  if tdes then beBytes 8 (tdesEnc key (toBlock8 b)).toNat else blockBytes (Config.aes key (toBlock b))

/-- Decrypt one block of bytes. -/
def blockDec (tdes : Bool) (key b : Bytes) : Bytes :=
  if tdes then beBytes 8 (tdesDec key (toBlock8 b)).toNat else blockBytes ((Config.aes key).symm (toBlock b))

/-! ## ECB, CBC, CFB-128, CTR -/

/-- ECB encryption of whole blocks. -/
def ecbEnc (tdes : Bool) (key data : Bytes) : Bytes := (chunks (blockSize tdes) data).flatMap (blockEnc tdes key)

/-- ECB decryption of whole blocks. -/
def ecbDec (tdes : Bool) (key data : Bytes) : Bytes := (chunks (blockSize tdes) data).flatMap (blockDec tdes key)

/-- CBC encryption over a list of blocks. -/
def cbcEncBlocks (tdes : Bool) (key : Bytes) : Bytes → List Bytes → List Bytes
  | _, [] => []
  | iv, b :: bs => let c := blockEnc tdes key (xorBytes b iv); c :: cbcEncBlocks tdes key c bs

/-- CBC encryption. -/
def cbcEnc (tdes : Bool) (key iv data : Bytes) : Bytes := (cbcEncBlocks tdes key iv (chunks (blockSize tdes) data)).flatten

/-- CBC decryption over a list of blocks. -/
def cbcDecBlocks (tdes : Bool) (key : Bytes) : Bytes → List Bytes → List Bytes
  | _, [] => []
  | iv, c :: cs => xorBytes (blockDec tdes key c) iv :: cbcDecBlocks tdes key c cs

/-- CBC decryption. -/
def cbcDec (tdes : Bool) (key iv data : Bytes) : Bytes := (cbcDecBlocks tdes key iv (chunks (blockSize tdes) data)).flatten

/-- CFB-128 encryption over pieces of at most 16 bytes: a short last piece uses as many keystream bytes as it needs (R221). -/
def cfbEncBlocks (key : Bytes) : Bytes → List Bytes → List Bytes
  | _, [] => []
  | iv, b :: bs => let c := xorBytes b (blockEnc false key iv); c :: cfbEncBlocks key c bs

/-- CFB-128 encryption. -/
def cfbEnc (key iv data : Bytes) : Bytes := (cfbEncBlocks key iv (chunks 16 data)).flatten

/-- CFB-128 decryption over pieces. -/
def cfbDecBlocks (key : Bytes) : Bytes → List Bytes → List Bytes
  | _, [] => []
  | iv, c :: cs => xorBytes c (blockEnc false key iv) :: cfbDecBlocks key c cs

/-- CFB-128 decryption. -/
def cfbDec (key iv data : Bytes) : Bytes := (cfbDecBlocks key iv (chunks 16 data)).flatten

/-- The counter block `n` places after `ctr`: the low `w` bits count modulo 2^w (R225). -/
def ctrBlock (size w : Nat) (ctr : Bytes) (n : Nat) : Bytes :=
  let v := beNat (slice ctr 0 size)
  beBytes size (v / 2 ^ w * 2 ^ w + (v + n) % 2 ^ w)

/-- `n` bytes of keystream from a counter block whose low `w` bits count. -/
def keystream (tdes : Bool) (w : Nat) (key ctr : Bytes) (n : Nat) : Bytes :=
  (((List.range (ceilDiv n (blockSize tdes))).map fun i =>
    blockEnc tdes key (ctrBlock (blockSize tdes) w ctr i)).flatten).take n

/-- CTR, either direction: the whole block counts (R225). -/
def ctrMode (tdes : Bool) (key ctr data : Bytes) : Bytes :=
  xorBytes data (keystream tdes (8 * blockSize tdes) key ctr data.length)

/-! ## GCM (R226, SP 800-38D) -/

/-- One step of the product in GF(2^128). -/
def gfStep (x : W128) (zv : W128 × W128) (i : Nat) : W128 × W128 :=
  (if x.getMsbD i then zv.1 ^^^ zv.2 else zv.1,
   if zv.2.getLsbD 0 then (zv.2 >>> 1) ^^^ (0xE1000000000000000000000000000000 : W128) else zv.2 >>> 1)

/-- The product in GF(2^128) of GHASH. -/
def gfMul (x y : W128) : W128 := ((List.range 128).foldl (gfStep x) (0, y)).1

/-- GHASH over whole 16-byte blocks. -/
def ghash (h : W128) (data : Bytes) : W128 := (chunks 16 data).foldl (fun acc b => gfMul (acc ^^^ toBlock b) h) 0

/-- Zero bytes up to a multiple of `n`. -/
def padTo (n : Nat) (data : Bytes) : Bytes := data ++ zeros ((n - data.length % n) % n)

/-- GCM's first counter block for a 12-byte IV. -/
def gcmJ0 (iv : Bytes) : Bytes := slice iv 0 12 ++ [0, 0, 0, 1]

/-- The GCM cipher part, either direction. -/
def gcmCtr (key iv data : Bytes) : Bytes :=
  xorBytes data (keystream false 32 key (ctrBlock 16 32 (gcmJ0 iv) 1) data.length)

/-- The 16-byte GCM tag over AAD and ciphertext. -/
def gcmTag (key iv aad ct : Bytes) : Bytes :=
  let h := toBlock (blockEnc false key (zeros 16))
  let s := ghash h (padTo 16 aad ++ padTo 16 ct ++ beBytes 8 (8 * aad.length) ++ beBytes 8 (8 * ct.length))
  xorBytes (blockBytes s) (blockEnc false key (gcmJ0 iv))

/-- GCM encryption: ciphertext, then the full tag. -/
def gcmSeal (key iv aad data : Bytes) : Bytes × Bytes :=
  let ct := gcmCtr key iv data
  (ct, gcmTag key iv aad ct)

/-- GCM decryption under a tag of its length: `none` when the tag does not match. -/
def gcmOpen (key iv aad ct tag : Bytes) : Option Bytes :=
  if (gcmTag key iv aad ct).take tag.length = tag then some (gcmCtr key iv ct) else none

/-! ## CMAC and ISO 9797-1 MACs (R219, R221) -/

/-- CBC-MAC over whole blocks from a zero chaining value. -/
def cbcMac (tdes : Bool) (key data : Bytes) : Bytes :=
  (chunks (blockSize tdes) data).foldl (fun acc b => blockEnc tdes key (xorBytes b acc)) (zeros (blockSize tdes))

/-- Doubling of a CMAC subkey (SP 800-38B). -/
def cmacDouble (b : Bytes) : Bytes :=
  let w := 8 * b.length
  let v := beNat b
  let d := (2 * v) % 2 ^ w
  beBytes b.length (if v.testBit (w - 1) then Nat.xor d (if b.length = 8 then 0x1B else 0x87) else d)

/-- CMAC over data of any length (R221 code 0x05). -/
def cmac (tdes : Bool) (key data : Bytes) : Bytes :=
  let n := blockSize tdes
  let k1 := cmacDouble (blockEnc tdes key (zeros n))
  let k2 := cmacDouble k1
  let full := data.length ≠ 0 ∧ data.length % n = 0
  let keep := if full then data.length - n else data.length / n * n
  let last := data.drop keep
  let lastBlock := if full then xorBytes last k1 else xorBytes (fit n (last ++ [0x80])) k2
  cbcMac tdes key (data.take keep ++ lastBlock)

/-- MAC algorithm 1 over padded data. -/
def mac1 (tdes : Bool) (key data : Bytes) : Bytes := cbcMac tdes key data

/-- Single-DES CBC-MAC (the blocks before the last of MAC algorithm 3). -/
def desMac (key : Bytes) (data : Bytes) : Bytes :=
  (chunks 8 data).foldl (fun acc b => beBytes 8 (Config.des key (toBlock8 (xorBytes b acc))).toNat) (zeros 8)

/-- MAC algorithm 3 over padded data: single DES under the left half, then decrypt under the right and encrypt under the left. -/
def mac3 (key data : Bytes) : Bytes :=
  let l := slice key 0 8
  let r := slice key 8 8
  beBytes 8 (Config.des l ((Config.des r).symm (toBlock8 (desMac l data)))).toNat

/-! ## Padding (R221) -/

/-- Pad on encryption or MAC; `none` where the rules allow no such length. -/
def pad (code n : Nat) (data : Bytes) : Option Bytes :=
  if code = 0x01 then (if data = [] then none else some (padTo n data))
  else if code = 0x02 then some (padTo n (data ++ [0x80]))
  else if code = 0x03 then some (beBytes n (8 * data.length) ++ padTo n data)
  else if code = 0x04 then
    let k := n - data.length % n
    some (data ++ List.replicate k (BitVec.ofNat 8 k))
  else some data

/-- The bytes of the last block before a method-2 padding; `none` when the padding is not well formed. -/
def strip80 : Bytes → Option Bytes
  | [] => none
  | 0 :: r => strip80 r
  | b :: r => if b = 0x80 then some r.reverse else none

/-- Remove padding on decryption; `none` when it is malformed (R221, R222). -/
def unpad (code n : Nat) (data : Bytes) : Option Bytes :=
  if code = 0x02 then
    match strip80 ((data.drop (data.length - n)).reverse) with
    | none => none
    | some r => some (data.take (data.length - n) ++ r)
  else if code = 0x04 then
    let k := (byteAt data (data.length - 1)).toNat
    if 1 ≤ k ∧ k ≤ n ∧ k ≤ data.length ∧ (data.drop (data.length - k)).all (· == BitVec.ofNat 8 k)
    then some (data.take (data.length - k)) else none
  else some data

/-! ## CCM (SP 800-38C) -/

/-- The B blocks of CCM before the data: B0 and the encoded AAD. -/
def ccmHead (nonce aad : Bytes) (tag d : Nat) : Bytes :=
  let q := 15 - nonce.length
  let flags := (if aad = [] then 0 else 64) + 8 * ((tag - 2) / 2) + (q - 1)
  let b0 := BitVec.ofNat 8 flags :: nonce ++ beBytes q d
  let a := if aad = [] then [] else
    padTo 16 ((if aad.length < 65280 then beBytes 2 aad.length else [0xFF, 0xFE] ++ beBytes 4 aad.length) ++ aad)
  b0 ++ a

/-- Counter block `i` of CCM. -/
def ccmCtr (nonce : Bytes) (i : Nat) : Bytes := BitVec.ofNat 8 (14 - nonce.length) :: nonce ++ beBytes (15 - nonce.length) i

/-- The CCM cipher part, either direction. -/
def ccmCipher (key nonce data : Bytes) : Bytes :=
  xorBytes data ((((List.range (ceilDiv data.length 16)).map fun i => blockEnc false key (ccmCtr nonce (i + 1))).flatten).take data.length)

/-- The CCM tag over the plaintext. -/
def ccmTag (key nonce aad data : Bytes) (tag : Nat) : Bytes :=
  (xorBytes (cbcMac false key (ccmHead nonce aad tag data.length ++ padTo 16 data)) (blockEnc false key (ccmCtr nonce 0))).take tag

/-! ## Digests of the firmware's own records -/

/-- SHA-256 as bytes. -/
def sha256B (bs : Bytes) : Bytes := beBytes 32 (Config.sha256 bs).toNat
/-- SHA-384 as bytes. -/
def sha384B (bs : Bytes) : Bytes := beBytes 48 (Config.sha384 bs).toNat
/-- The first `n` bytes of SHA-256. -/
def sha256Head (n : Nat) (bs : Bytes) : Bytes := (sha256B bs).take n
/-- The first 4 bytes of SHA-256, as a number for an event payload. -/
def sha256Word (bs : Bytes) : Nat := leNat (sha256Head 4 bs)

/-- One bit of CRC-16/CCITT-FALSE (02 R27). -/
def crc16Bit (c : BitVec 16) : BitVec 16 := if c.getLsbD 15 then (c <<< 1) ^^^ 0x1021 else c <<< 1

/-- CRC-16/CCITT-FALSE over bytes (02 R27). -/
def crc16 (bs : Bytes) : BitVec 16 :=
  bs.foldl (fun c b => (List.range 8).foldl (fun c _ => crc16Bit c) (c ^^^ ((b.setWidth 16 : BitVec 16) <<< (8 : Nat)))) 0xFFFF

end Sys2Proof.Machine
end

