-- ==== Sys2Proof/Machine/Ops.lean ====
section
/-!
DEFINITION. The named operations every family uses: reading and changing one entry of a table, stamps (02 R36), MSI-X messages
(03 R62), Scree events (16 R460 to R463), counters (18), jobs and units (04), the journal (16), Tarn (17), the frames of the
Ulistade link (15 R419 to R421).
-/
namespace Sys2Proof.Machine

/-! ## Status codes (03 R72) -/

def stOk : W16 := 0x0000
def stCancelled : W16 := 0x0001
def stCancelLate : W16 := 0x0002
def stCancelNotFound : W16 := 0x0003
def stStateReject : W16 := 0x0102
def stDeadlineReject : W16 := 0x0103
def stDeadlineMissed : W16 := 0x0104
def stQuota : W16 := 0x0105
def stBadDescriptor : W16 := 0x0106
def stAccess : W16 := 0x0107
def stAuthRequired : W16 := 0x0108
def stKeyGone : W16 := 0x0201
def stKeyUsage : W16 := 0x0202
def stKeyExhausted : W16 := 0x0203
def stKeyPeriod : W16 := 0x0204
def stKeyVerifyFail : W16 := 0x0205
def stCounterLimit : W16 := 0x0206
def stInputRejected : W16 := 0x0301
def stVerifyFail : W16 := 0x0302
def stFormat : W16 := 0x0303
def stEntropyFault : W16 := 0x0401
def stDiverged : W16 := 0x0601
def stSuspended : W16 := 0x0701
def stEngineFault : W16 := 0x0702
/-- The status of an entry whose job is admitted and not retired (16 R448). -/
def stRunning : W16 := 0xFFFF

/-! ## Entries of the tables -/

/-- The next state of a command. -/
abbrev Next := Host.Outcome State Fault Refusal
/-- A command that changes the state to `s`. -/
def done (s : State) : Next := .next s

/-- Index of a ring set. -/
def ringIx (p r : Nat) : Nat := 16 * p + r
/-- The ring set of ring `r` of partition `p` (03 R43). -/
def ringAt (s : State) (p r : Nat) : Ring := Tab.get Ring.reset s.rings (ringIx p r)
/-- Change a ring set. -/
def modRing (p r : Nat) (f : Ring → Ring) (s : State) : State :=
  { s with rings := Tab.modify Ring.reset s.rings (ringIx p r) f }
/-- The main-domain state of partition `p` (11 R310). -/
def partAt (s : State) (p : Nat) : Part := Tab.get Part.reset s.parts p
/-- Change it. -/
def modPart (p : Nat) (f : Part → Part) (s : State) : State := { s with parts := Tab.modify Part.reset s.parts p f }
/-- The vault record of partition `p` (11 R310). -/
def vaultAt (s : State) (p : Nat) : VaultPart := Tab.get VaultPart.absent s.vault.parts p
/-- Change it. -/
def modVault (p : Nat) (f : VaultPart → VaultPart) (s : State) : State :=
  { s with vault := { s.vault with parts := Tab.modify VaultPart.absent s.vault.parts p f } }
/-- The partition exists. -/
def existsPart (s : State) (p : Nat) : Bool := (vaultAt s p).exists_
/-- Node slot `i` (05 R113). -/
def nodeAt (s : State) (i : Nat) : Node := Tab.get Node.empty s.mas.nodes i
/-- Write a node slot. -/
def setNode (i : Nat) (n : Node) (s : State) : State :=
  { s with mas := { s.mas with nodes := Tab.set Node.empty s.mas.nodes i n } }
/-- The MSI-X vector `v` of partition `p`'s function. -/
def vectorAt (s : State) (p v : Nat) : Vector_ := Tab.get Vector_.reset s.msix (64 * p + v)

/-- PART_STATE.STATE (11 R309). -/
def partState (s : State) (p : Nat) : Nat :=
  if !existsPart s p then 0
  else if (partAt s p).destroying then 4
  else if (partAt s p).resetting.isSome then 2
  else if (vaultAt s p).frozen then 3
  else 1

/-- The partition's function issues no DMA (11 R308, 20 R539). -/
def dmaOff (s : State) (p : Nat) : Bool := !(partAt s p).bme || (partAt s p).d3hot

/-- The byte range lies within the partition's window (11 R317); an empty range always does. -/
def inWindow (c : PartCfg) (p addr len : Nat) : Bool :=
  if len = 0 then true
  else if p = 0 ∧ c.base = 0 ∧ c.size = 0 then decide (addr + len ≤ 2 ^ 64)
  else decide (c.base ≤ addr ∧ addr + len ≤ c.base + c.size)

/-! ## Time (02) -/

/-- The code of an NTB state (R30). -/
def NtbState.code : NtbState → Nat
  | .unset => 0 | .locked => 1 | .holdover => 2 | .free => 3

/-- T: the network time, whole ns. -/
def ntbNow (s : State) : Nat := s.time.ntb.toNat

/-- The stamp of R36: T with its two lowest bits replaced by the state. -/
def stamp (s : State) : W64 := (s.time.ntb &&& ~~~(3 : W64)) ||| BitVec.ofNat 64 s.time.state.code

/-- The accuracy of the selected source (R24), with the frame's error added under flag bit 1 (R29). -/
def srcAccuracy (t : TimeBlk) : Nat :=
  match t.src with
  | 0 => 50000
  | 1 => 100 + t.frameError
  | _ => 1000

/-- The size of the remaining offset of a slew, whole ns (rounded up). -/
def slewLeft (t : TimeBlk) : Nat :=
  match t.slew with
  | none => 0
  | some r => ceilDiv r.natAbs (2 ^ 32)

/-- TIME_ERR_BOUND (R24, R30, R31). -/
def errBound (s : State) : Nat :=
  let t := s.time
  let acc := srcAccuracy t
  match t.state with
  | .unset | .free => 0xFFFFFFFF
  | .locked => Nat.min 0xFFFFFFFF (acc + slewLeft t)
  | .holdover =>
    let drift := t.e0 + (t.mono - t.lostAt) / 1000000 / 2
    let back := match t.slew with
      | some r => if r < 0 then acc + slewLeft t else 0
      | none => 0
    Nat.min 0xFFFFFFFF (if t.lost then Nat.max drift back else back)

/-! ## What leaves the module -/

/-- Record an output at the boundary. -/
def emit (o : Output) (s : State) : State := { s with out := s.out ++ [o] }

/-- Send MSI-X vector `v` of partition `p`'s function, or record it pending when masked (03 R62). -/
def sendMsix (p v : Nat) (s : State) : State :=
  if (vectorAt s p v).mask then
    { s with msix := Tab.modify Vector_.reset s.msix (64 * p + v) fun x => { x with pend := true } }
  else emit (.msix p v) s

/-! ## Scree (16) -/

/-- Severity of an event code (R469 and the chapters' own tables). -/
def severityOf (code : Nat) : Nat :=
  if code < 0x20 then (if code = 2 ∨ code = 3 then 1 else 2)
  else if code < 0xE0 then (if code = 0x0C3 ∨ code = 0x0C5 then 2 else 1)
  else if code < 0x120 then (if code = 0x102 then 3 else if code = 0x104 ∨ code = 0x105 then 2 else 1)
  else if code < 0x160 then (if code = 0x141 then 2 else if code = 0x144 then 3 else 1)
  else if code < 0x180 then (if code = 0x162 then 2 else 1)
  else if code < 0x1A0 then (if code = 0x183 ∨ code = 0x184 then 1 else 3)
  else if code < 0x1C0 then
    (if code = 0x1A3 ∨ code = 0x1A6 then 1 else if code = 0x1A4 ∨ code = 0x1A5 then 2 else 3)
  else if code < 0x1E0 then (if code = 0x1C1 ∨ code = 0x1C5 then 1 else 3)
  else if code < 0x200 then (if code = 0x1EC then 2 else 1)
  else if code < 0x220 then 4
  else if code < 0x240 then (if code = 0x229 then 2 else 4)
  else if code < 0x260 then 4
  else if code < 0x280 then (if code = 0x264 then 3 else 2)
  else if code < 0x2A0 then (if code = 0x283 then 2 else 1)
  else if code < 0x2C0 then
    (if code = 0x2A3 ∨ code = 0x2A4 ∨ code = 0x2A5 ∨ code = 0x2B2 then 1
     else if code = 0x2A6 then 2 else if code = 0x2B1 then 4 else 3)
  else if code < 0x2E0 then (if code = 0x2C2 ∨ code = 0x2C3 then 2 else 1)
  else if code = 0x2E2 then 3
  else if code = 0x2E4 ∨ code = 0x2E5 then 2
  else 1

/-- Codes the rate limits do not hold for (R462). -/
def screeExempt (code : Nat) : Bool := decide ((1 ≤ code ∧ code ≤ 3) ∨ (0x221 ≤ code ∧ code ≤ 0x229))

/-- RATE as it acts (R474). -/
def rateOf (c : CodeState) : Nat := Nat.max 1 c.rate

/-- A payload of at most 244 bytes in whole words (R458; log entry 8). -/
def screeBytes (code : Nat) (fields : List Nat) : Bytes := padTo 4 ((Config.screePayload code fields).take 244)

/-- An item falls into a cluster's FIFO, or is dropped and counted when all 16 stages are full (R461). -/
def fifoPut (x : ScreeItem) (f : Fifo) : Fifo :=
  if f.items.length < 16 ∧ f.lost = 0 then { f with items := f.items ++ [x] }
  else { f with lost := satAdd 0xFFFFFFFF f.lost 1, firstLoss := if f.lost = 0 then x.stamp else f.firstLoss }

/-- Put an item into the FIFO of a cluster. -/
def screePut (cluster : Nat) (x : ScreeItem) (s : State) : State :=
  { s with scr := { s.scr with fifos := Tab.modify Fifo.empty s.scr.fifos cluster (fifoPut x) } }

/-- A source captures an event: it takes a token and enters its FIFO, or is suppressed (R462). -/
def scree (e : Ev) (s : State) : State :=
  let x : ScreeItem := { code := e.code, stamp := stamp s, cluster := e.cluster, payload := screeBytes e.code e.fields }
  if screeExempt e.code then screePut e.cluster x s
  else
    let c := Tab.get CodeState.reset s.scr.codes e.code
    if c.spent < rateOf c then
      let c' := { c with spent := c.spent + 1, refilled := if c.spent = 0 then s.time.mono else c.refilled }
      screePut e.cluster x { s with scr := { s.scr with codes := Tab.set CodeState.reset s.scr.codes e.code c' } }
    else
      let ep := match c.episode with
        | none => (s.time.mono, 1, stamp s, stamp s, e.cluster)
        | some (t0, n, a, _, cl) => (t0, satAdd 0xFFFFFFFF n 1, a, stamp s, cl)
      let c' := { c with suppressed := satAdd 0xFFFFFFFF c.suppressed 1, episode := some ep }
      { s with scr := { s.scr with codes := Tab.set CodeState.reset s.scr.codes e.code c' } }

/-- Record an event. -/
def note (code cluster : Nat) (fields : List Nat) (s : State) : State := scree { code := code, cluster := cluster, fields := fields } s

/-- Record several events in order. -/
def noteAll (es : List Ev) (s : State) : State := es.foldl (fun s e => scree e s) s

/-! ## Host memory (11 R308; 18 R495) -/

/-- A posted write of a partition's function; while its DMA is off, it waits (11 R308). -/
def putHost (p iova : Nat) (bs : Bytes) (s : State) : State :=
  if dmaOff s p then modPart p (fun x => { x with heldWrites := x.heldWrites ++ [(iova, bs)] }) s else emit (.hostWrite p iova bs) s

/-! ## The next free value (log entry 5) -/

/-- A free number below `n` (`n` positive), and the counter moved on. -/
def freeBelow (n : Nat) (s : State) : Nat × State := ((Config.freeWord s.freeCtr).toNat % n, { s with freeCtr := s.freeCtr + 1 })

/-- Free bytes. -/
def freeBytes (n : Nat) (s : State) : Bytes × State :=
  ((List.range n).map fun i => Config.freeByte (s.freeCtr + i), { s with freeCtr := s.freeCtr + n })

/-! ## Host rings of entries (16 R453, R454; 18 R500, R503) -/

/-- Append one entry of `bs` to a host ring of partition `p`: the ring after it, and whether its slot lay inside the window. -/
def ringAppend (c : PartCfg) (p : Nat) (h : HostRing) (bs : Bytes) : HostRing × Bool × Nat :=
  let slot := h.count.toNat % 2 ^ h.log2
  let addr := h.base.toNat + slot * bs.length
  let ok := inWindow c p addr bs.length
  ({ h with count := h.count + 1, skipped := h.skipped || !ok }, ok, addr)

/-- Whether a host ring may be enabled (16 R453): its size and its whole extent. -/
def hostRingOk (c : PartCfg) (p lo hi k base size : Nat) : Bool :=
  decide (lo ≤ k ∧ k ≤ hi) && inWindow c p base (2 ^ k * size)

/-! ## Counters (18) -/

/-- A counter's class mask passes an opcode class (R496). -/
def classPass (evt : W32) (cls : Nat) : Bool :=
  let m := bitsOf evt.toNat 27 18
  decide (m = 0) || (decide (1 ≤ cls) && m.testBit (cls - 1))

/-- The master filter (R496). -/
def masterPass (m : W32) (id : Nat) : Bool :=
  decide (Nat.land (Nat.xor id (bitsOf m.toNat 7 0)) (bitsOf m.toNat 15 8) = 0)

/-- What counts with an event: its class, its master, its world, its address. -/
structure Hit where
  /-- Event code of R495. -/
  code : Nat
  /-- How many. -/
  n : Nat
  /-- Opcode class. -/
  cls : Nat
  /-- Master ID (17 R491). -/
  master : Nat
  /-- World: 0 CUSTODIAN, 1 SERVICE, 2 PARTITION. -/
  world : Nat
  /-- Fabric address. -/
  addr : Nat
  /-- Stage of R499. -/
  stage : Nat
  /-- The job, where a Gecko thread caused it. -/
  job : Option Job
  deriving DecidableEq, Repr

/-- The filters that apply to an event (R495, R496). -/
def hitPass (c : Counter) (h : Hit) : Bool :=
  let e := c.evt.toNat
  decide (bitsOf e 7 0 = h.code) &&
  (if h.code = 0x01 ∨ h.code = 0x12 then true else classPass c.evt h.cls) &&
  (if h.code = 0x07 ∨ h.code = 0x08 ∨ h.code = 0x09 ∨ h.code = 0x12 ∨ h.code = 0x13 ∨ h.code = 0x14
    then masterPass c.master h.master else true) &&
  (if h.code = 0x07 ∨ h.code = 0x12 then (decide (bitsOf e 30 28 = 0) || (bitsOf e 30 28).testBit h.world) else true) &&
  (if h.code = 0x12 then
    (decide (c.hi.toNat ≤ c.lo.toNat) || decide (c.lo.toNat ≤ h.addr ∧ h.addr < c.hi.toNat)) else true)

/-- The sample record of R499, with a skid that the module leaves open up to 6. -/
def sampleBytes (s : State) (i skid : Nat) (h : Hit) : Bytes :=
  let jf : Bytes := match h.job with
    | none => [0, 0] ++ zeros 2 ++ zeros 2
    | some j => [BitVec.ofNat 8 j.part, BitVec.ofNat 8 (j.desc.opcode.toNat / 256)] ++ leBytes 2 j.desc.flow ++
        leBytes 2 j.desc.opcode.toNat
  let tail : Bytes := match h.job with
    | none => [0, 0] ++ zeros 12
    | some j => [BitVec.ofNat 8 h.stage, BitVec.ofNat 8 skid] ++ leBytes 4 j.slot ++ leBytes 8 j.seq
  leBytes 8 (stamp s).toNat ++ leBytes 2 i ++ [BitVec.ofNat 8 h.code, BitVec.ofNat 8 h.master] ++ jf ++ tail

/-- Write a sample, or drop it when the stage is occupied or the ring is off (R498, R500). -/
def pmcSample (i : Nat) (h : Hit) (s : State) : State :=
  let free := match s.pmc.lastSample with | none => true | some t => decide (t + 32 ≤ s.time.mono)
  if s.pmc.ring.en && free && s.pwr.quiesce != 3 then
    let (k, s) := match h.job with | none => (0, s) | some _ => freeBelow 7 s
    let bs := sampleBytes s i k h
    let (r, ok, addr) := ringAppend (partAt s 0).cfg 0 s.pmc.ring bs
    let s := { s with pmc := { s.pmc with ring := r, lastSample := some s.time.mono } }
    let s := if ok then putHost 0 addr bs s else s
    let due := match s.pmc.lastMsg with | none => true | some t => decide (10000 + t ≤ s.time.mono)
    if due then sendMsix 0 54 { s with pmc := { s.pmc with lastMsg := some s.time.mono } } else s
  else
    let s := { s with pmc := { s.pmc with lost := BitVec.ofNat 32 (satAdd 0xFFFFFFFF s.pmc.lost.toNat 1) } }
    note 0x2C2 32 [i, s.pmc.lost.toNat] s

/-- Count an event on one counter. -/
def pmcCount (h : Hit) (s : State) (i : Nat) : State :=
  let c := Tab.get Counter.reset s.pmc.counters i
  if hitPass c h then
    let v := c.value.toNat
    let per := Nat.max 1 c.period.toNat
    let s' := { s with pmc := { s.pmc with counters := Tab.set Counter.reset s.pmc.counters i { c with value := BitVec.ofNat 48 (v + h.n) } } }
    if c.evt.getLsbD 31 && decide (v / per < (v + h.n) / per) then pmcSample i h s' else s'
  else s

/-- Count an event on every counter that selects it (R494 to R496). -/
def pmc (h : Hit) (s : State) : State :=
  if s.pmc.en then (s.pmc.counters.map (·.1)).foldl (pmcCount h) s else s

/-- An event of a descriptor or job without a thread. -/
def pmcHit (code n cls : Nat) (s : State) : State :=
  pmc { code := code, n := n, cls := cls, master := 0, world := 1, addr := 0, stage := 0, job := none } s

/-- Master ID of the Gecko engine a job runs on, or the Ring engine. -/
def jobMaster (j : Job) : Nat := j.thread.getD 0x20

/-- An event of a job's Gecko thread. -/
def pmcJob (code n stage : Nat) (j : Job) (s : State) : State :=
  pmc { code := code, n := n, cls := j.desc.opcode.toNat / 256, master := jobMaster j, world := 2, addr := 0, stage := stage, job := some j } s

/-- Add to partition counter `i` (R501). -/
def partCount (p i : Nat) (s : State) : State :=
  modPart p (fun x => { x with cnt := Tab.modify (0 : W64) x.cnt i (· + 1) }) s

/-- A posted write of a partition's function, counted (18 R495 0x14). -/
def hostWrite (p iova : Nat) (bs : Bytes) (master cls : Nat) (s : State) : State :=
  if bs = [] then s else
  pmc { code := 0x14, n := bs.length, cls := cls, master := master, world := 1, addr := 0, stage := 6, job := none }
    (putHost p iova bs s)

/-- DMA is possible again: what waited is written. -/
def flushHeld (p : Nat) (s : State) : State :=
  if dmaOff s p then s else
  (partAt s p).heldWrites.foldl (fun s x => emit (.hostWrite p x.1 x.2) s) (modPart p (fun x => { x with heldWrites := [] }) s)

/-! ## Jobs (04) -/

/-- The admitted job of a sequence. -/
def findJob (s : State) (q : Nat) : Option Job := s.jobs.find? fun j => j.seq == q

/-- Change a job. -/
def modJob (q : Nat) (f : Job → Job) (s : State) : State := { s with jobs := s.jobs.map fun j => if j.seq = q then f j else j }

/-- Take a job out of the list of admitted jobs. -/
def dropJob (q : Nat) (s : State) : State := { s with jobs := s.jobs.filter fun j => j.seq != q }

/-- Opcode class: the high byte. -/
def Desc.opcls (d : Desc) : Nat := d.opcode.toNat / 256

/-- Its engine work has ended. -/
def Job.ended (j : Job) : Bool := j.phase == .ended || j.phase == .retired || j.phase == .lag

/-- The standby's copy of a forwarded job, until a failover makes it the module's own (15 R424, R436). -/
def Job.copied (j : Job) : Bool := j.fwd && !j.inherited

/-- It counts as admitted: its completion has not been written (03 R66). -/
def Job.live (j : Job) : Bool := j.phase != .lag

/-- The estimate e(c), s0 or s1 of an opcode (04 R81). -/
def estimate (op : W16) (item : Nat) : Nat := (Config.estimate op.toNat item).toNat

/-- The opcode uses engine class `c` (04 R570). -/
def usesClass (op : W16) (c : Nat) : Bool := decide (estimate op (c + 2) ≠ 0)

/-- Units a class has (04 R82). -/
def classUnits (c : Nat) : Nat :=
  match c with
  | 0 => 32 | 1 => 16 | 2 => 4 | 3 => 16 | 4 => 4 | _ => 8

/-- Segment maximum of a class, ns (04 R82). -/
def segMax (c : Nat) : Nat :=
  match c with
  | 0 => 1000 | 1 => 1000 | 2 => 2000 | 3 => 160000 | 4 => 40000 | _ => 20000

def geckoUp (s : State) (n : Nat) : Bool := Tab.get true s.eng.gecko n
def pinvAt (s : State) (n : Nat) : Engine := Tab.get Engine.idle s.eng.pinv n
def newtAt (s : State) (n : Nat) : Core := Tab.get Core.idle s.eng.newt n
def bigAt (s : State) (n : Nat) : BigCore := Tab.get BigCore.idle s.eng.big n
def latAt (s : State) (n : Nat) : Engine := Tab.get Engine.idle s.eng.lat n
def hashAt (s : State) (n : Nat) : Engine := Tab.get Engine.idle s.eng.hash n

def modPinv (n : Nat) (f : Engine → Engine) (s : State) : State :=
  { s with eng := { s.eng with pinv := Tab.modify Engine.idle s.eng.pinv n f } }
def modNewt (n : Nat) (f : Core → Core) (s : State) : State :=
  { s with eng := { s.eng with newt := Tab.modify Core.idle s.eng.newt n f } }
def modBig (n : Nat) (f : BigCore → BigCore) (s : State) : State :=
  { s with eng := { s.eng with big := Tab.modify BigCore.idle s.eng.big n f } }
def modLat (n : Nat) (f : Engine → Engine) (s : State) : State :=
  { s with eng := { s.eng with lat := Tab.modify Engine.idle s.eng.lat n f } }
def modHash (n : Nat) (f : Engine → Engine) (s : State) : State :=
  { s with eng := { s.eng with hash := Tab.modify Engine.idle s.eng.hash n f } }

/-- The partition a cluster is pinned to (08 R232). -/
def clusterPin (s : State) (c : Nat) : Option Nat := Tab.get none s.eng.colour c

/-- The clusters partition `p` may use (08 R232): its own when pinned, the unpinned ones otherwise. -/
def clustersOf (s : State) (p : Nat) : List Nat :=
  match (partAt s p).cfg.pin with
  | some c => [c]
  | none => (List.range 4).filter fun c => (clusterPin s c).isNone

/-- Units of class `c` in service for partition `p` (04 R82, R98; 08 R234). -/
def unitsUp (s : State) (p c : Nat) : Nat :=
  match c with
  | 0 => ((List.range 32).filter (geckoUp s)).length
  | 1 => ((List.range 16).filter fun n => (newtAt s n).up && (clustersOf s p).contains (n / 4)).length
  | 2 => ((List.range 4).filter fun n => (pinvAt s n).up).length
  | 3 => ((List.range 16).filter fun n => (bigAt s n).up).length
  | 4 => ((List.range 4).filter fun n => (latAt s n).up).length
  | _ => ((List.range 8).filter fun n => (hashAt s n).up).length

/-! ## Releasing units (08 R213, R216, R233; 09 R249) -/

/-- A window test takes a Newt core that no job holds (R236). -/
def newtWindowTake (n : Nat) (s : State) : State :=
  if s.eng.newtWin.state = 1 ∧ s.eng.newtWin.unit = n then
    let s := modNewt n (fun c => { c with owner := .window }) s
    { s with eng := { s.eng with newtWin := { s.eng.newtWin with state := 2, since := s.time.mono } } }
  else s

/-- A Newt core is zeroised and released: its cluster's assignment takes hold (R233), and a waiting window test takes it (R236). -/
def releaseNewt (n : Nat) (s : State) : State :=
  let pin := clusterPin s (n / 4)
  newtWindowTake n (modNewt n (fun c => { c with owner := .free, colour := pin }) s)

/-- Set one bank of a big-number core. -/
def BigCore.setBank (b : Bool) (v : Bank) (c : BigCore) : BigCore := if b then { c with bank1 := v } else { c with bank0 := v }
/-- One bank of a big-number core. -/
def BigCore.bank (b : Bool) (c : BigCore) : Bank := if b then c.bank1 else c.bank0

/-- A window test takes an Iguana unit that has come free (09 R276, R284). -/
def iguWindowTake (u : Nat) (s : State) : State :=
  if s.eng.iguWin.state = 1 ∧ s.eng.iguWin.unit = u then
    let take (e : Engine) : Engine := { e with owner := .window }
    let s := if u < 16 then modBig u (fun c => { c with window := true }) s
      else if u < 20 then modLat (u - 16) take s else modHash (u - 20) take s
    { s with eng := { s.eng with iguWin := { s.eng.iguWin with state := 2, since := s.time.mono } } }
  else s

/-- Release the unit a job holds. -/
def releaseUnit (u : UnitRef) (s : State) : State :=
  match u with
  | .newt n => releaseNewt n s
  | .pinv n => modPinv n (fun e => { e with owner := .free }) s
  | .iguana n b => modBig n (BigCore.setBank b .zeroising) s
  | .lattice n => iguWindowTake (16 + n) (modLat n (fun e => { e with owner := .free }) s)
  | .hash n => iguWindowTake (20 + n) (modHash n (fun e => { e with owner := .free }) s)

/-- Release what job `j` holds. -/
def releaseHeld (j : Job) (s : State) : State :=
  match j.unit with
  | none => s
  | some u => modJob j.seq (fun x => { x with unit := none, parked := false }) (releaseUnit u s)

/-- A PART_FREEZE that ends while it waits leaves its partition unfrozen (11 R323). -/
def unfreeze (j : Job) (s : State) : State :=
  if j.desc.opcode = 0x0104 ∧ j.phase = .waiting then
    modPart (byteAt j.desc.params 0).toNat (fun x => { x with freezing := false }) s
  else s

/-- A command past the point where anything stops it: a PART_DESTROY that waits (11 R321), an LC_TRANSITION or DEBUG_CERT_ACCEPT whose
erase is read back (14 R396, R403; log entry 65). -/
def Job.pastStop (j : Job) : Bool :=
  j.phase == .waiting && (j.desc.opcode == 0x0102 || j.desc.opcode == 0x010E || j.desc.opcode == 0x0110)

/-- End a job whose work has not ended: its unit is released and its output discarded; a change it committed keeps its status
(11 R322, 13 R372). -/
def endJob (q : Nat) (st : W16) (e : Ending) (s : State) : State :=
  match findJob s q with
  | none => s
  | some j =>
    if j.ended then s else
    let s := unfreeze j s
    modJob q (fun x => { x with
      phase := .ended, ending := e, status := if x.committed then x.status else st, output := [],
      commits := if x.committed then x.commits else [], reads := [], cancel := false, doom := none }) (releaseHeld j s)

/-- End several jobs. -/
def endJobs (qs : List Nat) (st : W16) (e : Ending) (s : State) : State := qs.foldl (fun s q => endJob q st e s) s

/-! ## The class an opcode's command needs a unit of -/

/-- Classes 3 and 4 of an algorithm code of 09 R251: lattice parameter sets run on class 4. -/
def algClass (alg : Nat) : Nat := if 0x30 ≤ alg ∧ alg < 0x50 then 4 else 3

/-- The engine class whose unit a command holds while it runs (06 R150, 08 R211, 09 R250); the others hold a thread only
(log entry 12). -/
def primaryClass (d : Desc) : Option Nat :=
  let p0 := (byteAt d.params 0).toNat
  match d.opcode.toNat with
  | 0x0201 | 0x0202 | 0x0203 | 0x0204 | 0x0209 | 0x0406 | 0x0407 => some 1
  | 0x0301 | 0x0302 | 0x0303 | 0x0304 | 0x0305 | 0x0306 | 0x0307 | 0x0405 => some 2
  | 0x0401 | 0x0402 | 0x0403 | 0x0404 | 0x0501 | 0x0502 | 0x0503 | 0x0504 | 0x0505 => some 1
  | 0x0601 | 0x0602 | 0x0603 | 0x0604 | 0x0605 | 0x0606 => some 1
  | 0x020F => some 3
  | 0x0701 | 0x0702 => some (if p0 = 0x05 then 4 else 3)
  | 0x0703 => some (algClass p0)
  | 0x0705 | 0x0706 => some 4
  | 0x0704 | 0x0707 | 0x0708 | 0x0709 => some 3
  | 0x0901 | 0x0902 => some 5
  | _ => none

/-! ## Domains and start faults (19) -/

/-- Power domain `d` is on (19 R510). -/
def domainOn (s : State) (d : Nat) : Bool := s.pwr.domains.getLsbD d

/-- The domain of a unit (19 R510). -/
def unitDomain : TestUnit → Nat
  | .gecko n => 13 + n.val / 8
  | .pinv n => 17 + n.val
  | .newt n => 21 + n.val
  | .igu n => if n.val < 16 then 37 + n.val else if n.val < 20 then 37 + n.val else 57 + (n.val - 20) / 4

/-- A start under way stops with a fault code (19 R518, R519): event 0x2E2 names the Tarn source. -/
def startStop (code src : Nat) (s : State) : State :=
  if s.pwr.perst || s.pwr.ready || s.pwr.fault != 0 then s
  else note 0x2E2 33 [code, s.pwr.phase, src] { s with pwr := { s.pwr with fault := code } }

/-! ## Tarn and SUSPEND (17, 13 R372) -/

/-- A source's entry. -/
def srcAt (s : State) (n : Nat) : TarnSrc := Tab.get TarnSrc.clear s.tarn.srcs n
/-- Change it. -/
def modSrc (n : Nat) (f : TarnSrc → TarnSrc) (s : State) : State :=
  { s with tarn := { s.tarn with srcs := Tab.modify TarnSrc.clear s.tarn.srcs n f } }

/-- Configured severity of a source (17 R490). -/
def sevOf (s : State) (n : Nat) : Nat :=
  if n < 32 then bitsOf s.tarn.sev0.toNat (2 * n + 1) (2 * n) else bitsOf s.tarn.sev1.toNat (2 * (n - 32) + 1) (2 * (n - 32))

/-- The source accepts DEGRADE, and so takes units out of service (17 R475). -/
def srcDegrades (n : Nat) : Bool := decide ((5 ≤ n ∧ n ≤ 8) ∨ (19 ≤ n ∧ n ≤ 29))

/-- A source whose cause can persist (17 R475 kind C). -/
def srcKindC (n : Nat) : Bool := n == 2 || n == 31 || n == 43 || n == 44 || n == 57

/-- Severities a source accepts (17 R475). -/
def sevPermitted (n v : Nat) : Bool :=
  if srcDegrades n then true
  else if n = 37 ∨ n = 56 ∨ n = 58 then v == 3
  else if n = 2 ∨ n = 18 ∨ n = 30 ∨ (33 ≤ n ∧ n ≤ 36) ∨ n = 40 ∨ n = 44 ∨ n = 47 then v != 2
  else v == 1 || v == 3

/-- Some bit is at effective FATAL. -/
def tarnFatal (s : State) : Bool := s.tarn.srcs.any fun x => x.2.set && x.2.eff == 3

/-- The module is SUSPENDED: a tamper SUSPEND or a Tarn FATAL holds (13 R373, 17 R481). -/
def suspended (s : State) : Bool := s.tmp.suspended || tarnFatal s

/-- Opcode classes that SUSPEND stops (13 R372). -/
def suspendClass (d : Desc) : Bool := decide (2 ≤ d.opcls ∧ d.opcls ≤ 9)

/-- SUSPEND's effect on admitted jobs: those not dispatched end now; dispatched ones at their next yield point or end (13 R372). -/
def suspendJobs (s : State) : State :=
  let s := endJobs ((s.jobs.filter fun j => suspendClass j.desc && !j.ran && !j.ended && !j.copied).map (·.seq)) stSuspended .reset s
  { s with jobs := s.jobs.map fun j =>
      if suspendClass j.desc && j.phase != .retired && j.phase != .lag && !j.copied && j.doom.isNone then { j with doom := some stSuspended } else j }

/-- PAIR_ACT_OUT is driven low: the module is no longer effective active (15 R414, R416). -/
def releaseActive (s : State) : State :=
  { s with pair := { s.pair with actOut := false, effective := false, role := if s.pair.role = 1 then 2 else s.pair.role } }

/-- A pair member gives up the active role under SUSPEND; an unpaired module keeps it (13 R372, 17 R477; log entry 59). -/
def giveUpRole (s : State) : State := if s.pair.paired then releaseActive s else s

/-- The number of a unit within its block, and the Tarn source that reports it (17 R475). -/
def unitSrc : TestUnit → Nat
  | .gecko n => 5 + n.val / 8
  | .pinv _ => 19
  | .newt n => 20 + n.val / 4
  | .igu n => if n.val < 16 then 24 + n.val / 4 else if n.val < 20 then 28 else 29

/-- TARN_DETAIL.UNIT of a unit (log entry 13). -/
def unitNo : TestUnit → Nat
  | .gecko n => n.val
  | .pinv n => n.val
  | .newt n => n.val
  | .igu n => if n.val < 16 then n.val else if n.val < 20 then n.val - 16 else n.val - 20

/-- The unit a source and its UNIT detail name. -/
def srcUnit (n unit : Nat) : Option TestUnit :=
  let u : Option TestUnit :=
    if 5 ≤ n ∧ n ≤ 8 then (if h : unit < 32 then some (.gecko ⟨unit, h⟩) else none)
    else if n = 19 then (if h : unit < 4 then some (.pinv ⟨unit, h⟩) else none)
    else if 20 ≤ n ∧ n ≤ 23 then (if h : unit < 16 then some (.newt ⟨unit, h⟩) else none)
    else if 24 ≤ n ∧ n ≤ 27 then (if h : unit < 16 then some (.igu ⟨unit, by omega⟩) else none)
    else if n = 28 then (if h : unit < 4 then some (.igu ⟨16 + unit, by omega⟩) else none)
    else if n = 29 then (if h : unit < 8 then some (.igu ⟨20 + unit, by omega⟩) else none)
    else none
  match u with
  | some t => if unitSrc t = n then some t else none
  | none => none

/-- The unit is in service. -/
def unitUp (s : State) : TestUnit → Bool
  | .gecko n => geckoUp s n.val
  | .pinv n => (pinvAt s n.val).up
  | .newt n => (newtAt s n.val).up
  | .igu n => if n.val < 16 then (bigAt s n.val).up else if n.val < 20 then (latAt s (n.val - 16)).up else (hashAt s (n.val - 20)).up

/-- Put a unit in or out of service. -/
def setUp (u : TestUnit) (v : Bool) (s : State) : State :=
  match u with
  | .gecko n => { s with eng := { s.eng with gecko := Tab.set true s.eng.gecko n.val v } }
  | .pinv n => modPinv n.val (fun e => { e with up := v, owner := .free }) s
  | .newt n => modNewt n.val (fun c => { c with up := v, owner := .free, colour := clusterPin s (n.val / 4) }) s
  | .igu n =>
    if n.val < 16 then modBig n.val (fun c => { c with up := v, bank0 := .free, bank1 := .free, window := false }) s
    else if n.val < 20 then modLat (n.val - 16) (fun e => { e with up := v, owner := .free }) s
    else modHash (n.val - 20) (fun e => { e with up := v, owner := .free }) s

/-- Engine class of a unit (04 R82). -/
def unitCls : TestUnit → Nat
  | .gecko _ => 0
  | .pinv _ => 2
  | .newt _ => 1
  | .igu n => if n.val < 16 then 3 else if n.val < 20 then 4 else 5

/-- The job holds the unit (a Gecko engine is held by the jobs on its threads). -/
def Job.holds (u : TestUnit) (j : Job) : Bool :=
  match u with
  | .gecko n => j.thread == some n.val && !j.ended
  | .pinv n => j.unit == some (.pinv n.val)
  | .newt n => j.unit == some (.newt n.val)
  | .igu n =>
    if n.val < 16 then j.unit == some (.iguana n.val false) || j.unit == some (.iguana n.val true)
    else if n.val < 20 then j.unit == some (.lattice (n.val - 16)) else j.unit == some (.hash (n.val - 20))

/-- Requests that wait for a class with no unit in service end with ST_ENGINE_FAULT (04 R570); a pinned cluster left empty
records event 0x184 (08 R235). -/
def emptyClass (c : Nat) (s : State) : State :=
  let dead := s.jobs.filter fun j => j.phase == .queued && primaryClass j.desc == some c && unitsUp s j.part c == 0
  endJobs (dead.map (·.seq)) stEngineFault .yielded s

/-- Take a unit out of service: the jobs it holds end with ST_ENGINE_FAULT wherever each stands (17 R477). -/
def takeOut (u : TestUnit) (s : State) : State :=
  let held := (s.jobs.filter (Job.holds u)).map (·.seq)
  let s := endJobs held stEngineFault .yielded s
  let was := unitUp s u
  let s := setUp u false s
  let s := emptyClass (unitCls u) s
  match u with
  | .igu n => iguWindowTake n.val s
  | .newt n =>
    let s := newtWindowTake n.val s
    let c := n.val / 4
    match clusterPin s c with
    | some p => if was && unitsUp s p 1 == 0 then note 0x184 (6 + c) [c, p, p, 2] s else s
    | none => s
  | _ => s

/-- The effects of an effective severity as it is reached (17 R477). -/
def severityEffects (n unit lvl : Nat) (degrade : Bool) (s : State) : State :=
  let s := if 2 ≤ lvl && degrade then (match srcUnit n unit with | some u => takeOut u s | none => s) else s
  if lvl = 3 then
    let s := suspendJobs s
    let s := { s with tarn := { s.tarn with errPair := s.tarn.errPair.map fun _ => (false, true) } }
    giveUpRole s
  else s

/-- An error line latches its source (17 R477, R478). -/
def tarnRaise (n kind unit : Nat) (info : W32) (injected : Bool) (s : State) : State :=
  let x := srcAt s n
  if x.set then
    let s := modSrc n (fun x => { x with count := satAdd 0xFFFF x.count 1 }) s
    if 2 ≤ x.eff && !injected then (match srcUnit n unit with | some u => takeOut u s | none => s) else s
  else
    let lvl := sevOf s n
    let s := modSrc n (fun _ => {
      set := true, eff := lvl, count := 1, kind := kind, unit := unit, info := info,
      timer := if lvl = 1 ∨ lvl = 2 then some s.time.mono else none, injected := injected }) s
    if lvl = 0 then s else
    let s := sendMsix 0 48 s
    let s := note 0x2A1 23 [n, lvl, kind, unit, info.toNat] s
    severityEffects n unit lvl (!injected) s

/-- An error line whose syndrome no rule gives: INFO is a free value (R490; log entry 5). -/
def tarnOpen (n kind unit : Nat) (injected : Bool) (s : State) : State :=
  tarnRaise n kind unit (Config.freeWord s.freeCtr) injected { s with freeCtr := s.freeCtr + 1 }

/-! ## Life-cycle state (14 R390 to R393) -/

/-- Patterns of the stage words (R392). -/
def stagePattern (i : Nat) : Nat :=
  match i with
  | 0 => 0x5A5AA5A5 | 1 => 0x3C3CC3C3 | 2 => 0x69699696 | 3 => 0x0FF0F00F | 4 => 0x33CCCC33 | _ => 0

/-- A stage word. -/
def stageAt (s : State) (i : Nat) : Nat := (Tab.get (0 : W32) s.nv.stage i).toNat

/-- A stage word reads zero or its own pattern. -/
def wordOk (s : State) (i : Nat) : Bool := stageAt s i == 0 || stageAt s i == stagePattern i

/-- The life-cycle state code (R390, R393). A module scrapped out of INVALID is SCRAPPED once word 4 reads its pattern, whatever the partly
written word reads (the worked example of 14; log entry 64). -/
def lcCode (s : State) : Nat :=
  if s.nv.scrapped && stageAt s 4 == stagePattern 4 then 5
  else if !((List.range 8).all (wordOk s)) then 0xFF
  else (List.range 5).foldl (fun a i => if stageAt s i ≠ 0 then i + 1 else a) 0

/-! ## Access errors of the physical function (21 R552, R564) -/

/-- Set a bit of SYS_ACC_ERR: 0 SIZE, 1 UNMAPPED, 2 LOCKED. SYS_ACC_ADDR takes the offset of the first. -/
def accError (bit off : Nat) (s : State) : State :=
  { s with sys := { s.sys with
    accErr := s.sys.accErr ||| BitVec.ofNat 3 (2 ^ bit)
    accAddr := if s.sys.accErr = 0 then BitVec.ofNat 24 off else s.sys.accAddr } }

/-- A start that has stopped ignores writes outside PWR, LC, TMP, TARN and SCR (19 R519), and a SCRAPPED module every write (14 R399). -/
def served (s : State) (n : Next) : Next := if s.pwr.fault = 0 ∧ lcCode s ≠ 5 then n else done s

/-- The blocks that a stopped start still serves: a SCRAPPED module alone ignores the write (14 R399). -/
def openTo (s : State) (n : Next) : Next := if lcCode s = 5 then done s else n

/-- Key of a register of a function. -/
def regKey (p off : Nat) : Nat := 2 ^ 24 * p + off

/-- The staging word of a 64-bit register, whose value is `cur` (21 R558). -/
def stagedLow (s : State) (p off cur : Nat) : Nat :=
  match Tab.get none s.sys.stage (regKey p off) with
  | some w => w.toNat
  | none => cur % 2 ^ 32

/-- Fill or reload a staging word. -/
def setStage (p off : Nat) (w : Option W32) (s : State) : State :=
  { s with sys := { s.sys with stage := Tab.set none s.sys.stage (regKey p off) w } }

/-- The value an upper-word write commits. -/
def commitValue (s : State) (p off cur : Nat) (upper : W32) : Nat := 2 ^ 32 * upper.toNat + stagedLow s p off cur

/-! ## Deadlines passed before dispatch (04 R85 to R87) -/

/-- The start of a deadline's calendar bucket. -/
def bucketOf (d : Nat) : Nat := d / 256 * 256

/-- A class-0 job in a ready list whose bucket the cursor has left. -/
def Job.left (b : Nat) (j : Job) : Bool :=
  j.phase == .ready && j.desc.cls == 0 && !j.overdue && decide (bucketOf j.desc.deadline < b)

/-- The deadline policy as the cursor leaves buckets: DROP ends the job with ST_DEADLINE_MISSED, RUN_LATE moves it to the
overdue list (R87). -/
def leaveBuckets (s : State) : State :=
  let b := s.cirq.cursor
  let late := s.jobs.filter (Job.left b)
  let drop := (late.filter fun j => !(partAt s j.part).cfg.runLate).map (·.seq)
  let lateJob (j : Job) : Job :=
    if Job.left b j && (partAt s j.part).cfg.runLate then { j with overdue := true, far := false } else j
  let s := { s with jobs := s.jobs.map lateJob }
  endJobs drop stDeadlineMissed .dropped s

/-- The cursor moves to the bucket that holds NTB, sweeping every bucket it passes (R86). -/
def moveCursor (s : State) : State :=
  leaveBuckets { s with cirq := { s.cirq with cursor := bucketOf (ntbNow s) } }

/-! ## Partition errors (11 R318, R337) -/

/-- Raise the interrupt of a partition's error flags: VF vector 7 and PF vector 56 for partitions 1 to 255. -/
def partErrMsix (p : Nat) (s : State) : State := if p = 0 then s else sendMsix 0 56 (sendMsix p 7 s)

/-- A failed check or read of 11 R317: the flag, and the address and detail when both flags were clear. -/
def partError (p : Nat) (read : Bool) (addr kind ring : Nat) (op : W16) (s : State) : State :=
  let x := partAt s p
  let first := if read then !x.errReadFail else !x.errAccess
  let both := !x.errReadFail && !x.errAccess
  let info := BitVec.ofNat 32 (op.toNat * 2 ^ 16 + kind * 2 ^ 8 + ring)
  let s := modPart p (fun x => { x with
    errReadFail := x.errReadFail || read, errAccess := x.errAccess || !read,
    errAddr := if both then BitVec.ofNat 64 addr else x.errAddr, errInfo := if both then info else x.errInfo }) s
  let s := partErrMsix p s
  if first then note 0x1EC 17 [p, kind, ring, addr] s else s

/-- A ring is disabled with FETCH_ERR (03 R51). -/
def fetchError (p r : Nat) (s : State) : State :=
  let s := modRing p r (fun g => { g with en := false, fetchErr := true }) s
  partErrMsix p (modPart p (fun x => { x with errRing := true }) s)

/-! ## The journal (16) -/

/-- The 32 bytes of a journal entry (R448). -/
def entryBytes (e : Entry) : Bytes :=
  leBytes 8 e.seq ++ leBytes 8 e.stamp.toNat ++ [BitVec.ofNat 8 e.part, BitVec.ofNat 8 e.ring] ++ leBytes 4 e.index ++
  leBytes 2 e.opcode.toNat ++ leBytes 2 e.status.toNat ++ fit 6 e.digest

/-- Stream an entry to the host journal ring of `q` (R453, R454): not while `q` is being reset (11 R320 step 2). -/
def streamTo (q : Nat) (e : Entry) (s : State) : State :=
  let x := partAt s q
  if x.jrn.en && !x.resetting.isSome && !x.destroying then
    let (h, ok, addr) := ringAppend x.cfg q x.jrn (entryBytes e)
    let s := modPart q (fun x => { x with jrn := h }) s
    let s := if ok then hostWrite q addr (entryBytes e) 0x20 0 s
      else note 0x283 22 [q, x.jrn.count.toNat % 2 ^ x.jrn.log2, e.seq] s
    if q = 0 ∧ h.count.toNat / 2 ^ (h.log2 - 2) ≠ x.jrn.count.toNat / 2 ^ (h.log2 - 2) then sendMsix 0 52 s else s
  else s

/-- Stream an entry to its partition's ring and to partition 0's under ALL: only the effective active module writes (R455). -/
def stream (e : Entry) (noJournal : Bool) (s : State) : State :=
  if noJournal || !s.pair.effective then s
  else
    let s := streamTo e.part e s
    if e.part ≠ 0 && (partAt s 0).jrnAll then streamTo 0 e s else s

/-- The entries still held: those of the last 65,536 sequences, and those of jobs not retired (R450). -/
def jrnPrune (next : Nat) (es : List Entry) : List Entry := es.filter fun e => decide (next ≤ 65536 + e.seq) || e.status == stRunning

/-- Write an entry. -/
def jrnAdd (e : Entry) (noJournal : Bool) (s : State) : State :=
  stream e noJournal { s with jrn := { s.jrn with entries := jrnPrune s.jrn.next (s.jrn.entries ++ [e]) } }

/-- Update an entry in place with the final status, and stream it (R449, R454). -/
def jrnFinal (q : Nat) (st : W16) (noJournal : Bool) (s : State) : State :=
  let s := { s with jrn := { s.jrn with entries := s.jrn.entries.map fun e => if e.seq = q then { e with status := st } else e } }
  match s.jrn.entries.find? (fun e => e.seq == q) with
  | none => s
  | some e => stream e noJournal s

/-! ## Frames of the Ulistade link (15 R419 to R421) -/

/-- Pad a payload to whole 8-byte words. -/
def framePayload (bs : Bytes) : Bytes := padTo 8 bs

/-- Bytes 2 to 15 of a frame: the AAD. -/
def frameHead (type pos ack seq : Nat) : Bytes := [BitVec.ofNat 8 type, BitVec.ofNat 8 pos] ++ leBytes 4 ack ++ leBytes 8 seq

/-- The IV of a frame: 4 zero bytes, then the link sequence big-endian. -/
def frameIv (seq : Nat) : Bytes := zeros 4 ++ beBytes 8 seq

/-- The key of a direction: `b` names the sending position. -/
def frameKey (keys : Option (Bytes × Bytes)) (b : Bool) : Bytes :=
  match keys with
  | none => []
  | some (ab, ba) => if b then ba else ab

/-- A whole frame: handshake frames (types 1 to 4) in clear with a zero tag, the others sealed (R418, R419). -/
def frameBytes (keys : Option (Bytes × Bytes)) (posB : Bool) (type ack seq : Nat) (payload : Bytes) : Bytes :=
  let pl := framePayload payload
  let hd := frameHead type (b2n posB) (ack % 2 ^ 32) seq
  let body := if type ≤ 4 then pl ++ zeros 16 else
    let r := gcmSeal (frameKey keys posB) (frameIv seq) hd pl
    r.1 ++ r.2
  leBytes 2 ((16 + body.length) / 8) ++ hd ++ body

/-- Bytes held in the replay buffer. -/
def replaySize (p : Pair) : Nat := (p.replay.map fun x => x.2.length).sum

/-- Send a frame, or let it wait while the replay buffer is full (R421). A session outlasts a retrain: what is sent then is resent
(R417). -/
def sendFrame (type : Nat) (payload : Bytes) (s : State) : State :=
  if (if type ≤ 4 then !s.pair.trained else !s.pair.session) then s
  else
    let f := frameBytes s.pair.keys s.pair.posB type s.pair.rxSeq s.pair.txSeq payload
    if 262144 < replaySize s.pair + f.length ∨ s.pair.backlog ≠ [] then
      { s with pair := { s.pair with backlog := s.pair.backlog ++ [(type, payload)] } }
    else
      let out (s : State) : State := if s.pair.trained then emit (.frame f) s else s
      out { s with pair := { s.pair with
        txSeq := s.pair.txSeq + 1, replay := s.pair.replay ++ [(s.pair.txSeq, f)],
        ackAt := if s.pair.replay = [] then s.time.mono else s.pair.ackAt } }

/-- The module is the active of a pair in step, or of one that catches up: it forwards the jobs after the cut (15 R423, R440). One that
gave up the role under SUSPEND still forwards the ends of its jobs (15 R438). -/
def forwardsJob (s : State) (q : Nat) : Bool :=
  s.pair.role != 0 && (s.pair.state == .inStep || s.pair.state == .catchingUp) &&
  (match s.pair.cut with | some c => decide (c < q) | none => s.pair.state == .inStep)

/-- The active streams snapshots: commits are sent as COMMIT frames as they happen (15 R440 step 3). -/
def streaming (s : State) : Bool := s.pair.role == 1 && (s.pair.state == .joining || s.pair.state == .catchingUp)

/-- Send a frame about job `q` while it is forwarded. -/
def forward (q type : Nat) (payload : Bytes) (s : State) : State := if forwardsJob s q then sendFrame type payload s else s

end Sys2Proof.Machine
end

