-- ==== Sys2Proof/Machine/Operands.lean ====
section
/-!
DEFINITION. Operand forms: the descriptor (03 R55, R70), key handles (R56), hash codes (09 R256), attributes and engine masks
(05 R118 to R121), node bytes (R113) and X9.143 version D key blocks with the Zalilys block (R129, R130).
-/
namespace Sys2Proof.Machine

/-! ## Descriptors -/

/-- Parameter byte `i` of a descriptor, 56 to 63. -/
def Desc.par (d : Desc) (i : Nat) : Nat := (byteAt d.params (i - 56)).toNat

/-- A version-2 descriptor's fields (03 R55). -/
def descV2 (b : Bytes) : Desc :=
  let f := (byteAt b 2).toNat
  { opcode := BitVec.ofNat 16 (leField b 0 2), fence := bitOf f 0, inlined := bitOf f 1, irq := bitOf f 2, noJournal := bitOf f 3,
    version := byteAt b 3, flow := leField b 4 2, cls := (byteAt b 6).toNat, deadline := leField b 8 8,
    keyA := BitVec.ofNat 32 (leField b 16 4), keyB := BitVec.ofNat 32 (leField b 20 4), inIova := leField b 24 8,
    inLen := leField b 32 4, outCap := leField b 36 4, outIova := leField b 40 8, tag := BitVec.ofNat 64 (leField b 48 8),
    params := slice b 56 8 }

/-- A version-1 descriptor mapped to native fields, admitted at network time `now` (03 R70, R71). -/
def descV1 (now : Nat) (b : Bytes) : Desc :=
  let f := (byteAt b 2).toNat
  let tmo := leField b 12 4
  { opcode := BitVec.ofNat 16 (leField b 0 2), fence := bitOf f 0, inlined := false, irq := bitOf f 2, noJournal := false,
    version := byteAt b 3, flow := 0, cls := if tmo = 0 then 1 else 0, deadline := if tmo = 0 then 0 else now + 1000 * tmo,
    keyA := BitVec.ofNat 32 (leField b 4 4), keyB := BitVec.ofNat 32 (leField b 8 4), inIova := leField b 16 8,
    inLen := leField b 24 4, outCap := leField b 28 4, outIova := leField b 32 8, tag := BitVec.ofNat 64 (leField b 48 8),
    params := slice b 40 8 }

/-- The fields of a descriptor as read. -/
def descOf (now : Nat) (b : Bytes) : Desc := if byteAt b 3 = 1 then descV1 now b else descV2 b

/-- The reserved bits and bytes of a descriptor are zero (00 R9, 03 R55, R70). -/
def descReserved (b : Bytes) : Bool :=
  if byteAt b 3 = 1 then
    decide ((byteAt b 2).toNat % 2 ^ 1 + (byteAt b 2).toNat / 4 % 2 * 4 = (byteAt b 2).toNat) && zeroAt b 56 64
  else decide ((byteAt b 2).toNat < 16) && byteAt b 7 == 0

/-! ## Key handles (03 R56) -/

/-- Type of a handle. -/
def hType (h : W32) : Nat := bitsOf h.toNat 31 30
/-- Node index of a type-00 handle. -/
def hNode (h : W32) : Nat := bitsOf h.toNat 29 13
/-- Generation of a type-00 handle. -/
def hGen (h : W32) : Nat := bitsOf h.toNat 12 0
/-- Index of a type-01 or type-10 handle. -/
def hIndex (h : W32) : Nat := bitsOf h.toNat 23 0
/-- The handle of a node. -/
def nodeHandle (index gen : Nat) : W32 := BitVec.ofNat 32 (2 ^ 13 * index + gen)

/-! ## Hash codes (09 R256) -/

/-- The digest of a hash code; empty for a code with no fixed digest. -/
def digest (code : Nat) (m : Bytes) : Bytes :=
  match code with
  | 0x02 => beBytes 32 (Config.sha256 m).toNat
  | 0x03 => beBytes 48 (Config.sha384 m).toNat
  | 0x04 => beBytes 64 (Config.sha512 m).toNat
  | 0x05 => beBytes 32 (Config.sha512t m).toNat
  | 0x08 => beBytes 32 (Config.sha3t256 m).toNat
  | 0x09 => beBytes 48 (Config.sha3t384 m).toNat
  | 0x0A => beBytes 64 (Config.sha3t512 m).toNat
  | _ => []

/-- Digest length of a hash code. -/
def digestLen (code : Nat) : Nat :=
  match code with
  | 0x02 => 32 | 0x03 => 48 | 0x04 => 64 | 0x05 => 32 | 0x08 => 32 | 0x09 => 48 | 0x0A => 64
  | _ => 0

/-- Input block length of a hash (the HMAC pad length). -/
def hashBlock (code : Nat) : Nat :=
  match code with
  | 0x02 => 64 | 0x03 => 128 | 0x04 => 128 | 0x05 => 128 | 0x08 => 136 | 0x09 => 104 | _ => 72

/-- HMAC under a hash code. -/
def hmac (code : Nat) (key m : Bytes) : Bytes :=
  let k := fit (hashBlock code) (if hashBlock code < key.length then digest code key else key)
  digest code (k.map (· ^^^ 0x5C) ++ digest code (k.map (· ^^^ 0x36) ++ m))

/-! ## The KDF of 05 R108 -/

/-- SP 800-108 counter mode with AES CMAC: `bits` of output. -/
def kdf (key label ctx : Bytes) (bits : Nat) : Bytes :=
  (((List.range (ceilDiv bits 128)).map fun i =>
    cmac false key (beBytes 4 (i + 1) ++ label ++ [0] ++ ctx ++ beBytes 4 bits)).flatten).take (ceilDiv bits 8)

/-- The blob protection key of a partition (05 R108). -/
def kbpkOf (master : Bytes) (p gen : Nat) : Bytes := kdf master (ascii "ZBLOB") (BitVec.ofNat 8 p :: beBytes 2 gen) 256

/-! ## Attributes (05 R118 to R121) -/

/-- Two ASCII characters as a word, the first high. -/
def chars2 (a b : Char) : W16 := BitVec.ofNat 16 (a.toNat * 256 + b.toNat)
/-- One ASCII character. -/
def chr (a : Char) : Byte := BitVec.ofNat 8 a.toNat

/-- Engine mask bits (R121). -/
def mNewt : Nat := 1
def mIguana : Nat := 2
def mPinv : Nat := 4
def mFf1 : Nat := 8
def mKdf : Nat := 16
def mWrap : Nat := 32
def mExport : Nat := 64

/-- A row of R118: usage, algorithms, default engine mask. -/
structure UsageRow where
  /-- Usage. -/
  usage : W16
  /-- Algorithms it is given with. -/
  algs : Bytes
  /-- Default engine mask. -/
  mask : Nat
  deriving DecidableEq, Repr

/-- The usages of R118. -/
def usageRows : List UsageRow :=
  let at_ : Bytes := [chr 'A', chr 'T']
  [ ⟨chars2 'B' '0', at_, mKdf⟩, ⟨chars2 'B' '1', at_, mKdf⟩, ⟨chars2 'C' '0', at_, mNewt⟩, ⟨chars2 'D' '0', at_, mNewt⟩,
    ⟨chars2 'D' '1', [chr 'R', chr '9'], mIguana⟩, ⟨chars2 'D' '2', at_, mPinv⟩, ⟨chars2 'E' '0', at_, mKdf⟩,
    ⟨chars2 'E' '1', at_, mKdf⟩, ⟨chars2 'E' '2', at_, mKdf⟩, ⟨chars2 'K' '0', at_, mWrap⟩, ⟨chars2 'K' '1', [chr 'A'], mWrap⟩,
    ⟨chars2 'K' '2', [chr 'R'], mIguana + mWrap⟩, ⟨chars2 'K' '3', [chr 'E'], mIguana⟩ ] ++
  [ ⟨chars2 'M' '1', [chr 'T'], mNewt⟩, ⟨chars2 'M' '3', [chr 'T'], mNewt⟩, ⟨chars2 'M' '6', at_, mNewt⟩,
    ⟨chars2 'M' '7', [chr 'H'], mIguana⟩, ⟨chars2 'P' '0', at_, mPinv⟩, ⟨chars2 'S' '0', [chr 'E', chr 'R', chr '9'], mIguana⟩,
    ⟨chars2 'V' '1', [chr 'T'], mPinv⟩, ⟨chars2 'V' '2', [chr 'T'], mPinv⟩, ⟨chars2 '9' '0', [chr 'A'], mFf1⟩ ]

/-- The row of a usage. -/
def usageRow (u : W16) : Option UsageRow := usageRows.find? fun r => r.usage == u

/-- A key's default mask: its usage's, with EXPORT for exportability E or S (R121). -/
def defaultMask (u : W16) (exp : Byte) : Nat :=
  let m := match usageRow u with | some r => r.mask | none => 0
  if exp = chr 'E' ∨ exp = chr 'S' then Nat.lor m mExport else m

/-- Exportability permits export (R120). -/
def exportable (a : Attrs) : Bool := a.exp == chr 'E' || a.exp == chr 'S'

/-- A mode of use is one of a list. -/
def modeIn (a : Attrs) (ms : List Char) : Bool := ms.any fun c => chr c == a.mode

/-- Encrypt or wrap (R119). -/
def canEncrypt (a : Attrs) : Bool := modeIn a ['E', 'B', 'N']
/-- Decrypt or unwrap (R119). -/
def canDecrypt (a : Attrs) : Bool := modeIn a ['D', 'B', 'N']

/-- The engine mask has a bit set. -/
def hasBit (a : Attrs) (bit : Nat) : Bool := decide (Nat.land a.mask.toNat bit = bit)

/-- The key is a TDES key. -/
def isTdes (a : Attrs) : Bool := a.alg == chr 'T'

/-- Mode-of-use characters of X9.143 (R119 refuses Y). -/
def modeKnown (m : Byte) : Bool := ['E', 'D', 'B', 'N', 'G', 'C', 'V', 'S', 'X', 'Y'].any fun c => chr c == m

/-! ## Public keys and check values (09 R252, R253; 05 R117) -/

/-- Field length in bytes of an elliptic-curve code of 09 R251 (a loaded curve's from its bits). -/
def fieldLen (code bits : Nat) : Nat :=
  match code with
  | 0x01 => 32 | 0x02 => 48 | 0x03 => 66 | 0x04 => 32 | 0x05 => 48
  | _ => ceilDiv bits 8

/-- The code names a short Weierstrass curve. -/
def isWeier (code : Nat) : Bool := decide ((1 ≤ code ∧ code ≤ 5) ∨ (0x10 ≤ code ∧ code ≤ 0x13))
/-- The code names an RSA size. -/
def isRsa (code : Nat) : Bool := decide (0x20 ≤ code ∧ code ≤ 0x23)
/-- Modulus bytes of an RSA code. -/
def rsaLen (code : Nat) : Nat :=
  match code with
  | 0x20 => 256 | 0x21 => 384 | 0x22 => 512 | _ => 1024

/-- Field length told from Weierstrass material: 3L + 1 bytes, or 3L + 9 on a loaded curve (R253). -/
def weierLen (m : Bytes) : Nat := if m.length % 3 = 1 then (m.length - 1) / 3 else (m.length - 9) / 3

/-- The public key of private material (R252, R253). -/
def publicKey (code : Nat) (m : Bytes) : Bytes :=
  if isWeier code then slice m (weierLen m) (2 * weierLen m + 1)
  else if isRsa code then slice m 2 (beField m 0 2 + 4)
  else Config.publicOf code m

/-- The check value of a key (R117). -/
def checkValue (a : Attrs) (m : Bytes) : Bytes :=
  if a.alg = chr 'A' then (cmac false m (zeros 16)).take 5
  else if a.alg = chr 'T' then (blockEnc true m (zeros 8)).take 3
  else if a.alg = chr 'H' then (hmac 0x02 m (zeros 32)).take 5
  else (digest 0x02 (publicKey a.code m)).take 5

/-! ## Node bytes (05 R113) -/

/-- Code of a node state. -/
def NodeState.code : NodeState → Nat
  | .free => 0 | .current => 1 | .ext => 2 | .blob => 3 | .held => 4

/-- A node state from its code. -/
def nodeStateOf (n : Nat) : NodeState :=
  match n with
  | 1 => .current | 2 => .ext | 3 => .blob | 4 => .held | _ => .free

/-- A parent reference as bytes 36 to 39. -/
def ParentRef.code : ParentRef → Nat
  | .node i g => 2 ^ 13 * i + g
  | .master g => 3 * 2 ^ 30 + g

/-- A parent reference from its code. -/
def parentOf (v : Nat) : ParentRef := if bitsOf v 31 30 = 3 then .master (bitsOf v 12 0) else .node (bitsOf v 29 13) (bitsOf v 12 0)

/-- Two characters of a word, first high. -/
def charBytes (w : W16) : Bytes := beBytes 2 w.toNat

/-- Extension slots that material of `n` bytes takes (R114). -/
def extSlots (n : Nat) : Nat := if n ≤ 64 then 0 else ceilDiv (n - 64) 128

/-- Node bytes 0 to 63 (R113). -/
def nodeHead (n : Node) : Bytes :=
  leBytes 2 (2 ^ 13 * n.state.code + n.gen) ++ [BitVec.ofNat 8 n.owner, BitVec.ofNat 8 (b2n n.persistent + 2 * b2n (64 < n.material.length : Bool))] ++
  charBytes n.attrs.usage ++ [n.attrs.alg, n.attrs.mode, n.attrs.exp, BitVec.ofNat 8 n.depth] ++ leBytes 2 n.attrs.mask.toNat ++
  leBytes 2 n.material.length ++ charBytes n.attrs.version ++ leBytes 8 n.attrs.notBefore ++ leBytes 8 n.attrs.notAfter ++
  leBytes 4 n.gcm ++ leBytes 4 n.parent.code ++ leBytes 4 (n.extFirst + 2 ^ 24 * n.extCount) ++ fit 5 n.check ++
  [BitVec.ofNat 8 n.check.length] ++ leBytes 8 n.gcmRes ++ zeros 6

/-- A node's 128 bytes, then its extension slots. -/
def nodeBytes (n : Node) : Bytes := nodeHead n ++ fit 64 n.material ++ fit (128 * extSlots n.material.length) (n.material.drop 64)

/-- A node from its bytes; the algorithm code of asymmetric material is given. -/
def nodeOf (b : Bytes) (code : Nat) : Node :=
  let len := leField b 12 2
  { state := nodeStateOf (leField b 0 2 / 2 ^ 13), gen := leField b 0 2 % 2 ^ 13, owner := (byteAt b 2).toNat,
    persistent := bitOf (byteAt b 3).toNat 0,
    attrs := { usage := BitVec.ofNat 16 (beField b 4 2), alg := byteAt b 6, mode := byteAt b 7, exp := byteAt b 8,
               mask := BitVec.ofNat 16 (leField b 10 2), version := BitVec.ofNat 16 (beField b 14 2), notBefore := leField b 16 8,
               notAfter := leField b 24 8, code := code },
    depth := (byteAt b 9).toNat, parent := parentOf (leField b 36 4), gcm := leField b 32 4, gcmRes := leField b 50 8,
    extFirst := leField b 40 3, extCount := (byteAt b 43).toNat, check := slice b 44 (byteAt b 49).toNat,
    material := slice b 64 len, exhausted := false, changedAt := none }

/-! ## X9.143 version D key blocks (05 R129, R130) -/

/-- The Zalilys block's data (R130). -/
structure ZBlock where
  /-- Owner partition. -/
  owner : Nat
  /-- Engine mask. -/
  mask : W16
  /-- Not-before. -/
  notBefore : Nat
  /-- Not-after. -/
  notAfter : Nat
  /-- GCM invocation counter at writing. -/
  gcm : Nat
  /-- Parent reference. -/
  parent : ParentRef
  /-- Persistent. -/
  persistent : Bool
  /-- Node handle, or 0. -/
  handle : W32
  /-- Check value. -/
  check : Bytes
  /-- Keystore sequence. -/
  ksSeq : Nat
  deriving DecidableEq, Repr

/-- Its 47 bytes. -/
def ZBlock.bytes (z : ZBlock) : Bytes :=
  [0x01, BitVec.ofNat 8 z.owner] ++ leBytes 2 z.mask.toNat ++ leBytes 8 z.notBefore ++ leBytes 8 z.notAfter ++ leBytes 4 z.gcm ++
  leBytes 4 z.parent.code ++ [BitVec.ofNat 8 (b2n z.persistent)] ++ leBytes 4 z.handle.toNat ++ fit 5 z.check ++
  [BitVec.ofNat 8 z.check.length] ++ leBytes 8 z.ksSeq

/-- Read the 47 bytes; `none` when they break the layout. -/
def zblockOf (b : Bytes) : Option ZBlock :=
  let n := (byteAt b 38).toNat
  if b.length = 47 ∧ byteAt b 0 = 1 ∧ (byteAt b 28).toNat < 2 ∧ (n = 3 ∨ n = 5) then
    some { owner := (byteAt b 1).toNat, mask := BitVec.ofNat 16 (leField b 2 2), notBefore := leField b 4 8, notAfter := leField b 12 8,
           gcm := leField b 20 4, parent := parentOf (leField b 24 4), persistent := bitOf (byteAt b 28).toNat 0,
           handle := BitVec.ofNat 32 (leField b 29 4), check := slice b 33 n, ksSeq := leField b 39 8 }
  else none

/-- What a key block says. -/
structure KeyBlock where
  /-- Usage. -/
  usage : W16
  /-- Algorithm. -/
  alg : Byte
  /-- Mode of use. -/
  mode : Byte
  /-- Key version. -/
  version : W16
  /-- Exportability. -/
  exp : Byte
  /-- The key. -/
  key : Bytes
  /-- Zalilys block, if any. -/
  z : Option ZBlock
  deriving DecidableEq, Repr

/-- The AES key that version D derives from the block protection key: usage indicator 0 enciphers, 1 authenticates. -/
def blockKey (kbpk : Bytes) (usage : Byte) : Bytes :=
  let ind : Bytes := if kbpk.length = 16 then [0, 2, 0, 0x80] else if kbpk.length = 24 then [0, 3, 0, 0xC0] else [0, 4, 1, 0]
  (((List.range (ceilDiv kbpk.length 16)).map fun i =>
    cmac false kbpk ([BitVec.ofNat 8 (i + 1), 0, usage, 0] ++ ind)).flatten).take kbpk.length

/-- Length of the pad of a key field that holds `n` key bytes. -/
def blockPadLen (n : Nat) : Nat := (16 - (n + 2) % 16) % 16

/-- Length of the PB block that closes a header of `n` characters. -/
def pbLen (n : Nat) : Nat := 4 + (16 - (n + 4) % 16) % 16

/-- Length in characters of a block with a Zalilys block that holds `n` key bytes. -/
def blockLen (n : Nat) : Nat := 128 + 2 * (2 + n + blockPadLen n) + 32

/-- Write a key block with its Zalilys block (R130); `pad` fills the key field. -/
def wrapBlock (kbpk : Bytes) (a : Attrs) (z : ZBlock) (key pad : Bytes) : Bytes :=
  let opt := ascii "9N62" ++ hexOf z.bytes
  let pb := ascii "PB" ++ hexOf [BitVec.ofNat 8 (pbLen (16 + opt.length))] ++ List.replicate (pbLen (16 + opt.length) - 4) 0x30
  let field := beBytes 2 (8 * key.length) ++ key ++ fit (blockPadLen key.length) pad
  let total := 16 + opt.length + pb.length + 2 * field.length + 32
  let header := [chr 'D'] ++ decChars 4 total ++ charBytes a.usage ++ [a.alg, a.mode] ++ charBytes a.version ++ [a.exp] ++
    ascii "0200" ++ opt ++ pb
  let mac := cmac false (blockKey kbpk 1) (header ++ field)
  header ++ hexOf (cbcEnc false (blockKey kbpk 0) mac field) ++ hexOf mac

/-- Why a block is refused (R129). -/
inductive BlockError where
  | version | format | mac
  deriving DecidableEq, Repr

/-- An ASCII letter or digit. -/
def isAlnum (b : Byte) : Bool :=
  let n := b.toNat
  decide ((48 ≤ n ∧ n ≤ 57) ∨ (65 ≤ n ∧ n ≤ 90) ∨ (97 ≤ n ∧ n ≤ 122))

/-- Walk `n` optional blocks from offset `pos`: the offset after them and the Zalilys block's data. -/
def optBlocks (b : Bytes) : Nat → Nat → Option Bytes → Option (Nat × Option Bytes)
  | 0, pos, z => some (pos, z)
  | n + 1, pos, z =>
    match unhex (slice b (pos + 2) 2) with
    | some [l] =>
      let ext : Option (Nat × Nat) :=
        if l ≠ 0 then some (l.toNat, 4)
        else match unhex (slice b (pos + 4) 2) with
          | some [w] => match unhex (slice b (pos + 6) w.toNat) with
            | some bs => some (beNat bs, 6 + w.toNat)
            | none => none
          | _ => none
      match ext with
      | none => none
      | some (len, head) =>
        if len < head ∨ b.length < pos + len ∨ !isAlnum (byteAt b pos) ∨ !isAlnum (byteAt b (pos + 1)) then none
        else if byteAt b pos = chr '9' ∧ byteAt b (pos + 1) = chr 'N' then
          if z.isSome ∨ len - head ≠ 94 then none
          else match unhex (slice b (pos + head) 94) with
            | some d => optBlocks b n (pos + len) (some d)
            | none => none
        else optBlocks b n (pos + len) z
    | _ => none

/-- Read a key block under a block protection key (R129). -/
def unwrapBlock (kbpk b : Bytes) : Except BlockError KeyBlock :=
  if byteAt b 0 ≠ chr 'D' then .error (if b = [] then .format else .version)
  else
    match decVal (slice b 1 4), decVal (slice b 12 2) with
    | some total, some nopt =>
      if b.length < 16 ∨ total ≠ b.length ∨ !((slice b 5 7).all isAlnum) ∨ slice b 14 2 ≠ ascii "00" then .error .format
      else match optBlocks b nopt 16 none with
        | none => .error .format
        | some (pos, zd) =>
          let body := slice b pos (b.length - 32 - pos)
          if pos % 16 ≠ 0 ∨ body = [] ∨ body.length % 32 ≠ 0 ∨ b.length < pos + 32 then .error .format
          else match unhex body, unhex (b.drop (b.length - 32)) with
            | some enc, some mac =>
              let field := cbcDec false (blockKey kbpk 0) mac enc
              if cmac false (blockKey kbpk 1) (b.take pos ++ field) ≠ mac then .error .mac
              else
                let bits := beField field 0 2
                if bits = 0 ∨ bits % 8 ≠ 0 ∨ field.length < 2 + bits / 8 then .error .format
                else
                  let z := match zd with | none => some none | some d => (zblockOf d).map some
                  match z with
                  | none => .error .format
                  | some z => .ok { usage := BitVec.ofNat 16 (beField b 5 2), alg := byteAt b 7, mode := byteAt b 8,
                                    version := BitVec.ofNat 16 (beField b 9 2), exp := byteAt b 11, key := slice field 2 (bits / 8), z := z }
            | _, _ => .error .format
    | _, _ => .error .format

end Sys2Proof.Machine
end

