-- ==== Sys2Proof/Machine/Flags.lean ====
section
/-!
DEFINITION. Flags and counts the module shows or acts on, computed from the state: slots, flow contexts and completion slots in use
(03 R47, R54; 04 R88, R91, R92), the causes of back-pressure, readiness for a thread or a unit, and the accounts of the service
floor (04 R98).
-/
namespace Sys2Proof.Machine

/-! ## Slots, flow contexts and completion slots -/

/-- The job or refused descriptor is partition `p`'s. -/
def Job.of (p : Nat) (j : Job) : Bool := j.part == p

/-- It came from ring `r` of partition `p`. -/
def Job.from_ (p r : Nat) (j : Job) : Bool := j.part == p && j.ring == r && !j.fwd

/-- The rings of a partition, by number. -/
def ringNos : List Nat := List.range 16

/-- Descriptors read and not arrived, and arrived and waiting for their checks, of a partition. -/
def inFlight (s : State) (p : Nat) : Nat :=
  (ringNos.map fun r => ((ringAt s p r).reads.map (·.count)).sum + (ringAt s p r).held.length).sum

/-- Job slots of a partition in use: its jobs, its refused descriptors, its reservations (04 R78, R91). -/
def slotsUsed (s : State) (p : Nat) : Nat :=
  (s.jobs.filter (Job.of p)).length + (s.refused.filter (Job.of p)).length + inFlight s p

/-- The partitions that hold any ring set or job. -/
def busyParts (s : State) : List Nat := 
  List.dedup (s.rings.map (fun x => x.1 / 16) ++ s.jobs.map (fun j => j.part) ++ s.refused.map (fun j => j.part))

/-- Slots in use in the pool shared by partitions 1 to 255 (04 R91). -/
def poolUsed (s : State) : Nat := (((busyParts s).filter (· ≠ 0)).map (slotsUsed s)).sum

/-- Free job slots for a partition: its quota and its pool (04 R91, R92). -/
def slotsFree (s : State) (p : Nat) : Nat :=
  if p = 0 then 512 - slotsUsed s 0
  else Nat.min ((partAt s p).cfg.slots - slotsUsed s p) (32256 - poolUsed s)

/-- Flow indices of a partition with an admitted job, a refused descriptor that opened one, or a descriptor waiting for its checks. -/
def flowsOf (s : State) (p : Nat) : List Nat :=
  let held := (ringNos.map fun r => (ringAt s p r).held.map fun x => (descOf 0 x.2).flow).flatten
  (((s.jobs.filter fun j => j.of p && j.live).map (·.desc.flow)) ++ ((s.refused.filter (Job.of p)).map (·.desc.flow)) ++ held).dedup.filter (· ≠ 0)

/-- Flow contexts in use: those, and one for each descriptor still to arrive (04 R88, R92). -/
def flowsUsed (s : State) (p : Nat) : Nat :=
  (flowsOf s p).length + (ringNos.map fun r => ((ringAt s p r).reads.map (·.count)).sum).sum

/-- Contexts in use in the shared pool. -/
def flowPool (s : State) : Nat := (((busyParts s).filter (· ≠ 0)).map (flowsUsed s)).sum

/-- Free flow contexts for a partition (04 R91, R92). -/
def flowsFree (s : State) (p : Nat) : Nat :=
  if p = 0 then 512 - flowsUsed s 0
  else Nat.min ((partAt s p).cfg.flows - flowsUsed s p) (65024 - flowPool s)

/-- Entries of a ring pair (03 R40). -/
def Ring.size (g : Ring) : Nat := 2 ^ g.log2

/-- Descriptors between head and tail (03 R41). -/
def Ring.toFetch (g : Ring) : Nat := (g.sqTail + g.size - g.sqHead) % g.size

/-- Completion slots free for reservation (03 R54, R60). -/
def Ring.cqFree (g : Ring) : Nat := (g.cqHead + 2 * g.size - g.cqTail - 1) % g.size - g.reserved

/-- No job from the ring is admitted or in flight, and every completion has been written (03 R47 IDLE). -/
def ringIdle (s : State) (p r : Nat) : Bool :=
  let g := ringAt s p r
  g.reads.isEmpty && g.held.isEmpty && !(s.jobs.any fun j => j.from_ p r && j.live && !j.suppressed) && !(s.refused.any (Job.from_ p r))

/-! ## Back-pressure (03 R47, R68) -/

/-- The module is quiescing or hands the active role over (15 R438, 19 R522). -/
def draining (s : State) : Bool := decide (s.pwr.quiesce ≠ 0) || s.pair.handing.isSome

/-- BP_FROZEN: frozen, freezing, resetting, destroying, quiescing, handing over, or not effective active (03 R47, 11 R309, 15 R414). -/
def bpFrozen (s : State) (p : Nat) : Bool :=
  decide (2 ≤ partState s p) || (partAt s p).freezing || draining s || !s.pair.effective

/-- BP_FENCE: a fenced descriptor waits, or has not completed; later ones of the ring wait on it (03 R64, 06 R174). -/
def bpFence (s : State) (p r : Nat) : Bool := !(ringAt s p r).held.isEmpty || (ringAt s p r).fence.isSome

/-- BP_FLOW as it shows. -/
def bpFlow (s : State) (p r : Nat) : Bool := decide ((ringAt s p r).toFetch ≠ 0) && decide (flowsFree s p = 0)
/-- BP_CQ as it shows. -/
def bpCq (s : State) (p r : Nat) : Bool := decide ((ringAt s p r).toFetch ≠ 0) && decide ((ringAt s p r).cqFree = 0)
/-- BP_SLOTS as it shows. -/
def bpSlots (s : State) (p r : Nat) : Bool := decide ((ringAt s p r).toFetch ≠ 0) && decide (slotsFree s p = 0)

/-- RING_STATUS (03 R47). -/
def ringStatus (s : State) (p r : Nat) : Nat :=
  let g := ringAt s p r
  flagAt (ringIdle s p r) 0 + flagAt (bpSlots s p r) 1 + flagAt (bpCq s p r) 2 + flagAt (bpFlow s p r) 3 + flagAt (bpFrozen s p) 4 +
    flagAt (bpFence s p r) 5 + flagAt g.cfgErr 8 + flagAt g.dbErr 9 + flagAt g.fetchErr 10

/-- A ring has a descriptor to fetch and nothing holds it back (03 R54, R68; 04 R94). -/
def fetchable (s : State) (p r : Nat) : Bool :=
  let g := ringAt s p r
  s.pwr.ready && g.en && decide (g.toFetch ≠ 0) && decide (g.reads.length < 4) && !bpFrozen s p && !bpFence s p r && existsPart s p &&
    !dmaOff s p && decide (flowsFree s p ≠ 0) && decide (g.cqFree ≠ 0) && decide (slotsFree s p ≠ 0)

/-! ## Jobs ready and waiting -/

/-- It waits for a thread (04 R98). -/
def Job.isReady (j : Job) : Bool := j.phase == .ready

/-- It waits in the queue of class `c`, or is parked there (04 R98). -/
def Job.waitsFor (c : Nat) (j : Job) : Bool := j.phase == .queued && primaryClass j.desc == some c

/-- Partition `p` is backlogged in class `c` (04 R98). -/
def backlogged (s : State) (c p : Nat) : Bool :=
  s.jobs.any fun j => j.part == p && (if c = 0 then j.isReady else j.waitsFor c)

/-- The partitions backlogged in a class. -/
def backlogParts (s : State) (c : Nat) : List Nat :=
  ((s.jobs.filter fun j => if c = 0 then j.isReady else j.waitsFor c).map (·.part)).dedup

/-- Units in service of a class that a test holds, or whose domain is off: they count for nothing meanwhile (08 R236, 09 R276, 19 R513). -/
def unitsAway (s : State) (p c : Nat) : Nat :=
  match c with
  | 1 => ((List.range 16).filter fun n => (newtAt s n).up && ((newtAt s n).owner == .window || !domainOn s (21 + n)) && (clustersOf s p).contains (n / 4)).length
  | 3 => ((List.range 16).filter fun n => (bigAt s n).up && ((bigAt s n).window || !domainOn s (37 + n))).length
  | 4 => ((List.range 4).filter fun n => (latAt s n).up && ((latAt s n).owner == .window || !domainOn s (53 + n))).length
  | 5 => ((List.range 8).filter fun n => (hashAt s n).up && ((hashAt s n).owner == .window || !domainOn s (57 + n / 4))).length
  | _ => 0

/-- Units counted for a partition (04 R82, R570; 08 R234): at least one. -/
def unitsOf (s : State) (p c : Nat) : Nat := Nat.max 1 (unitsUp s p c - unitsAway s p c)

/-- The partitions that share class `c` with `p`: a pinned partition has class 1 of its cluster to itself (08 R234). -/
def sharers (s : State) (p c : Nat) : List Nat :=
  if c = 1 then
    (match (partAt s p).cfg.pin with
     | some _ => [p]
     | none => (backlogParts s 1).filter fun q => (partAt s q).cfg.pin.isNone)
  else backlogParts s c

/-- What 8 ns add to the entitlement of `p` in class `c`, in 2^-32 unit-ns (04 R98). -/
def entitleStep (s : State) (c p : Nat) : Nat :=
  8 * 2 ^ 32 * unitsOf s p c * (partAt s p).weightWin / Nat.max 1 (((sharers s p c).map fun q => (partAt s q).weightWin).sum)

/-- The class of a unit a job holds and works on; a parked bank receives nothing (04 R98). -/
def Job.serving (s : State) (j : Job) : Option Nat :=
  match j.unit with
  | some (.newt _) => some 1
  | some (.pinv _) => some 2
  | some (.iguana n b) => if (bigAt s n).active == b then some 3 else none
  | some (.lattice _) => some 4
  | some (.hash _) => some 5
  | none => none

/-- A partition's account is further below its entitlement less a segment maximum than zero (04 R99): by how much, 2^-32 unit-ns. -/
def shortfall (s : State) (c p : Nat) : Nat :=
  Tab.get 0 (partAt s p).entitled c - 2 ^ 32 * (segMax c + Tab.get 0 (partAt s p).received c)

/-! ## Partition and Massif status -/

/-- PART_STATE and PART_VF_STATUS (11 R338). -/
def partStatus (s : State) (p : Nat) : Nat :=
  let v := vaultAt s p
  let c := (partAt s p).cfg
  partState s p + v.mig * 2 ^ 4 + flagAt v.tdes 6 + flagAt c.sync 7 + flagAt c.pin.isSome 8 + (c.pin.getD 0) * 2 ^ 9 + flagAt v.lost 11

/-- Node slots of the resident range a partition owns: nodes, extension slots, held ones, and erased nodes until the completion of
their KEY_ERASE is written (05 R114, R143; 11 R338). -/
def nodesOwned (s : State) (p : Nat) : Nat :=
  (s.mas.nodes.filter fun x => decide (x.1 < 0x1C000) && x.2.owner == p && x.2.state != .free && x.2.state != .blob).length +
    (s.jobs.filter fun j => j.part == p && j.desc.opcode == 0x0205 && j.committed && j.live && !j.copied).length

/-- PART_USE (11 R338). -/
def partUse (s : State) (p : Nat) : Nat := nodesOwned s p + 2 ^ 17 * flowsUsed s p + 2 ^ 34 * slotsUsed s p

/-- Commands of a partition that wait for keystore record space or a ring (05 R135). -/
def ksWaiting (s : State) (p : Nat) : Nat := (s.jobs.filter fun j => j.part == p && j.phase == .waitKeystore).length

/-- MAS_KS_STATUS (05 R138). -/
def ksStatus (s : State) (p : Nat) : Nat :=
  flagAt (partAt s p).ks.en 0 + flagAt (decide (ksWaiting s p ≠ 0)) 1 + Nat.min 0xFFFF (ksWaiting s p) * 2 ^ 8

/-- CIRQ_STATUS (04 R103). -/
def cirqStatus (s : State) : Nat :=
  slotsUsed s 0 + poolUsed s + 2 ^ 16 * Nat.min 0xFFFF ((s.jobs.filter Job.isReady).length)

/-! ## What the carrier sees: SAFE_REMOVE, SMBus STATUS and the light strip (19 R521; 20 R540, R541, R543) -/

/-- SAFE_REMOVE (19 R521). -/
def safeRemove (s : State) : Bool := s.pwr.perst || !s.pwr.main || s.pwr.quiesce == 3

/-- The always-on domain runs: it answers SMBus (19 R509). -/
def alwaysOn (s : State) : Bool := s.pwr.main || s.pwr.aux

/-- SMBus STATUS (20 R541). -/
def smbStatusByte (s : State) : Nat :=
  flagAt s.pwr.aux 0 + flagAt s.pwr.main 1 + flagAt s.pwr.ready 2 + flagAt (s.pwr.fault != 0) 3 + flagAt s.tmp.alarm 4 +
    flagAt (suspended s) 5 + flagAt (safeRemove s) 6 + flagAt s.pair.effective 7

/-- SMB_ALERT_N is asserted when STATUS bits 3 to 7 have changed since it was last judged (20 R540). -/
def judgeAlert (s : State) : State :=
  let now := smbStatusByte s / 8
  if alwaysOn s && now != s.smb.seen then { s with smb := { s.smb with alert := true, seen := now } } else s

/-- Indications of the light strip (20 R543). -/
inductive Light where
  | dark | redSteady | redBlink | blueSteady | amberBlink | amberSteady | greenBlink | greenSteady
  deriving DecidableEq, Repr

/-- The strip shows the first row whose condition holds (20 R543). -/
def lightStrip (s : State) : Light :=
  if !alwaysOn s then .dark
  else if s.pwr.fault ≠ 0 ∨ suspended s then .redSteady
  else if s.tmp.alarm then .redBlink
  else if safeRemove s then .blueSteady
  else if !s.pwr.ready ∨ s.pwr.quiesce ≠ 0 then .amberBlink
  else if s.tmp.cellA.state ≠ 0 ∨ s.tmp.cellB.state ≠ 0 then .amberSteady
  else if s.pair.role = 0 then .greenBlink
  else if s.pair.effective then .greenSteady
  else .dark

end Sys2Proof.Machine
end

