-- ==== Sys2Proof/Machine/Clock.lean ====
section
/-!
DEFINITION. One tick of the network time clock (125 MHz, 8 ns; 02 R20, R23), which the block takes when no command waits (log
entry 1): the monotonic count and NTB, the accounts of the service floor (04 R98), the cycle counts of the counter block
(18 R495), the back-pressure microseconds (18 R501) and the SMBus alert (20 R540).
-/
namespace Sys2Proof.Machine

/-- One period of the network time clock, ns. -/
def tickNs : Nat := 8

/-- What a slew of 500 ppm moves NTB by in one period, 2^-32 ns (02 R22): 0.004 ns. -/
def slewStep : Nat := 17179869

/-- The part of a running slew that one period takes: signed, and no more than what remains (02 R22). -/
def slewPart (t : TimeBlk) : Int :=
  match t.slew with
  | none => 0
  | some r => if 0 ≤ r then Int.ofNat (Nat.min slewStep r.natAbs) else -Int.ofNat (Nat.min slewStep r.natAbs)

/-- NTB and its fraction as one number, 2^-32 ns. -/
def ntbFine (t : TimeBlk) : Nat := 2 ^ 32 * t.ntb.toNat + t.frac.toNat

/-- One period of time (02 R20, R22, R23). Without main power or with PERST_N asserted only the model's monotonic count goes on (02 R21;
log entry 60). -/
def tickTime (run : Bool) (t : TimeBlk) : TimeBlk :=
  if !run then { t with mono := t.mono + tickNs } else
  let fine := (Int.ofNat (ntbFine t + tickNs * 2 ^ 32) + slewPart t).toNat
  { t with
    mono := t.mono + tickNs
    ntb := BitVec.ofNat 64 (fine / 2 ^ 32)
    frac := BitVec.ofNat 32 fine
    slew := t.slew.map fun r => r - slewPart t }

/-- Entitlements grow while a partition is backlogged in a class (04 R98). -/
def tickEntitled (s : State) : State :=
  (List.range 6).foldl (fun s c => (backlogParts s c).foldl (fun s p =>
    modPart p (fun x => { x with entitled := Tab.modify 0 x.entitled c (· + entitleStep s c p) }) s) s) s

/-- Received service grows with the unit time held (04 R98). -/
def tickReceived (s : State) : State :=
  s.jobs.foldl (fun s j => match j.serving s with
    | some c => modPart j.part (fun x => { x with received := Tab.modify 0 x.received c (· + tickNs) }) s
    | none => s) s

/-- Microinstructions issued: how many each thread issues in 8 ns is the microcode's, which the spec does not state: a free value
of at most one a nanosecond for each thread. They are the received service of class 0 and counter event 0x07 (04 R98, 18 R495; log
entry 5). -/
def tickIssue (s : State) : State :=
  s.jobs.foldl (fun s j =>
    if j.thread.isNone || j.ended then s else
    let (n, s) := freeBelow (tickNs + 1) s
    pmcJob 0x07 n 0 j (modPart j.part (fun x => { x with received := Tab.modify 0 x.received 0 (· + n) }) s)) s

/-- Cycle counts: fabric cycles (1 GHz), and the cycles each waiting job spends (18 R495 codes 0x01, 0x08, 0x09). -/
def tickPmc (s : State) : State :=
  if !s.pmc.en then s else
  let s := pmcHit 0x01 tickNs 0 s
  s.jobs.foldl (fun s j =>
    if j.thread.isNone then s
    else if j.phase == .reading then pmcJob 0x08 tickNs 0 j s
    else if j.phase == .queued then pmcJob 0x09 tickNs 0 j s
    else s) s

/-- Microseconds in which a partition has descriptors to fetch and a cause of back-pressure (18 R501 counter 7): a microsecond
counts once. -/
def tickPressure (s : State) : State :=
  let us := s.time.mono / 1000 + 1
  ((s.rings.map (fun x => x.1 / 16)).dedup).foldl (fun s p =>
    let held := ringNos.any fun r => bpSlots s p r || bpCq s p r || bpFlow s p r || bpFence s p r || bpFrozen s p
    if held ∧ (partAt s p).bpUs ≠ us then partCount p 7 (modPart p (fun x => { x with bpUs := us }) s) else s) s

/-- The power domain of the unit a job holds (19 R510). -/
def UnitRef.domain : UnitRef → Nat
  | .newt n => 21 + n
  | .pinv n => 17 + n
  | .iguana n _ => 37 + n
  | .lattice n => 53 + n
  | .hash n => 57 + n / 4

/-- A domain whose unit a job holds is not idle (19 R513). -/
def tickIdle (s : State) : State :=
  s.jobs.foldl (fun s j => match j.unit with
    | some u => { s with pwr := { s.pwr with idleSince := Tab.set 0 s.pwr.idleSince u.domain s.time.mono } }
    | none => s) s

/-- A stretch of time of `n` ns ends with this tick. -/
def passes (n : Nat) (s : State) : Bool := decide (s.time.mono / n ≠ (s.time.mono + tickNs) / n)

/-- The vault die's tamper-clock seconds (13 R380) and the reservoir's recharge from a cell in place, one burn's worth every 2.5 s (13
R381; log entry 60). -/
def tickVault (s : State) : State :=
  let s := if passes (10 ^ 9) s then { s with nv := { s.nv with secs := s.nv.secs + 1 } } else s
  if passes (2500 * 10 ^ 6) s ∧ (s.tmp.cellA.state ≠ 1 ∨ s.tmp.cellB.state ≠ 1) then
    { s with nv := { s.nv with reservoir := Nat.min 4 (s.nv.reservoir + 1) } }
  else s

/-- What a tick does besides the time itself. -/
def tickRest (s : State) : State :=
  let s := if s.jobs = [] then s else tickIdle (tickIssue (tickReceived (tickEntitled s)))
  judgeAlert (tickVault (tickPmc (tickPressure s)))

/-- One tick. -/
def clockTick (s : State) : State :=
  let s := tickRest s
  { s with time := tickTime (s.pwr.main && !s.pwr.perst) s.time }

end Sys2Proof.Machine
end

