-- ==== Sys2Proof/Machine/Curves.lean ====
section
/-!
DEFINITION. Short Weierstrass arithmetic of 09_iguana_engine.md: points, scalar multiples, ECDSA (R257, R258), cofactor agreement (R260)
and the checks of a loaded curve (R268). Pure functions of numbers.
-/
namespace Sys2Proof.Machine

/-- The inverse of `a` modulo `m`, where there is one. -/
def invMod (a m : Nat) : Nat := (Nat.gcdA a m % Int.ofNat m).toNat

/-- A power modulo `m`, over the bits of the exponent. -/
def powMod (m b : Nat) : Nat → Nat → Nat
  | 0, _ => 1 % m
  | w + 1, e =>
    let h := powMod m b w (e / 2)
    if e % 2 = 1 then h * h % m * b % m else h * h % m

/-- Bits of a number. -/
def bitLen (n : Nat) : Nat := if n = 0 then 0 else Nat.log2 n + 1

/-- A curve y² = x³ + ax + b over p with base point and its order. -/
structure Weier where
  /-- Field prime. -/
  p : Nat
  /-- a. -/
  a : Nat
  /-- b. -/
  b : Nat
  /-- Base point. -/
  gx : Nat
  /-- Base point. -/
  gy : Nat
  /-- Order of the base point. -/
  n : Nat
  deriving DecidableEq, Repr

/-- A point; `none` at infinity. -/
abbrev Point := Option (Nat × Nat)

/-- The coordinates satisfy the equation. -/
def Weier.on (c : Weier) (x y : Nat) : Bool := decide (y * y % c.p = (x * x * x + c.a * x + c.b) % c.p)

/-- Addition. -/
def Weier.add (c : Weier) (u v : Point) : Point :=
  match u, v with
  | none, q => q
  | q, none => q
  | some (x1, y1), some (x2, y2) =>
    if x1 = x2 ∧ (y1 + y2) % c.p = 0 then none
    else
      let l := (if x1 = x2 then (3 * x1 * x1 + c.a) * invMod (2 * y1 % c.p) c.p else (y2 + c.p - y1) * invMod ((x2 + c.p - x1) % c.p) c.p) % c.p
      let x3 := (l * l + 2 * c.p - x1 - x2) % c.p
      some (x3, (l * (x1 + c.p - x3) + c.p - y1) % c.p)

/-- The multiple by the low `w` bits of a number. -/
def Weier.mulBits (c : Weier) (u : Point) : Nat → Nat → Point
  | 0, _ => none
  | w + 1, k =>
    let h := c.mulBits u w (k / 2)
    let d := c.add h h
    if k % 2 = 1 then c.add d u else d

/-- A scalar multiple. -/
def Weier.mul (c : Weier) (k : Nat) (u : Point) : Point := c.mulBits u (bitLen k) k

/-- The base point. -/
def Weier.base (c : Weier) : Point := some (c.gx, c.gy)

/-- Encode a point on coordinates of `l` bytes (R252). -/
def pointBytes (l : Nat) (u : Point) : Bytes :=
  match u with
  | none => []
  | some (x, y) => 4 :: (beBytes l x ++ beBytes l y)

/-- A public key that passes the validation of R265: its first byte, its range, its place on the curve. -/
def Weier.pub (c : Weier) (l : Nat) (b : Bytes) : Option (Nat × Nat) :=
  let x := beField b 1 l
  let y := beField b (1 + l) l
  if b.length = 2 * l + 1 ∧ byteAt b 0 = 4 ∧ x < c.p ∧ y < c.p ∧ c.on x y then some (x, y) else none

/-- Bytes of a component of a signature: the length of the group order (R257). -/
def Weier.orderLen (c : Weier) : Nat := ceilDiv (bitLen c.n) 8

/-- The number ECDSA takes from a digest: its leftmost bits, as many as the order has. -/
def Weier.hashInt (c : Weier) (dig : Bytes) : Nat :=
  if bitLen c.n < 8 * dig.length then beNat dig / 2 ^ (8 * dig.length - bitLen c.n) else beNat dig

/-- An ECDSA signature of a digest with nonce `k`; `none` where r or s is zero. -/
def Weier.sign (c : Weier) (d k : Nat) (dig : Bytes) : Option Bytes :=
  match c.mul k c.base with
  | none => none
  | some (x, _) =>
    let r := x % c.n
    let s := invMod k c.n * ((c.hashInt dig + r * d) % c.n) % c.n
    if r = 0 ∨ s = 0 then none else some (beBytes c.orderLen r ++ beBytes c.orderLen s)

/-- r and s of a signature lie in [1, n − 1] (R265). -/
def Weier.sigRange (c : Weier) (sig : Bytes) : Bool :=
  let l := c.orderLen
  let r := beField sig 0 l
  let s := beField sig l l
  decide (1 ≤ r ∧ r < c.n ∧ 1 ≤ s ∧ s < c.n)

/-- ECDSA verification of a signature in range under a valid public point. -/
def Weier.verify (c : Weier) (q : Nat × Nat) (dig sig : Bytes) : Bool :=
  let l := c.orderLen
  let r := beField sig 0 l
  let w := invMod (beField sig l l) c.n
  match c.add (c.mul (c.hashInt dig * w % c.n) c.base) (c.mul (r * w % c.n) (some q)) with
  | none => false
  | some (x, _) => x % c.n == r

/-- The curve of an algorithm code that is named (09 R251). -/
def namedCurve (alg : Nat) : Weier :=
  let (p, a, b, gx, gy, n) := Config.curveParams alg
  { p := p, a := a, b := b, gx := gx, gy := gy, n := n }

end Sys2Proof.Machine
end

