-- ==== Sys2Proof/Machine/Drbg.lean ====
section
/-!
DEFINITION. The CTR_DRBG of SP 800-90A with AES-256, without a derivation function (10 R294 to R298): its own functions, and the
instances of the random service.
-/
namespace Sys2Proof.Machine

/-- Seed length, bytes (R294). -/
def seedLen : Nat := 48

/-- V counted up. -/
def ctrInc (v : Bytes) : Bytes := beBytes 16 (beNat v + 1)

/-- `n` blocks of the counter stream under a key, and the last V. -/
def ctrBlocks (key : Bytes) : Nat → Bytes → Bytes × Bytes
  | 0, v => ([], v)
  | n + 1, v =>
    let v := ctrInc v
    let (r, w) := ctrBlocks key n v
    (blockEnc false key v ++ r, w)

/-- The update function: the new key and V from 48 bytes of provided data. -/
def Drbg.update (data : Bytes) (d : Drbg) : Drbg :=
  let t := xorBytes (ctrBlocks d.key 3 d.v).1 (fit seedLen data)
  { d with key := slice t 0 32, v := slice t 32 16 }

/-- Instantiate from 384 bits of entropy input and a personalisation string (R295). -/
def Drbg.instantiate (entropy pers : Bytes) : Drbg :=
  { Drbg.update (xorBytes (fit seedLen entropy) (fit seedLen pers)) { Drbg.off with up := true, key := zeros 32, v := zeros 16 } with
    count := 0 }

/-- Reseed from 384 bits: the count returns to 0 (R297). -/
def Drbg.reseed (entropy : Bytes) (d : Drbg) : Drbg :=
  { Drbg.update entropy d with count := 0, required := false, pending := false, blockedNoted := false }

/-- One generate request (R296): the count rises by one, and at 2^16 a reseed is asked for (R297). -/
def Drbg.generate (n : Nat) (d : Drbg) : Bytes × Drbg :=
  let (o, v) := ctrBlocks d.key (ceilDiv n 16) d.v
  let d := Drbg.update (zeros seedLen) { d with v := v }
  (o.take n, { d with count := d.count + 1, pending := d.pending || decide (65536 ≤ d.count + 1) })

/-- The ceiling of R298. -/
def drbgCeiling : Nat := 2 ^ 32

/-- Instance `i`. -/
def instAt (s : State) (i : Nat) : Drbg := Tab.get Drbg.off s.rng.drbg i
/-- Write an instance. -/
def setInst (i : Nat) (d : Drbg) (s : State) : State :=
  { s with rng := { s.rng with drbg := Tab.set Drbg.off s.rng.drbg i d } }

/-- The personalisation string of R295: instance number, serial number, current journal sequence. -/
def persString (s : State) (i : Nat) : Bytes := leBytes 2 i ++ beBytes 16 Config.serial.toNat ++ leBytes 8 s.jrn.next

/-- The service is serving (R300): state 1 or 2. -/
def rngServing (s : State) : Bool := s.rng.state == 1 || s.rng.state == 2

/-- The instance may serve a draw: the service serves and the instance is not marked reseed-required. -/
def instServes (s : State) (i : Nat) : Bool := rngServing s && (instAt s i).up && !(instAt s i).required

/-- One draw of `n` bytes from an instance that may serve. -/
def drawInst (i n : Nat) (s : State) : Bytes × State :=
  let (o, d) := (instAt s i).generate n
  (o, setInst i d s)

/-- Instantiate an instance from seed-instance output (R295). -/
def instantiateInst (i : Nat) (s : State) : State :=
  let (e, s) := drawInst 260 seedLen s
  setInst i (Drbg.instantiate e (persString s i)) s

end Sys2Proof.Machine
end

