-- ==== Sys2Proof/Machine/Records.lean ====
section
/-!
DEFINITION. The byte layouts of lasting objects, as COMMIT and SNAPSHOT frames and migration images carry them (15 R422, 11 R311,
R330), and the algorithm code of asymmetric key material (09 R251, R253). Log entry 21 names the layouts the spec leaves open.
-/
namespace Sys2Proof.Machine

/-! ## Asymmetric material -/

/-- The RSA code of a modulus length in bytes. -/
def rsaCode (k : Nat) : Option Nat :=
  match k with
  | 256 => some 0x20 | 384 => some 0x21 | 512 => some 0x22 | 1024 => some 0x23
  | _ => none

/-- The Weierstrass code of a field length: the first of the two whose d·G is the stored public point. -/
def weierCode (c1 c2 l : Nat) (m : Bytes) : Nat :=
  let d := slice m 0 l
  let pub := slice m l (2 * l + 1)
  let is (c : Nat) : Bool := pointBytes l ((namedCurve c).mul (beNat d) (namedCurve c).base) == pub
  if is c1 then c1 else if is c2 then c2 else c1

/-- The loaded-curve slot whose digest ends the material (R253, R270). -/
def curveSlotOf (curves : Tab (Option Curve)) (m : Bytes) : Option Nat :=
  (List.range 4).find? fun i => match Tab.get none curves i with
    | some c => c.digest == slice m (m.length - 8) 8
    | none => false

/-- The algorithm code of private material by X9.143 algorithm, usage and length; `none` when no row of R253 fits (log entry 22). -/
def materialCode (curves : Tab (Option Curve)) (usage : W16) (alg : Byte) (m : Bytes) : Option Nat :=
  let n := m.length
  if alg = chr 'R' then
    (if n * 2 = 7 * beField m 0 2 + 12 then rsaCode (beField m 0 2) else none)
  else if alg = chr '9' then
    (if usage = chars2 'D' '1' ∧ n = 64 then some (0x30 + (Config.importedSet m).val)
     else if usage = chars2 'S' '0' ∧ n = 32 then some (0x38 + (Config.importedSet m).val) else none)
  else if alg = chr 'E' then
    (if n = 32 then some (if usage = chars2 'K' '3' then 8 else 6)
     else if n = 57 then (if usage = chars2 'S' '0' then some 7 else none)
     else if n = 97 then some (weierCode 1 4 32 m)
     else if n = 145 then some (weierCode 2 5 48 m)
     else if n = 199 then some 3
     else if n % 3 = 0 ∧ 28 * 3 + 9 ≤ n ∧ n ≤ 66 * 3 + 9 then some (0x10 + (curveSlotOf curves m).getD 0)
     else none)
  else none

/-- The curve of a CURVE_LOAD input (R267). -/
def curveNums (raw : Bytes) : Weier :=
  let l := ceilDiv (leField raw 0 2) 8
  let f (i : Nat) := beField raw (8 + i * l) l
  { p := f 0, a := f 1, b := f 2, gx := f 3, gy := f 4, n := f 5 }

/-- The raw input of the loaded curve an algorithm code names; empty for a named curve or an empty slot. -/
def curveRaw (curves : Tab (Option Curve)) (code : Nat) : Bytes :=
  if 0x10 ≤ code ∧ code ≤ 0x13 then ((Tab.get none curves (code - 0x10)).map (·.raw)).getD [] else []

/-- The curve of a Weierstrass code, `raw` being the input of the loaded curve. -/
def weierOf (raw : Bytes) (code : Nat) : Weier := if 0x10 ≤ code ∧ code ≤ 0x13 then curveNums raw else namedCurve code

/-- The checks of R266 on private material of a code. -/
def materialValid (curves : Tab (Option Curve)) (code : Nat) (m : Bytes) : Bool :=
  if isWeier code then
    let l := weierLen m
    let d := slice m 0 l
    let c := weierOf (curveRaw curves code) code
    decide (1 ≤ beNat d ∧ beNat d < c.n) && pointBytes l (c.mul (beNat d) c.base) == slice m l (2 * l + 1) &&
      (if m.length % 3 = 0 then (curveSlotOf curves m).isSome else true)
  else if isRsa code then
    let k := rsaLen code
    let n := beField m 2 k
    let e := beField m (2 + k) 4
    let h := k / 2
    let p := beField m (6 + k) h
    let q := beField m (6 + k + h) h
    let dp := beField m (6 + k + 2 * h) h
    let dq := beField m (6 + k + 3 * h) h
    let qi := beField m (6 + k + 4 * h) h
    decide (n = p * q ∧ 1 < p ∧ 1 < q) && decide (dp * e % (p - 1) = 1 % (p - 1)) && decide (dq * e % (q - 1) = 1 % (q - 1)) &&
      decide (qi * q % p = 1 % p) && decide (2 ^ (4 * k - 100) < p - q ∨ 2 ^ (4 * k - 100) < q - p)
  else true

/-! ## The configuration record (11 R311) -/

/-- Its 64 bytes. -/
def cfgBytes (c : PartCfg) : Bytes :=
  leBytes 4 c.slots ++ leBytes 4 c.flows ++ leBytes 4 c.nodes ++ leBytes 4 c.rangeFirst ++ leBytes 4 c.rangeCount ++ leBytes 4 c.blobs ++
  leBytes 4 c.ctxs ++ leBytes 2 c.cache ++
  [BitVec.ofNat 8 c.curves, BitVec.ofNat 8 c.weight, BitVec.ofNat 8 (b2n c.sync), BitVec.ofNat 8 (b2n c.runLate),
   BitVec.ofNat 8 (match c.pin with | some k => 0x80 + k | none => 0)] ++ zeros 5 ++ leBytes 8 c.base ++ leBytes 8 c.size ++ zeros 8

/-- Read it; `none` where a value is outside its range or a reserved byte is not zero. -/
def cfgOf (p : Nat) (b : Bytes) : Option PartCfg :=
  let c : PartCfg := {
    slots := leField b 0 4, flows := leField b 4 4, nodes := leField b 8 4, rangeFirst := leField b 12 4, rangeCount := leField b 16 4,
    blobs := leField b 20 4, ctxs := leField b 24 4, cache := leField b 28 2, curves := (byteAt b 30).toNat, weight := (byteAt b 31).toNat,
    sync := byteAt b 32 == 1, runLate := byteAt b 33 == 1,
    pin := if (byteAt b 34).toNat < 0x80 then none else some ((byteAt b 34).toNat % 4),
    base := leField b 40 8, size := leField b 48 8 }
  let pinByte := (byteAt b 34).toNat
  if (p = 0 ∨ (c.slots ≤ 32256 ∧ c.flows ≤ 65024)) ∧ c.nodes ≤ 114687 ∧
     ((c.rangeFirst = 0 ∧ c.rangeCount = 0) ∨ (1 ≤ c.rangeFirst ∧ c.rangeFirst ≤ 0x1BFFF ∧ 1 ≤ c.rangeCount ∧ c.rangeFirst + c.rangeCount ≤ 0x1C000)) ∧
     c.blobs ≤ 2 ^ 20 ∧ c.ctxs ≤ 65536 ∧ c.cache ≤ 16384 ∧ c.curves ≤ 4 ∧ 1 ≤ c.weight ∧ byteAt b 32 ≤ 1 ∧ byteAt b 33 ≤ 1 ∧
     (pinByte = 0 ∨ (0x80 ≤ pinByte ∧ pinByte ≤ 0x83)) ∧ zeroAt b 35 40 ∧ c.base % 4096 = 0 ∧ c.size % 4096 = 0 ∧ c.base + c.size ≤ 2 ^ 64 ∧
     zeroAt b 56 64 then some c
  else none

/-! ## Vault and other records -/

/-- A vault record of a partition (11 R310; log entry 21). -/
def vaultBytes (v : VaultPart) : Bytes :=
  [BitVec.ofNat 8 (flagAt v.exists_ 0 + flagAt v.master.isSome 1 + flagAt v.tdes 2 + flagAt v.frozen 3 + v.mig * 16 + flagAt v.lost 6 +
    flagAt v.release.isSome 7)] ++ zeros 1 ++ leBytes 2 v.gen ++ fit 32 (v.master.getD []) ++
  (match v.release with | some (n, d) => fit 32 n ++ fit 32 d | none => [])

/-- Read it. -/
def vaultOf (b : Bytes) : VaultPart :=
  let f := (byteAt b 0).toNat
  { exists_ := bitOf f 0, master := if bitOf f 1 then some (slice b 4 32) else none, gen := leField b 2 2, tdes := bitOf f 2, frozen := bitOf f 3,
    mig := bitsOf f 5 4, lost := bitOf f 6, release := if bitOf f 7 then some (slice b 36 32, slice b 68 32) else none }

/-- A derivation context as the DERIV_CONTEXT_SET input gives it (05 R148), and its parent handle (log entry 21). -/
def ctxBytes (c : Ctx) : Bytes :=
  charBytes c.attrs.usage ++ [c.attrs.alg, c.attrs.mode, BitVec.ofNat 8 c.length, 0] ++ leBytes 2 c.attrs.mask.toNat ++
  [BitVec.ofNat 8 c.label.length] ++ zeros 7 ++ fit 32 c.label ++ leBytes 4 c.parent.toNat

/-- Read the 48 bytes of the input, with the parent's handle. -/
def ctxOf (b : Bytes) (parent : W32) : Ctx :=
  { parent := parent,
    attrs := { Attrs.none with usage := BitVec.ofNat 16 (beField b 0 2), alg := byteAt b 2, mode := byteAt b 3, exp := chr 'N',
                               mask := BitVec.ofNat 16 (leField b 6 2), version := chars2 '0' '0' },
    length := (byteAt b 4).toNat, label := slice b 16 (byteAt b 8).toNat }

/-- The layout of a CURVE_LOAD input that loads a curve (09 R267). -/
def curveLayout (raw : Bytes) : Bool :=
  let bits := leField raw 0 2
  let h := (byteAt raw 2).toNat
  decide (224 ≤ bits ∧ bits ≤ 521 ∧ 1 ≤ h ∧ h ≤ 8 ∧ raw.length = 9 + 7 * ceilDiv bits 8) && zeroAt raw 3 8

/-- A loaded curve from its CURVE_LOAD input (09 R267). -/
def curveOf (raw : Bytes) : Curve :=
  { bits := leField raw 0 2, h := (byteAt raw 2).toNat, raw := raw, digest := sha256Head 8 (raw.drop 8) }

/-- A custodian record and its public key. -/
def custBytes (c : Option Custodian) (pub : Bytes) : Bytes :=
  match c with
  | none => [0]
  | some c => [1, c.alg, BitVec.ofNat 8 c.group] ++ fit 48 c.digest ++ pub

/-- The rules of classes 1 to 11 in the layout of POLICY_SET area 2 (12 R344). -/
def ruleBytes (rs : List Rule) : Bytes := rs.flatMap fun r => [BitVec.ofNat 8 r.m, BitVec.ofNat 8 r.d, r.mask, 0]

/-- The tamper policy of entries 0 to 6. -/
def policyBytes (ps : List Policy) : Bytes := ps.flatMap fun p => [BitVec.ofNat 8 p.response, 0] ++ leBytes 2 p.n ++ leBytes 4 p.w

/-- A cell-service window. -/
def windowBytes (cells secs : Nat) : Bytes := [BitVec.ofNat 8 cells] ++ leBytes 2 secs

/-- A pending load. -/
def loadBytes (l : Option PendingLoad) : Bytes :=
  match l with
  | none => []
  | some l => BitVec.ofNat 8 l.master :: l.slots.flatMap fun (n, c, k) => [BitVec.ofNat 8 n, BitVec.ofNat 8 k] ++ fit 32 c

/-- Vault record numbers of kind 7: partition records at their numbers, then the others (log entry 21). -/
def vaultIxCust : Nat := 0x100
def vaultIxRules : Nat := 0x200
def vaultIxPolicy : Nat := 0x201
def vaultIxWindow : Nat := 0x202
def vaultIxLoad : Nat := 0x203

/-- Kind, object index and contents of a commit (15 R422). -/
def Commit.record : Commit → Nat × Nat × Bytes
  | .node i n => (1, i, nodeBytes n)
  | .freeNode i g o => (2, i, nodeBytes { Node.empty with gen := g, owner := o })
  | .ctx p i c => (3, 65536 * p + i, ctxBytes c)
  | .curve p k c => (4, p * 4 + k, (c.map (·.raw)).getD [])
  | .dectab p t d => (5, p * 16 + t, d)
  | .config p c => (6, p, cfgBytes c)
  | .vault p v => (7, p, vaultBytes v)
  | .tr34 p e => (8, p, leBytes 8 e.time ++ fit 16 e.digest)
  | .custodian i c pub => (7, vaultIxCust + i, custBytes c pub)
  | .rules rs => (7, vaultIxRules, ruleBytes rs)
  | .policy ps => (7, vaultIxPolicy, policyBytes ps)
  | .window c n => (7, vaultIxWindow, windowBytes c n)
  | .pendingLoad l => (7, vaultIxLoad, loadBytes l)

/-- Slots of a pending load. -/
def loadSlots : Nat → Bytes → List (Nat × Bytes × Nat)
  | 0, _ => []
  | _ + 1, [] => []
  | f + 1, b => ((byteAt b 0).toNat, slice b 2 32, (byteAt b 1).toNat) :: loadSlots f (b.drop 34)

/-- Read a commit record; `curves` are the loaded curves of a node's owner. -/
def commitOf (curves : Nat → Tab (Option Curve)) (kind index : Nat) (b : Bytes) : Option Commit :=
  match kind with
  | 1 =>
    let n := nodeOf b 0
    let mat := slice b 64 n.material.length
    let code := (materialCode (curves n.owner) n.attrs.usage n.attrs.alg mat).getD 0
    some (.node index { n with attrs := { n.attrs with code := code } })
  | 2 => some (.freeNode index (nodeOf b 0).gen (nodeOf b 0).owner)
  | 3 => some (.ctx (index / 65536) (index % 65536) (ctxOf b (BitVec.ofNat 32 (leField b 48 4))))
  | 4 => some (.curve (index / 4) (index % 4) (if b.length < 8 then none else some (curveOf (b.take (9 + 7 * ceilDiv (leField b 0 2) 8)))))
  | 5 => some (.dectab (index / 16) (index % 16) (fit 16 b))
  | 6 => (cfgOf index b).map fun c => .config index c
  | 7 =>
    if index < vaultIxCust then some (.vault index (vaultOf b))
    else if index < vaultIxRules then
      some (if byteAt b 0 = 0 then .custodian (index - vaultIxCust) none []
        else .custodian (index - vaultIxCust) (some { alg := byteAt b 1, group := (byteAt b 2).toNat, digest := slice b 3 48 })
          (slice b 51 (if byteAt b 1 = 0x02 then 97 else 1952)))
    else if index = vaultIxRules then
      some (.rules ((chunks 4 (b.take 44)).map fun r => { m := (byteAt r 0).toNat, d := (byteAt r 1).toNat, mask := byteAt r 2 }))
    else if index = vaultIxPolicy then
      some (.policy ((chunks 8 b).map fun r => { response := (byteAt r 0).toNat, n := leField r 2 2, w := leField r 4 4 }))
    else if index = vaultIxWindow then
      some (.window (byteAt b 0).toNat (leField b 1 2))
    else if index = vaultIxLoad then
      some (.pendingLoad (if b = [] then none else some { master := (byteAt b 0).toNat, slots := (loadSlots 8 (b.drop 1)).filter fun x => x.1 != 0 }))
    else none
  | 8 => some (.tr34 index { time := leField b 0 8, digest := slice b 8 16 })
  | _ => none

end Sys2Proof.Machine
end

