-- ==== Sys2Proof/Machine/Run.lean ====
section
/-!
DEFINITION. How a command of the opcode map runs: when it is due, draws of random values (10), the keystore records it writes (05
R133 to R135), the changes it commits and what they wait for (05 R144, 15 R426), and its end (03 R75, 04 R78, 11 R320, 13 R372).
-/
namespace Sys2Proof.Machine

/-! ## Results of a run -/

/-- What a command that ends with ST_OK gives: output, changes to lasting objects, events. -/
structure Run where
  /-- Status. -/
  st : W16
  /-- Output bytes. -/
  out : Bytes
  /-- Changes to lasting objects, in order. -/
  commits : List Commit
  /-- Node (or 0x20000 + partition for a master) whose generation they change. -/
  change : Option Nat
  /-- What the completion waits for afterwards. -/
  drain : Drain
  /-- Events. -/
  events : List Ev
  deriving DecidableEq, Repr

/-- ST_OK with an output. -/
def Run.output (b : Bytes) : Run := { st := stOk, out := b, commits := [], change := none, drain := .none, events := [] }

/-- Why a run stops before its end. -/
inductive Stop where
  /-- The command ends with a status; what it drew or consumed stays so. -/
  | fail (st : W16) (s : State)
  /-- A draw waits for the random service: nothing was done (10 R298). -/
  | wait (inst : Option Nat)
  /-- The command waits with what it has done so far (03 R65). -/
  | hold (s : State)

/-- A command's run over the state. -/
abbrev Cmd (α : Type) := StateT State (Except Stop) α

/-- End with a status. -/
def Cmd.fail {α : Type} (st : W16) : Cmd α := fun s => .error (.fail st s)

/-- Go on only if `b` holds. -/
def Cmd.need (b : Bool) (st : W16) : Cmd Unit := fun s => if b then .ok ((), s) else .error (.fail st s)

/-- Go on with a value that is there. -/
def Cmd.some? {α : Type} (o : Option α) (st : W16) : Cmd α := fun s =>
  match o with
  | some a => .ok (a, s)
  | none => .error (.fail st s)

/-- A pure result. -/
def Cmd.of {α : Type} (e : Except W16 α) : Cmd α := fun s =>
  match e with
  | .ok a => .ok (a, s)
  | .error st => .error (.fail st s)

/-- Wait with what has been done. -/
def Cmd.hold {α : Type} : Cmd α := fun s => .error (.hold s)

/-- Go on only if `b` holds, in a pure run. -/
def need (b : Bool) (st : W16) : Except W16 Unit := if b then .ok () else .error st

/-! ## Draws (10 R296 to R302) -/

/-- What frames RANDOM have brought of the standby's copy of a job, from offset `off`; `none` while bytes are missing (15 R424). -/
def fwdRandom (f : Fwd) (off n : Nat) : Option Bytes :=
  let all := (f.random.map (·.2)).flatten
  if off + n ≤ all.length then some (slice all off n) else none

/-- The standby's record of a forwarded job. -/
def fwdOf (s : State) (q : Nat) : Option Fwd := s.pair.fwd.find? fun f => f.seq == q

/-- RANDOM frames for a drawn value: at most 4,096 bytes each (15 R422, R423). -/
def sendRandom (q inst off : Nat) (bs : Bytes) (s : State) : State :=
  if !forwardsJob s q then s else
  ((List.range (ceilDiv bs.length 4096)).foldl (fun s i =>
    let piece := (bs.drop (4096 * i)).take 4096
    sendFrame 0x23 (leBytes 8 q ++ leBytes 2 inst ++ leBytes 2 piece.length ++ leBytes 4 (off + 4096 * i) ++ piece) s) s)

/-- One draw of `n` bytes by a job. -/
def draw (q inst n : Nat) : Cmd Bytes := fun s =>
  match findJob s q with
  | none => .error (.wait none)
  | some j =>
    if j.fwd then
      match (fwdOf s q).bind (fun f => fwdRandom f j.randomOff n) with
      | none => .error (if j.inherited then .fail stCancelled s else .wait none)
      | some b => .ok (b, modJob q (fun x => { x with randomOff := x.randomOff + n }) s)
    else if !instServes s inst then .error (.fail stEntropyFault s)
    else if drbgCeiling ≤ (instAt s inst).count then .error (.wait (some inst))
    else
      let (b, s) := drawInst inst n s
      .ok (b, modJob q (fun x => { x with randomOff := x.randomOff + n }) (sendRandom q inst j.randomOff b s))

/-- Bytes that a job takes from its own module and that the standby's copy takes from RANDOM frames, as it takes draws: the frames name no
other carrier (log entry 32). -/
def share (q n : Nat) (f : State → Bytes × State) : Cmd Bytes := fun s =>
  match findJob s q with
  | none => .error (.wait none)
  | some j =>
    if n = 0 then .ok ([], s)
    else if j.fwd then
      match (fwdOf s q).bind (fun f => fwdRandom f j.randomOff n) with
      | none => .error (if j.inherited then .fail stCancelled s else .wait none)
      | some b => .ok (b, modJob q (fun x => { x with randomOff := x.randomOff + n }) s)
    else
      let (b, s) := f s
      let b := fit n b
      .ok (b, modJob q (fun x => { x with randomOff := x.randomOff + n }) (sendRandom q j.part j.randomOff b s))

/-- Bytes whose source the spec leaves open, such as the pad of a key field: free values (log entry 32). -/
def drawFree (q n : Nat) : Cmd Bytes := share q n (freeBytes n)

/-- The network time a command judges and writes: T, the state's code, TIME_ERR_BOUND, and the NTB first set (02 R34, R35). -/
structure Clock where
  /-- T. -/
  t : Nat
  /-- State code. -/
  state : Nat
  /-- TIME_ERR_BOUND. -/
  bound : Nat
  /-- NTB first set; 2^64 - 1 before. -/
  first : Nat
  deriving DecidableEq, Repr

/-- Read it: a forwarded job takes the active's (log entry 32). -/
def readClock (q : Nat) : Cmd Clock := do
  let b ← share q 21 fun s => (leBytes 8 (ntbNow s) ++ [BitVec.ofNat 8 s.time.state.code] ++ leBytes 4 (errBound s) ++
    leBytes 8 (s.time.firstSet.getD (2 ^ 64 - 1)), s)
  return { t := leField b 0 8, state := (byteAt b 8).toNat, bound := leField b 9 4, first := leField b 13 8 }

/-- The stamp of R36. -/
def Clock.stamp (c : Clock) : Nat := c.t / 4 * 4 + c.state

/-- An authorisation or certificate window at a clock (02 R35): `none` while NTB is UNSET. -/
def Clock.within (c : Clock) (start end_ : Nat) : Option Bool :=
  match c.state with
  | 0 => none
  | 2 => some (decide (start + c.bound ≤ c.t ∧ c.t + c.bound < end_))
  | _ => some (decide (start ≤ c.t ∧ c.t < end_))

/-! ## Input (03 R569) -/

/-- The input is all there. -/
def Job.inputDone (j : Job) : Bool :=
  j.desc.inlined || decide (((j.pieces.map fun x => x.2.length).sum) = j.desc.inLen)

/-- The input bytes, in order of offset. -/
def Job.input (j : Job) : Bytes :=
  if j.desc.inlined then (leBytes 8 j.desc.inIova).take j.desc.inLen else (j.pieces.map (·.2)).flatten

/-! ## Commands that run one at a time (07 R207, 09 R269, 11 R314, 12 R350) -/

/-- Commands that judge an authorisation list, and CUSTODIAN_SESSION (12 R343, R350). -/
def judgesAuth (d : Desc) : Bool :=
  match d.opcode.toNat with
  | 0x0101 | 0x0102 | 0x0107 | 0x010A | 0x010B | 0x010C | 0x010D | 0x010E | 0x0110 => true
  | 0x0108 => d.par 57 == 1
  | 0x010F => d.par 56 == 2
  | 0x0112 => d.par 56 == 1
  | _ => false

/-- The partition a partition-0 command names (11 R314). -/
def namesPart (d : Desc) : Option Nat :=
  let o := d.opcode.toNat
  if (0x0101 ≤ o ∧ o ≤ 0x0108) ∨ o = 0x010C then some (d.par 56) else none

/-- Two jobs must run one after the other. -/
def sameSerial (a b : Job) : Bool :=
  (judgesAuth a.desc && judgesAuth b.desc) ||
  (match namesPart a.desc, namesPart b.desc with | some p, some r => p == r | _, _ => false) ||
  (a.desc.opcode == b.desc.opcode && a.part == b.part && (a.desc.opcode == 0x020F || a.desc.opcode == 0x0709))

/-- No earlier command that this one must follow is still to complete. -/
def serialFree (s : State) (j : Job) : Bool := !(s.jobs.any fun k => decide (k.seq < j.seq) && k.live && sameSerial k j)

/-! ## When a command is due -/

/-- The job a command of opcode `op` is for, if it may run now: a command that names a partition waits while that is reset (11 R309). -/
def due (s : State) (op : W16) (sel : Job → Bool) (q : Nat) : Option Job :=
  match findJob s q with
  | none => none
  | some j =>
    let held := match namesPart j.desc with | some p => (partAt s p).resetting.isSome && !j.fwd | none => false
    if j.desc.opcode == op && sel j && (j.phase == .running || j.phase == .waitRandom || j.phase == .waiting) && serialFree s j && !held then
      some j
    else none

/-! ## Keystore records (05 R133 to R135) -/

/-- A change that needs a record: the node after it, or the handle of a node deleted. -/
inductive KsChange where
  | put (index : Nat) (n : Node)
  | delete (handle : W32)
  deriving DecidableEq, Repr

/-- Length of a record (R134). -/
def KsChange.len : KsChange → Nat
  | .put _ n => ceilDiv (32 + blockLen n.material.length) 64 * 64
  | .delete _ => 64

/-- A node written over a current one keeps the invocation counter and reservation, which bindings may have moved on since the command
ran (R146, R147; log entry 33). -/
def keepCount (o n : Node) : Node :=
  if o.state = .current then { n with gcm := Nat.max o.gcm n.gcm, gcmRes := Nat.max o.gcmRes n.gcmRes, exhausted := o.exhausted } else n

/-- The records the changes of a job need. A restore, a migration and a destruction write none (R139, 11 R316, R325). -/
def ksChanges (s : State) (j : Job) : List KsChange :=
  if j.copied then [] else
  match j.desc.opcode.toNat with
  | 0x0101 | 0x0102 | 0x0106 | 0x0107 => []
  | o =>
    if o = 0x0201 ∧ j.desc.keyA = 0 then [] else
    j.commits.filterMap fun c => match c with
      | .node i n => if n.persistent then some (.put i (keepCount (nodeAt s i) n)) else none
      | .freeNode i g _ => if (nodeAt s i).persistent then some (.delete (nodeHandle i g)) else none
      | _ => none

/-- Bytes needed at the tail for a record, a skip included. -/
def KsRing.needs (k : KsRing) (len : Nat) : Nat := if 2 ^ k.log2 - k.tail < len then 2 ^ k.log2 - k.tail + len else len

/-- Free space (R135). -/
def KsRing.free (k : KsRing) : Nat := (k.head + 2 * 2 ^ k.log2 - k.tail - 64) % 2 ^ k.log2

/-- The tail moves past a record. -/
def KsRing.advance (len : Nat) (k : KsRing) : KsRing := { k with tail := (k.tail + k.needs len) % 2 ^ k.log2, seq := k.seq + 1 }

/-- The records fit one after the other. -/
def KsRing.room : KsRing → List Nat → Bool
  | _, [] => true
  | k, l :: r => decide (k.needs l ≤ k.free) && (k.advance l).room r

/-- A partition's ring has room for the records, and lies inside its window (R135, 11 R317). -/
def ksReady (s : State) (p : Nat) (cs : List KsChange) : Bool :=
  let x := partAt s p
  decide (cs = []) || (x.ks.en && inWindow x.cfg p x.ks.base (2 ^ x.ks.log2) && x.ks.room (cs.map KsChange.len) && !dmaOff s p)

/-- The blob protection key of a partition (R108); no bytes without a master. -/
def kbpk (s : State) (p : Nat) : Bytes :=
  match (vaultAt s p).master with
  | some m => kbpkOf m p (vaultAt s p).gen
  | none => []

/-- The Zalilys block of a node (R130): a keystore record carries the GCM reservation (log entry 23). -/
def zOf (index : Nat) (n : Node) (gcm ksSeq : Nat) : ZBlock :=
  { owner := n.owner, mask := n.attrs.mask, notBefore := n.attrs.notBefore, notAfter := n.attrs.notAfter, gcm := gcm, parent := n.parent,
    persistent := n.persistent, handle := nodeHandle index n.gen, check := n.check, ksSeq := ksSeq }

/-- Write one record (R134). A skip record carries no sequence. The pad of the key field is free (log entry 5). -/
def ksWrite (p : Nat) (c : KsChange) (s : State) : State :=
  let k := (partAt s p).ks
  let toEnd := 2 ^ k.log2 - k.tail
  let s := if toEnd < c.len then
      hostWrite p (k.base + k.tail) (fit toEnd (leBytes 4 toEnd ++ zeros 12 ++ leBytes 8 (stamp s).toNat)) 0x20 2 s
    else s
  let off := if toEnd < c.len then 0 else k.tail
  let head (kind : Byte) (h : W32) : Bytes :=
    leBytes 4 c.len ++ [kind, 0, 0, 0] ++ leBytes 8 k.seq ++ leBytes 8 (stamp s).toNat ++ leBytes 4 h.toNat ++ zeros 4
  let (bs, s) := match c with
    | .put i n =>
      let (pad, s) := freeBytes (blockPadLen n.material.length) s
      (head 1 (nodeHandle i n.gen) ++ wrapBlock (kbpk s p) n.attrs (zOf i n (Nat.max n.gcm n.gcmRes) k.seq) n.material pad, s)
    | .delete h => (head 2 h, s)
  let s := hostWrite p (k.base + off) (fit c.len bs) 0x20 2 s
  modPart p (fun x => { x with ks := x.ks.advance c.len }) s

/-! ## Extension slots held for draining jobs (05 R141, R143) -/

/-- A job still holds a binding of a node at a generation. -/
def boundTo (s : State) (i g : Nat) : Bool :=
  s.jobs.any fun j => j.phase != .retired && j.phase != .lag &&
    ((match j.keyA with | some b => b.node == i && b.gen == g | none => false) ||
     (match j.keyB with | some b => b.node == i && b.gen == g | none => false))

/-- The next generation (R112). -/
def nextGen (g : Nat) : Nat := if 8191 ≤ g then 1 else g + 1

/-- Free the held slots whose draining jobs have retired: a freed slot keeps its owner, and its generation moves on (R111). -/
def freeHeld (s : State) : State :=
  { s with mas := { s.mas with nodes := s.mas.nodes.map fun x =>
      if x.2.state = .held then
        match x.2.parent with
        | .node i g => if boundTo s i g then x else (x.1, { Node.empty with gen := nextGen x.2.gen, owner := x.2.owner, changedAt := x.2.changedAt })
        | .master _ => x
      else x } }

/-- The passes a further change of generation is counted from (R144; log entry 24). -/
def changeMark (s : State) : Nat := s.mas.passes + (if s.mas.sweep = 0 then 0 else 1)

/-- Mark the extension slots of a node held (R141, R143). -/
def holdExt (i : Nat) (s : State) : State :=
  let n := nodeAt s i
  (List.range n.extCount).foldl (fun s k =>
    let x := nodeAt s (n.extFirst + k)
    setNode (n.extFirst + k) { x with state := .held, parent := .node i n.gen, material := [] } s) s

/-- Write a node with its extension slots: a changed generation is noted, and slots given up are held. -/
def writeNode (i : Nat) (n : Node) (s : State) : State :=
  let o := nodeAt s i
  let changed := o.state = .current ∧ o.gen ≠ n.gen
  let keep := o.state = .current ∧ o.extFirst = n.extFirst ∧ o.extCount = n.extCount
  let s := if keep then s else holdExt i s
  let s := setNode i { keepCount o n with changedAt := if changed then some (changeMark s) else o.changedAt } s
  if keep then s else
  (List.range n.extCount).foldl (fun s k =>
    let x := nodeAt s (n.extFirst + k)
    setNode (n.extFirst + k) { Node.empty with state := .ext, gen := x.gen, owner := n.owner, parent := .node i n.gen, changedAt := x.changedAt } s) s

/-- Free a node slot: zeroised, with the generation given (R111, R143). -/
def eraseNode (i g owner : Nat) (s : State) : State :=
  let s := holdExt i s
  setNode i { Node.empty with gen := g, owner := owner, changedAt := some (changeMark s) } s

/-! ## Effects of commits on whole partitions (08 R233, 10 R295, 11 R313, R315, R316) -/

/-- Pinning takes effect core by core: free cores at once, the others at their next yield point or release (08 R233). -/
def setPinning (c : Nat) (v : Option Nat) (s : State) : State :=
  let s := { s with eng := { s.eng with colour := Tab.set none s.eng.colour c v } }
  (List.range 4).foldl (fun s k => modNewt (4 * c + k) (fun x => if x.owner = .free then { x with colour := v } else x) s) s

/-- Evict least recently used unbound entries until a partition holds at most `lim` (05 R127, 11 R313). -/
def trimCache (p lim : Nat) : Nat → List CacheEntry → List CacheEntry
  | 0, es => es
  | f + 1, es =>
    if (es.filter fun e => e.part == p).length ≤ lim then es
    else match es.find? (fun e => e.part == p && e.holders.isEmpty) with
      | none => es
      | some e => trimCache p lim f (es.erase e)

/-- Commit a configuration (11 R313). The weight acts on the fetch round at once and on entitlement from the next window. -/
def applyConfig (p : Nat) (c : PartCfg) (s : State) : State :=
  let old := (partAt s p).cfg
  let c := if p = 0 then { c with slots := 512, flows := 512 } else c
  let s := modPart p (fun x => { x with cfg := c }) s
  let s := { s with mas := { s.mas with cache := trimCache p c.cache s.mas.cache.length s.mas.cache } }
  if old.pin = c.pin then s else
  let s := match old.pin with | some k => note 0x184 (6 + k) [k, p, 0, 1] (setPinning k none s) | none => s
  match c.pin with | some k => note 0x184 (6 + k) [k, 0, p, 1] (setPinning k (some p) s) | none => s

/-- A partition comes into being (11 R315): its DRBG instance, its statistics and counters, PART_CFG and the sequence from which its
journal window reads. -/
def bringUp (p q : Nat) (s : State) : State :=
  let s := if rngServing s then instantiateInst p s else s
  modPart p (fun x => { x with
    pmcUserRead := false, admitted := 0, dreject := 0, missed := 0, late := 0, floor := 0, cnt := [], createSeq := q,
    resetting := none, destroying := false, freezing := false }) s

/-- The rings of a partition return to their reset values; descriptor reads still to arrive are discarded when they do (11 R320). -/
def resetRings (p : Nat) (s : State) : State :=
  { s with rings := s.rings.filterMap fun x =>
      if x.1 / 16 ≠ p then some x
      else if x.2.reads = [] then none
      else
        let rs := x.2.reads.map fun r => { r with discard := true }
        some (x.1, { Ring.reset with reads := rs, reserved := (rs.map (·.count)).sum }) }

/-- The nodes, extension slots, loaded blobs and cache entries of a partition are zeroised, every generation moved on (11 R316 step 3). -/
def wipeNodes (p : Nat) (s : State) : State :=
  { s with mas := { s.mas with
    nodes := s.mas.nodes.map fun x => if x.2.owner = p ∧ x.2.state ≠ .free
      then (x.1, { Node.empty with gen := nextGen x.2.gen, owner := p, changedAt := some (changeMark s) }) else x,
    blobs := s.mas.blobs.filter (fun b => b.part != p), cache := s.mas.cache.filter (fun e => e.part != p) } }

/-- Everything of a partition in main-domain SRAM is zeroised: nodes and extension slots with their generations incremented, loaded
blobs, cache entries, contexts, curves, tables, TR-34 table, blob table, keystore ring, migration data, DRBG instance and rings (11
R316 steps 3 to 6). -/
def wipePart (p : Nat) (s : State) : State :=
  let s := setInst p Drbg.off (wipeNodes p s)
  let s := match (partAt s p).cfg.pin with | some k => setPinning k none s | none => s
  let s := modPart p (fun x => { Part.reset with bme := x.bme, d3hot := x.d3hot, cnt := x.cnt }) s
  resetRings p s

/-- No migration is under way. -/
def Migration.none_ : Migration := { offer := none, images := [], restored := none }

/-- The contents of a partition are zeroised and its offer closed; it stays as it is otherwise (11 R334). -/
def wipeContents (p : Nat) (s : State) : State :=
  modPart p (fun x => { x with ctxs := [], curves := [], dectabs := [], migr := Migration.none_ }) (wipeNodes p s)

/-- What follows a vault record that changes FROZEN or MIG: a thaw or an activation ends the migration data, an abort zeroises what was
restored, a restore instantiates the DRBG anew (11 R295, R324, R334). -/
def afterVault (p : Nat) (old v : VaultPart) (s : State) : State :=
  let s := if v.frozen then modPart p (fun x => { x with freezing := false }) s else s
  if old.frozen && !v.frozen then modPart p (fun x => { x with migr := Migration.none_ }) s
  else if old.mig = 3 ∧ v.mig = 0 then wipeContents p s
  else if old.mig = 1 ∧ v.mig = 0 then modPart p (fun x => { x with migr := Migration.none_ }) s
  else if old.mig ≠ 3 ∧ v.mig = 3 ∧ rngServing s then instantiateInst p s
  else s

/-- Write a vault record; existence begins or ends with it. -/
def applyVault (p : Nat) (v : VaultPart) (q : Nat) (s : State) : State :=
  let old := vaultAt s p
  let s := modVault p (fun _ => v) s
  if v.exists_ && !old.exists_ then bringUp p q s else if !v.exists_ && old.exists_ then wipePart p s else afterVault p old v s

/-- Add a TR-34 entry; with 64 held, the earliest is dropped and the floor rises to it (07 R206). -/
def addTr (e : TrEntry) (x : Part) : Part :=
  if x.tr34.length < 64 then { x with tr34 := x.tr34 ++ [e] }
  else
    let m := x.tr34.foldl (fun a t => Nat.min a t.time) e.time
    match x.tr34.find? (fun t => t.time == m) with
    | some old => { x with tr34 := x.tr34.erase old ++ [e], trFloor := some (Nat.max m (x.trFloor.getD 0)) }
    | none => { x with trFloor := some (Nat.max m (x.trFloor.getD 0)) }

/-- The rules of classes 1 to 11 as a table. -/
def ruleTab (rs : List Rule) : Tab Rule :=
  (List.range rs.length).foldl (fun t i => Tab.set Rule.default_ t (i + 1) (rs.getD i Rule.default_)) []

/-- The policy entries as a table. -/
def policyTab (ps : List Policy) : Tab (Option Policy) :=
  (List.range ps.length).foldl (fun t i => Tab.set none t i ps[i]?) []

/-- Write the vault. -/
def setVault (v : Vault) (s : State) : State := { s with vault := v }

/-- Apply one commit (15 R425: at the index it names). -/
def applyCommit (q : Nat) (s : State) (c : Commit) : State :=
  match c with
  | .node i n => writeNode i n s
  | .freeNode i g o => eraseNode i g o s
  | .ctx p i x => modPart p (fun y => { y with ctxs := Tab.set none y.ctxs i (some x) }) s
  | .curve p k x => modPart p (fun y => { y with curves := Tab.set none y.curves k x }) s
  | .dectab p t d => modPart p (fun y => { y with dectabs := Tab.set none y.dectabs t (some d) }) s
  | .config p c => applyConfig p c s
  | .vault p v => applyVault p v q s
  | .tr34 p e => modPart p (addTr e) s
  | .custodian i c pub => { s with
      vault := { s.vault with custodians := Tab.set none s.vault.custodians i c }
      nv := { s.nv with keyStore := Tab.set [] s.nv.keyStore i pub } }
  | .rules rs => setVault { s.vault with rules := ruleTab rs } s
  | .policy ps => { s with
      vault := { s.vault with policy := policyTab ps }
      tmp := { s.tmp with mons := s.tmp.mons.map fun x => (x.1, { x.2 with times := [] }) } }
  | .window c n => { s with vault := { s.vault with window := some { cells := c, until_ := s.time.mono + 1000000000 * n, secs := n } } }
  | .pendingLoad l => { s with vault := { s.vault with load := l } }

/-! ## The gates a commit passes (05 R135, R144; 15 R426) -/

/-- A change of generation must wait for a full pass since the last one (R144). -/
def changeWaits (s : State) (c : Option Nat) : Bool :=
  match c with
  | none => false
  | some i =>
    if i < 0x20000 then (match (nodeAt s i).changedAt with | some c => decide (s.mas.passes ≤ c) | none => false)
    else (match Tab.get none s.mas.masterMarks (i - 0x20000) with | some c => decide (s.mas.passes ≤ c) | none => false)

/-- The partition whose keystore ring and bindings a job's changes concern. -/
def Job.subject (j : Job) : Nat := match namesPart j.desc with | some p => p | none => j.part

/-- COMMIT frames of a job's changes, in order (15 R422): the keystore sequence of those that write a record. -/
def sendCommits (j : Job) (s : State) : State :=
  j.commits.foldl (fun s c =>
    let (kind, ix, bs) := c.record
    let ks := if ksChanges s j = [] then 0 else (partAt s j.subject).ks.seq
    sendFrame 0x24 (leBytes 8 j.seq ++ [BitVec.ofNat 8 kind, 0, 0, 0] ++ leBytes 4 ix ++ leBytes 8 ks ++ bs) s) s

/-- The jobs whose retirement or completion the completion of `j` waits for, once it has committed. A PART_CONFIGURE of partition 0 does
not wait for the jobs admitted after it, which may wait for it (11 R313, R314; log entry 49). -/
def drainJobs (s : State) (j : Job) : List Nat :=
  let open_ := s.jobs.filter fun k => k.seq != j.seq && k.part == j.subject && k.phase != .retired && k.phase != .lag
  let bound (p : Binding → Bool) (k : Job) : Bool :=
    (match k.keyA with | some b => p b | none => false) || (match k.keyB with | some b => p b | none => false)
  match j.drain with
  | .none => []
  | .bound => (open_.filter (bound fun _ => true)).map (·.seq)
  | .node i g => (open_.filter (bound fun b => b.node == i && b.gen == g)).map (·.seq)
  | .tdes => (open_.filter (bound fun b => isTdes b.attrs)).map (·.seq)
  | .all => ((s.jobs.filter fun k => k.seq != j.seq && k.part == j.subject && k.live && (j.part != j.subject || decide (k.seq < j.seq))).map (·.seq))

/-- Events of a command whose completion waits for others are recorded with the completion (08 R231, 11 R323). -/
def lateEvents (d : Drain) : Bool :=
  match d with
  | .tdes | .all => true
  | _ => false

/-- Key of an object among the commit sequences: a node is one object whether written or freed. -/
def objectKey (kind index : Nat) : Nat := 2 ^ 25 * (if kind = 2 then 1 else kind) + index

/-- Note the sequence of the last commit of some objects (15 R440). -/
def noteCommits (q : Nat) (os : List (Nat × Nat)) (s : State) : State :=
  { s with pair := { s.pair with commitSeqs := os.foldl (fun t o => Tab.set 0 t (objectKey o.1 o.2) q) s.pair.commitSeqs } }

/-- The commits take effect, their records are written, and the job ends. -/
def commitJob (q : Nat) (s : State) : State :=
  match findJob s q with
  | none => s
  | some j =>
    let ks := ksChanges s j
    let masters := s.mas.masterMarks
    let s := j.commits.foldl (applyCommit q) s
    let s := match j.change with
      | some i => if i < 0x20000 then s else { s with mas := { s.mas with masterMarks := Tab.set none masters (i - 0x20000) (some (changeMark s)) } }
      | none => s
    let s := ks.foldl (fun s c => ksWrite j.subject c s) s
    let waits := drainJobs s j
    let s := if lateEvents j.drain then s else noteAll j.events s
    let log := j.commits.map fun c => c.record.2.2
    let s := noteCommits q (j.commits.map fun c => (c.record.1, c.record.2.1)) s
    modJob q (fun x => { x with
      phase := .ended, ending := .ran, committed := true, commitLog := log, commits := [],
      afterRetired := if j.drain = .all then [] else waits, afterDone := if j.drain = .all then waits else [],
      events := if lateEvents j.drain then x.events else [] }) (releaseHeld j s)

/-- The node a command changes is no longer the one it bound (log entry 30). -/
def targetGone (s : State) (j : Job) : Bool :=
  match j.change, j.keyA with
  | some i, some b => decide (i < 0x20000) && !((nodeAt s i).state == .current && (nodeAt s i).gen == b.gen)
  | _, _ => false

/-- Carry a job's commits as far as its gates allow. -/
def gates (q : Nat) (s : State) : State :=
  match findJob s q with
  | none => s
  | some j =>
    let ks := ksChanges s j
    if targetGone s j && !j.copied then endJob q stKeyGone .ran s
    else if changeWaits s j.change then modJob q (fun x => { x with phase := .waitSweep }) s
    else if !ksReady s j.subject ks then
      let k := (partAt s j.subject).ks
      let x := (partAt s j.subject)
      let s := if ksWaiting s j.subject = 0 then note 0x105 4 [j.subject, k.head, k.tail] s else s
      let s := if k.en && !inWindow x.cfg j.subject k.base (2 ^ k.log2) then partError j.subject false k.base 3 j.ring j.desc.opcode s else s
      modJob q (fun x => { x with phase := .waitKeystore }) s
    else if forwardsJob s q && !j.acked && !j.fwd then
      let s := if j.phase = .waitAck then s else
        let s := sendCommits j s
        modJob q (fun x => { x with commitLink := s.pair.txSeq - 1 + s.pair.backlog.length }) s
      modJob q (fun x => { x with phase := .waitAck }) s
    else commitJob q (if streaming s && !j.fwd && !j.acked then sendCommits j s else s)

/-! ## The end of a run -/

/-- An inherited job commits what its COMMIT frames have not brought already (15 R436). -/
def inheritCommits (j : Job) (s : State) : State :=
  match (if j.fwd then fwdOf s j.seq else none) with
  | some f => if f.commits = [] then s else modJob j.seq (fun x => { x with commits := x.commits.drop f.commits.length, change := none }) s
  | none => s

/-- The run has given its result. -/
def complete (j : Job) (r : Run) (s : State) : State :=
  let q := j.seq
  match j.doom with
  | some st => endJob q st .reset s
  | none =>
    if j.desc.outCap < r.out.length then endJob q stFormat .ran s
    else
      let s := modJob q (fun x => { x with
        status := r.st, output := r.out, commits := r.commits, change := r.change, drain := r.drain, events := r.events, cancel := false }) s
      if r.commits = [] ∧ r.drain = .none then
        let s := modJob q (fun x => { x with phase := .ended, ending := .ran, events := [] }) (releaseHeld j s)
        noteAll r.events s
      else if j.copied then
        noteAll r.events (modJob q (fun x => { x with
          phase := .ended, ending := .ran, commitLog := r.commits.map fun c => c.record.2.2, drain := .none, events := [] })
          (releaseHeld j s))
      else gates q (inheritCommits j s)

/-- A draw at the ceiling: event 0x1C4 once an episode (10 R298). -/
def noteBlocked (i : Nat) (s : State) : State :=
  if (instAt s i).blockedNoted then s
  else note 0x1C4 16 [i, ((List.range 3).filter fun k => (Tab.get Source.start s.rng.sources k).state == 1).length]
    (setInst i { instAt s i with blockedNoted := true } s)

/-- The state a command runs from: the standby's copy of a job whose commits have already taken effect runs from what stood before
them (15 R424, R425; log entry 39). -/
def viewOf (s : State) (j : Job) : State :=
  match (if j.fwd then (fwdOf s j.seq).bind (·.before) else none) with
  | some (m, p, v) => { s with mas := m, parts := p, vault := v }
  | none => s

/-- What a run from such a view leaves: Massif, partitions and vault stay as they are. -/
def unview (s : State) (j : Job) (s' : State) : State :=
  match (if j.fwd then (fwdOf s j.seq).bind (·.before) else none) with
  | some _ => { s' with mas := s.mas, parts := s.parts, vault := s.vault }
  | none => s'

/-- A run from the view of its job. -/
def runView (j : Job) (f : Cmd Run) (s : State) : Except Stop (Run × State) :=
  match f (viewOf s j) with
  | .ok (r, s') => .ok (r, unview s j s')
  | .error (.fail st s') => .error (.fail st (unview s j s'))
  | .error (.wait i) => .error (.wait i)
  | .error (.hold s') => .error (.hold (unview s j s'))

/-- Carry a run's result into the state. -/
def finish (j : Job) (r : Except Stop (Run × State)) (s : State) : State :=
  match r with
  | .ok (r, s') => complete j r s'
  | .error (.fail st s') => endJob j.seq (match j.doom with | some d => d | none => st) .ran s'
  | .error (.wait i) =>
    let s := modJob j.seq (fun x => { x with phase := .waitRandom }) s
    match i with | some i => noteBlocked i s | none => s
  | .error (.hold s') => modJob j.seq (fun x => { x with phase := .waiting }) s'

/-- Run the command of opcode `op` for job `q`, if it is due. -/
def runOp (op : W16) (sel : Job → Bool) (f : Job → Cmd Run) (q : Nat) (s : State) : State :=
  match due s op sel q with
  | none => s
  | some j => match j.doom with
    | some st => endJob q st .reset s
    | none => finish j (runView j (f j) s) s

/-- Run a command that neither draws nor waits. -/
def runPure (op : W16) (f : State → Job → Except W16 Run) (q : Nat) (s : State) : State :=
  runOp op (fun _ => true) (fun j => do Cmd.of (f (← get) j)) q s

/-- Every job. -/
def anyJob (_ : Job) : Bool := true

end Sys2Proof.Machine
end

