-- ==== Sys2Proof/Machine/Bind.lean ====
section
/-!
DEFINITION. Binding of key handles (05 R110, R122 to R128, R131, R132, R146, R147), the roles the command chapters give
(05 R148, 06 R161, R164, 07 R186, R198 to R201, R204, 08 R217, R218, R226, 09 R254, R270), allocation of node slots (05 R111, R114),
the reading of blobs and input (03 R569) and a job's way to its unit.
-/
namespace Sys2Proof.Machine

/-! ## Roles -/

/-- One set of usages with its modes of use and engine bit. -/
structure Alt where
  /-- Usages; empty for any. -/
  usages : List W16
  /-- Modes of use; empty for any. -/
  modes : List Char
  /-- Engine mask bits that must be set. -/
  bits : Nat
  deriving DecidableEq, Repr

/-- What a key role asks. -/
structure Role where
  /-- Alternatives. -/
  alts : List Alt
  /-- The handle may be zero. -/
  zero : Bool
  /-- Only a node handle (type 00) serves (log entry 25). -/
  nodeOnly : Bool
  deriving DecidableEq, Repr

/-- Modes that encrypt or wrap, decrypt or unwrap, make MACs, check MACs, derive (05 R119). -/
def mEnc : List Char := ['E', 'B', 'N']
def mDec : List Char := ['D', 'B', 'N']
def mGen : List Char := ['G', 'C', 'N']
def mVer : List Char := ['V', 'C', 'N']
def mDer : List Char := ['X', 'N']

/-- A role with one alternative. -/
def role1 (us : List W16) (ms : List Char) (bits : Nat) : Role := { alts := [⟨us, ms, bits⟩], zero := false, nodeOnly := false }
/-- Any key. -/
def roleAny : Role := role1 [] [] 0
/-- The key-encryption usages K0 and K1. -/
def kekUsages : List W16 := [chars2 'K' '0', chars2 'K' '1']
/-- A KEK that unwraps, and one that wraps. -/
def roleUnwrap : Role := role1 kekUsages mDec mWrap
def roleWrap : Role := role1 kekUsages mEnc mWrap
/-- A PIN key that deciphers, and one that enciphers. -/
def rolePinIn : Role := role1 [chars2 'P' '0'] mDec mPinv
def rolePinOut : Role := role1 [chars2 'P' '0'] mEnc mPinv

/-- The role of key A of an opcode; `none` where the handle must be zero (03 R73). -/
def roleA (d : Desc) : Option Role :=
  match d.opcode.toNat with
  | 0x0201 => some { roleUnwrap with zero := true }
  | 0x0202 => some (role1 [] [] mExport)
  | 0x0204 | 0x0205 => some { roleAny with nodeOnly := true }
  | 0x0206 => some { alts := [⟨[], [], mKdf⟩, ⟨[], [], mWrap⟩], zero := false, nodeOnly := true }
  | 0x0207 | 0x0208 | 0x020B => some roleAny
  | 0x0209 => some roleUnwrap
  | 0x020C => some (role1 [] mDer mKdf)
  | 0x020F => some (role1 [chars2 'K' '2'] mDec (mIguana + mWrap))
  | 0x0301 => some { alts := [⟨[chars2 'P' '0'], mDec, mPinv⟩, ⟨[chars2 'B' '0'], mDer, mKdf⟩], zero := false, nodeOnly := false }
  | 0x0302 | 0x0303 | 0x0304 | 0x0305 => some rolePinIn
  | 0x0401 | 0x0402 => some (role1 [chars2 'E' '0'] mDer mKdf)
  | 0x0403 => some (role1 [chars2 'E' '2'] mDer mKdf)
  | 0x0404 | 0x0405 => some (role1 [chars2 'E' '1'] mDer mKdf)
  | 0x0406 => some (role1 [chars2 'C' '0'] mGen mNewt)
  | 0x0407 => some (role1 [chars2 'C' '0'] mVer mNewt)
  | 0x0501 => some (role1 [chars2 'B' '0'] mDer mKdf)
  | 0x0502 | 0x0503 | 0x0504 | 0x0505 => some (role1 [chars2 'B' '0', chars2 'B' '1'] mDer mKdf)
  | 0x0601 => some { role1 [chars2 'D' '0'] mEnc mNewt with nodeOnly := d.par 56 == 5 }
  | 0x0602 => some (role1 [chars2 'D' '0'] mDec mNewt)
  | 0x0603 => some (role1 [chars2 'M' '1', chars2 'M' '3', chars2 'M' '6'] mGen mNewt)
  | 0x0604 => some (role1 [chars2 'M' '1', chars2 'M' '3', chars2 'M' '6'] mVer mNewt)
  | 0x0605 => some (role1 [chars2 '9' '0'] mEnc mFf1)
  | 0x0606 => some (role1 [chars2 '9' '0'] mDec mFf1)
  | 0x0701 => some (role1 [chars2 'S' '0'] ['S', 'N'] mIguana)
  | 0x0702 => some { role1 [chars2 'S' '0'] ['V', 'S', 'N'] mIguana with zero := true }
  | 0x0704 => some (role1 [chars2 'K' '3'] mDer mIguana)
  | 0x0705 | 0x0708 => some { role1 [chars2 'D' '1'] mEnc mIguana with zero := true }
  | 0x0706 | 0x0707 => some (role1 [chars2 'D' '1'] mDec mIguana)
  | 0x0902 => some (role1 [chars2 'M' '7'] mGen mIguana)
  | _ => none

/-- The role of key B. -/
def roleB (d : Desc) : Option Role :=
  match d.opcode.toNat with
  | 0x0202 | 0x0209 | 0x0501 => some roleWrap
  | 0x0203 | 0x0703 => some { roleWrap with zero := true }
  | 0x0204 => some { roleUnwrap with zero := true }
  | 0x020F => some { role1 [chars2 'K' '2'] ['V', 'N'] mIguana with nodeOnly := true }
  | 0x0301 | 0x0306 => some rolePinOut
  | 0x0302 => some (role1 [chars2 'V' '1'] mVer mPinv)
  | 0x0303 => some (role1 [chars2 'V' '2'] mVer mPinv)
  | 0x0304 => some (role1 [chars2 'V' '1'] mGen mPinv)
  | 0x0305 => some (role1 [chars2 'V' '2'] mGen mPinv)
  | 0x0405 => some rolePinIn
  | 0x0307 => if d.keyB = 0 then none else some (role1 [chars2 'D' '2'] mVer mPinv)
  | _ => none

/-- A role's handle. -/
def Desc.handle (d : Desc) (second : Bool) : W32 := if second then d.keyB else d.keyA
/-- A role. -/
def roleOf (d : Desc) (second : Bool) : Option Role := if second then roleB d else roleA d

/-- The opcode checks a role's handle itself, without binding: BLOB_EVICT names a table entry (05 R132, log entry 25). -/
def unbound (d : Desc) (second : Bool) : Bool := d.opcode == 0x020B && !second

/-- The format a format code resolves to under a key (06 R156, 03 R73). -/
def pinFormat (code : Nat) (tdes : Bool) : Nat := if code = 0 then (if tdes then 0 else 4) else code - 0x10

/-- The resolved format matches the key's algorithm (06 R161). -/
def formatFits (code : Nat) (a : Attrs) : Bool := (pinFormat code (isTdes a) == 4) == (a.alg == chr 'A')

/-- The scheme suits an algorithm code (09 R256). -/
def schemeFits (scheme code : Nat) : Bool :=
  match scheme with
  | 0x01 => isWeier code
  | 0x02 => code == 6 || code == 7
  | 0x03 | 0x04 => isRsa code
  | 0x05 => decide (0x38 ≤ code ∧ code ≤ 0x3A)
  | _ => false

/-- MAC algorithm, padding and length agree with the key (07 R199). -/
def macFits (alg padding len : Nat) (a : Attrs) (keyLen : Nat) : Bool :=
  match alg with
  | 0x01 => a.usage == chars2 'M' '1' && isTdes a && decide (1 ≤ padding ∧ padding ≤ 3 ∧ 4 ≤ len ∧ len ≤ 8)
  | 0x03 => a.usage == chars2 'M' '3' && isTdes a && keyLen == 16 && decide (1 ≤ padding ∧ padding ≤ 3 ∧ 4 ≤ len ∧ len ≤ 8)
  | 0x06 => a.usage == chars2 'M' '6' && padding == 5 && decide (4 ≤ len ∧ len ≤ (if isTdes a then 8 else 16))
  | _ => false

/-- What else an opcode asks of its keys: algorithm, key length, parameter codes. -/
def keyFits (d : Desc) (second : Bool) (a : Attrs) (keyLen : Nat) : Bool :=
  let two := isTdes a && keyLen == 16
  let aes := a.alg == chr 'A'
  if second then
    match d.opcode.toNat with
    | 0x0202 | 0x0203 | 0x0204 | 0x0209 | 0x0501 | 0x0703 => aes
    | 0x020F => decide (0x20 ≤ a.code ∧ a.code ≤ 0x22)
    | 0x0301 => formatFits (d.par 57) a
    | 0x0302 | 0x0303 | 0x0304 | 0x0305 => isTdes a && decide (keyLen = 16 ∨ keyLen = 24)
    | 0x0306 | 0x0405 => formatFits (d.par 56) a
    | _ => true
  else
    match d.opcode.toNat with
    | 0x0201 | 0x0209 => aes
    | 0x0202 => exportable a
    | 0x020C => aes
    | 0x020F => decide (0x20 ≤ a.code ∧ a.code ≤ 0x22)
    | 0x0301 => formatFits (d.par 56) a && (a.usage != chars2 'B' '0' || aes || two)
    | 0x0302 | 0x0303 | 0x0304 | 0x0305 => formatFits (d.par 56) a
    | 0x0401 | 0x0402 | 0x0403 | 0x0404 | 0x0405 | 0x0406 | 0x0407 => aes || two
    | 0x0501 | 0x0502 | 0x0503 | 0x0504 | 0x0505 => aes || two
    | 0x0601 | 0x0602 => aes || (isTdes a && decide (d.par 56 = 1 ∨ d.par 56 = 2 ∨ d.par 56 = 4))
    | 0x0603 | 0x0604 => macFits (d.par 56) (d.par 57) (d.par 58) a keyLen
    | 0x0605 | 0x0606 => aes
    | 0x0701 | 0x0702 => schemeFits (d.par 56) a.code
    | 0x0704 => isWeier a.code || a.code == 8
    | 0x0705 | 0x0706 => a.code == d.par 56
    | 0x0707 | 0x0708 => isRsa a.code
    | 0x0902 => a.alg == chr 'H'
    | _ => true

/-- An alternative of a role accepts a key's usage, mode of use and engine mask. -/
def Alt.fits (x : Alt) (a : Attrs) : Bool :=
  (x.usages.isEmpty || x.usages.contains a.usage) && (x.modes.isEmpty || modeIn a x.modes) && hasBit a x.bits

/-- Check 4 of R124. -/
def suits (d : Desc) (second : Bool) (r : Role) (a : Attrs) (keyLen : Nat) : Bool :=
  r.alts.any (fun x => x.fits a) && keyFits d second a keyLen

/-! ## Chains and periods -/

/-- Every parent reference up to the vault master of `p` matches the current generation of that parent (R124 check 3). -/
def chainOk (s : State) (p : Nat) : Nat → ParentRef → Bool
  | _, .master g => (vaultAt s p).master.isSome && (vaultAt s p).gen == g
  | 0, .node _ _ => false
  | f + 1, .node i g =>
    let n := nodeAt s i
    (n.state == .current || n.state == .blob) && n.gen == g && chainOk s p f n.parent

/-- Depth of a parent (R123). -/
def parentDepth (s : State) : ParentRef → Nat
  | .master _ => 0
  | .node i _ => (nodeAt s i).depth

/-- A window of network time holds at NTB `now` (02 R35): `none` while NTB is UNSET. -/
def windowOk (s : State) (now start end_ : Nat) : Option Bool :=
  let e := errBound s
  match s.time.state with
  | .unset => none
  | .locked | .free => some (decide (start ≤ now) && (end_ == 0 || decide (now < end_)))
  | .holdover => some ((start == 0 || decide (start + e ≤ now)) && (end_ == 0 || decide (now + e < end_)))

/-- Check 6 of R124 (02 R35). -/
def periodOk (s : State) (now : Nat) (a : Attrs) : Bool :=
  (a.notBefore == 0 && a.notAfter == 0) || (windowOk s now a.notBefore a.notAfter).getD false

/-- A key on a loaded curve finds its curve in the slot of its code (09 R270). -/
def curveThere (s : State) (p : Nat) (a : Attrs) (m : Bytes) : Bool :=
  if 0x10 ≤ a.code ∧ a.code ≤ 0x13 then
    (match Tab.get none (partAt s p).curves (a.code - 0x10) with
     | some c => c.digest == slice m (m.length - 8) 8
     | none => false)
  else true

/-- Checks 4 to 6 of R124; `per` judges a key period. -/
def checkKey (s : State) (j : Job) (second : Bool) (r : Role) (per : Attrs → Bool) (a period : Attrs) (m : Bytes) : Except W16 Unit := do
  need (suits j.desc second r a m.length) stKeyUsage
  need (curveThere s j.part a m) stKeyGone
  need (!isTdes a || (vaultAt s j.part).tdes) stKeyUsage
  need (per period) stKeyPeriod

/-! ## Free slots (R111, R114) -/

/-- The lowest run of `n` free slots in [lo, hi), given the used stretches in rising order of their starts. -/
def freeRun (hi n : Nat) : Nat → List (Nat × Nat) → Option Nat
  | lo, [] => if lo + n ≤ hi then some lo else none
  | lo, (a, k) :: r =>
    if a + k ≤ lo then freeRun hi n lo r
    else if lo + n ≤ a then some lo
    else freeRun hi n (Nat.max lo (a + k)) r

/-- Insert a stretch in order of starts. -/
def insertRun (x : Nat × Nat) : List (Nat × Nat) → List (Nat × Nat)
  | [] => [x]
  | y :: r => if x.1 ≤ y.1 then x :: y :: r else y :: insertRun x r

/-- Slots that commits under way will take. -/
def pendingSlots (s : State) : List (Nat × Nat) :=
  (s.jobs.flatMap fun j => j.commits.flatMap fun c => match c with
    | .node i n => [(i, 1), (n.extFirst, n.extCount)]
    | _ => []).filter fun x => x.2 != 0

/-- Slots in use. -/
def usedSlots (s : State) : List (Nat × Nat) := (s.mas.nodes.filter fun x => x.2.state != .free).map fun x => (x.1, 1)

/-- Reserved node ranges of other partitions (R111, 11 R311). -/
def otherRanges (s : State) (p : Nat) : List (Nat × Nat) :=
  (s.parts.filter fun x => x.1 != p && x.2.cfg.rangeCount != 0 && existsPart s x.1).map fun x => (x.2.cfg.rangeFirst, x.2.cfg.rangeCount)

/-- The lowest free run of `n` resident slots for partition `p`, beside the slots `more`. -/
def findSlots (s : State) (p n : Nat) (more : List (Nat × Nat)) : Option Nat :=
  let c := (partAt s p).cfg
  let busy := (pendingSlots s ++ more).foldl (fun l x => insertRun x l) (usedSlots s)
  if c.rangeCount ≠ 0 then freeRun (c.rangeFirst + c.rangeCount) n c.rangeFirst busy
  else freeRun 0x1C000 n 1 ((otherRanges s p).foldl (fun l x => insertRun x l) busy)

/-- Slots of the resident range that pending creations of a partition will take. -/
def nodesPending (s : State) (p : Nat) : Nat :=
  ((s.jobs.flatMap fun j => j.commits.filterMap fun c => match c with
    | .node i n => if n.owner = p then some ((if (nodeAt s i).state = .free then 1 else 0) +
        (if (nodeAt s i).extFirst = n.extFirst then 0 else n.extCount)) else none
    | _ => none)).sum

/-- Place for a new node with material of `len` bytes: its index, and its first extension slot and count; ST_QUOTA when there is none
(R114). -/
def placeNode (s : State) (p len : Nat) : Except W16 (Nat × Nat × Nat) := do
  let k := extSlots len
  need (decide (nodesOwned s p + nodesPending s p + 1 + k ≤ (partAt s p).cfg.nodes)) stQuota
  match findSlots s p 1 [] with
  | none => .error stQuota
  | some i =>
    if k = 0 then .ok (i, 0, 0)
    else match findSlots s p k [(i, 1)] with
      | none => .error stQuota
      | some e => .ok (i, e, k)

/-! ## The derived-key cache (R126, R127) -/

/-- An entry's tag. -/
def CacheEntry.isFor (p node gen kind : Nat) (label : Bytes) (e : CacheEntry) : Bool :=
  e.part == p && e.parent == node && e.gen == gen && e.kind == kind && e.label == label && !e.flushed

/-- The lowest free place among the 16,384 entries. -/
def cacheSlot (es : List CacheEntry) : Nat :=
  (freeRun 16384 1 0 ((es.map fun e => (e.slot, 1)).foldl (fun l x => insertRun x l) [])).getD 0

/-- A derivation of a cached kind by job `q`: a hit needs a parent generation that is still current. -/
def derive (q p node gen kind : Nat) (label key : Bytes) (s : State) : Bytes × State :=
  let cls := match findJob s q with | some j => j.desc.opcls | none => 0
  let cur := (nodeAt s node).gen == gen && ((nodeAt s node).state == .current || (nodeAt s node).state == .blob)
  match (if cur then s.mas.cache.find? (CacheEntry.isFor p node gen kind label) else none) with
  | some e =>
    let e' := { e with holders := if e.holders.contains q then e.holders else e.holders ++ [q] }
    (e.key, pmcHit 0x0D 1 cls { s with mas := { s.mas with cache := s.mas.cache.erase e ++ [e'] } })
  | none =>
    let s := pmcHit 0x0E 1 cls s
    let lim := (partAt s p).cfg.cache
    let es := if lim = 0 then s.mas.cache else trimCache p (lim - 1) s.mas.cache.length s.mas.cache
    if lim = 0 ∨ lim ≤ (es.filter fun e => e.part == p).length then (key, s)
    else
      let e : CacheEntry := {
        slot := cacheSlot es, part := p, parent := node, gen := gen, kind := kind, label := label, key := key, holders := [q], flushed := false }
      (key, { s with mas := { s.mas with cache := es ++ [e] } })

/-- A job's hold on cache entries and blobs ends. -/
def dropHolds (q : Nat) (s : State) : State :=
  { s with mas := { s.mas with
    cache := (s.mas.cache.map fun e => { e with holders := e.holders.filter (· != q) }).filter fun e => !(e.flushed && e.holders.isEmpty)
    blobs := s.mas.blobs.map (fun b => { b with holders := b.holders.filter (· != q) }) } }

/-! ## Binding one role (R110, R124, R125) -/

/-- The result of a binding. -/
inductive Bound where
  /-- Bound, or nothing to bind. -/
  | got (b : Option Binding) (s : State)
  /-- A blob must be read first (R132). -/
  | load (index : Nat)
  /-- A record or a blob cache entry must come free first (R132, R147). -/
  | wait
  /-- Refused. -/
  | err (st : W16) (s : State)

/-- What a node gives a binding. -/
def bindingOf (s : State) (h : W32) (i : Nat) (n : Node) (gcm : Nat) : Binding :=
  { handle := h, node := i, gen := n.gen, attrs := n.attrs, depth := n.depth, check := n.check, material := n.material, gcm := gcm,
    image := nodeHead n, curve := curveRaw (partAt s n.owner).curves n.attrs.code }

/-- The binding encrypts with GCM (R146). -/
def gcmBinding (d : Desc) (second : Bool) : Bool := d.opcode == 0x0601 && d.par 56 == 5 && !second

/-- Bind a node: checks 2 to 7 of R124, with the GCM counter of R146 and R147. `given` is the counter value a DISPATCH frame carries
(15 R424). -/
def bindNode (s : State) (j : Job) (second : Bool) (r : Role) (per : Attrs → Bool) (given : Option Nat) (h : W32) (i gen : Nat) : Bound :=
  let n := nodeAt s i
  if n.owner ≠ j.part then .err stKeyUsage s
  else if (n.state ≠ .current ∧ n.state ≠ .blob) ∨ n.gen ≠ gen ∨ !chainOk s j.part 9 n.parent then .err stKeyGone s
  else match checkKey s j second r per n.attrs n.attrs n.material with
    | .error st => .err st s
    | .ok () =>
      if !gcmBinding j.desc second then .got (some (bindingOf s h i n 0)) s
      else match given with
        | some v => .got (some (bindingOf s h i n v)) (setNode i { n with gcm := v } s)
        | none =>
          if 0xFFFFFFFF ≤ n.gcm then
            let s := if n.exhausted then s else note 0x106 4 [j.part, h.toNat] (setNode i { n with exhausted := true } s)
            .err stKeyExhausted s
          else if n.persistent && decide (n.gcmRes < n.gcm + 1) then
            let n' := { n with gcmRes := n.gcmRes + 65536 }
            if ksReady s j.part [.put i n'] then
              let s := ksWrite j.part (.put i n') s
              .got (some (bindingOf s h i n' (n.gcm + 1))) (setNode i { n' with gcm := n.gcm + 1 } s)
            else .wait
          else .got (some (bindingOf s h i n (n.gcm + 1))) (setNode i { n with gcm := n.gcm + 1 } s)

/-- Bind a derivation context (R128). -/
def bindCtx (s : State) (j : Job) (second : Bool) (r : Role) (per : Attrs → Bool) (h : W32) : Bound :=
  match Tab.get none (partAt s j.part).ctxs (hIndex h) with
  | none => .err stKeyGone s
  | some c =>
    let i := hNode c.parent
    let n := nodeAt s i
    if n.owner ≠ j.part ∨ n.state ≠ .current ∨ n.gen ≠ hGen c.parent ∨ !chainOk s j.part 9 n.parent then .err stKeyGone s
    else
      let info := BitVec.ofNat 8 j.part :: beBytes 4 (hIndex h)
      let key := kdf n.material c.label info (8 * c.length)
      match checkKey s j second r per c.attrs n.attrs key with
      | .error st => .err st s
      | .ok () =>
        let (k, s) := derive j.seq j.part i n.gen 0x80 (c.label ++ info ++ leBytes 2 c.length) key s
        let view : Node := { Node.empty with
          state := .current, owner := j.part, attrs := c.attrs, depth := n.depth + 1, parent := .node i n.gen, check := checkValue c.attrs k, material := k }
        .got (some {
          handle := h, node := i, gen := n.gen, attrs := c.attrs, depth := n.depth, check := view.check, material := k, gcm := 0, image := nodeHead view,
          curve := [] }) s

/-- Bind one role of a job; `per` judges a key period. -/
def bindRole (s : State) (j : Job) (second : Bool) (per : Attrs → Bool) (given : Option Nat) : Bound :=
  let h := j.desc.handle second
  match roleOf j.desc second with
  | none => .got none s
  | some r =>
    if unbound j.desc second ∨ (h = 0 ∧ r.zero) then .got none s
    else if h = 0 then .err stKeyGone s
    else if hType h = 0 then
      (if 1 ≤ hNode h ∧ hNode h < 0x1C000 ∧ (nodeAt s (hNode h)).gen ≠ 0 then bindNode s j second r per given h (hNode h) (hGen h)
       else .err stKeyGone s)
    else if r.nodeOnly then .err stKeyUsage s
    else if hType h = 1 then
      match (partAt s j.part).blobTable with
      | none => .err stKeyGone s
      | some (_, n) =>
        if n ≤ hIndex h then .err stKeyGone s
        else match s.mas.blobs.find? (fun b => b.part == j.part && b.blob == hIndex h) with
          | none => .load (hIndex h)
          | some b =>
            let b' := { b with holders := if b.holders.contains j.seq then b.holders else b.holders ++ [j.seq] }
            let s := { s with mas := { s.mas with blobs := s.mas.blobs.erase b ++ [b'] } }
            bindNode s j second r per given h b.node (nodeAt s b.node).gen
    else bindCtx s j second r per h

/-- A bound key, for a role that must hold one. -/
def bound (b : Option Binding) : Except W16 Binding :=
  match b with
  | some b => .ok b
  | none => .error stKeyGone

/-! ## Loading a blob (R131, R132) -/

/-- Evict a loaded blob: its entry comes free, a generation on; its extension slots once no job holds it bound (R125). -/
def evictBlob (b : LoadedBlob) (s : State) : State :=
  let n := nodeAt s b.node
  let s := eraseNode b.node (nextGen n.gen) n.owner s
  freeHeld { s with mas := { s.mas with blobs := s.mas.blobs.erase b } }

/-- Evict least recently used unbound blobs until a node with `k` extension slots fits. -/
def blobRoom (k : Nat) : Nat → State → Option (Nat × Nat × State)
  | f, s =>
    let busy := (usedSlots s).filter fun x => decide (0x1C000 ≤ x.1)
    let place := (freeRun 0x20000 1 0x1C000 busy).bind fun i =>
      if k = 0 then some (i, 0) else (freeRun 0x20000 k 0x1C000 (insertRun (i, 1) busy)).map fun e => (i, e)
    match place, f with
    | some (i, e), _ => some (i, e, s)
    | none, 0 => none
    | none, f + 1 => match s.mas.blobs.find? (fun b => b.holders.isEmpty) with
      | none => none
      | some b => blobRoom k f (evictBlob b s)

/-- The attributes a key block gives a key (R118 to R122): the mask of its Zalilys block narrows the default. -/
def attrsOf (curves : Tab (Option Curve)) (b : KeyBlock) : Except W16 Attrs := do
  match usageRow b.usage with
  | none => .error stFormat
  | some r =>
    need (r.algs.contains b.alg) stFormat
    need (modeKnown b.mode && [chr 'E', chr 'N', chr 'S'].contains b.exp) stFormat
    need (b.mode != chr 'Y') stKeyUsage
    let n := b.key.length
    let code := if b.alg = chr 'R' ∨ b.alg = chr 'E' ∨ b.alg = chr '9' then materialCode curves b.usage b.alg b.key else some 0
    match code with
    | none => .error stFormat
    | some c =>
      need ((b.alg != chr 'A' || n == 16 || n == 24 || n == 32) && (b.alg != chr 'T' || n == 16 || n == 24) && decide (16 ≤ n ∧ n ≤ 4096)) stFormat
      let dm := defaultMask b.usage b.exp
      let (mask, nb, na) := match b.z with
        | some z => (Nat.land dm z.mask.toNat, z.notBefore, z.notAfter)
        | none => (dm, 0, 0)
      need (na == 0 || nb == 0 || decide (nb < na)) stFormat
      return { usage := b.usage, alg := b.alg, mode := b.mode, exp := b.exp, mask := BitVec.ofNat 16 mask, version := b.version,
               notBefore := nb, notAfter := na, code := c }

/-- Take in a blob whose bytes have arrived: `none` when it must wait for room. -/
def loadBlob (p index : Nat) (bytes : Bytes) (s : State) : Option (Except (W16 × Nat) State) :=
  match unwrapBlock (kbpk s p) bytes with
  | .error .version => some (.error (stKeyGone, 1))
  | .error .format => some (.error (stKeyGone, 2))
  | .error .mac => some (.error (stKeyGone, 3))
  | .ok b =>
    match attrsOf (partAt s p).curves b with
    | .error _ => some (.error (stKeyGone, 4))
    | .ok a =>
      let owner := match b.z with | some z => z.owner | none => p
      let parent := match b.z with | some z => z.parent | none => ParentRef.master (vaultAt s p).gen
      if owner ≠ p then some (.error (stKeyUsage, 5))
      else if !chainOk s p 9 parent ∨ 8 ≤ parentDepth s parent then some (.error (stKeyGone, 6))
      else if a.code ≠ 0 ∧ !(materialValid (partAt s p).curves a.code b.key) then some (.error (stKeyGone, 7))
      else
        let k := extSlots b.key.length
        match blobRoom k s.mas.blobs.length s with
        | none => none
        | some (i, e, s) =>
          let n : Node := {
            state := .blob, gen := nextGen (nodeAt s i).gen, owner := p, persistent := false, attrs := a, depth := parentDepth s parent + 1,
            parent := parent, gcm := 0, gcmRes := 0, extFirst := e, extCount := k, check := checkValue a b.key, material := b.key,
            exhausted := false, changedAt := none }
          let s := (List.range k).foldl (fun s m => setNode (e + m)
            { Node.empty with state := .ext, gen := (nodeAt s (e + m)).gen, owner := p, parent := .node i n.gen } s) s
          let s := setNode i n s
          some (.ok (pmcHit 0x0F 1 0 { s with mas := { s.mas with blobs := s.mas.blobs ++ [{ part := p, blob := index, node := i, holders := [] }] } }))

/-! ## Reads of a job (03 R569) -/

/-- The place of a blob table entry among a job's outstanding reads. -/
def blobOff (second : Bool) : Nat := 2 ^ 40 + b2n second

/-- Give a job's slot an outstanding read. -/
def addRead (q off len : Nat) (s : State) : State := modJob q (fun x => { x with reads := x.reads ++ [(off, len, s.time.mono)] }) s

/-- Issue input requests while fewer than 4 are outstanding: each ends at a 4 KiB boundary or at the end of the input. -/
def issueReads (q : Nat) : Nat → State → State
  | 0, s => s
  | f + 1, s =>
    match findJob s q with
    | none => s
    | some j =>
      if j.desc.inlined ∨ j.fwd ∨ j.desc.inLen ≤ j.readNext ∨ 4 ≤ j.reads.length ∨ dmaOff s j.part then s
      else
        let a := j.desc.inIova + j.readNext
        let n := Nat.min (j.desc.inLen - j.readNext) (4096 - a % 4096)
        let s := emit (.hostRead j.part a n) (addRead q j.readNext n s)
        issueReads q f (modJob q (fun x => { x with readNext := j.readNext + n }) s)

/-- A job with its bindings and its input goes to the queue of its class, or may run. A class with no unit in service ends it (04 R570). -/
def toUnit (j : Job) (s : State) : State :=
  match primaryClass j.desc with
  | none => modJob j.seq (fun x => { x with phase := .running }) s
  | some c =>
    let s := { s with cirq := { s.cirq with entries := s.cirq.entries + 1 } }
    emptyClass c (modJob j.seq (fun x => { x with phase := .queued, entry := s.cirq.entries }) s)

/-- Forward a piece of a job's read stream (15 R423). -/
def sendData (q off : Nat) (bs : Bytes) (s : State) : State := forward q 0x22 (leBytes 8 q ++ leBytes 4 off ++ leBytes 4 bs.length ++ bs) s

/-- The DISPATCH frame of a forwarded job: NTB at binding, its bindings, and the host read bytes to follow as far as they are known
then (15 R422, R423; log entry 26). -/
def tellDispatch (q : Nat) (s : State) : State :=
  match findJob s q with
  | none => s
  | some j =>
    if j.told ∨ j.fwd then s else
    let part (second : Bool) (b : Option Binding) : Bytes := match b with
      | some b => leBytes 4 b.handle.toNat ++ leBytes 4 b.gcm
      | none => leBytes 4 (j.desc.handle second).toNat ++ zeros 4
    let blob (second : Bool) (b : Option Binding) : Nat :=
      if b.isNone && hType (j.desc.handle second) == 1 && (roleOf j.desc second).isSome && !unbound j.desc second then 16 else 0
    let reads := (if j.desc.inlined then 0 else j.desc.inLen) + blob false j.keyA + blob true j.keyB
    let n := b2n j.keyA.isSome + b2n j.keyB.isSome
    modJob q (fun x => { x with told := true }) (forward q 0x21 (leBytes 8 q ++ leBytes 8 (ntbNow s) ++ [BitVec.ofNat 8 n] ++ zeros 7 ++
      part false j.keyA ++ part true j.keyB ++ leBytes 4 reads ++ zeros 4) s)

/-- A binding ends with a status. -/
def bindFail (q : Nat) (st : W16) (s : State) : State := endJob q st .ran (tellDispatch q s)

/-- Request the blob table entry a binding needs (05 R131, 11 R317). -/
def requestBlob (j : Job) (second : Bool) (index : Nat) (s : State) : State :=
  let base := match (partAt s j.part).blobTable with | some (b, _) => b | none => 0
  let a := base + 16 * index
  if !inWindow (partAt s j.part).cfg j.part a 16 then bindFail j.seq stAccess (partError j.part false a 1 j.ring j.desc.opcode s)
  else if j.reads ≠ [] ∨ dmaOff s j.part then s
  else emit (.hostRead j.part a 16) (addRead j.seq (blobOff second) 16 (tellDispatch j.seq s))

/-- The role of a job is still to be bound. -/
def Job.unboundRole (j : Job) (second : Bool) : Bool :=
  match roleOf j.desc second with
  | none => false
  | some r => !(unbound j.desc second) && !(j.desc.handle second == 0 && r.zero) && (if second then j.keyB else j.keyA).isNone

/-- Bind one role of a reading job: `true` when it is bound or needs nothing. -/
def bindStep (q : Nat) (second : Bool) (s : State) : Bool × State :=
  match findJob s q with
  | none => (false, s)
  | some j =>
    if j.phase ≠ .reading ∨ j.fwd then (false, s)
    else if !j.unboundRole second then (true, s)
    else match bindRole s j second (periodOk s (ntbNow s)) none with
      | .got b s => (true, modJob q (fun x => if second then { x with keyB := b } else { x with keyA := b }) s)
      | .load i => (false, requestBlob j second i s)
      | .wait => (false, s)
      | .err st s => (false, bindFail q st s)

/-- DECTAB_LOAD names its key in its input: once that is there, the handle is bound as its second role (06 R172, R177). -/
def inputHandle (j : Job) (s : State) : State :=
  if j.desc.opcode = 0x0307 ∧ j.desc.inLen = 40 ∧ j.desc.keyB = 0 then
    let h := BitVec.ofNat 32 (leField j.input 0 4)
    if h = 0 ∨ hType h = 3 ∨ (hType h ≠ 0 ∧ bitsOf h.toNat 29 24 ≠ 0) then bindFail j.seq stKeyGone s
    else modJob j.seq (fun x => { x with desc := { x.desc with keyB := h } }) s
  else s

/-- Carry a dispatched job as far as it can go without waiting: bind A, then B, read its input, ask for its unit. -/
def progress (q : Nat) (s : State) : State :=
  let (a, s) := bindStep q false s
  if !a then s else
  let (b, s) := bindStep q true s
  if !b then s else
  let s := issueReads q 4 (tellDispatch q s)
  match findJob s q with
  | none => s
  | some j =>
    if j.reads ≠ [] ∨ !j.inputDone then s
    else
      let (b, s) := bindStep q true (inputHandle j s)
      match findJob s q with
      | none => s
      | some j => if b && j.reads.isEmpty then toUnit j s else s

/-- Jobs of a partition (or of all) that wait in their reading phase go on. -/
def progressAll (sel : Job → Bool) (s : State) : State :=
  ((s.jobs.filter fun j => j.phase == .reading && sel j).map (·.seq)).foldl (fun s q => progress q s) s

end Sys2Proof.Machine
end

