-- ==== Sys2Proof/Machine/Rings.lean ====
section
/-!
DEFINITION. Rings, doorbells, completions and interrupts (03 R40 to R63), and the completion of jobs (01 R12, 04 R78, R88 to R90).
-/
namespace Sys2Proof.Machine

/-! ## Doorbells (R52, R53) -/

/-- SQ_TAIL: the new submission tail; a write R53 ignores sets DB_ERR. `word` says that the write is an aligned 32-bit write at the
doorbell. -/
def execSqTail (p : Fin 256) (ring : Fin 16) (word : Bool) (value : W32) (s : State) : Next := served s <|
  done <| modRing p ring (fun g =>
    if !word ∨ g.size ≤ value.toNat ∨ !g.en then { g with dbErr := true } else { g with sqTail := value.toNat }) s

/-- CQ_HEAD: the new completion head releases slots (R60). -/
def execCqHead (p : Fin 256) (ring : Fin 16) (word : Bool) (value : W32) (s : State) : Next := served s <|
  done <| modRing p ring (fun g =>
    if !word ∨ g.size ≤ value.toNat ∨ !g.en then { g with dbErr := true } else { g with cqHead := value.toNat }) s

/-! ## Enable and disable (R48, R50) -/

/-- RING_ENABLE: EN is set and the indices cleared if LOG2_SIZE is 6 to 16, the partition exists, start-up is complete and the ring is
idle; otherwise CFG_ERR. A ring that is enabled stays as it is (log entry 75). -/
def execRingEnable (p : Fin 256) (ring : Fin 16) (s : State) : Next := served s <|
  let g := ringAt s p ring
  done <|
    if g.en then s
    else if 6 ≤ g.log2 ∧ g.log2 ≤ 16 ∧ existsPart s p ∧ s.pwr.ready ∧ ringIdle s p ring then
      modRing p ring (fun g => { g with en := true, sqHead := 0, sqTail := 0, cqTail := 0, cqHead := 0, phase := true, reserved := 0 }) s
    else modRing p ring (fun g => { g with cfgErr := true }) s

/-- RING_DISABLE: fetching stops; admitted jobs complete (R50). -/
def execRingDisable (p : Fin 256) (ring : Fin 16) (s : State) : Next := served s <| done <| modRing p ring (fun g => { g with en := false }) s

/-! ## Fetch (R54, R317; 04 R92, R94) -/

/-- Partitions with a ring to fetch from. -/
def fetchParts (s : State) : List Nat :=
  ((s.rings.filter fun x => fetchable s (x.1 / 16) (x.1 % 16)).map fun x => x.1 / 16).dedup

/-- The next of some numbers after `last`, going round below `n`. -/
def nextAfter (n last : Nat) (xs : List Nat) : Option Nat :=
  ((List.range n).map fun k => (last + 1 + k) % n).find? fun x => xs.contains x

/-- The rings of a partition that may fetch, by number. -/
def fetchRings (s : State) (p : Nat) : List Nat := ringNos.filter (fetchable s p)

/-- How many descriptors the next read of a ring covers (R54; 04 R92, R94). -/
def fetchCount (s : State) (p r : Nat) : Nat :=
  let g := ringAt s p r
  Nat.min (Nat.min (Nat.min 8 (slotsFree s p)) (Nat.min (flowsFree s p) g.cqFree))
    (Nat.min (Nat.min g.toFetch (g.size - g.sqHead)) (partAt s p).deficit)

/-- Both rings lie wholly within the window (11 R317). -/
def ringsInside (s : State) (p r : Nat) : Bool :=
  let g := ringAt s p r
  let c := (partAt s p).cfg
  inWindow c p g.sqBase.toNat (64 * g.size) && inWindow c p g.cqBase.toNat (32 * g.size)

/-- DESCRIPTOR_FETCH: weighted deficit round-robin over partitions, round-robin over a partition's rings. The partition served last keeps
its turn while its deficit lasts; the next one in turn has its weight added to its deficit (R94; log entry 27). -/
def execDescriptorFetch (s : State) : Next :=
  let parts := fetchParts s
  let keep := parts.contains s.cirq.fetchLast && decide (0 < (partAt s s.cirq.fetchLast).deficit)
  match (if keep then some s.cirq.fetchLast else nextAfter 256 s.cirq.fetchLast parts) with
  | none => done s
  | some p =>
    let s := if keep then s else modPart p (fun x => { x with deficit := x.deficit + x.cfg.weight }) s
    let s := { s with cirq := { s.cirq with fetchLast := p } }
    match nextAfter 16 (partAt s p).ringLast (fetchRings s p) with
    | none => done s
    | some r =>
      let g := ringAt s p r
      let s := modPart p (fun x => { x with ringLast := r }) s
      if !ringsInside s p r then
        let c := (partAt s p).cfg
        let a := if inWindow c p g.sqBase.toNat (64 * g.size) then g.cqBase.toNat else g.sqBase.toNat
        done (fetchError p r (partError p false a 0 r 0 s))
      else
        let n := fetchCount s p r
        let s := emit (.hostRead p (g.sqBase.toNat + 64 * g.sqHead) (64 * n)) s
        let s := modPart p (fun x => { x with deficit := x.deficit - n }) s
        done <| modRing p r (fun g => { g with
          reads := g.reads ++ [{ first := g.sqHead, count := n, discard := false, issued := s.time.mono }],
          sqHead := (g.sqHead + n) % g.size, reserved := g.reserved + n }) s

/-! ## Interrupts (R62) -/

/-- The message of a ring goes out, and COUNT and TIMER start anew. -/
def ringMessage (p r : Nat) (s : State) : State :=
  sendMsix p (ringAt s p r).vector (modRing p r (fun g => { g with modCount := 0, modFirst := 0 }) s)

/-- A completion requests an interrupt. -/
def requestIrq (p r : Nat) (s : State) : State :=
  let g := ringAt s p r
  if g.timer = 0 then ringMessage p r s
  else
    let s := modRing p r (fun g => { g with modCount := g.modCount + 1, modFirst := if g.modCount = 0 then s.time.mono else g.modFirst }) s
    if Nat.max 1 g.count ≤ g.modCount + 1 then ringMessage p r s else s

/-- INT_MODERATION_TIMER: TIMER µs have passed since the first requesting completion. -/
def execIntModerationTimer (p : Fin 256) (ring : Fin 16) (s : State) : Next :=
  let g := ringAt s p ring
  done <| if g.modCount ≠ 0 ∧ g.modFirst + 1000 * g.timer ≤ s.time.mono then ringMessage p ring s else s

/-- MSIX_VECTOR_UNMASK: the vector is unmasked, and a pending message goes out. A VF has vectors 0 to 7 (R61). -/
def execMsixVectorUnmask (p : Fin 256) (vector : Fin 64) (s : State) : Next :=
  if p.val ≠ 0 ∧ 8 ≤ vector.val then done s else
  let v := vectorAt s p vector
  let s := { s with msix := Tab.modify Vector_.reset s.msix (64 * p.val + vector.val) fun x => { x with mask := false, pend := false } }
  done <| if v.mask && v.pend then emit (.msix p vector) s else s

/-! ## Flows (04 R88 to R90) -/

/-- It ended without having been dispatched. -/
def Job.leftUnrun (j : Job) : Bool := j.ended && !j.ran

/-- A job enters the ready lists: the calendar, the far list, the overdue list or the background list (04 R84, R87). -/
def enterReady (q : Nat) (s : State) : State :=
  match findJob s q with
  | none => s
  | some j =>
    let b := s.cirq.cursor
    let s := { s with cirq := { s.cirq with entries := s.cirq.entries + 1 } }
    let s := modJob q (fun x => { x with
      phase := .ready, entry := s.cirq.entries, overdue := false, far := j.desc.cls == 0 && decide (1048576 + b ≤ j.desc.deadline) }) s
    if Job.left b { j with phase := .ready, overdue := false } then
      (if (partAt s j.part).cfg.runLate then modJob q (fun x => { x with overdue := true }) s else endJob q stDeadlineMissed .dropped s)
    else s

/-- The job of a flow that is next to enter the ready lists: every earlier one of the flow has completed or left unrun. -/
def flowNext (p f : Nat) : List Job → Option Nat
  | [] => none
  | j :: r =>
    if j.part != p || j.desc.flow != f || j.fwd || !j.live then flowNext p f r
    else if j.phase = .fifo then some j.seq
    else if j.leftUnrun then flowNext p f r
    else none

/-- Let a flow's next job enter; one that is dropped as it enters passes the flow on. `fuel` bounds the passes. -/
def flowAdvance (p f : Nat) : Nat → State → State
  | 0, s => s
  | n + 1, s =>
    if f = 0 then s else
    match flowNext p f s.jobs with
    | none => s
    | some q => flowAdvance p f n (enterReady q s)

/-! ## Completions (R58 to R60, R63; 01 R12) -/

/-- The 32 bytes of a completion (R58). -/
def completionBytes (s : State) (j : Job) (mirrored met : Bool) (len : Nat) : Bytes :=
  leBytes 8 j.desc.tag.toNat ++ leBytes 2 j.status.toNat ++
  [BitVec.ofNat 8 j.ring, BitVec.ofNat 8 (flagAt (ringAt s j.part j.ring).phase 0 + flagAt mirrored 1 + flagAt met 2)] ++
  leBytes 4 j.index ++ leBytes 8 (stamp s).toNat ++ leBytes 4 len ++ leBytes 4 j.seq

/-- Output as posted writes of at most 512 bytes (R569, 20 R539). -/
def writeOutput (j : Job) (s : State) : State :=
  (List.range (ceilDiv j.output.length 512)).foldl (fun s i =>
    hostWrite j.part (j.desc.outIova + 512 * i) ((j.output.drop (512 * i)).take 512) (jobMaster j) j.desc.opcls s) s

/-- The counts a completion makes (04 R101, 18 R495, R501). -/
def countCompletion (j : Job) (late : Bool) (s : State) : State :=
  let p := j.part
  let st := j.status
  let s := pmcHit 0x05 1 j.desc.opcls s
  let missed := st == stDeadlineMissed
  let s := if late || missed then partCount p 5 (pmcHit 0x06 1 j.desc.opcls s) else s
  let s := if missed then modPart p (fun x => { x with missed := x.missed + 1 }) s else s
  let s := if late then modPart p (fun x => { x with late := x.late + 1 }) s else s
  let s := if st = stOk then partCount p 3 s else if st = stVerifyFail then partCount p 4 s else s
  if 0x0201 ≤ st ∧ st ≤ 0x0206 then partCount p 6 s else s

/-- Write the output, the completion and the message of a job or refused descriptor (01 R12). -/
def writeCompletion (j : Job) (mirrored : Bool) (s : State) : State :=
  let p := j.part
  let r := j.ring
  let now := ntbNow s
  let writes := j.status == stOk || (j.status == stDiverged && j.desc.opcode == 0x0112)
  let s := if writes then writeOutput j s else s
  let met := j.desc.cls == 0 && j.ran && decide (now ≤ j.desc.deadline)
  let late := j.desc.cls == 0 && j.ran && decide (j.desc.deadline < now)
  let g := ringAt s p r
  let s := hostWrite p (g.cqBase.toNat + 32 * g.cqTail)
    (completionBytes s j mirrored met (if writes then j.output.length else 0)) 0x20 j.desc.opcls s
  let s := modRing p r (fun g => { g with
    cqTail := (g.cqTail + 1) % g.size, phase := if g.cqTail + 1 = g.size then !g.phase else g.phase, reserved := g.reserved - 1 }) s
  let s := countCompletion j late s
  if j.desc.irq || (g.errInt && j.status != stOk) then requestIrq p r s else s

/-- What follows the completion of sequence `q` on its ring and partition: a fence it named, a table load it was (R64, 06 R174). -/
def completed (p r q : Nat) (s : State) : State :=
  let s := modRing p r (fun g => { g with fence := if g.fence = some q then none else g.fence }) s
  modPart p (fun x => { x with dectabHold := match x.dectabHold with | some (_, some k) => if k = q then none else x.dectabHold | h => h }) s

/-- A job leaves: its slot is free, and its flow goes on. -/
def jobGone (j : Job) (s : State) : State :=
  let s := dropJob j.seq s
  flowAdvance j.part j.desc.flow s.jobs.length (completed j.part j.ring j.seq s)

/-- The completion of a job in a SYNC partition waits for JACK while the pair is in step (15 R431, R432). -/
def needsJack (s : State) (j : Job) : Bool := (partAt s j.part).cfg.sync && s.pair.state == .inStep && forwardsJob s j.seq

/-- A retired job is at the head of its flow: earlier live jobs of the flow are none (R63, 04 R90). -/
def atFlowHead (s : State) (j : Job) : Bool :=
  j.desc.flow == 0 || !(s.jobs.any fun k => decide (k.seq < j.seq) && k.part == j.part && k.desc.flow == j.desc.flow && k.live && !k.fwd)

/-- The jobs of a list have completed. -/
def allDone (s : State) (qs : List Nat) : Bool := !(s.jobs.any fun k => qs.contains k.seq && k.live)
/-- The jobs of a list have retired. -/
def allRetired (s : State) (qs : List Nat) : Bool := !(s.jobs.any fun k => qs.contains k.seq && k.phase != .retired && k.phase != .lag)

/-- Nothing holds a retired job's completion back. -/
def mayComplete (s : State) (j : Job) : Bool :=
  j.phase == .retired && atFlowHead s j && allRetired s j.afterRetired && allDone s j.afterDone && !dmaOff s j.part &&
    (!needsJack s j || j.jacked) && s.pair.effective

/-- A refused descriptor's completion may be written: at once, but for DMA and JACK (R63, 15 R431). -/
def mayRefuse (s : State) (j : Job) : Bool := !dmaOff s j.part && (!needsJack s j || j.jacked) && s.pair.effective

/-- COMPLETION_WRITE of sequence `seq`. -/
def execCompletionWrite (seq : Nat) (s : State) : Next :=
  match s.refused.find? (fun j => j.seq == seq) with
  | some j =>
    if !mayRefuse s j then done s else
    let s := writeCompletion j (needsJack s j) s
    done (completed j.part j.ring seq { s with refused := s.refused.filter fun k => k.seq != seq })
  | none =>
    match findJob s seq with
    | none => done s
    | some j =>
      if !mayComplete s j then done s else
      let s := noteAll j.events s
      let s := writeCompletion j (needsJack s j) s
      let s := if forwardsJob s seq && !j.resulted then
          flowAdvance j.part j.desc.flow s.jobs.length (completed j.part j.ring seq (modJob seq (fun x => { x with phase := .lag, events := [] }) s))
        else jobGone j s
      done s

end Sys2Proof.Machine
end

