-- ==== Sys2Proof/Machine/Admit.lean ====
section
/-!
DEFINITION. Admission (04 R76 to R81): the form of a descriptor (03 R57, R71, R73 and the command chapters), the state that permits
it (04 R77, R570, 11 R309, 14 R390), its ranges, its quotas and its predicted completion; and the arrival and release of descriptors
(03 R54, R64, 06 R174).
-/
namespace Sys2Proof.Machine

/-! ## Form (03 R57, R73) -/

/-- Parameter bytes `i` to 63 are zero. -/
def zeroFrom (d : Desc) (i : Nat) : Bool := zeroAt d.params (i - 56) 8

/-- A PIN format code (06 R160). -/
def fmtOk (c : Nat) : Bool := c == 0 || c == 0x10 || c == 0x11 || c == 0x13 || c == 0x14

/-- A hash code with a fixed digest (09 R256). -/
def hashOk (c : Nat) : Bool := decide ((2 ≤ c ∧ c ≤ 5) ∨ (8 ≤ c ∧ c ≤ 10))

/-- Scheme and hash codes that go together (09 R256). -/
def schemeOk (scheme h : Nat) : Bool :=
  match scheme with
  | 0x01 | 0x04 => hashOk h
  | 0x02 | 0x05 => h == 0
  | 0x03 => decide (2 ≤ h ∧ h ≤ 5)
  | _ => false

/-- Algorithm codes of 09 R251. -/
def algOk (c : Nat) : Bool :=
  decide ((1 ≤ c ∧ c ≤ 8) ∨ (0x10 ≤ c ∧ c ≤ 0x13) ∨ (0x20 ≤ c ∧ c ≤ 0x23) ∨ (0x30 ≤ c ∧ c ≤ 0x32) ∨ (0x38 ≤ c ∧ c ≤ 0x3A))

/-- Padding codes of ENCRYPT and DECRYPT by mode (08 R220). -/
def encPadOk (mode padding : Nat) : Bool :=
  if mode = 1 ∨ mode = 2 then padding == 0 || padding == 1 || padding == 2 || padding == 4 else padding == 0

/-- Tag lengths by mode (08 R227). -/
def tagOk (mode n : Nat) : Bool :=
  if mode = 5 then decide (12 ≤ n ∧ n ≤ 16) else if mode = 6 then decide (4 ≤ n ∧ n ≤ 16 ∧ n % 2 = 0) else n == 0

/-- Padding codes by MAC algorithm (08 R220). -/
def macPadOk (alg padding : Nat) : Bool := if alg = 6 then padding == 5 else decide (1 ≤ padding ∧ padding ≤ 3)

/-- A MAC algorithm code (08 R219). -/
def macOk (a : Nat) : Bool := a == 1 || a == 3 || a == 6

/-- The radix a radix byte names (07 R201). -/
def radixOf (b : Nat) : Nat := if b = 0 then 10 else b

/-- The least string length of a radix (07 R202). -/
def ff1Min (r : Nat) : Nat :=
  if r = 2 then 20 else if r = 3 then 13 else if r = 4 then 10 else if r = 5 then 9 else if r ≤ 7 then 8 else if r ≤ 9 then 7
  else if r ≤ 15 then 6 else if r ≤ 31 then 5 else 4

/-- CANCEL's parameters (03 R67), with the ring sizes of its partition. -/
def cancelOk (size : Nat → Nat) (d : Desc) : Bool :=
  let ix := leField d.params 4 4
  decide (d.par 56 ≤ 15 ∧ d.par 57 ≤ 2 ∧ ix < size (d.par 56)) && !(d.par 57 == 2 && leField d.params 2 2 == 0)

/-- The parameter bytes of an opcode are in range and its unused ones zero; `false` for an unknown opcode. -/
def paramsOk (size : Nat → Nat) (d : Desc) : Bool :=
  let p (i : Nat) := d.par i
  match d.opcode.toNat with
  | 0x0101 => p 56 != 0 && zeroFrom d 57
  | 0x0102 | 0x0103 | 0x0104 | 0x0105 | 0x0106 | 0x0107 | 0x010E => zeroFrom d 57
  | 0x0108 => decide (p 57 ≤ 1) && zeroFrom d 58
  | 0x0109 | 0x0110 | 0x0202 => zeroFrom d 56
  | 0x010A => decide (p 56 ≤ 31 ∧ 1 ≤ p 57 ∧ p 57 ≤ 3) && zeroFrom d 58
  | 0x010B => decide (p 56 ≤ 31 ∧ p 57 ≤ 7) && zeroFrom d 58
  | 0x010C => decide (1 ≤ p 57 ∧ p 57 ≤ 8) && zeroFrom d 58
  | 0x010D => decide (1 ≤ p 56 ∧ p 56 ≤ 3) && zeroFrom d 57
  | 0x010F => (p 56 == 1 && zeroAt d.params 1 4 && decide (leField d.params 4 4 % 4096 = 0)) || (p 56 == 2 && zeroFrom d 57)
  | 0x0111 => decide (p 56 ≤ 1) && zeroFrom d 57
  | 0x0112 => decide (p 56 ≤ 2) && zeroFrom d 57
  | 0x0201 => decide (p 56 ≤ (if d.keyA = 0 then 0 else 1)) && zeroFrom d 57
  | 0x0203 => decide (p 56 ≤ 3) && zeroFrom d 57
  | 0x0204 | 0x0205 | 0x0206 | 0x0207 | 0x0208 | 0x0209 | 0x020A | 0x020B | 0x020D | 0x020E => zeroFrom d 56
  | 0x020C => zeroFrom d 60
  | 0x020F => decide (p 56 ≤ 1) && zeroFrom d 57
  | 0x0301 => fmtOk (p 56) && fmtOk (p 57) && zeroFrom d 58
  | 0x0302 | 0x0304 => fmtOk (p 56) && decide (4 ≤ p 57 ∧ p 57 ≤ 12 ∧ p 58 ≤ 15) && zeroFrom d 59
  | 0x0303 | 0x0305 => fmtOk (p 56) && decide (p 57 ≤ 6) && zeroFrom d 58
  | 0x0306 => fmtOk (p 56) && decide (4 ≤ p 57 ∧ p 57 ≤ 12) && zeroFrom d 58
  | 0x0307 => decide (p 56 ≤ 15) && zeroFrom d 57
  | 0x0401 => decide (p 56 ≤ 1 ∧ p 57 ≤ 2) && zeroFrom d 58
  | 0x0402 => decide (p 56 ≤ 1 ∧ 1 ≤ p 57 ∧ p 57 ≤ 2) && zeroFrom d 58
  | 0x0403 => decide (p 56 ≤ 1) && zeroFrom d 57
  | 0x0404 | 0x0501 => zeroFrom d 56
  | 0x0405 => fmtOk (p 56) && zeroFrom d 57
  | 0x0406 | 0x0407 => decide (p 56 ≤ 2) && zeroFrom d 57
  | 0x0502 | 0x0503 => decide (1 ≤ p 56 ∧ p 56 ≤ 2) && zeroFrom d 57
  | 0x0504 | 0x0505 => macOk (p 56) && zeroFrom d 58
  | 0x0601 | 0x0602 => decide (1 ≤ p 56 ∧ p 56 ≤ 6) && encPadOk (p 56) (p 57) && tagOk (p 56) (p 58) && zeroFrom d 59
  | 0x0603 | 0x0604 => macOk (p 56) && macPadOk (p 56) (p 57) && decide (4 ≤ p 58 ∧ p 58 ≤ 16) && zeroFrom d 59
  | 0x0605 | 0x0606 =>
    p 56 != 1 && decide (p 56 ≤ 36 ∧ p 57 ≤ 32 ∧ p 57 + ff1Min (radixOf (p 56)) ≤ d.inLen ∧ d.inLen ≤ p 57 + 128) && zeroFrom d 58
  | 0x0701 | 0x0702 => schemeOk (p 56) (p 57) && zeroFrom d 58
  | 0x0703 => algOk (p 56) && decide (p 57 ≤ 1) && zeroFrom d 58
  | 0x0704 => decide (p 56 ≤ 1) && zeroFrom d 57
  | 0x0705 | 0x0706 => decide (0x30 ≤ p 56 ∧ p 56 ≤ 0x32) && zeroFrom d 57
  | 0x0707 | 0x0708 => decide (1 ≤ p 56 ∧ p 56 ≤ 3) && zeroFrom d 57
  | 0x0709 => decide (p 56 ≤ 3) && zeroFrom d 57
  | 0x0801 => decide (p 56 ≤ 1) && zeroFrom d 57
  | 0x0901 => (hashOk (p 56) || p 56 == 0x0C || p 56 == 0x0D) && zeroFrom d 57
  | 0x0902 => hashOk (p 56) && (p 57 == 0 || decide (16 ≤ p 57 ∧ p 57 ≤ digestLen (p 56))) && zeroFrom d 58
  | 0x0A01 | 0x0A02 | 0x0A04 => zeroFrom d 56
  | 0x0A03 => cancelOk size d
  | 0x0A05 => true
  | _ => false

/-- Public key length of an algorithm code whose lengths are fixed (09 R252). -/
def pubLen (c : Nat) : Nat :=
  match c with
  | 0x01 | 0x04 => 65 | 0x02 | 0x05 => 97 | 0x03 => 133 | 0x06 => 32 | 0x07 => 57 | 0x08 => 32
  | 0x20 => 260 | 0x21 => 388 | 0x22 => 516 | 0x23 => 1028
  | 0x30 => 800 | 0x31 => 1184 | 0x32 => 1568 | 0x38 => 1312 | 0x39 => 1952 | 0x3A => 2592
  | _ => 0

/-- Ciphertext length of an ML-KEM set (09 R261). -/
def kemLen (c : Nat) : Nat := match c with | 0x30 => 768 | 0x31 => 1088 | _ => 1568

/-- The output size that opcode, parameters and input length fix in advance (R57); 0 where it is not fixed. -/
def outMin (d : Desc) : Nat :=
  let p (i : Nat) := d.par i
  let blk (c : Nat) : Nat := if c = 0x14 then 16 else if c = 0 then 0 else 8
  match d.opcode.toNat with
  | 0x0109 => 40
  | 0x010A => if p 57 = 1 then 4749 else if p 57 = 2 then 8 else 0
  | 0x0111 => 3661
  | 0x0112 => if p 56 = 0 then 64 else 0
  | 0x0201 | 0x0203 | 0x0204 | 0x020F => 16
  | 0x0206 | 0x020C => 4
  | 0x0207 => 64
  | 0x0208 => 8
  | 0x0301 => blk (p 57)
  | 0x0304 => 6
  | 0x0305 => 2
  | 0x0306 => blk (p 56)
  | 0x0401 | 0x0402 => if p 57 = 1 then 8 else if p 57 = 2 then 4 else 0
  | 0x0405 => 16
  | 0x0406 => 2
  | 0x0502 | 0x0503 => d.inLen - 32
  | 0x0504 => p 57
  | 0x0603 => p 58
  | 0x0605 | 0x0606 => d.inLen - p 57
  | 0x0703 => 16 + pubLen (p 56)
  | 0x0704 => if p 56 = 1 then 16 else 0
  | 0x0705 => kemLen (p 56) + 32
  | 0x0706 => 32
  | 0x0709 => if d.inLen = 8 then 0 else 8
  | 0x0801 => 1
  | 0x0901 => if hashOk (p 56) then digestLen (p 56) else 1
  | 0x0902 => if p 57 = 0 then digestLen (p 56) else p 57
  | 0x0A04 => 16
  | _ => 0

/-- The capacity is the output length, and has a greatest value (R74, 09 R260, R263). -/
def capMax (d : Desc) : Nat :=
  match d.opcode.toNat with
  | 0x0704 => if d.par 56 = 1 then 64 else 2 ^ 24
  | 0x0801 => 65536
  | 0x0901 => if hashOk (d.par 56) then 2 ^ 24 else 4096
  | _ => 2 ^ 24

/-- Opcodes marked K (R73). -/
def keyChanging (op : W16) : Bool :=
  let o := op.toNat
  o == 0x0101 || o == 0x0102 || o == 0x0107 || o == 0x0108 || (decide (0x010B ≤ o ∧ o ≤ 0x010E)) || o == 0x0110 || o == 0x0201 ||
    (decide (0x0203 ≤ o ∧ o ≤ 0x0206)) || o == 0x020A || o == 0x020C || o == 0x020D || o == 0x020F || o == 0x0307 || o == 0x0703 || o == 0x0709

/-- Opcodes of partition 0 only (R73). -/
def partZeroOnly (op : W16) : Bool := op.toNat / 256 == 1 && op != 0x0111

/-- A key handle is well formed for its role: type 11 and reserved bits are refused, and a handle no role uses must be zero. -/
def handleOk (role : Option Role) (h : W32) : Bool :=
  hType h != 3 && (hType h == 0 || bitsOf h.toNat 29 24 == 0) && (role.isSome || h == 0)

/-- Opcode classes a version-1 descriptor may name (R71). -/
def v1Class (op : W16) : Bool := [3, 4, 5, 6, 8, 9, 10].contains (op.toNat / 256)

/-- Check 1 of R76. -/
def formOk (s : State) (p : Nat) (b : Bytes) (d : Desc) : Bool :=
  (d.version == 1 || d.version == 2) && descReserved b && paramsOk (fun r => (ringAt s p r).size) d && (d.version != 1 || v1Class d.opcode) &&
  (p == 0 || !partZeroOnly d.opcode) && decide (d.cls ≤ 1) && (d.cls == 0) == (d.deadline != 0) &&
  handleOk (roleA d) d.keyA && handleOk (roleB d) d.keyB && (d.opcode != 0x0307 || d.keyB == 0) &&
  (if d.inlined then decide (d.inLen ≤ 8) && zeroAt (leBytes 8 d.inIova) d.inLen 8 else true) &&
  decide (d.inLen ≤ 2 ^ 24 ∧ d.outCap ≤ 2 ^ 24 ∧ outMin d ≤ d.outCap ∧ d.outCap ≤ capMax d) && !(d.noJournal && keyChanging d.opcode)

/-! ## State (04 R77) -/

/-- The life-cycle state permits the command (14 R390). -/
def lcPermits (s : State) (p : Nat) (d : Desc) : Bool :=
  let o := d.opcode.toNat
  match lcCode s with
  | 0x00 => o == 0x0109 || o == 0x0A04 || o == 0x010E
  | 0x01 => (o != 0x0101 || d.par 56 == 1) && o != 0x010B
  | 0x02 => p == 0 && o != 0x0101
  | 0x03 => true
  | 0x04 => o == 0x0111 || o == 0x0109 || o == 0x0A04 || o == 0x0110 || o == 0x010E
  | 0xFF => o == 0x0111 || o == 0x0109 || o == 0x0A04 || o == 0x010E
  | _ => false

/-- The moves of 14 R394. -/
def lcMove (src dst : Nat) : Bool :=
  (src == 0 && dst == 1) || (src == 1 && dst == 2) || (src == 2 && dst == 3) || ((src == 2 || src == 3) && (dst == 4 || dst == 5)) ||
    ((src == 4 || src == 0xFF) && dst == 5)

/-- Its opcode and parameters show that it needs authorisations or a certificate (12 R349, 02 R35). -/
def needsAuth (d : Desc) : Bool :=
  match d.opcode.toNat with
  | 0x0101 | 0x0102 | 0x010B | 0x010C | 0x010D | 0x010E | 0x0110 => true
  | 0x0108 => d.par 57 == 1
  | 0x010F => d.par 56 == 2
  | _ => false

/-- A format code that only TDES serves (R77). -/
def tdesCode (c : Nat) : Bool := c == 0x10 || c == 0x11 || c == 0x13

/-- The descriptor can only be served with TDES (R77). -/
def needsTdes (d : Desc) : Bool :=
  match d.opcode.toNat with
  | 0x0301 => tdesCode (d.par 56) || tdesCode (d.par 57)
  | 0x0302 | 0x0303 | 0x0304 | 0x0305 => true
  | 0x0306 | 0x0405 => tdesCode (d.par 56)
  | 0x0603 | 0x0604 | 0x0504 | 0x0505 => d.par 56 == 1 || d.par 56 == 3
  | _ => false

/-- It marks a node persistent (05 R133). -/
def marksPersistent (d : Desc) : Bool :=
  match d.opcode.toNat with
  | 0x0201 | 0x0203 | 0x020F => bitOf (d.par 56) 0
  | 0x0703 => bitOf (d.par 57) 0
  | _ => false

/-- The partition a partition-0 command names permits it (11 R309, R315, R324). An ABSENT partition whose release the vault holds admits
PART_SAVE, whose step 3 needs it (11 R333; log entry 58). -/
def namedPermits (s : State) (d : Desc) : Bool :=
  let o := d.opcode.toNat
  if o = 0x0101 then partState s (d.par 56) == 0
  else if (0x0102 ≤ o ∧ o ≤ 0x0108) ∨ (o = 0x010C ∧ d.par 56 ≠ 0) then
    match partState s (d.par 56) with
    | 0 => o == 0x0106 && (vaultAt s (d.par 56)).release.isSome
    | 1 | 2 => o != 0x0105 && o != 0x0106 && o != 0x0107
    | 3 => (o == 0x0105 && (vaultAt s (d.par 56)).mig != 3) || o == 0x0106 || o == 0x0107
    | _ => false
  else true

/-- PAIR_STATUS in the state its request needs (15 R442). -/
def pairPermits (s : State) (d : Desc) : Bool :=
  if d.opcode ≠ 0x0112 then true
  else if d.par 56 = 1 then s.pair.effective && (s.pair.state == .alone || s.pair.state == .diverged)
  else if d.par 56 = 2 then s.pair.role == 1 && s.pair.state == .inStep
  else true

/-- A class the opcode uses has no unit in service (R570). -/
def noUnit (s : State) (p : Nat) (op : W16) : Bool := (List.range 6).any fun c => usesClass op c && unitsUp s p c == 0

/-- Check 2 of R76. -/
def stateOk (s : State) (p : Nat) (d : Desc) : Bool :=
  let o := d.opcode.toNat
  let unset := s.time.state == .unset
  !(d.deadline != 0 && unset) && !(suspended s && (suspendClass d || o == 0x0106 || o == 0x0107)) && lcPermits s p d &&
  (o != 0x010E || lcMove (lcCode s) (d.par 56)) && !(unset && (needsAuth d || o == 0x020F)) && namedPermits s d && pairPermits s d &&
  (!needsTdes d || (vaultAt s p).tdes) && (!marksPersistent d || (partAt s p).ks.en) &&
  !((o == 0x0302 || o == 0x0304) && (Tab.get none (partAt s p).dectabs (d.par 58)).isNone) && !noUnit s p d.opcode

/-! ## Quotas (R76 check 4) -/

/-- It may create a node. -/
def createsNode (d : Desc) : Bool := d.opcode == 0x0201 || d.opcode == 0x0203 || d.opcode == 0x020F || d.opcode == 0x0703

/-- Creations of nodes admitted and not committed. -/
def creationsAhead (s : State) (p : Nat) : Nat :=
  (s.jobs.filter fun j => j.part == p && createsNode j.desc && !j.ended && !j.copied).length

/-- Check 4. -/
def quotaOk (s : State) (p : Nat) (d : Desc) : Bool :=
  let c := (partAt s p).cfg
  (!createsNode d || decide (nodesOwned s p + creationsAhead s p < c.nodes)) &&
  (d.opcode != 0x020C || decide (leField d.params 0 4 < c.ctxs)) && (d.opcode != 0x0709 || decide (d.par 56 < c.curves))

/-! ## Deadline prediction (R80, R81) -/

/-- The longest of the values noted in the last 1 ms, and not less than `least`. -/
def recentMax (now least : Nat) (xs : List (Nat × Nat)) : Nat :=
  ((xs.filter fun x => decide (now ≤ 1000000 + x.1)).map (·.2)).foldl Nat.max least

/-- Term h, CIRQ_HOST_RD. -/
def hostRd (s : State) : Nat := recentMax s.time.mono 1000 s.cirq.reads
/-- Mirror time, CIRQ_MIRROR_RTT. -/
def mirrorRtt (s : State) : Nat := recentMax s.time.mono 2000 s.cirq.mirrors

/-- s of R80. -/
def serviceEst (d : Desc) : Nat := estimate d.opcode 0 + estimate d.opcode 1 * ceilDiv d.inLen 64

/-- A blob handle whose blob is not loaded. -/
def coldBlob (s : State) (p : Nat) (h : W32) : Bool := hType h == 1 && !(s.mas.blobs.any fun b => b.part == p && b.blob == hIndex h)

/-- Host reads before the output. -/
def readsOf (s : State) (p : Nat) (d : Desc) : Nat :=
  (if d.inlined then 0 else ceilDiv d.inLen 4096) + b2n (coldBlob s p d.keyA) + b2n (coldBlob s p d.keyB)

/-- Work ahead in class `c` at or before a bucket. -/
def workAhead (s : State) (c bucket : Nat) : Nat :=
  ((s.jobs.filter fun j => j.desc.cls == 0 && j.live && !j.copied && j.phase != .fifo && decide (bucketOf j.desc.deadline ≤ bucket)).map
    fun j => estimate j.desc.opcode (c + 2)).sum

/-- w of R80. -/
def queueEst (s : State) (p : Nat) (d : Desc) : Nat :=
  ((List.range 6).filter (usesClass d.opcode)).foldl (fun w c =>
    Nat.max w (ceilDiv (workAhead s c (bucketOf d.deadline)) (unitsOf s p c) + segMax c)) 0

/-- Guard margin, ns (R102). -/
def guardNs (s : State) : Nat := Nat.max 5 s.cirq.guard * 100

/-- Pool wait of a RANDOM that reseeds (10 R299), ns. -/
def poolWait (s : State) (d : Desc) : Nat :=
  if d.opcode = 0x0801 ∧ bitOf (d.par 56) 0 then
    350000 * (1 + s.rng.explicit.length - (s.rng.pool.length - clampTo 2 8 s.rng.reserve))
  else 0

/-- The predicted completion P of R80. -/
def predicted (s : State) (p : Nat) (d : Desc) : Nat :=
  let f := if d.flow = 0 then 0 else
    ((s.jobs.filter fun j => j.part == p && j.desc.flow == d.flow && j.live && !j.fwd).map fun j => serviceEst j.desc).sum
  let m := if (partAt s p).cfg.sync && s.pair.state == .inStep then mirrorRtt s else 0
  ntbNow s + hostRd s * readsOf s p d + serviceEst d + poolWait s d + f + queueEst s p d + m + guardNs s

/-- The checks of R76 in order: `stOk` admits. Migration commands run as class 1 work and are not predicted (11 R326). -/
def admission (s : State) (p : Nat) (b : Bytes) (d : Desc) : W16 :=
  let c := (partAt s p).cfg
  if !formOk s p b d then stBadDescriptor
  else if !stateOk s p d then stStateReject
  else if !((d.inlined || inWindow c p d.inIova d.inLen) && inWindow c p d.outIova d.outCap) then stAccess
  else if !quotaOk s p d then stQuota
  else if d.cls = 0 ∧ d.opcode ≠ 0x0106 ∧ d.opcode ≠ 0x0107 ∧ d.deadline < predicted s p d then stDeadlineReject
  else stOk

/-! ## Taking a descriptor in (R78) -/

/-- The lowest free job slot of a partition's pool (R91). -/
def freeSlot (s : State) (p : Nat) : Nat :=
  let used := ((s.jobs ++ s.refused).map (·.slot)).foldl (fun l k => insertRun (k, 1) l) []
  (if p = 0 then freeRun 512 1 0 used else freeRun 32768 1 512 used).getD 0

/-- A job as its descriptor is taken in. -/
def newJob (s : State) (p r index : Nat) (d : Desc) (st : W16) : Job :=
  { seq := s.jrn.next, part := p, ring := r, index := index, slot := freeSlot s p, desc := d, admitted := ntbNow s, phase := .fifo, entry := 0,
    overdue := false, far := false, ran := false, thread := none, cancel := false, doom := none, fwd := false, events := [],
    suppressed := false, keyA := none, keyB := none, reads := [], readNext := 0, blobBytes := 0, told := false, pieces := [], unit := none, curves := [],
    parked := false, yields := 0, status := st, ending := .ran, output := [], commits := [], change := none, committed := false,
    drain := .none, acked := false, afterRetired := [], afterDone := [], commitLink := 0, jacked := false, resulted := false,
    commitLog := [], randomOff := 0, inherited := false }

/-- The ADMIT frame of a descriptor (15 R422). -/
def admitFrame (q : Nat) (st : W64) (p r index : Nat) (status : W16) (b : Bytes) : Bytes :=
  leBytes 8 q ++ leBytes 8 st.toNat ++ [BitVec.ofNat 8 p, BitVec.ofNat 8 r] ++ leBytes 2 status.toNat ++ leBytes 4 index ++ zeros 8 ++ fit 64 b

/-- A job of no flow enters the ready lists at once; one of a flow when it is next (04 R84, R89). -/
def startFlow (p f : Nat) (j : Job) (s : State) : State :=
  if f = 0 then enterReady j.seq s else flowAdvance p f s.jobs.length s

/-- The descriptor's checks end: it takes the next sequence, and is journalled (R78, 16 R448). -/
def takeIn (p r index : Nat) (b : Bytes) (s : State) : State :=
  let d := descOf (ntbNow s) b
  let st := admission s p b d
  let s := pmcHit 0x02 1 d.opcls (partCount p 0 s)
  let d := if st = stOk ∧ (d.opcode = 0x0106 ∨ d.opcode = 0x0107) then { d with cls := 1, deadline := 0 } else d
  let j := newJob s p r index d st
  let jst := if st = stOk then stRunning else st
  let s := { s with jrn := { s.jrn with next := s.jrn.next + 1 } }
  let s := forward j.seq 0x20 (admitFrame j.seq (stamp s) p r index jst b) s
  let s := jrnAdd {
    seq := j.seq, stamp := stamp s, part := p, ring := r, index := index, opcode := BitVec.ofNat 16 (leField b 0 2), status := jst,
    digest := sha256Head 6 b } d.noJournal s
  let s := if d.fence then modRing p r (fun g => { g with fence := some j.seq }) s else s
  let s := if d.opcode = 0x0307 then modPart p (fun x => { x with dectabHold := some (r, some j.seq) }) s else s
  if st = stOk then
    let s := partCount p 1 (pmcHit 0x03 1 d.opcls s)
    let s := if d.cls = 0 then modPart p (fun x => { x with admitted := x.admitted + 1 }) s else s
    startFlow p d.flow j { s with jobs := s.jobs ++ [j] }
  else
    let s := partCount p 2 (pmcHit 0x04 1 d.opcls s)
    let s := if st = stDeadlineReject then modPart p (fun x => { x with dreject := x.dreject + 1 }) s else s
    let s := if st = stAccess then
        (if d.inlined || inWindow (partAt s p).cfg p d.inIova d.inLen then partError p false d.outIova 2 r d.opcode s
         else partError p false d.inIova 1 r d.opcode s)
      else s
    { s with refused := s.refused ++ [j] }

/-! ## Arrival, fences and table loads (03 R64, 06 R174) -/

/-- Every descriptor taken in from a ring has its completion written. -/
def ringClear (s : State) (p r : Nat) : Bool :=
  !(s.jobs.any fun j => j.from_ p r && j.live) && !(s.refused.any (Job.from_ p r))

/-- No job of the partition is admitted. -/
def partClear (s : State) (p : Nat) : Bool := !(s.jobs.any fun j => j.part == p && j.live && !j.copied)

/-- The descriptor at the head of a ring's waiting ones may have its checks now. -/
def mayTake (s : State) (p r : Nat) (b : Bytes) : Bool :=
  let d := descOf 0 b
  (ringAt s p r).fence.isNone && (!d.fence || ringClear s p r) &&
  (match (partAt s p).dectabHold with
   | none => d.opcode != 0x0307 || partClear s p
   | some (r', none) => r' == r && d.opcode == 0x0307 && partClear s p
   | some _ => false)

/-- Take waiting descriptors of a ring in as far as they may go. `fuel` bounds them. -/
def releaseHeldDescs (p r : Nat) : Nat → State → State
  | 0, s => s
  | n + 1, s =>
    match (ringAt s p r).held with
    | [] => s
    | (i, b) :: rest =>
      if mayTake s p r b then releaseHeldDescs p r n (takeIn p r i b (modRing p r (fun g => { g with held := rest }) s))
      else if (descOf 0 b).opcode = 0x0307 ∧ (partAt s p).dectabHold.isNone ∧ (ringAt s p r).fence.isNone then
        modPart p (fun x => { x with dectabHold := some (r, none) }) s
      else s

/-- Note a host read's latency (04 R81). -/
def noteRead (issued : Nat) (s : State) : State :=
  { s with cirq := { s.cirq with
    reads := (s.cirq.reads.filter fun x => decide (s.time.mono ≤ 1000000 + x.1)) ++ [(s.time.mono, s.time.mono - issued)] } }

/-- Host read bytes counted (18 R495 0x13). -/
def countRead (n master cls : Nat) (s : State) : State :=
  pmc { code := 0x13, n := n, cls := cls, master := master, world := 1, addr := 0, stage := 3, job := none } s

/-- A descriptor read has failed: the ring is disabled, and its other reads count for nothing (R51; log entry 28). -/
def failRead (p r : Nat) (g : Ring) (n : Nat) (s : State) : State :=
  let s := modRing p r (fun x => { x with
    reads := (g.reads.drop 1).map (fun f => { f with discard := true }), reserved := x.reserved - n }) s
  fetchError p r (partError p true (g.sqBase.toNat + 64 * ((g.reads.head?.map (·.first)).getD 0)) 0 r 0 s)

/-- DESCRIPTOR_ARRIVAL: the next descriptor of the oldest outstanding read of a ring arrives, 64 bytes, or the read fails. -/
def execDescriptorArrival (p : Fin 256) (ring : Fin 16) (r : ReadResult) (s : State) : Next :=
  let g := ringAt s p ring
  match g.reads with
  | [] => done s
  | f :: rest =>
    if f.discard then
      done (modRing p ring (fun x => { x with reads := rest, reserved := x.reserved - f.count }) s)
    else match r with
      | .failed _ => done (failRead p ring g f.count s)
      | .data bs =>
        if bs.length ≠ 64 then done s else
        let f' := { f with first := f.first + 1, count := f.count - 1 }
        let s := countRead 64 0x20 0 s
        let s := if f'.count = 0 then noteRead f.issued s else s
        let s := modRing p ring (fun x => { x with
          reads := if f'.count = 0 then rest else f' :: rest, held := x.held ++ [(f.first, bs)] }) s
        done (releaseHeldDescs p ring (ringAt s p ring).held.length s)

/-- FENCE_RELEASE: waiting descriptors of a ring have their checks once what they wait for has completed. -/
def execFenceRelease (p : Fin 256) (ring : Fin 16) (s : State) : Next :=
  done (releaseHeldDescs p ring (ringAt s p ring).held.length s)

end Sys2Proof.Machine
end

