-- ==== Sys2Proof/Machine/PairOps.lean ====
section
/-!
DEFINITION. What the pair does with the end of a job (15 R427 to R431, R433): DONE, result digests, the standby's comparison, JACK,
and divergence.
-/
namespace Sys2Proof.Machine

/-- The ending code of DONE (R422). -/
def Ending.code : Ending → Nat
  | .ran => 0 | .cancelled => 1 | .yielded => 2 | .dropped => 3 | .reset => 4

/-- Output length a completion states (03 R59). -/
def Job.outLen (j : Job) : Nat := if j.status == stOk || (j.status == stDiverged && j.desc.opcode == 0x0112) then j.output.length else 0

/-- The result digest (R428). -/
def resultDigest (j : Job) : Bytes :=
  sha256Head 16 (leBytes 8 j.seq ++ leBytes 2 j.status.toNat ++ leBytes 4 j.outLen ++ j.output.take j.outLen ++ j.commitLog.flatten)

/-- The DONE frame; the active's digest follows the listed fields (R428; log entry 29). -/
def sendDone (j : Job) (s : State) : State :=
  if !forwardsJob s j.seq then s else
  let s := { s with pair := { s.pair with digests := s.pair.digests ++ [(j.seq, s.time.mono, resultDigest j)] } }
  sendFrame 0x25 (leBytes 8 j.seq ++ leBytes 2 j.status.toNat ++ [BitVec.ofNat 8 j.ending.code, 0] ++ leBytes 4 j.yields ++
    leBytes 8 (stamp s).toNat ++ leBytes 4 j.outLen ++ zeros 4 ++ resultDigest j) s

/-- Every Newt, Iguana, lattice and hash unit (R433). -/
def testedUnits : List TestUnit := (List.finRange 16).map .newt ++ (List.finRange 28).map .igu

/-! ## Pair states (R442, R445) -/

/-- Pair state codes (R442). -/
def PairState.code : PairState → Nat
  | .solo => 0 | .alone => 1 | .joining => 2 | .catchingUp => 3 | .inStep => 4 | .diverged => 5

/-- Enter a pair state: event 0x261 and PF vector 51 (03 R61). -/
def pairTo (n : PairState) (cause : Nat) (s : State) : State :=
  if s.pair.state = n then s
  else sendMsix 0 51 (note 0x261 21 [s.pair.state.code, n.code, cause] { s with pair := { s.pair with state := n } })

/-- The jobs of an active whose commits waited for the standby go on without it (R426, R432). -/
def releaseAcks (s : State) : State :=
  ((s.jobs.filter fun j => j.phase == .waitAck).map (·.seq)).foldl (fun s q => gates q (modJob q (fun x => { x with acked := true }) s)) s

/-- Slots that waited for the standby alone are released (R429). -/
def releaseLag (s : State) : State := { s with jobs := s.jobs.filter fun j => j.phase != .lag }

/-- The copies of forwarded work are dropped. -/
def dropForwarded (s : State) : State :=
  let s := (s.jobs.filter (·.copied)).foldl (fun s j => dropJob j.seq (dropHolds j.seq (releaseHeld j s))) s
  freeHeld { s with pair := { s.pair with fwd := s.pair.fwd.filter fun f => s.jobs.any fun j => j.seq == f.seq && j.inherited } }

/-- The job that a re-pair or a hand-over serves ends with a status. -/
def failPairJob (q : Option Nat) (s : State) : State :=
  match q with
  | some q => endJob q stStateReject .ran s
  | none => s

/-- The pair diverges (R433): `q`, `p`, `op` name the divergent job, `mine` and `peers` are the two digests. -/
def diverge (q p : Nat) (op : W16) (mine peers : Bytes) (s : State) : State :=
  if s.pair.state = .diverged then s
  else
    let standby := s.pair.role ≠ 1
    let s := { s with pair := { s.pair with
      divSeq := BitVec.ofNat 64 q, divPart := p, divOpcode := op, divergences := s.pair.divergences + 1 } }
    let s := note 0x264 21 [q, p, op.toNat, leNat mine, leNat peers] s
    let s := tarnOpen 35 2 0 false s
    let s := if standby then s else sendFrame 0x44 ([2] ++ zeros 7) s
    let s := failPairJob s.pair.handing (failPairJob s.pair.catchJob s)
    let s := { s with pair := { s.pair with cut := none, catchJob := none, handing := none, digests := [] } }
    let s := pairTo .diverged 2 s
    if standby then
      let s := dropForwarded s
      { s with eng := { s.eng with tests := (s.eng.tests ++ testedUnits).dedup } }
    else releaseLag (releaseAcks s)

/-- RESULT: status, outcome and digest (R422). -/
def sendResult (q : Nat) (st : W16) (outcome : Nat) (dig : Bytes) (s : State) : State :=
  sendFrame 0x30 (leBytes 8 q ++ leBytes 2 st.toNat ++ [BitVec.ofNat 8 outcome] ++ zeros 5 ++ fit 16 dig) s

/-- JACK for one sequence of a SYNC partition (R431). -/
def sendJack (p q : Nat) (s : State) : State :=
  if (partAt s p).cfg.sync then sendFrame 0x31 ([1] ++ zeros 7 ++ leBytes 8 q) s else s

/-- The standby lets go of a forwarded job. -/
def fwdGone (q : Nat) (s : State) : State :=
  let s := match findJob s q with | some j => dropJob q (dropHolds q (releaseHeld j s)) | none => s
  freeHeld { s with pair := { s.pair with fwd := s.pair.fwd.filter fun f => f.seq != q } }

/-- Endings and statuses that the standby adopts without comparing (R427). -/
def adopts (ending : Nat) (st : W16) : Bool := ending != 0 || st == stEngineFault || st == stEntropyFault

/-- Once DONE and, where it is compared, the own result are there, the standby reports and lets the job go. A DONE that ends a copy
whose data never came is adopted (log entry 29). -/
def fwdSettle (q : Nat) (s : State) : State :=
  match fwdOf s q with
  | none => s
  | some f =>
    match f.done with
    | none => s
    | some (st, ending, _, dig) =>
      let stuck := match findJob s q with
        | none => f.dispatched.isNone
        | some j => st != stOk && (j.phase == .reading || j.phase == .waitRandom)
      if adopts ending st || (stuck && f.result.isNone) then
        fwdGone q (sendResult q st 2 (zeros 16) s)
      else match f.result with
        | none => s
        | some (st', dig') =>
          if st' = st ∧ dig' = dig then fwdGone q (sendResult q st' 0 dig' s)
          else diverge q f.part (descOf 0 f.desc).opcode dig' dig (sendResult q st' 1 dig' s)

/-- The standby's copy of a job has ended with its own result. -/
def fwdResult (j : Job) (s : State) : State :=
  let put (f : Fwd) : Fwd := if f.seq = j.seq then { f with result := some (j.status, resultDigest j) } else f
  fwdSettle j.seq { s with pair := { s.pair with fwd := s.pair.fwd.map put } }

/-! ## Leaving the pair (R441) -/

/-- A partition after the loss of its main-domain state: what host software must give it again (11 R310, R312). Its function and rings
stay as they are. -/
def Part.cleared (p : Nat) (x : Part) : Part :=
  { x with
    cfg := if p = 0 then PartCfg.custodian else PartCfg.afterStart, blobTable := none, ctxs := [], curves := [], dectabs := [],
    tr34 := [], trFloor := none, ks := Part.reset.ks, dectabHold := none, migr := { x.migr with offer := none, restored := none } }

/-- FROZEN partitions are LOST, and MIG 1 and 3 fall back to 0 (11 R310). -/
def VaultPart.lostMain (v : VaultPart) : VaultPart :=
  if v.frozen then { v with lost := true, mig := if v.mig = 2 then 2 else 0 } else v

/-- The main-domain state of a joining or detached standby is cleared as after a loss of main power (R440, R441). -/
def clearMain (s : State) : State :=
  let s := dropForwarded s
  { s with
    mas := { s.mas with nodes := [], blobs := [], cache := [] }
    parts := s.parts.map fun x => (x.1, Part.cleared x.1 x.2)
    vault := { s.vault with parts := s.vault.parts.map fun x => (x.1, x.2.lostMain) }
    eng := { s.eng with colour := [] }
    jrn := { s.jrn with entries := [] }
    pair := { s.pair with commitSeqs := [], snapCount := 0, snapBytes := [], snapVault := [] } }

/-- The module leaves the pair and becomes ALONE (R441); one that has diverged stays so (R433). A peer lost during catch-up clears its main-domain state (R440). -/
def becomeAlone (cause : Nat) (s : State) : State :=
  let old := s.pair.state
  if old = .solo ∨ old = .alone ∨ old = .diverged then s
  else
    let joining := (old = .joining ∨ old = .catchingUp) ∧ s.pair.role = 0
    let s := failPairJob s.pair.handing (failPairJob s.pair.catchJob s)
    let s := { s with pair := { s.pair with
      role := if s.pair.role = 0 then 2 else s.pair.role, cut := none, catchJob := none, handing := none, digests := [], handover := false } }
    let s := pairTo .alone cause s
    let s := releaseLag (releaseAcks s)
    if joining then clearMain s else s

/-- Leave the pair and tell the peer. -/
def detach (cause : Nat) (s : State) : State :=
  if s.pair.state = .solo ∨ s.pair.state = .alone ∨ s.pair.state = .diverged then s
  else becomeAlone cause (sendFrame 0x44 ([BitVec.ofNat 8 cause] ++ zeros 7) s)

end Sys2Proof.Machine
end

