-- ==== Sys2Proof/Machine/Sched.lean ====
section
/-!
DEFINITION. Dispatch and arbitration (04 R84 to R100): threads, host reads of jobs (03 R569), blobs (05 R132), grants of units (06 R150,
08 R213, 09 R248 to R250), yield points (04 R96, 08 R214, 09 R271), retirement (04 R78), the calendar and the service window.
-/
namespace Sys2Proof.Machine

/-! ## Ranking (R94, R99) -/

/-- `a` ranks ahead of `b` at a class arbiter: deadline before background, earlier deadline, then arrival. -/
def ahead (a b : Job) : Bool :=
  if a.desc.cls ≠ b.desc.cls then decide (a.desc.cls < b.desc.cls)
  else if a.desc.deadline ≠ b.desc.deadline then decide (a.desc.deadline < b.desc.deadline)
  else decide (a.entry < b.entry)

/-- The best of some jobs by an order. -/
def bestBy (lt : Job → Job → Bool) : List Job → Option Job
  | [] => none
  | j :: r => match bestBy lt r with
    | none => some j
    | some k => if lt k j then some k else some j

/-- Arrival order. -/
def older (a b : Job) : Bool := decide (a.entry < b.entry)

/-- The job of the service-floor override among the waiting jobs of class `c` (R99): the oldest of the partition furthest below. -/
def floorJob (s : State) (c : Nat) (js : List Job) : Option Job :=
  let worst := js.foldl (fun m j => Nat.max m (shortfall s c j.part)) 0
  if worst = 0 then none
  else match js.find? (fun j => shortfall s c j.part == worst) with
    | none => none
    | some k => bestBy older (js.filter fun j => j.part == k.part)

/-- The waiting job a unit of class `c` takes next, and whether the floor chose it. -/
def nextFor (s : State) (c : Nat) (js : List Job) : Option (Job × Bool) :=
  match floorJob s c js with
  | some j => some (j, true)
  | none => (bestBy ahead js).map fun j => (j, false)

/-- Count a floor dispatch (R100). -/
def countFloor (j : Job) (s : State) : State :=
  modPart j.part (fun x => { x with floor := x.floor + 1 }) (pmcJob 0x11 1 4 j s)

/-! ## Dispatch (R94, R95, R97) -/

/-- Threads an engine has in use. -/
def threadsOn (s : State) (n : Nat) : Nat := (s.jobs.filter fun j => j.thread == some n).length

/-- The engine with the most free threads, the lowest on ties. -/
def freeEngine (s : State) : Option Nat :=
  (List.range 32).foldl (fun b n =>
    if !geckoUp s n || decide (8 ≤ threadsOn s n) then b
    else match b with
      | none => some n
      | some m => if threadsOn s n < threadsOn s m then some n else b) none

/-- The job uses class 3 or class 4. -/
def Job.pke (j : Job) : Bool := usesClass j.desc.opcode 3 || usesClass j.desc.opcode 4

/-- Threads held by jobs that use class 3 or 4. -/
def pkeThreads (s : State) : Nat := (s.jobs.filter fun j => j.thread.isSome && j.pke).length

/-- The list a ready job is in: 0 overdue, 1 calendar, 2 far, 3 background. -/
def Job.list (j : Job) : Nat := if j.desc.cls ≠ 0 then 3 else if j.overdue then 0 else if j.far then 2 else 1

/-- Dispatch order among class-0 jobs (R84, R94). -/
def dispatchBefore (a b : Job) : Bool :=
  if a.list ≠ b.list then decide (a.list < b.list)
  else
    let ka := if a.list = 1 then bucketOf a.desc.deadline else a.desc.deadline
    let kb := if b.list = 1 then bucketOf b.desc.deadline else b.desc.deadline
    if ka ≠ kb then decide (ka < kb) else decide (a.entry < b.entry)

/-- Jobs that may be dispatched. -/
def dispatchable (s : State) : List Job :=
  s.jobs.filter fun j => j.isReady && (!j.pke || decide (pkeThreads s < s.cirq.pke))

/-- The background job next in weighted round-robin, and whether a new round begins (R94). -/
def nextBackground (s : State) (js : List Job) : Option (Job × Bool) :=
  let left := js.filter fun j => decide ((partAt s j.part).bgSpent < (partAt s j.part).cfg.weight)
  let pick (l : List Job) : Option Job := bestBy (fun a b => if a.part ≠ b.part then decide (a.part < b.part) else decide (a.entry < b.entry)) l
  match pick left with
  | some j => some (j, false)
  | none => (pick js).map fun j => (j, true)

/-- The job that gets the next thread, whether the floor chose it, and whether a background round begins. -/
def nextDispatch (s : State) : Option (Job × Bool × Bool) :=
  let js := dispatchable s
  match floorJob s 0 js with
  | some j => some (j, true, false)
  | none =>
    match bestBy dispatchBefore (js.filter fun j => j.desc.cls == 0) with
    | some j => some (j, false, false)
    | none => (nextBackground s js).map fun x => (x.1, false, x.2)

/-- A dispatch attempt finds the deadline of a DROP job passed (R87). -/
def missesAtDispatch (s : State) (j : Job) : Bool :=
  j.desc.cls == 0 && decide (j.desc.deadline < ntbNow s) && !(partAt s j.part).cfg.runLate

/-- Give a thread: with none free there is no attempt, and jobs dropped at the attempt are passed over (R87). `fuel` bounds them. -/
def dispatchNext : Nat → State → State
  | 0, s => s
  | n + 1, s =>
    match freeEngine s, nextDispatch s with
    | some e, some (j, floor, round) =>
      if missesAtDispatch s j then dispatchNext n (endJob j.seq stDeadlineMissed .dropped s)
      else
        let s := if round then { s with parts := s.parts.map fun x => (x.1, { x.2 with bgSpent := 0 }) } else s
        let s := if j.desc.cls ≠ 0 then modPart j.part (fun x => { x with bgSpent := x.bgSpent + 1 }) s else s
        let s := if floor then countFloor j s else s
        progress j.seq (modJob j.seq (fun x => { x with phase := .reading, ran := true, thread := some e }) s)
    | _, _ => s

/-- JOB_DISPATCH: the next ready job gets a hardware thread, binds its keys and begins to read its input. -/
def execJobDispatch (s : State) : Next := done (dispatchNext s.jobs.length s)

/-! ## Host reads of jobs (03 R569, 05 R132, 11 R317, 20 R568) -/

/-- A read-wait is over for a job that is to end (04 R82): it ends once nothing is outstanding. -/
def endIfDoomed (q : Nat) (s : State) : State :=
  match findJob s q with
  | none => s
  | some j =>
    if j.reads ≠ [] then s
    else match j.doom with
      | some st => endJob q st .reset s
      | none => if j.cancel then endJob q stCancelled .yielded s else s

/-- A job is marked to end. -/
def Job.doomed (j : Job) : Bool := j.cancel || j.doom.isSome

/-- A job's outstanding read at an offset. -/
def Job.readAt (j : Job) (off : Nat) : Option (Nat × Nat × Nat) := j.reads.find? fun r => r.1 == off

/-- Take an outstanding read off a job. -/
def dropRead (q off : Nat) (s : State) : State := modJob q (fun x => { x with reads := x.reads.filter fun r => r.1 != off }) s

/-- A host read of input has failed: ST_ACCESS (11 R317). -/
def inputFailed (j : Job) (off : Nat) (s : State) : State :=
  let s := partError j.part true (j.desc.inIova + off) 1 j.ring j.desc.opcode (dropRead j.seq off s)
  if j.doomed then endIfDoomed j.seq s else endJob j.seq stAccess .ran s

/-- JOB_INPUT_ARRIVAL: the request at offset `off` of a job's input is answered. -/
def execJobInputArrival (seq off : Nat) (r : ReadResult) (s : State) : Next :=
  match findJob s seq with
  | none => done s
  | some j =>
    if j.phase ≠ .reading ∨ 2 ^ 40 ≤ off then done s else
    match j.readAt off, r with
    | none, _ => done s
    | some _, .failed _ => done (inputFailed j off s)
    | some (_, n, t), .data bs =>
      if bs.length ≠ n then done s else
      let s := noteRead t (countRead n (jobMaster j) j.desc.opcls (dropRead seq off s))
      if j.doomed then done (endIfDoomed seq s)
      else
        let s := sendData seq (j.blobBytes + off) bs s
        done (progress seq (modJob seq (fun x => { x with pieces := Tab.put x.pieces off bs }) s))

/-- A blob could not be read or taken in: event 0x104 names the failed check (05 R149). -/
def blobFailed (j : Job) (second : Bool) (check : Nat) (st : W16) (s : State) : State :=
  endJob j.seq st .ran (note 0x104 4 [j.part, hIndex (j.desc.handle second), check] s)

/-- BLOB_LOAD: the blob table entry of a role of a job and then the blob arrive (05 R131, R132). -/
def execBlobLoad (seq : Nat) (second : Bool) (entry blob : ReadResult) (s : State) : Next :=
  match findJob s seq with
  | none => done s
  | some j =>
    match j.readAt (blobOff second) with
    | none => done s
    | some (_, _, t) =>
      let s := dropRead seq (blobOff second) s
      if j.doomed then done (endIfDoomed seq s) else
      let base := match (partAt s j.part).blobTable with | some (b, _) => b | none => 0
      let ea := base + 16 * hIndex (j.desc.handle second)
      let failRead (a : Nat) (s : State) : State := blobFailed j second 0 stKeyGone (partError j.part true a 1 j.ring j.desc.opcode s)
      match entry with
      | .failed _ => done (failRead ea s)
      | .data e =>
        let s := sendData seq j.blobBytes (fit 16 e) (noteRead t (countRead 16 (jobMaster j) j.desc.opcls s))
        let s := modJob seq (fun x => { x with blobBytes := x.blobBytes + 16 }) s
        let a := leField e 0 8
        let n := leField e 8 4
        if n = 0 ∨ !zeroAt e 12 16 then done (blobFailed j second 0 stKeyGone s)
        else if !inWindow (partAt s j.part).cfg j.part a n then
          done (endJob seq stAccess .ran (partError j.part false a 1 j.ring j.desc.opcode s))
        else
          let s := emit (.hostRead j.part a n) s
          match blob with
          | .failed _ => done (failRead a s)
          | .data b =>
            let s := sendData seq (j.blobBytes + 16) (fit n b) (countRead n (jobMaster j) j.desc.opcls s)
            let s := modJob seq (fun x => { x with blobBytes := x.blobBytes + n }) s
            match loadBlob j.part (hIndex (j.desc.handle second)) (fit n b) s with
            | none => done s
            | some (.error (st, check)) => done (blobFailed j second check st s)
            | some (.ok s) => done (progress seq s)

/-- The completion timeout, ns (20 R568). -/
def timeoutNs (s : State) : Nat :=
  match s.sys.cto.toNat with
  | 0x1 => 100000
  | 0x2 => 10000000
  | 0x5 => 55000000
  | 0x6 => 210000000
  | _ => 50000000

/-- HOST_READ_TIMEOUT: a request without a completion counts as failed (20 R568). -/
def execHostReadTimeout (what : ReadRef) (s : State) : Next :=
  let old (t : Nat) : Bool := decide (t + timeoutNs s ≤ s.time.mono)
  match what with
  | .descriptor p ring =>
    let g := ringAt s p ring
    (match g.reads with
     | f :: rest =>
       if !old f.issued then done s
       else if f.discard then done (modRing p ring (fun x => { x with reads := rest, reserved := x.reserved - f.count }) s)
       else done (failRead p ring g f.count s)
     | [] => done s)
  | .input seq off =>
    (match findJob s seq with
     | none => done s
     | some j => match j.readAt off with
       | some (_, _, t) => if off < 2 ^ 40 ∧ j.phase = .reading ∧ old t then done (inputFailed j off s) else done s
       | none => done s)
  | .blob seq second =>
    (match findJob s seq with
     | none => done s
     | some j => match j.readAt (blobOff second) with
       | some (_, _, t) =>
         if !old t then done s else
         let base := match (partAt s j.part).blobTable with | some (b, _) => b | none => 0
         let a := base + 16 * hIndex (j.desc.handle second)
         let s := dropRead seq (blobOff second) s
         if j.doomed then done (endIfDoomed seq s)
         else done (blobFailed j second 0 stKeyGone (partError j.part true a 1 j.ring j.desc.opcode s))
       | none => done s)

/-! ## Grants -/

/-- Requests waiting for class `c`, parked jobs apart. -/
def waitingFor (s : State) (c : Nat) : List Job := s.jobs.filter fun j => j.waitsFor c && !j.parked

/-- A job takes a unit. -/
def takeUnit (j : Job) (floor : Bool) (u : UnitRef) (s : State) : State :=
  let s := if floor then countFloor j s else s
  let x := (partAt s j.part).curves
  modJob j.seq (fun y => { y with unit := some u, phase := .running, parked := false, curves := if y.curves = [] then x else y.curves }) s

/-- Newt requests that core `n` may serve (08 R232). -/
def newtEligible (s : State) (n : Nat) : List Job := (waitingFor s 1).filter fun j => (clustersOf s j.part).contains (n / 4)

/-- NEWT_GRANT: a free core in service takes the request the arbiter chooses (08 R213). -/
def execNewtGrant (core : Fin 16) (s : State) : Next :=
  let c := newtAt s core
  if !c.up ∨ c.owner ≠ .free ∨ !domainOn s (21 + core) then done s
  else match nextFor s 1 (newtEligible s core) with
    | none => done s
    | some (j, f) => done (takeUnit j f (.newt core) (modNewt core (fun c => { c with owner := .job j.seq }) s))

/-- A parked job of a core works again. -/
def resumeParked (n : Nat) (b : Bool) (q : Nat) (s : State) : State :=
  modJob q (fun x => { x with phase := .running, parked := false })
    (modBig n (fun c => { BigCore.setBank b (.running q) c with active := b }) s)

/-- The bank that holds a parked job, if any. -/
def parkedBank (c : BigCore) : Option (Bool × Nat) :=
  match c.bank0, c.bank1 with
  | .parked q, _ => some (false, q)
  | _, .parked q => some (true, q)
  | _, _ => none

/-- A bank of the core works. -/
def bankBusy (c : BigCore) : Bool :=
  match c.bank0, c.bank1 with
  | .running _, _ => true
  | _, .running _ => true
  | _, _ => false

/-- A test waits for the core (09 R276). -/
def testWaits (s : State) (u : Nat) : Bool := s.eng.iguWin.state == 1 && s.eng.iguWin.unit == u

/-- A core with a parked job and no running one: the parked job resumes unless a queued one ranks ahead and may enter (09 R271, R276). -/
def settleCore (n : Nat) (s : State) : State :=
  let c := bigAt s n
  match parkedBank c with
  | none => s
  | some (b, q) =>
    if bankBusy c ∨ !c.up then s
    else match findJob s q with
      | none => s
      | some j =>
        if testWaits s n then resumeParked n b q s
        else match nextFor s 3 (j :: waitingFor s 3) with
          | none => s
          | some (k, f) => if k.seq = q then resumeParked n b q (if f then countFloor j s else s) else s

/-- IGUANA_GRANT: a job enters a free bank of a core on which nothing works; a parked job of the core is compared too (09 R271). -/
def execIguanaGrant (core : Fin 16) (bank : Bool) (s : State) : Next :=
  let c := bigAt s core
  if !c.up ∨ !domainOn s (37 + core) ∨ c.window ∨ testWaits s core ∨ c.bank bank ≠ .free ∨ bankBusy c then done s
  else
    let parked := match parkedBank c with | some (b, q) => (findJob s q).map fun j => (b, j) | none => none
    match nextFor s 3 ((match parked with | some (_, j) => [j] | none => []) ++ waitingFor s 3) with
    | none => done s
    | some (k, f) =>
      match parked with
      | some (b, j) =>
        if j.seq = k.seq then done (resumeParked core b k.seq (if f then countFloor k s else s))
        else done (takeUnit k f (.iguana core bank) (modBig core (fun c => { BigCore.setBank bank (.running k.seq) c with active := bank }) s))
      | none => done (takeUnit k f (.iguana core bank) (modBig core (fun c => { BigCore.setBank bank (.running k.seq) c with active := bank }) s))

/-- PINV_GRANT: a free PIN vault unit takes a command as one segment (06 R150). -/
def execPinvGrant (unit : Fin 4) (s : State) : Next :=
  let e := pinvAt s unit
  if !e.up ∨ e.owner ≠ .free ∨ !domainOn s (17 + unit) then done s
  else match nextFor s 2 (waitingFor s 2) with
    | none => done s
    | some (j, f) =>
      done (pmcJob 0x0C 1 5 j (takeUnit j f (.pinv unit) (modPinv unit (fun e => { e with owner := .job j.seq }) s)))

/-- UNIT_GRANT: a free lattice (0 to 3) or hash unit (4 to 11) takes a request (09 R250). -/
def execUnitGrant (unit : Fin 12) (s : State) : Next :=
  let n := unit.val
  let e := if n < 4 then latAt s n else hashAt s (n - 4)
  let c := if n < 4 then 4 else 5
  if !e.up ∨ e.owner ≠ .free ∨ !domainOn s (if n < 4 then 53 + n else 57 + (n - 4) / 4) ∨ testWaits s (16 + n) then done s
  else match nextFor s c (waitingFor s c) with
    | none => done s
    | some (j, f) =>
      let own (e : Engine) : Engine := { e with owner := .job j.seq }
      done (if n < 4 then takeUnit j f (.lattice n) (modLat n own s) else takeUnit j f (.hash (n - 4)) (modHash (n - 4) own s))

/-! ## Yield points (R96; 08 R214, R233; 09 R271) -/

/-- The job leaves its unit for the class queue. -/
def backToQueue (j : Job) (u : UnitRef) (s : State) : State :=
  releaseUnit u (modJob j.seq (fun x => { x with unit := none, phase := .queued }) s)

/-- Count a switch (18 R495 0x10). -/
def countSwitch (j : Job) (s : State) : State := pmcJob 0x10 1 4 j s

/-- The comparison of R96 at a yield point of a job that goes on. -/
def yieldSwitch (j : Job) (u : UnitRef) (s : State) : State :=
  match u with
  | .pinv _ => s
  | .newt n =>
    if !(clustersOf s j.part).contains (n / 4) then backToQueue j u s
    else (match nextFor s 1 (j :: newtEligible s n) with
      | none => s
      | some (k, f) =>
        if k.seq = j.seq then s
        else
          let s := backToQueue j u (countSwitch j s)
          if (newtAt s n).owner = .free then takeUnit k f u (modNewt n (fun c => { c with owner := .job k.seq }) s) else s)
  | .lattice n =>
    (match nextFor s 4 (j :: waitingFor s 4) with
      | none => s
      | some (k, f) =>
        if k.seq = j.seq then s
        else
          let s := backToQueue j u (countSwitch j s)
          if (latAt s n).owner = .free then takeUnit k f u (modLat n (fun e => { e with owner := .job k.seq }) s) else s)
  | .hash n =>
    (match nextFor s 5 (j :: waitingFor s 5) with
      | none => s
      | some (k, f) =>
        if k.seq = j.seq then s
        else
          let s := backToQueue j u (countSwitch j s)
          if (hashAt s n).owner = .free then takeUnit k f u (modHash n (fun e => { e with owner := .job k.seq }) s) else s)
  | .iguana n b =>
    let c := bigAt s n
    let park (s : State) : State :=
      modJob j.seq (fun x => { x with phase := .queued, parked := true }) (modBig n (BigCore.setBank b (.parked j.seq)) (countSwitch j s))
    match c.bank (!b) with
    | .parked q =>
      (match (findJob s q).bind (fun p => nextFor s 3 [j, p]) with
        | none => s
        | some (k, f) => if k.seq = j.seq then s else resumeParked n (!b) q (park (if f then countFloor k s else s)))
    | .free =>
      if testWaits s n then s
      else (match nextFor s 3 (j :: waitingFor s 3) with
        | none => s
        | some (k, f) =>
          if k.seq = j.seq then s
          else takeUnit k f (.iguana n (!b)) (modBig n (fun c => { BigCore.setBank (!b) (.running k.seq) c with active := !b }) (park s)))
    | _ => s

/-- The job stands where it may yield: it works on a unit other than a PIN vault unit, on its thread alone, or waits (R82; 03 R65). -/
def Job.mayYield (j : Job) : Bool :=
  match j.phase with
  | .running => (match j.unit with | some (.pinv _) => false | _ => true)
  | .reading | .queued | .waitRandom | .waitSweep | .waitKeystore => true
  | .waiting => !j.pastStop
  | _ => false

/-- YIELD_POINT: a pending cancel or end takes effect; otherwise the unit may go to a request that ranks ahead. -/
def execYieldPoint (seq : Nat) (s : State) : Next :=
  match findJob s seq with
  | none => done s
  | some j =>
    if !j.mayYield then done s
    else
      let s := modJob seq (fun x => { x with yields := x.yields + 1 }) s
      if j.doomed then
        let s' := endIfDoomed seq s
        done (match j.unit with | some (.iguana n _) => settleCore n s' | _ => s')
      else match j.phase, j.unit with
        | .running, some u => done (yieldSwitch j u s)
        | _, _ => done s

/-- A job that already stands at a yield point, parked or waiting, takes a cancel or a reset at once (03 R65, 09 R272, 11 R308). -/
def endWhereWaiting (q : Nat) (s : State) : State :=
  match findJob s q with
  | none => s
  | some j =>
    if j.phase = .running ∨ !j.mayYield then s
    else match j.unit with
      | some (.iguana n _) => settleCore n (endIfDoomed q s)
      | _ => endIfDoomed q s

/-- BANK_ZEROISE_DONE: the bank can take a new job; a waiting test may take the core, or its parked job goes on. -/
def execBankZeroiseDone (core : Fin 16) (bank : Bool) (s : State) : Next :=
  if (bigAt s core).bank bank ≠ .zeroising then done s
  else
    let s := modBig core (BigCore.setBank bank .free) s
    let c := bigAt s core
    if c.bank0 = .free ∧ c.bank1 = .free then done (iguWindowTake core s) else done (settleCore core s)

/-! ## Retirement (R78) -/

/-- A job that leaves no completion gives up its completion slot and is gone. -/
def goneSilently (j : Job) (s : State) : State :=
  let s := if j.inherited ∨ j.fwd then s else modRing j.part j.ring (fun g => { g with reserved := g.reserved - 1 }) s
  let s := { s with pair := { s.pair with fwd := s.pair.fwd.filter fun f => f.seq != j.seq } }
  jobGone j (noteAll j.events s)

/-- JOB_RETIRE: the job's bindings and thread are released and its final status journalled (16 R449); DONE goes to the standby. -/
def execJobRetire (seq : Nat) (s : State) : Next :=
  match findJob s seq with
  | none => done s
  | some j =>
    if j.phase ≠ .ended then done s
    else
      let over' := j.doom.isSome && !j.committed
      let j' := { j with
        phase := .retired, thread := none, keyA := none, keyB := none, pieces := [], cancel := false, doom := none,
        status := if over' then j.doom.getD j.status else j.status, output := if over' then [] else j.output,
        ending := if over' then .reset else j.ending }
      let s := dropHolds seq (modJob seq (fun _ => j') s)
      let s := freeHeld ((List.range 16).foldl (fun s n => settleCore n s) s)
      let s := { s with rng := { s.rng with explicit := s.rng.explicit.filter (· != seq) } }
      if j.copied then done (fwdResult j' s)
      else
        let s := jrnFinal seq j'.status j.desc.noJournal (sendDone j' s)
        let s := if j.suppressed ∨ j.inherited then goneSilently j' s else flowAdvance j.part j.desc.flow s.jobs.length s
        done (progressAll (fun k => k.reads.isEmpty) s)

/-! ## The calendar and the service window (R85, R98) -/

/-- Move far jobs within the horizon into their buckets, at most `n`, earliest deadline first (R85). -/
def moveFar : Nat → State → State
  | 0, s => s
  | n + 1, s =>
    let b := s.cirq.cursor
    let due := s.jobs.filter fun j => j.isReady && j.far && decide (j.desc.deadline < 1048576 + b)
    match bestBy ahead due with
    | none => s
    | some j =>
      let s := { s with cirq := { s.cirq with entries := s.cirq.entries + 1 } }
      moveFar n (modJob j.seq (fun x => { x with far := false, entry := s.cirq.entries }) s)

/-- CURSOR_ADVANCE: NTB has crossed a multiple of 256 ns. -/
def execCursorAdvance (s : State) : Next :=
  if bucketOf (ntbNow s) ≤ s.cirq.cursor then done s
  else done (moveFar 32 (leaveBuckets { s with cirq := { s.cirq with cursor := s.cirq.cursor + 256 } }))

/-- SERVICE_WINDOW: a 1 ms window of the monotonic count ends (R98); weights take their new value with it (11 R313). -/
def execServiceWindow (s : State) : Next :=
  if s.time.mono < 1000000 + s.cirq.window then done s
  else done { s with
    cirq := { s.cirq with window := s.time.mono / 1000000 * 1000000 }
    parts := s.parts.map fun x => (x.1, { x.2 with entitled := [], received := [], weightWin := x.2.cfg.weight }) }

end Sys2Proof.Machine
end

