-- ==== Sys2Proof/Machine/Derive.lean ====
section
/-!
DEFINITION. The derivations of 07_cryptograms_dukpt_tokens.md: card and session keys (R183 to R185), DUKPT keys (R193 to R196), with
their use of the derived-key cache (R180, R181, R194), and the account field and decimal scan that PIN and card commands share
(06 R163, R169). The steps of X9.24-1 and X9.24-3 that the spec names and does not restate are PRESUMED from those standards (log
entry 40).
-/
namespace Sys2Proof.Machine

/-! ## Digits -/

/-- An account field (06 R163): the PAN digits. `needed` says that the command uses the PAN. -/
def account (b : Bytes) (needed : Bool) : Except W16 (List Nat) :=
  let n := (byteAt b 0).toNat
  let nib := nibbles (slice b 1 10)
  if byteAt b 11 = 0 ∧ ((12 ≤ n ∧ n ≤ 19) ∨ (n = 0 ∧ !needed)) ∧ (nib.take n).all (· ≤ 9) ∧ (nib.drop n).all (· == 15) then .ok (nib.take n)
  else .error stFormat

/-- The PAN without its check digit. -/
def panBody (pan : List Nat) : List Nat := pan.take (pan.length - 1)

/-- The last `n` digits, filled with zeros on the left. -/
def lastDigits (n : Nat) (ds : List Nat) : List Nat := List.replicate (n - ds.length) 0 ++ ds.drop (ds.length - n)

/-- The decimal scan of 06 R169: the digits, then the letters less 10. -/
def decScan (v : Bytes) : List Nat := (nibbles v).filter (· ≤ 9) ++ ((nibbles v).filter (10 ≤ ·)).map (· - 10)

/-- Digits in packed BCD, filled with F to `n` bytes. -/
def packDigits (n : Nat) (ds : List Nat) : Bytes := packNibbles (ds ++ List.replicate (2 * n - ds.length) 15)

/-- A byte with odd parity in its lowest bit. -/
def oddByte (b : Byte) : Byte :=
  let h := b.toNat / 2
  BitVec.ofNat 8 (2 * h + (if popCount 7 h % 2 = 0 then 1 else 0))

/-- Odd parity on every byte (R184, R185). -/
def oddParity (bs : Bytes) : Bytes := bs.map oddByte

/-- Bytes exclusive-ored with all ones. -/
def invert (bs : Bytes) : Bytes := bs.map (· ^^^ 0xFF)

/-! ## EMV (R184, R185) -/

/-- A key of the length of the parent from two block encryptions: the second supplies what a longer AES key needs. -/
def twoBlocks (tdes : Bool) (key x y : Bytes) : Bytes :=
  if tdes then oddParity (blockEnc true key x ++ blockEnc true key y)
  else blockEnc false key x ++ (blockEnc false key y).take (key.length - 16)

/-- y of R184: option A up to 16 PAN digits, option B above. -/
def cardY (pan : List Nat) (psn : List Nat) : Bytes :=
  let ds := pan ++ psn
  if pan.length ≤ 16 then packNibbles (lastDigits 16 ds)
  else packNibbles ((decScan (beBytes 20 (Config.sha1 (packNibbles (if ds.length % 2 = 1 then 0 :: ds else ds))).toNat)).take 16)

/-- The card master key (kind 0x01). -/
def cardKey (tdes : Bool) (imk : Bytes) (pan psn : List Nat) : Bytes :=
  let y := cardY pan psn
  if tdes then twoBlocks true imk y (invert y) else twoBlocks false imk (zeros 8 ++ y) (invert (zeros 8 ++ y))

/-- The common session key (kind 0x02, method 0). -/
def sessionKey (tdes : Bool) (mk atc : Bytes) : Bytes :=
  if tdes then twoBlocks true mk (atc ++ [0xF0] ++ zeros 5) (atc ++ [0x0F] ++ zeros 5)
  else twoBlocks false mk (atc ++ zeros 14) (invert (atc ++ zeros 14))

/-! ## The cache -/

/-- A derivation of a cached kind from a bound key (05 R126, R180). -/
def derived (j : Job) (b : Binding) (kind : Nat) (label key : Bytes) : Cmd Bytes := fun s =>
  .ok (derive j.seq j.part b.node b.gen kind label key s)

/-- The cache holds a tag that may be hit. -/
def holdsTag (s : State) (j : Job) (b : Binding) (kind : Nat) (label : Bytes) : Bool :=
  let n := nodeAt s b.node
  n.gen == b.gen && (n.state == .current || n.state == .blob) && s.mas.cache.any (CacheEntry.isFor j.part b.node b.gen kind label)

/-- The card master key of a bound issuer key (R180, R184). -/
def cardMaster (j : Job) (b : Binding) (pan psn : List Nat) : Cmd Bytes :=
  derived j b 0x01 ((pan ++ psn).map (BitVec.ofNat 8)) (cardKey (isTdes b.attrs) b.material pan psn)

/-! ## AES DUKPT (X9.24-3) -/

/-- Algorithm indicators. -/
def algAes (n : Nat) : Nat := if n = 16 then 2 else if n = 24 then 3 else 4

/-- Derivation data: version, block, key usage, algorithm, length in bits, and the last 8 bytes. -/
def dukptData (block usage alg bits : Nat) (tail : Bytes) : Bytes :=
  [0x01, BitVec.ofNat 8 block] ++ beBytes 2 usage ++ beBytes 2 alg ++ beBytes 2 bits ++ fit 8 tail

/-- Derive a key of `n` bytes. -/
def dukptStep (key : Bytes) (usage alg n : Nat) (tail : Bytes) : Bytes :=
  (((List.range (ceilDiv n 16)).map fun i => blockEnc false key (dukptData (i + 1) usage alg (8 * n) tail)).flatten).take n

/-- The initial key (kind 0x11). -/
def aesInitial (bdk id : Bytes) : Bytes := dukptStep bdk 0x8001 (algAes bdk.length) bdk.length id

/-- The bits of a counter from bit `w` down, most significant first. -/
def setBits (c : Nat) : Nat → List Nat
  | 0 => []
  | w + 1 => if c.testBit w then w :: setBits c w else setBits c w

/-- Intermediate keys along the set bits of `c` from the key found at the counter `at_`. -/
def aesWalk (id : Bytes) (c : Nat) (start : Bytes × Nat) : Bytes :=
  ((setBits c 32).foldl (fun (k : Bytes × Nat) i =>
    if k.2.testBit i then k
    else
      let w := k.2 + 2 ^ i
      (dukptStep k.1 0x8000 (algAes k.1.length) k.1.length (slice id 4 4 ++ beBytes 4 w), w)) start).1

/-- c with its lowest set bit cleared. -/
def clearLowest (c : Nat) : Nat := match (setBits c 32).getLast? with | some i => c - 2 ^ i | none => c

/-- The intermediate key at counter `c` of an AES key serial number, with the lookups of R194. A B1 key is itself the initial key. -/
def aesInter (j : Job) (b : Binding) (id : Bytes) (c : Nat) : Cmd Bytes := do
  let b1 := b.attrs.usage == chars2 'B' '1'
  let ik := if b1 then b.material else aesInitial b.material id
  let label (v : Nat) : Bytes := id ++ beBytes 4 v
  let low := clearLowest c
  let at_ (v : Nat) : Bytes := aesWalk id v (ik, 0)
  if holdsTag (← get) j b 0x12 (label c) then derived j b 0x12 (label c) (at_ c)
  else
    if low ≠ 0 ∧ holdsTag (← get) j b 0x12 (label low) then (do let _ ← derived j b 0x12 (label low) (at_ low))
    else if b1 then pure ()
    else (do let _ ← derived j b 0x11 id ik)
    derived j b 0x12 (label c) (at_ c)

/-! ## TDES DUKPT (X9.24-1) -/

/-- Single DES encryption of 8 bytes. -/
def desEnc (k b : Bytes) : Bytes := beBytes 8 (Config.des (fit 8 k) (toBlock8 b)).toNat

/-- The constant of the key generation process. -/
def c0c0 : Bytes := [0xC0, 0xC0, 0xC0, 0xC0, 0, 0, 0, 0]

/-- One non-reversible key generation step: the key and the crypto register. -/
def nrkgp (key r : Bytes) : Bytes :=
  let half (k : Bytes) : Bytes := xorBytes (desEnc (slice k 0 8) (xorBytes r (slice k 8 8))) (slice k 8 8)
  half (xorBytes key (c0c0 ++ c0c0)) ++ half key

/-- A key serial number with its counter bits set to `c`, as its last 8 bytes. -/
def ksnWith (ksn : Bytes) (c : Nat) : Bytes := beBytes 8 (beField ksn 2 8 / 2 ^ 21 * 2 ^ 21 + c)

/-- The key serial number with the counter bits zero. -/
def ksnBase (ksn : Bytes) : Bytes := slice ksn 0 2 ++ ksnWith ksn 0

/-- The initial key (kind 0x21). -/
def tdesInitial (bdk ksn : Bytes) : Bytes :=
  blockEnc true bdk (slice (ksnBase ksn) 0 8) ++ blockEnc true (xorBytes bdk (c0c0 ++ c0c0)) (slice (ksnBase ksn) 0 8)

/-- Future keys along the set bits of `c`. -/
def tdesWalk (ksn : Bytes) (c : Nat) (start : Bytes × Nat) : Bytes :=
  ((setBits c 21).foldl (fun (k : Bytes × Nat) i =>
    if k.2.testBit i then k else let w := k.2 + 2 ^ i; (nrkgp k.1 (ksnWith ksn w), w)) start).1

/-- The future key at the counter of a TDES key serial number (R194). -/
def tdesFuture (j : Job) (b : Binding) (ksn : Bytes) (c : Nat) : Cmd Bytes := do
  let b1 := b.attrs.usage == chars2 'B' '1'
  let ik := if b1 then b.material else tdesInitial b.material ksn
  let label (v : Nat) : Bytes := slice ksn 0 2 ++ ksnWith ksn v
  let low := clearLowest c
  let at_ (v : Nat) : Bytes := tdesWalk ksn v (ik, 0)
  if holdsTag (← get) j b 0x22 (label c) then derived j b 0x22 (label c) (at_ c)
  else
    if low ≠ 0 ∧ holdsTag (← get) j b 0x22 (label low) then (do let _ ← derived j b 0x22 (label low) (at_ low))
    else if b1 then pure ()
    else (do let _ ← derived j b 0x21 (ksnBase ksn) ik)
    derived j b 0x22 (label c) (at_ c)

/-- A variant of a future key: the byte of each half that is complemented. -/
def variant (key : Bytes) (at_ : Nat) : Bytes :=
  let m := zeros at_ ++ [0xFF] ++ zeros (7 - at_)
  xorBytes key (m ++ m)

/-- PIN variant, MAC variants and data variants of the request (`false`) and response side. -/
def pinVariant (key : Bytes) : Bytes := variant key 7
def macVariant (response : Bool) (key : Bytes) : Bytes := variant key (if response then 4 else 6)
/-- The data variant with its data key step. -/
def dataVariant (response : Bool) (key : Bytes) : Bytes :=
  let k := variant key (if response then 3 else 5)
  blockEnc true k (slice k 0 8) ++ blockEnc true k (slice k 8 8)

/-! ## The counter (R193) -/

/-- The transaction counter of a key serial number. -/
def ksnCounter (tdes : Bool) (ksn : Bytes) : Nat := if tdes then beField ksn 7 3 % 2 ^ 21 else beField ksn 8 4

/-- It lies within the limits of R193. -/
def counterOk (tdes : Bool) (c : Nat) : Bool :=
  if tdes then c != 0 && decide (popCount 21 c ≤ 10) && c != 0x1FF800 else c != 0 && decide (popCount 32 c ≤ 16) && c != 0xFFFF0000

/-- The Scree cluster of a job's Gecko engine (16 R459). -/
def Job.cluster (j : Job) : Nat := 34 + j.thread.getD 0 / 8

/-- Check the counter: event 0x163 and ST_COUNTER_LIMIT outside its limits. -/
def checkCounter (j : Job) (tdes : Bool) (ksn : Bytes) : Cmd Nat := do
  let c := ksnCounter tdes ksn
  if counterOk tdes c then return c
  else
    modify (note 0x163 j.cluster [j.part, j.desc.opcode.toNat, beField ksn 0 4, c])
    Cmd.fail stCounterLimit

/-- The transaction key of a key serial number: the intermediate or future key at its counter. -/
def transactionKey (j : Job) (b : Binding) (ksn : Bytes) (c : Nat) : Cmd Bytes :=
  if isTdes b.attrs then tdesFuture j b ksn c else aesInter j b (slice ksn 0 8) c

/-- The tail of AES derivation data of a working key. -/
def workTail (ksn : Bytes) (c : Nat) : Bytes := slice ksn 4 4 ++ beBytes 4 c

/-- The PIN encryption working key (R196). -/
def pinWorking (b : Binding) (key ksn : Bytes) (c : Nat) : Bytes :=
  if isTdes b.attrs then pinVariant key else dukptStep key 0x1000 2 16 (workTail ksn c)

end Sys2Proof.Machine
end

