-- ==== Sys2Proof/Machine/Pin.lean ====
section
/-!
DEFINITION. PIN blocks and the commands of the PIN vault (06_pin_and_card_verification.md R156 to R174), card verification values
(R175, R176) and the faults of a unit (R155).
-/
namespace Sys2Proof.Machine

/-! ## PIN blocks (R156 to R158) -/

/-- The binding of formats 0 and 3. -/
def pan0 (pan : List Nat) : Bytes := packNibbles ([0, 0, 0, 0] ++ lastDigits 12 (panBody pan))
/-- The binding of format 4. -/
def pan4 (pan : List Nat) : Bytes := packNibbles ((pan.length - 12) :: pan ++ List.replicate (31 - pan.length) 0)

/-- The PIN field of a format; `fill` are random nibbles. -/
def pinField (fmt : Nat) (pin fill : List Nat) : Bytes :=
  let head := fmt :: pin.length :: pin
  match fmt with
  | 1 | 3 => packNibbles (head ++ fill.take (14 - pin.length))
  | 4 => packNibbles (head ++ List.replicate (14 - pin.length) 10 ++ fill.take 16)
  | _ => packNibbles (head ++ List.replicate (14 - pin.length) 15)

/-- Encipher a PIN field (R157). -/
def pinEnc (fmt : Nat) (key field : Bytes) (pan : List Nat) : Bytes :=
  match fmt with
  | 4 => blockEnc false key (xorBytes (blockEnc false key field) (pan4 pan))
  | 1 => blockEnc true key field
  | _ => blockEnc true key (xorBytes field (pan0 pan))

/-- Decipher a block (R157). -/
def pinDec (fmt : Nat) (key block : Bytes) (pan : List Nat) : Bytes :=
  match fmt with
  | 4 => blockDec false key (xorBytes (blockDec false key (fit 16 block)) (pan4 pan))
  | 1 => blockDec true key (fit 8 block)
  | _ => xorBytes (blockDec true key (fit 8 block)) (pan0 pan)

/-- The PIN digits of a field that passes R158. -/
def pinOf (fmt : Nat) (field : Bytes) : Option (List Nat) :=
  let nib := nibbles (slice field 0 8)
  let n := nib.getD 1 0
  let pin := (nib.drop 2).take n
  let fill := nib.drop (2 + n)
  let fillOk : Bool := match fmt with
    | 0 | 2 => fill.all (· == 15)
    | 3 => fill.all (10 ≤ ·)
    | 4 => fill.all (· == 10)
    | _ => true
  if nib.getD 0 0 = fmt ∧ 4 ≤ n ∧ n ≤ 12 ∧ pin.all (· ≤ 9) ∧ fillOk then some pin else none

/-- Bytes of a block. -/
def pinSize (fmt : Nat) : Nat := if fmt = 4 then 16 else 8

/-! ## Randomness (R159, R171) -/

/-- `n` values below `lim` from single bytes, bytes of `lim` or more discarded; a run of bad luck past the fuel waits and begins
again. -/
def drawKept (q inst lim : Nat) : Nat → Nat → Cmd (List Nat)
  | _, 0 => pure []
  | 0, _ + 1 => Cmd.hold
  | f + 1, n + 1 => do
    let b ← draw q inst (n + 1)
    let k := (b.map (·.toNat)).filter (· < lim)
    let r ← drawKept q inst lim f (n + 1 - k.length)
    return k ++ r

/-- The random fill of a format for `n` fill nibbles. -/
def drawFill (j : Job) (fmt n : Nat) : Cmd (List Nat) := do
  match fmt with
  | 1 => return (← draw j.seq j.part n).map fun b => b.toNat % 16
  | 3 => return ((← drawKept j.seq j.part 252 64 n).take n).map fun b => 10 + b % 6
  | 4 => return nibbles (← draw j.seq j.part 8)
  | _ => return []

/-! ## The PIN header (R162, R177 order 1) -/

/-- Input length and reserved bytes: `ksn` bytes of key serial number, further bytes `i` to `k - 1` zero. -/
def headerOk (inp : Bytes) (len ksn : Nat) (fin : Option Nat) (i k : Nat) : Bool :=
  inp.length == len && zeroAt inp (16 + ksn) 28 && (match fin with | some 4 => true | some _ => zeroAt inp 8 16 | none => true) && zeroAt inp i k

/-- A deciphered field fails: event 0x141 and ST_FORMAT (R158). -/
def blockReject {α : Type} (j : Job) : Cmd α := do
  modify (note 0x141 5 [j.part, j.desc.opcode.toNat])
  Cmd.fail stFormat

/-- Decipher and check the input block under a key. -/
def pinIn (j : Job) (fmt : Nat) (key : Bytes) (pan : List Nat) : Cmd (List Nat) :=
  match pinOf fmt (pinDec fmt key (slice j.input 0 16) pan) with
  | some pin => pure pin
  | none => blockReject j

/-! ## PIN_TRANSLATE (R165, R166) -/

/-- PIN_TRANSLATE. The fill is drawn before the vault, for the shortest PIN (R177 order 5; log entry 41). -/
def pinTranslateRun (j : Job) : Cmd Run := do
  let a ← Cmd.of (bound j.keyA)
  let b ← Cmd.of (bound j.keyB)
  let inp := j.input
  let tdes := isTdes a.attrs
  let b0 := a.attrs.usage == chars2 'B' '0'
  let fin := pinFormat (j.desc.par 56) tdes
  let fout := pinFormat (j.desc.par 57) (isTdes b.attrs)
  Cmd.need (headerOk inp 40 (if b0 then (if tdes then 10 else 12) else 0) (some fin) 40 40) stFormat
  let ksn := slice inp 16 12
  let ka ← (if b0 then do
      let c ← checkCounter j tdes ksn
      return pinWorking a (← transactionKey j a ksn c) ksn c
    else pure a.material)
  Cmd.need (!(fin != 1 && fout == 1)) stFormat
  let pan ← Cmd.of (account (slice inp 28 12) (fin != 1 || fout != 1))
  Cmd.need (decide (pinSize fout ≤ j.desc.outCap)) stFormat
  let fill ← drawFill j fout 10
  let pin ← pinIn j fin ka pan
  return Run.output (pinEnc fout b.material (pinField fout pin fill) pan)

def execPinTranslate (seq : Nat) (s : State) : Next := done (runOp 0x0301 anyJob pinTranslateRun seq s)

/-! ## Offsets (R167, R168) -/

/-- The natural PIN of `l` digits. -/
def naturalPin (key validation table : Bytes) (l : Nat) : List Nat :=
  ((nibbles (blockEnc true key validation)).map fun x => (byteAt table x).toNat).take l

/-- Digits added one by one. -/
def addDigits (a b : List Nat) : List Nat := List.zipWith (fun x y => (x + y) % 10) a b
/-- Digits subtracted one by one. -/
def subDigits (a b : List Nat) : List Nat := List.zipWith (fun x y => (x + 10 - y) % 10) a b

/-- What both offset commands do first: the PIN and the natural PIN. -/
def offsetStart (j : Job) (gen : Bool) : Cmd (List Nat × List Nat × List Nat) := do
  let a ← Cmd.of (bound j.keyA)
  let b ← Cmd.of (bound j.keyB)
  let inp := j.input
  let fin := pinFormat (j.desc.par 56) (isTdes a.attrs)
  let l := j.desc.par 57
  Cmd.need (if gen then headerOk inp 48 0 (some fin) 48 48 else headerOk inp 56 0 (some fin) 54 56) stFormat
  let pan ← Cmd.of (account (slice inp 28 12) (fin != 1))
  let off := nibbles (slice inp 48 6)
  Cmd.need (gen || ((off.take l).all (· ≤ 9) && (off.drop l).all (· == 15))) stFormat
  let table := (Tab.get none (partAt (← get) j.part).dectabs (j.desc.par 58)).getD []
  let pin ← pinIn j fin a.material pan
  return (pin, naturalPin b.material (slice inp 40 8) table l, off.take l)

/-- PIN_VERIFY_OFFSET. -/
def verifyOffsetRun (j : Job) : Cmd Run := do
  let (pin, nat, off) ← offsetStart j false
  Cmd.need (pin.length == j.desc.par 57 && addDigits nat off == pin) stVerifyFail
  return Run.output []

def execPinVerifyOffset (seq : Nat) (s : State) : Next := done (runOp 0x0302 anyJob verifyOffsetRun seq s)

/-- PIN_OFFSET_GEN. -/
def offsetGenRun (j : Job) : Cmd Run := do
  let (pin, nat, _) ← offsetStart j true
  Cmd.need (pin.length == j.desc.par 57) stFormat
  return Run.output (packDigits 6 (subDigits pin nat))

def execPinOffsetGen (seq : Nat) (s : State) : Next := done (runOp 0x0304 anyJob offsetGenRun seq s)

/-! ## PIN verification values (R169, R170) -/

/-- The PVV of a PIN. -/
def pvvOf (key : Bytes) (pan : List Nat) (ki : Nat) (pin : List Nat) : List Nat :=
  (decScan (blockEnc true key (packNibbles (lastDigits 11 (panBody pan) ++ [ki] ++ pin.take 4)))).take 4

/-- What both PVV commands do: the PVV, and the digits given. -/
def pvvStart (j : Job) (gen : Bool) : Cmd (List Nat × List Nat) := do
  let a ← Cmd.of (bound j.keyA)
  let b ← Cmd.of (bound j.keyB)
  let inp := j.input
  let fin := pinFormat (j.desc.par 56) (isTdes a.attrs)
  Cmd.need (if gen then headerOk inp 40 0 (some fin) 40 40 else headerOk inp 48 0 (some fin) 42 48) stFormat
  let pan ← Cmd.of (account (slice inp 28 12) true)
  let want := nibbles (slice inp 40 2)
  Cmd.need (gen || want.all (· ≤ 9)) stFormat
  let pin ← pinIn j fin a.material pan
  return (pvvOf b.material pan (j.desc.par 57) pin, want)

/-- PIN_VERIFY_PVV. -/
def verifyPvvRun (j : Job) : Cmd Run := do
  let (v, want) ← pvvStart j false
  Cmd.need (v == want) stVerifyFail
  return Run.output []

def execPinVerifyPvv (seq : Nat) (s : State) : Next := done (runOp 0x0303 anyJob verifyPvvRun seq s)

/-- PVV_GEN. -/
def pvvGenRun (j : Job) : Cmd Run := do
  let (v, _) ← pvvStart j true
  return Run.output (packDigits 2 v)

def execPvvGen (seq : Nat) (s : State) : Next := done (runOp 0x0305 anyJob pvvGenRun seq s)

/-! ## PIN_GENERATE (R171) -/

/-- PIN_GENERATE. -/
def pinGenerateRun (j : Job) : Cmd Run := do
  let b ← Cmd.of (bound j.keyB)
  let inp := j.input
  let fout := pinFormat (j.desc.par 56) (isTdes b.attrs)
  let l := j.desc.par 57
  Cmd.need (inp.length == 40 && zeroAt inp 0 28) stFormat
  let pan ← Cmd.of (account (slice inp 28 12) (fout != 1))
  Cmd.need (decide (pinSize fout ≤ j.desc.outCap)) stFormat
  let pin := ((← drawKept j.seq j.part 250 64 l).take l).map (· % 10)
  let fill ← drawFill j fout (14 - l)
  return Run.output (pinEnc fout b.material (pinField fout pin fill) pan)

def execPinGenerate (seq : Nat) (s : State) : Next := done (runOp 0x0306 anyJob pinGenerateRun seq s)

/-! ## DECTAB_LOAD (R172, R173) -/

/-- Every digit is decimal, and each of 0 to 9 occurs once or twice. -/
def tableOk (t : Bytes) : Bool := t.all (fun b => decide (b.toNat ≤ 9)) && (List.range 10).all fun d =>
  let n := (t.filter fun b => b.toNat == d).length
  decide (1 ≤ n ∧ n ≤ 2)

/-- DECTAB_LOAD: the MAC is judged before the content (log entry 42). -/
def dectabRun (j : Job) : Cmd Run := do
  let inp := j.input
  let t := j.desc.par 56
  Cmd.need (inp.length == 40) stFormat
  let b ← Cmd.of (bound j.keyB)
  let tdes := isTdes b.attrs
  Cmd.need (zeroAt inp 4 8 && (!tdes || zeroAt inp 32 40)) stFormat
  let table := slice inp 8 16
  let reject (cause : Nat) (st : W16) : Cmd Run := do
    modify (note 0x143 5 [j.part, t, cause])
    Cmd.fail st
  if cmac tdes b.material ([BitVec.ofNat 8 j.part, BitVec.ofNat 8 t] ++ table) ≠ slice inp 24 (blockSize tdes) then reject 1 stVerifyFail
  else if !tableOk table then reject 2 stFormat
  else return { Run.output [] with commits := [.dectab j.part t table], events := [⟨0x142, 5, [j.part, t, sha256Word table]⟩] }

def execDectabLoad (seq : Nat) (s : State) : Next := done (runOp 0x0307 anyJob dectabRun seq s)

/-! ## Card verification values (R175, R176) -/

/-- The three digits of a value. -/
def cvvOf (tdes : Bool) (key : Bytes) (ds : List Nat) : List Nat :=
  let s := (ds ++ List.replicate 32 0).take 32
  let r := if tdes then blockEnc true key (xorBytes (desEnc (slice key 0 8) (packNibbles (s.take 16))) (packNibbles (s.drop 16)))
    else blockEnc false key (packNibbles s)
  (decScan r).take 3

/-- A value field: 3 digits, then F. -/
def cvvField (b : Bytes) : Option (List Nat) :=
  let n := nibbles b
  if (n.take 3).all (· ≤ 9) ∧ n.getD 3 0 = 15 then some (n.take 3) else none

/-- What both commands do: the value, and the one to check. -/
def cvvStart (j : Job) (verify : Bool) : Cmd (List Nat × List Nat) := do
  let a ← Cmd.of (bound j.keyA)
  let inp := j.input
  let kind := j.desc.par 56
  Cmd.need (inp.length == if verify then 18 else 16) stFormat
  let pan ← Cmd.of (account (slice inp 0 12) true)
  let ex := nibbles (slice inp 12 2)
  let month := 10 * ex.getD 2 0 + ex.getD 3 0
  Cmd.need (ex.all (· ≤ 9) && decide (1 ≤ month ∧ month ≤ 12)) stFormat
  let svc ← Cmd.some? (if kind = 0 then cvvField (slice inp 14 2) else if zeroAt inp 14 16 then some (if kind = 1 then [0, 0, 0] else [9, 9, 9]) else none)
    stFormat
  let want ← Cmd.some? (if verify then cvvField (slice inp 16 2) else some []) stFormat
  return (cvvOf (isTdes a.attrs) a.material (pan ++ ex ++ svc), want)

/-- CVV_GENERATE. -/
def cvvGenerateRun (j : Job) : Cmd Run := do
  let (v, _) ← cvvStart j false
  return Run.output (packDigits 2 v)

def execCvvGenerate (seq : Nat) (s : State) : Next := done (runOp 0x0406 anyJob cvvGenerateRun seq s)

/-- CVV_VERIFY. -/
def cvvVerifyRun (j : Job) : Cmd Run := do
  let (v, want) ← cvvStart j true
  Cmd.need (v == want) stVerifyFail
  return Run.output []

def execCvvVerify (seq : Nat) (s : State) : Next := done (runOp 0x0407 anyJob cvvVerifyRun seq s)

/-! ## Unit faults (R155) -/

/-- PINV_UNIT_FAULT: the unit's command ends with ST_ENGINE_FAULT, the unit is cleared, Tarn PINV is raised (17 R477). -/
def execPinvUnitFault (unit : Fin 4) (datapath : Bool) (info : W32) (s : State) : Next :=
  let s := match (pinvAt s unit).owner with
    | .job q => endJob q stEngineFault .yielded s
    | _ => s
  done (note 0x144 5 [unit, info.toNat] (tarnRaise 19 (if datapath then 2 else 1) unit info false s))

end Sys2Proof.Machine
end

