-- ==== Sys2Proof/Machine/Cards.lean ====
section
/-!
DEFINITION. Chip cryptograms and secure messaging (07_cryptograms_dukpt_tokens.md R183 to R192).
-/
namespace Sys2Proof.Machine

/-! ## The EMV header (R183) -/

/-- A PSN byte as two digits. -/
def psnOf (b : Byte) : Except W16 (List Nat) := do
  let n := nibbles [b]
  need (n.all (· ≤ 9)) stFormat
  return n

/-- PAN, PSN digits and ATC of a header. -/
def emvHeader (inp : Bytes) : Except W16 (List Nat × List Nat × Bytes) := do
  let pan ← account (slice inp 0 12) true
  let psn ← psnOf (byteAt inp 12)
  need (decide ((byteAt inp 13).toNat < 2)) stFormat
  return (pan, psn, slice inp 14 2)

/-- The MAC of a cryptogram: algorithm 3 under a padding code, or CMAC (R188). -/
def cardMac (tdes : Bool) (sk m : Bytes) (padding : Nat) : Bytes :=
  if tdes then mac3 sk ((pad padding 8 m).getD []) else cmac false sk m

/-- The session key of method 0 of a job's key A for a card (R185). -/
def cardSession (j : Job) (a : Binding) (pan psn : List Nat) (atc : Bytes) : Cmd Bytes := do
  return sessionKey (isTdes a.attrs) (← cardMaster j a pan psn) atc

/-! ## ARQC_VERIFY and ARPC_GENERATE (R187 to R189) -/

/-- Lengths and reserved bytes (R187). -/
def arqcForm (inp : Bytes) (verify : Bool) (meth : Nat) : Bool :=
  let n := inp.length
  let l := (byteAt inp 28).toNat
  (if verify then decide (41 ≤ n ∧ n ≤ 1064) else n == 40) && zeroAt inp 29 32 &&
  (match meth with
   | 0 => zeroAt inp 24 29 && zeroAt inp 32 40
   | 1 => zeroAt inp 26 29 && zeroAt inp 32 40
   | _ => decide (l ≤ 8) && zeroAt inp (32 + l) 40)

/-- The ARPC of a method. -/
def arpcOf (tdes : Bool) (sk inp : Bytes) (meth : Nat) : Bytes :=
  let arqc := slice inp 16 8
  match meth with
  | 1 =>
    let x := xorBytes arqc (slice inp 24 2 ++ zeros 6)
    if tdes then blockEnc true sk x else (blockEnc false sk (x ++ zeros 8)).take 8
  | 2 => (cardMac tdes sk (arqc ++ slice inp 24 4 ++ slice inp 32 (byteAt inp 28).toNat) 2).take 4
  | _ => []

/-- Both commands. -/
def arqcRun (verify : Bool) (j : Job) : Cmd Run := do
  let a ← Cmd.of (bound j.keyA)
  let inp := j.input
  let tdes := isTdes a.attrs
  let meth := j.desc.par 57
  Cmd.need (arqcForm inp verify meth) stFormat
  let (pan, psn, atc) ← Cmd.of (emvHeader inp)
  let mk ← cardMaster j a pan psn
  let sk := if j.desc.par 56 = 1 then mk else sessionKey tdes mk atc
  let ac := (cardMac tdes sk (inp.drop 40) (if bitOf (byteAt inp 13).toNat 0 then 1 else 2)).take 8
  Cmd.need (!verify || ac == slice inp 16 8) stVerifyFail
  return Run.output (arpcOf tdes sk inp meth)

/-- ARQC_VERIFY. -/
def execArqcVerify (seq : Nat) (s : State) : Next := done (runOp 0x0401 anyJob (arqcRun true) seq s)
/-- ARPC_GENERATE. -/
def execArpcGenerate (seq : Nat) (s : State) : Next := done (runOp 0x0402 anyJob (arqcRun false) seq s)

/-! ## Secure messaging (R190, R191) -/

/-- SM_MAC. -/
def smMacRun (j : Job) : Cmd Run := do
  let a ← Cmd.of (bound j.keyA)
  let inp := j.input
  let verify := j.desc.par 56 == 1
  let l := (byteAt inp 16).toNat
  Cmd.need (decide (33 ≤ inp.length ∧ inp.length ≤ 32 + 4096) && zeroAt inp 17 24 && (verify || zeroAt inp 24 32)) stFormat
  let (pan, psn, atc) ← Cmd.of (emvHeader inp)
  Cmd.need (decide (4 ≤ l ∧ l ≤ 8) && zeroAt inp (24 + l) 32 && (verify || decide (l ≤ j.desc.outCap))) stFormat
  let sk ← cardSession j a pan psn atc
  let m := (cardMac (isTdes a.attrs) sk (inp.drop 32) 2).take l
  Cmd.need (!verify || m == slice inp 24 l) stVerifyFail
  return Run.output (if verify then [] else m)

def execSmMac (seq : Nat) (s : State) : Next := done (runOp 0x0403 anyJob smMacRun seq s)

/-- SM_ENCRYPT. -/
def smEncryptRun (j : Job) : Cmd Run := do
  let a ← Cmd.of (bound j.keyA)
  let inp := j.input
  let tdes := isTdes a.attrs
  Cmd.need (decide (17 ≤ inp.length ∧ inp.length ≤ 16 + 4080)) stFormat
  let (pan, psn, atc) ← Cmd.of (emvHeader inp)
  let data := padTo (blockSize tdes) (inp.drop 16 ++ [0x80])
  Cmd.need (decide (data.length ≤ j.desc.outCap)) stFormat
  let sk ← cardSession j a pan psn atc
  return Run.output (cbcEnc tdes sk (zeros (blockSize tdes)) data)

def execSmEncrypt (seq : Nat) (s : State) : Next := done (runOp 0x0404 anyJob smEncryptRun seq s)

/-- SM_PIN_CHANGE. -/
def smPinChangeRun (j : Job) : Cmd Run := do
  let a ← Cmd.of (bound j.keyA)
  let b ← Cmd.of (bound j.keyB)
  let inp := j.input
  let tdes := isTdes a.attrs
  let fin := pinFormat (j.desc.par 56) (isTdes b.attrs)
  Cmd.need (headerOk inp 48 0 (some fin) 44 48 && byteAt inp 41 == 0) stFormat
  let pan ← Cmd.of (account (slice inp 28 12) true)
  let psn ← Cmd.of (psnOf (byteAt inp 40))
  let mk ← cardMaster j a pan psn
  let sk := sessionKey tdes mk (slice inp 42 2)
  let pin ← pinIn j fin b.material pan
  let d := xorBytes (pinField 2 pin []) (zeros 4 ++ slice mk 4 4) ++ [0x80] ++ zeros 7
  return Run.output (if tdes then cbcEnc true sk (zeros 8) d else blockEnc false sk d)

def execSmPinChange (seq : Nat) (s : State) : Next := done (runOp 0x0405 anyJob smPinChangeRun seq s)

end Sys2Proof.Machine
end

