-- ==== Sys2Proof/Machine/Keys.lean ====
section
/-!
DEFINITION. Key management (05_key_tree.md R111 to R148): import, export, generation, replacement, erasure, invalidation, the blob
table, derivation contexts, the keystore ring, the derived-key cache and the orphan sweep.
-/
namespace Sys2Proof.Machine

/-! ## What the commands share -/

/-- The key result (R148). -/
def keyResult (h : W32) (check : Bytes) : Bytes := leBytes 4 h.toNat ++ [BitVec.ofNat 8 check.length] ++ fit 5 check ++ zeros 6

/-- The handle's key material must not be stronger than the KEK (R120). -/
def mayWrap (kek : Bytes) (a : Attrs) (n : Nat) : Bool := a.alg != chr 'A' || decide (n ≤ kek.length)

/-- Unwrap a key block for a command (R129). -/
def openBlock (k b : Bytes) : Except W16 KeyBlock :=
  match unwrapBlock k b with
  | .ok x => .ok x
  | .error .mac => .error stVerifyFail
  | .error _ => .error stFormat

/-- Unwrap a key block given to partition `p` and judge its attributes and its Zalilys block's owner (R118 to R122, R130). -/
def readBlock (s : State) (p : Nat) (k b : Bytes) : Except W16 (KeyBlock × Attrs) := do
  let kb ← openBlock k b
  let a ← attrsOf (partAt s p).curves kb
  need (match kb.z with | some z => z.owner == p | none => true) stKeyUsage
  return (kb, a)

/-- Unwrap a key block and validate its asymmetric material (09 R266). -/
def takeBlock (s : State) (p : Nat) (k b : Bytes) : Except W16 (KeyBlock × Attrs) := do
  let (kb, a) ← readBlock s p k b
  need (a.code == 0 || materialValid (partAt s p).curves a.code kb.key) stInputRejected
  return (kb, a)

/-- The blob protection key of a partition; without a vault master there is none (log entry 34). -/
def kbpkNeed (s : State) (p : Nat) : Except W16 Bytes := do
  need (vaultAt s p).master.isSome stKeyGone
  return kbpk s p

/-- The vault master of a partition as a parent (R123). -/
def masterRef (s : State) (p : Nat) : Except W16 ParentRef := do
  need (vaultAt s p).master.isSome stKeyGone
  return .master (vaultAt s p).gen

/-- The generation a slot gives the node that takes it (R111, R112). -/
def slotGen (s : State) (i : Nat) : Nat := Nat.max 1 (nodeAt s i).gen

/-- Where a new node goes: index, generation, first extension slot and count. -/
structure Place where
  /-- Node index. -/
  index : Nat
  /-- Generation. -/
  gen : Nat
  /-- First extension slot. -/
  ext : Nat
  /-- Extension slots. -/
  count : Nat
  deriving DecidableEq, Repr

/-- The place this module chooses: the lowest free slots (R111, R114). -/
def ownPlace (j : Job) (len : Nat) : Cmd Place := fun s =>
  match placeNode s j.part len with
  | .error st => .error (.fail st s)
  | .ok (i, e, k) => .ok (⟨i, slotGen s i, e, k⟩, s)

/-- The place of the node a job creates: the lowest free slots on the active; on the standby the index its COMMIT frame names, for which
the copy waits (R111, R114; 15 R425). -/
def place (j : Job) (len : Nat) : Cmd Place := fun s =>
  if j.fwd then
    match ((fwdOf s j.seq).map (·.commits)).bind (fun cs => cs.find? fun c => c.1 == 1) with
    | none => if j.inherited then ownPlace j len s else .error (.wait none)
    | some (_, i, b) => .ok (⟨i, (nodeOf b 0).gen, (nodeOf b 0).extFirst, (nodeOf b 0).extCount⟩, s)
  else ownPlace j len s

/-- The run of extension slots this module chooses (R114). -/
def ownExt (j : Job) (e : Nat) (more : List (Nat × Nat)) : Cmd Nat := fun s =>
  match findSlots s j.part e more with
  | none => .error (.fail stQuota s)
  | some f => .ok (f, s)

/-- The first of the `e` extension slots that a job takes beside `n` other slots: the lowest free run on the active, what the COMMIT frame
names on the standby; ST_QUOTA where too few are free (R114). -/
def placeExt (j : Job) (n e : Nat) (more : List (Nat × Nat)) : Cmd Nat := fun s =>
  if n + e = 0 then .ok (0, s)
  else if !j.copied && decide ((partAt s j.part).cfg.nodes < nodesOwned s j.part + nodesPending s j.part + n + e) then .error (.fail stQuota s)
  else if e = 0 then .ok (0, s)
  else if j.fwd then
    match ((fwdOf s j.seq).map (·.commits)).bind (fun cs => cs.find? fun c => c.1 == 1) with
    | none => if j.inherited then ownExt j e more s else .error (.wait none)
    | some (_, _, b) => .ok ((nodeOf b 0).extFirst, s)
  else ownExt j e more s

/-- A creation under a parent must not reach depth 9 (R123). -/
def depthOk (s : State) (parent : ParentRef) : Bool := decide (parentDepth s parent + 1 ≤ 8)

/-- A new node of partition `p` (R113, R117, R123). -/
def nodeFor (s : State) (p : Nat) (w : Place) (persistent : Bool) (a : Attrs) (parent : ParentRef) (gcm : Nat) (m : Bytes) : Node :=
  { state := .current, gen := w.gen, owner := p, persistent := persistent, attrs := a, depth := parentDepth s parent + 1, parent := parent,
    gcm := gcm, gcmRes := 0, extFirst := w.ext, extCount := w.count, check := checkValue a m, material := m, exhausted := false,
    changedAt := none }

/-- A job's new node with known material. -/
def newNode (j : Job) (persistent : Bool) (a : Attrs) (parent : ParentRef) (gcm : Nat) (m : Bytes) : Cmd (Nat × Node) := do
  Cmd.need (depthOk (← get) parent) stKeyUsage
  let w ← place j m.length
  return (w.index, nodeFor (← get) j.part w persistent a parent gcm m)

/-- A run that creates a node. -/
def Run.creates (i : Nat) (n : Node) (more : Bytes) : Run :=
  { Run.output (keyResult (nodeHandle i n.gen) n.check ++ more) with commits := [.node i n] }

/-- A command without input (log entry 35). -/
def noInput (j : Job) : Except W16 Unit := need (j.desc.inLen == 0) stFormat

/-- Wrap a key as a block of partition `p` that names no keystore record, with its pad (R130). -/
def wrapOut (q p : Nat) (kek : Bytes) (a : Attrs) (gcm : Nat) (parent : ParentRef) (persistent : Bool) (h : W32) (check m : Bytes) : Cmd Bytes := do
  let pad ← drawFree q (blockPadLen m.length)
  return wrapBlock kek a {
    owner := p, mask := a.mask, notBefore := a.notBefore, notAfter := a.notAfter, gcm := gcm, parent := parent, persistent := persistent,
    handle := h, check := check, ksSeq := 0 } m pad

/-- The parent reference, persistence and invocation counter of a binding (R113). -/
def Binding.parent (b : Binding) : ParentRef := parentOf (leField b.image 36 4)
def Binding.persistent (b : Binding) : Bool := bitOf (byteAt b.image 3).toNat 0
def Binding.count (b : Binding) : Nat := leField b.image 32 4

/-! ## KEY_IMPORT and the keystore restore (R139, R148) -/

/-- KEY_IMPORT under key A, which becomes the parent. -/
def keyImportRun (j : Job) : Cmd Run := do
  let k ← Cmd.of (bound j.keyA)
  let (kb, a) ← Cmd.of (takeBlock (← get) j.part k.material j.input)
  let (i, n) ← newNode j (bitOf (j.desc.par 56) 0) a (.node k.node k.gen) ((kb.z.map (·.gcm)).getD 0) kb.key
  return Run.creates i n []

def execKeyImport (seq : Nat) (s : State) : Next :=
  done (runOp 0x0201 (fun j => j.desc.keyA != 0) keyImportRun seq s)

/-- A slot lies in a node range that another partition has reserved (R111). -/
def foreignSlot (s : State) (p i : Nat) : Bool := (otherRanges s p).any fun r => decide (r.1 ≤ i ∧ i < r.1 + r.2)

/-- KEY_IMPORT with handle A zero: the node of a put record returns to its slot (R139, R147). -/
def keyRestoreRun (j : Job) : Cmd Run := do
  let s ← get
  let p := j.part
  let k ← Cmd.of (kbpkNeed s p)
  let (kb, a) ← Cmd.of (takeBlock s p k j.input)
  let z ← Cmd.some? kb.z stFormat
  let i := hNode z.handle
  let g := hGen z.handle
  Cmd.need (hType z.handle == 0 && decide (1 ≤ i ∧ i < 0x1C000 ∧ 1 ≤ g ∧ g ≤ 8191)) stFormat
  Cmd.need (chainOk s p 9 z.parent) stKeyGone
  let check := checkValue a kb.key
  let o := nodeAt s i
  if o.state ≠ .free then do
    Cmd.need (o.state == .current && o.gen == g && o.owner == p && o.check == check) stKeyVerifyFail
    return Run.output (keyResult z.handle check)
  else do
    Cmd.need (!foreignSlot s p i && !((pendingSlots s).any fun r => decide (r.1 ≤ i ∧ i < r.1 + r.2))) stKeyVerifyFail
    Cmd.need (depthOk s z.parent) stKeyUsage
    let e := extSlots kb.key.length
    let f ← placeExt j 1 e [(i, 1)]
    return Run.creates i {
      state := .current, gen := g, owner := p, persistent := z.persistent, attrs := a, depth := parentDepth s z.parent + 1, parent := z.parent,
      gcm := z.gcm, gcmRes := z.gcm, extFirst := f, extCount := e, check := check, material := kb.key, exhausted := false, changedAt := none } []

def execKeyImportRestore (seq : Nat) (s : State) : Next :=
  done (runOp 0x0201 (fun j => j.desc.keyA == 0) keyRestoreRun seq s)

/-! ## KEY_EXPORT, KEY_GENERATE, KEY_TRANSLATE -/

/-- A binding of a node handle: the block names the node (R130). -/
def Binding.named (b : Binding) : W32 := if hType b.handle = 0 then b.handle else 0

/-- KEY_EXPORT: key A as a key block under key B. -/
def keyExportRun (j : Job) : Cmd Run := do
  Cmd.of (noInput j)
  let a ← Cmd.of (bound j.keyA)
  let b ← Cmd.of (bound j.keyB)
  Cmd.need (mayWrap b.material a.attrs a.material.length) stKeyUsage
  return Run.output (← wrapOut j.seq j.part b.material a.attrs a.count a.parent a.persistent a.named a.check a.material)

def execKeyExport (seq : Nat) (s : State) : Next := done (runOp 0x0202 anyJob keyExportRun seq s)

/-- The symmetric attributes a template gives, its mask narrowing the default (R118 to R122). -/
def symAttrs (usage : W16) (alg mode exp : Byte) (n mask nb na : Nat) (version : W16) : Except W16 Attrs := do
  match usageRow usage with
  | none => .error stFormat
  | some r =>
    need (r.algs.contains alg && (alg == chr 'A' || alg == chr 'T' || alg == chr 'H')) stFormat
    need (modeKnown mode && [chr 'E', chr 'N', chr 'S'].contains exp && (charBytes version).all isAlnum) stFormat
    need (mode != chr 'Y') stKeyUsage
    need ((alg != chr 'A' || n == 16 || n == 24 || n == 32) && (alg != chr 'T' || n == 16 || n == 24) && decide (16 ≤ n ∧ n ≤ 4096)) stFormat
    need (na == 0 || nb == 0 || decide (nb < na)) stFormat
    return { usage := usage, alg := alg, mode := mode, exp := exp, mask := BitVec.ofNat 16 (Nat.land (defaultMask usage exp) mask),
             version := version, notBefore := nb, notAfter := na, code := 0 }

/-- KEY_GENERATE's template (R148). -/
def genTemplate (t : Bytes) : Except W16 Attrs := do
  need (t.length == 32 && zeroAt t 26 32) stFormat
  symAttrs (BitVec.ofNat 16 (beField t 0 2)) (byteAt t 2) (byteAt t 3) (byteAt t 4) (byteAt t 5).toNat (leField t 6 2) (leField t 8 8)
    (leField t 16 8) (BitVec.ofNat 16 (beField t 24 2))

/-- KEY_GENERATE: a symmetric key from the key-generation DRBG; with byte 56 bit 1 its key block follows. -/
def keyGenerateRun (j : Job) : Cmd Run := do
  let t := j.input
  let a ← Cmd.of (genTemplate t)
  let wants := bitOf (j.desc.par 56) 1
  let n := (byteAt t 5).toNat
  let kek ← (match j.keyB with
    | some b => pure b.material
    | none => if wants then do Cmd.of (kbpkNeed (← get) j.part) else pure [])
  Cmd.need (!(wants && j.keyB.isSome) || (exportable a && mayWrap kek a n)) stKeyUsage
  let parent ← Cmd.of (masterRef (← get) j.part)
  Cmd.need (!wants || decide (16 + blockLen n ≤ j.desc.outCap)) stFormat
  Cmd.need (depthOk (← get) parent) stKeyUsage
  let w ← place j n
  let m ← draw j.seq 256 n
  let node := nodeFor (← get) j.part w (bitOf (j.desc.par 56) 0) a parent 0 m
  let block ← (if wants then wrapOut j.seq j.part kek a 0 parent node.persistent (nodeHandle w.index node.gen) node.check m else pure [])
  return Run.creates w.index node block

def execKeyGenerate (seq : Nat) (s : State) : Next := done (runOp 0x0203 anyJob keyGenerateRun seq s)

/-- KEY_TRANSLATE: a key block under A becomes one under B; no node is made (log entry 36 for its Zalilys block). -/
def keyTranslateRun (j : Job) : Cmd Run := do
  let a ← Cmd.of (bound j.keyA)
  let b ← Cmd.of (bound j.keyB)
  let (kb, at_) ← Cmd.of (readBlock (← get) j.part a.material j.input)
  Cmd.need (exportable at_ && hasBit at_ mExport && mayWrap b.material at_ kb.key.length) stKeyUsage
  let parent := match kb.z with | some z => z.parent | none => ParentRef.node a.node a.gen
  return Run.output (← wrapOut j.seq j.part b.material at_ ((kb.z.map (·.gcm)).getD 0) parent false 0 (checkValue at_ kb.key) kb.key)

def execKeyTranslate (seq : Nat) (s : State) : Next := done (runOp 0x0209 anyJob keyTranslateRun seq s)

/-! ## Changing keys under load (R141 to R143) -/

/-- The node a command changes, still current at the generation bound (log entry 30). -/
def target (s : State) (j : Job) : Except W16 (Nat × Node) := do
  let b ← bound j.keyA
  let n := nodeAt s b.node
  need (n.state == .current && n.gen == b.gen) stKeyGone
  return (b.node, n)

/-- KEY_REPLACE: new material for a node, if its check value is the one supplied (R141). -/
def keyReplaceRun (j : Job) : Cmd Run := do
  let s ← get
  let (i, n) ← Cmd.of (target s j)
  let b := j.input
  let c := (byteAt b 0).toNat
  Cmd.need (decide (9 ≤ b.length) && (c == 3 || c == 5) && zeroAt b (1 + c) 8) stFormat
  let kek ← Cmd.of (match j.keyB with | some k => .ok k.material | none => kbpkNeed s j.part)
  let (kb, a) ← Cmd.of (takeBlock s j.part kek (b.drop 8))
  Cmd.need (a.usage == n.attrs.usage && a.alg == n.attrs.alg && a.mode == n.attrs.mode && a.exp == n.attrs.exp) stKeyUsage
  let check := checkValue a kb.key
  Cmd.need (check == slice b 1 c) stKeyVerifyFail
  let parent ← Cmd.of (match j.keyB with | some k => .ok (.node k.node k.gen) | none => masterRef s j.part)
  Cmd.need (depthOk s parent) stKeyUsage
  let e := extSlots kb.key.length
  let f ← placeExt j 0 e []
  let n' : Node := { n with
    gen := nextGen n.gen, attrs := { n.attrs with code := a.code }, depth := parentDepth s parent + 1, parent := parent, extFirst := f, extCount := e,
    check := check, material := kb.key }
  return { Run.output (keyResult (nodeHandle i n'.gen) check) with commits := [.node i n'], change := some i, drain := .node i n.gen }

def execKeyReplace (seq : Nat) (s : State) : Next := done (runOp 0x0204 anyJob keyReplaceRun seq s)

/-- KEY_ERASE: the node is zeroised and its slot freed, a generation on (R143). -/
def keyEraseRun (s : State) (j : Job) : Except W16 Run := do
  noInput j
  let (i, n) ← target s j
  return { Run.output [] with commits := [.freeNode i (nextGen n.gen) n.owner], change := some i, drain := .bound }

def execKeyErase (seq : Nat) (s : State) : Next := done (runPure 0x0205 keyEraseRun seq s)

/-- KEY_INVALIDATE: the generation moves on and every descendant is lost (R142). -/
def keyInvalidateRun (s : State) (j : Job) : Except W16 Run := do
  noInput j
  let (i, n) ← target s j
  return { Run.output (leBytes 4 (nodeHandle i (nextGen n.gen)).toNat) with
    commits := [.node i { n with gen := nextGen n.gen }], change := some i, drain := .bound }

def execKeyInvalidate (seq : Nat) (s : State) : Next := done (runPure 0x0206 keyInvalidateRun seq s)

/-! ## Reads -/

/-- KEY_ATTR_READ: node bytes 0 to 63 as bound. -/
def keyAttrRun (_ : State) (j : Job) : Except W16 Run := do
  noInput j
  return Run.output (← bound j.keyA).image

def execKeyAttrRead (seq : Nat) (s : State) : Next := done (runPure 0x0207 keyAttrRun seq s)

/-- KEY_CHECK_VALUE: length and value (R117). -/
def keyCheckRun (_ : State) (j : Job) : Except W16 Run := do
  noInput j
  let b ← bound j.keyA
  return Run.output (BitVec.ofNat 8 b.check.length :: fit 7 b.check)

def execKeyCheckValue (seq : Nat) (s : State) : Next := done (runPure 0x0208 keyCheckRun seq s)

/-! ## Blobs, contexts, the keystore ring and the cache -/

/-- Evict every loaded blob of a partition. -/
def evictAll (p : Nat) (s : State) : State := (s.mas.blobs.filter fun b => b.part == p).foldl (fun s b => evictBlob b s) s

/-- BLOB_TABLE_SET: name the blob table and evict the loaded blobs (R131). -/
def blobTableRun (j : Job) : Cmd Run := do
  let b := j.input
  Cmd.need (b.length == 16 && zeroAt b 12 16) stFormat
  Cmd.need (decide (leField b 8 4 ≤ (partAt (← get) j.part).cfg.blobs)) stQuota
  modify fun s => modPart j.part (fun x => { x with blobTable := some (leField b 0 8, leField b 8 4) }) (evictAll j.part s)
  return Run.output []

def execBlobTableSet (seq : Nat) (s : State) : Next := done (runOp 0x020A anyJob blobTableRun seq s)

/-- BLOB_EVICT: the loaded copy of a blob table entry goes (R132). -/
def blobEvictRun (j : Job) : Cmd Run := do
  Cmd.of (noInput j)
  let h := j.desc.keyA
  Cmd.need (h != 0) stKeyGone
  Cmd.need (hType h == 1) stKeyUsage
  let s ← get
  Cmd.need (match (partAt s j.part).blobTable with | some (_, n) => decide (hIndex h < n) | none => false) stKeyGone
  modify fun s => (s.mas.blobs.filter fun b => b.part == j.part && b.blob == hIndex h).foldl (fun s b => evictBlob b s) s
  return Run.output []

def execBlobEvict (seq : Nat) (s : State) : Next := done (runOp 0x020B anyJob blobEvictRun seq s)

/-- What a mode of use permits (R119): encrypt, decrypt, make a MAC, check a MAC, sign, verify a signature, derive. -/
def modeRights (m : Byte) : List Bool :=
  let is (cs : List Char) : Bool := cs.any fun c => chr c == m
  [is ['E', 'B', 'N'], is ['D', 'B', 'N'], is ['G', 'C', 'N'], is ['V', 'C', 'N'], is ['S', 'N'], is ['V', 'N'], is ['X', 'N']]

/-- One mode permits no more than another. -/
def modeWithin (m n : Byte) : Bool := (List.zipWith (fun a b => !a || b) (modeRights m) (modeRights n)).all id

/-- DERIV_CONTEXT_SET (R128): attributes no wider than the parent's (log entry 37). -/
def ctxSetRun (_ : State) (j : Job) : Except W16 Run := do
  let p ← bound j.keyA
  let b := j.input
  let l := (byteAt b 8).toNat
  need (b.length == 48 && byteAt b 5 == 0 && decide (l ≤ 32) && zeroAt b 9 16 && zeroAt b (16 + l) 48) stFormat
  let n := (byteAt b 4).toNat
  let a ← symAttrs (BitVec.ofNat 16 (beField b 0 2)) (byteAt b 2) (byteAt b 3) (chr 'N') n (leField b 6 2) 0 0 (chars2 '0' '0')
  need (modeWithin a.mode p.attrs.mode && decide (n ≤ p.material.length) && hasBit p.attrs a.mask.toNat) stKeyUsage
  let ix := leField j.desc.params 0 4
  return { Run.output (leBytes 4 (2 ^ 31 + ix)) with
    commits := [.ctx j.part ix { parent := p.handle, attrs := a, length := n, label := slice b 16 l }] }

def execDerivContextSet (seq : Nat) (s : State) : Next := done (runPure 0x020C ctxSetRun seq s)

/-- KEYSTORE_RING_SET: set or remove the keystore ring (R133, R135, R137; 11 R317). -/
def keystoreRingRun (j : Job) : Cmd Run := do
  let b := j.input
  Cmd.need (b.length == 24 && zeroAt b 9 16) stFormat
  let base := leField b 0 8
  let k := (byteAt b 8).toNat
  Cmd.need (base == 0 || (decide (16 ≤ k ∧ k ≤ 30) && base % 4096 == 0)) stFormat
  let s ← get
  if base ≠ 0 ∧ !inWindow (partAt s j.part).cfg j.part base (2 ^ k) then
    set (partError j.part false base 3 j.ring j.desc.opcode s)
    Cmd.fail stAccess
  else
    modify fun s => modPart j.part (fun x => { x with
      ks := { en := base != 0, base := base, log2 := if base = 0 then 0 else k, seq := leField b 16 8, head := 0, tail := 0 } }) s
    return Run.output []

def execKeystoreRingSet (seq : Nat) (s : State) : Next := done (runOp 0x020D anyJob keystoreRingRun seq s)

/-- Free a partition's unbound cache entries; bound ones go as their jobs retire (R148). -/
def flushCache (p : Nat) (s : State) : State :=
  { s with mas := { s.mas with
    cache := (s.mas.cache.map fun e => if e.part = p then { e with flushed := true } else e).filter fun e => !(e.flushed && e.holders.isEmpty) } }

/-- DERIVED_CACHE_FLUSH. -/
def cacheFlushRun (j : Job) : Cmd Run := do
  Cmd.of (noInput j)
  modify (flushCache j.part)
  return Run.output []

def execDerivedCacheFlush (seq : Nat) (s : State) : Next := done (runOp 0x020E anyJob cacheFlushRun seq s)

/-! ## The orphan sweep (R144) -/

/-- Visits of a pass. -/
def sweepVisits : Nat := 131072 + 16384

/-- A node's parent reference does not match the current generation of its parent. -/
def orphan (s : State) (n : Node) : Bool :=
  match n.parent with
  | .master g => !((vaultAt s n.owner).master.isSome && (vaultAt s n.owner).gen == g)
  | .node i g => !(((nodeAt s i).state == .current || (nodeAt s i).state == .blob) && (nodeAt s i).gen == g)

/-- The sweep frees an orphan: zeroised, its delete record written by the active; one whose record or generation must wait stays for a
later pass (log entry 38). -/
def sweepNode (i : Nat) (s : State) : State :=
  let n := nodeAt s i
  if n.state = .blob then
    (if orphan s n then (match s.mas.blobs.find? (fun b => b.node == i) with | some b => evictBlob b s | none => s) else s)
  else if n.state ≠ .current ∨ !orphan s n ∨ changeWaits s (some i) then s
  else
    let g := nextGen n.gen
    let c := KsChange.delete (nodeHandle i g)
    let writes := n.persistent && s.pair.effective
    if writes && !ksReady s n.owner [c] then s
    else
      let s := if writes then ksWrite n.owner c s else s
      freeHeld (eraseNode i g n.owner s)

/-- The sweep frees a derived-key entry whose parent generation is no longer current. -/
def sweepEntry (k : Nat) (s : State) : State :=
  { s with mas := { s.mas with cache := s.mas.cache.filter fun e =>
      !(e.slot == k && !(((nodeAt s e.parent).state == .current || (nodeAt s e.parent).state == .blob) && (nodeAt s e.parent).gen == e.gen)) } }

/-- SWEEP_VISIT: the next node or cache entry of the running pass. -/
def execSweepVisit (s : State) : Next :=
  if !s.pwr.ready then done s
  else
    let k := s.mas.sweep
    let s := if k < 131072 then sweepNode k s else sweepEntry (k - 131072) s
    done (if k + 1 < sweepVisits then { s with mas := { s.mas with sweep := k + 1 } }
      else { s with mas := { s.mas with sweep := 0, passes := s.mas.passes + 1 } })

/-! ## Waits of commits -/

/-- GENERATION_CHANGE_COMMIT: a waiting generation change goes on once a full pass has finished since the last one (R144). -/
def execGenerationChangeCommit (seq : Nat) (s : State) : Next :=
  match findJob s seq with
  | none => done s
  | some j => if j.phase = .waitSweep then done (gates seq s) else done s

/-- KEYSTORE_RECORD_WRITE: a command or a binding that waits for keystore space writes its record and goes on (R135, R147). -/
def execKeystoreRecordWrite (seq : Nat) (s : State) : Next :=
  match findJob s seq with
  | none => done s
  | some j => done (if j.phase = .waitKeystore then gates seq s else if j.phase = .reading then progress seq s else s)

/-- MAS_KS_HEAD_WRITE: host software has consumed records (R137). -/
def execMasKsHeadWrite (p : Fin 256) (value : W32) (s : State) : Next := served s <|
  let k := (partAt s p).ks
  let off := bitsOf value.toNat 29 0
  if k.en ∧ off % 64 = 0 ∧ off < 2 ^ k.log2 then done (modPart p (fun x => { x with ks := { x.ks with head := off } }) s) else done s

end Sys2Proof.Machine
end

