-- ==== Sys2Proof/Machine/Newt.lean ====
section
/-!
DEFINITION. The Newt array (08_newt_cores.md): ENCRYPT and DECRYPT, core faults, known-answer tests and the self-test window.
-/
namespace Sys2Proof.Machine

/-! ## ENCRYPT and DECRYPT (R217 to R229) -/

/-- The IV field obeys R224 for a mode. -/
def ivFieldOk (mode : Nat) (tdes enc : Bool) (inp : Bytes) : Bool :=
  let n := (byteAt inp 15).toNat
  match mode with
  | 1 => zeroAt inp 0 16
  | 5 => if enc then zeroAt inp 8 16 else zeroAt inp 12 16
  | 6 => decide (7 ≤ n ∧ n ≤ 13) && zeroAt inp n 15
  | _ => !tdes || zeroAt inp 8 16

/-- Bytes 16 to 47 obey R223: only GCM and CCM have AAD, and only their decryption a tag. -/
def dataHeadOk (mode tag : Nat) (enc : Bool) (inp : Bytes) : Bool :=
  let aead := mode == 5 || mode == 6
  decide (48 ≤ inp.length) && zeroAt inp 20 32 && (aead || leField inp 16 4 == 0) && decide (leField inp 16 4 ≤ inp.length - 48) &&
  (if aead && !enc then zeroAt inp (32 + tag) 48 else zeroAt inp 32 48)

/-- The data length obeys R221 and the limit of CCM (R227). -/
def dataLenOk (mode padding blk nonce d : Nat) (enc : Bool) : Bool :=
  match mode with
  | 1 | 2 =>
    if enc then (if padding = 0 then decide (d % blk = 0 ∧ d ≠ 0) else if padding = 1 then decide (d ≠ 0) else true)
    else decide (d % blk = 0 ∧ d ≠ 0)
  | 6 => decide (d < 2 ^ (8 * (15 - nonce)))
  | _ => true

/-- Output length (R228) as far as it is known before the data is processed. -/
def dataOutLen (mode padding blk tag d : Nat) (enc : Bool) : Nat :=
  if enc then
    match mode with
    | 1 | 2 => if padding = 0 then d else if padding = 1 then ceilDiv d blk * blk else (d / blk + 1) * blk
    | 5 => 16 + d + tag
    | 6 => d + tag
    | _ => d
  else if padding = 2 ∨ padding = 4 then 0 else d

/-- The output of ENCRYPT. -/
def encryptOut (mode padding tag : Nat) (tdes : Bool) (a : Binding) (inp aad data : Bytes) : Except W16 Bytes :=
  let k := a.material
  let blk := blockSize tdes
  let iv := slice inp 0 blk
  match mode with
  | 1 => (match pad padding blk data with | some x => .ok (ecbEnc tdes k x) | none => .error stFormat)
  | 2 => (match pad padding blk data with | some x => .ok (cbcEnc tdes k iv x) | none => .error stFormat)
  | 3 => .ok (cfbEnc k iv data)
  | 4 => .ok (ctrMode tdes k iv data)
  | 5 =>
    let full := slice inp 0 8 ++ beBytes 4 a.gcm
    let r := gcmSeal k full aad data
    .ok (full ++ zeros 4 ++ r.1 ++ r.2.take tag)
  | _ =>
    let nonce := slice inp 0 (byteAt inp 15).toNat
    .ok (ccmCipher k nonce data ++ ccmTag k nonce aad data tag)

/-- The output of DECRYPT. -/
def decryptOut (mode padding tag : Nat) (tdes : Bool) (a : Binding) (inp aad data : Bytes) : Except W16 Bytes :=
  let k := a.material
  let blk := blockSize tdes
  let iv := slice inp 0 blk
  match mode with
  | 1 => (match unpad padding blk (ecbDec tdes k data) with | some x => .ok x | none => .error stFormat)
  | 2 => (match unpad padding blk (cbcDec tdes k iv data) with | some x => .ok x | none => .error stFormat)
  | 3 => .ok (cfbDec k iv data)
  | 4 => .ok (ctrMode tdes k iv data)
  | 5 => (match gcmOpen k (slice inp 0 12) aad data (slice inp 32 tag) with | some x => .ok x | none => .error stVerifyFail)
  | _ =>
    let nonce := slice inp 0 (byteAt inp 15).toNat
    let x := ccmCipher k nonce data
    if ccmTag k nonce aad x tag = slice inp 32 tag then .ok x else .error stVerifyFail

/-- Both commands, with the failures in the order of R229. -/
def dataRun (enc : Bool) (_ : State) (j : Job) : Except W16 Run := do
  let a ← bound j.keyA
  let inp := j.input
  let mode := j.desc.par 56
  let padding := j.desc.par 57
  let tag := j.desc.par 58
  let tdes := isTdes a.attrs
  let blk := blockSize tdes
  need (dataHeadOk mode tag enc inp && ivFieldOk mode tdes enc inp) stFormat
  let n := leField inp 16 4
  let data := inp.drop (48 + n)
  need (dataLenOk mode padding blk (byteAt inp 15).toNat data.length enc && decide (dataOutLen mode padding blk tag data.length enc ≤ j.desc.outCap)) stFormat
  let aad := slice inp 48 n
  let out ← if enc then encryptOut mode padding tag tdes a inp aad data else decryptOut mode padding tag tdes a inp aad data
  return Run.output out

/-- ENCRYPT. -/
def execEncrypt (seq : Nat) (s : State) : Next := done (runPure 0x0601 (dataRun true) seq s)
/-- DECRYPT. -/
def execDecrypt (seq : Nat) (s : State) : Next := done (runPure 0x0602 (dataRun false) seq s)

/-! ## Faults (R238) -/

/-- Partition and slot of the jobs among `before` whose work has ended since. -/
def endedNow (before : List Job) (s : State) : List Nat :=
  before.flatMap fun j => match findJob s j.seq with
    | some k => if k.ended then [j.part, j.slot] else []
    | none => [j.part, j.slot]

/-- A fault of a unit: the job at work on it ends, its Tarn source is raised with what its severity brings. -/
def unitFault (u : TestUnit) (running : Job → Bool) (datapath : Bool) (info : W32) (s : State) : State :=
  let qs := (s.jobs.filter fun j => j.holds u && running j).map (·.seq)
  tarnRaise (unitSrc u) (if datapath then 2 else 1) (unitNo u) info false (endJobs qs stEngineFault .yielded s)

/-- NEWT_CORE_FAULT: the request's job ends with ST_ENGINE_FAULT; Tarn NEWTc and event 0x181. -/
def execNewtCoreFault (core : Fin 16) (datapath : Bool) (info : W32) (s : State) : Next :=
  let u : TestUnit := .newt core
  let before := s.jobs.filter fun j => j.holds u
  let s := unitFault u (fun _ => true) datapath info s
  done (note 0x181 (6 + core.val / 4) ([core.val, info.toNat] ++ endedNow before s) s)

/-! ## Known-answer tests and the window (R236, R237, R245) -/

/-- ST_PERIOD as it acts, ns (R243). -/
def stPeriod (v : Nat) : Nat := 1000000000 * clampTo 1 60 v

/-- A unit of `u`'s Tarn source returns to service with a passed test once its bit has been cleared (R238, 17 R480). -/
def testPassed (u : TestUnit) (s : State) : State :=
  if !unitUp s u && !(srcAt s (unitSrc u)).set then setUp u true s else s

/-- A failed test takes the unit out of service whatever the severity, and raises its source (R237, 17 R480). -/
def testFailed (u : TestUnit) (suite cause : Nat) (s : State) : State :=
  let s := tarnOpen (unitSrc u) 3 (unitNo u) false (takeOut u s)
  match u with
  | .newt n => note 0x182 (6 + n.val / 4) [n.val, suite, cause] s
  | .igu n => note 0x1A2 (if n.val < 16 then 10 + n.val / 4 else if n.val < 20 then 14 else 15) [n.val, cause] s
  | _ => s

/-- The window asks for a Newt core. -/
def newtWindowAsk (n suite : Nat) (s : State) : State :=
  let s := { s with eng := { s.eng with newtWin := { s.eng.newtWin with unit := n, suite := suite, state := 1 } } }
  match (newtAt s n).owner with
  | .job _ => s
  | _ => newtWindowTake n s

/-- The window is busy. -/
def Win.busy (w : Win) : Bool := w.state == 1 || w.state == 2

/-- NEWT_WIN_START: a write of NEWT_WIN_CTRL. -/
def execNewtWinStart (value : W32) (s : State) : Next := served s <|
  let v := value.toNat
  if s.eng.newtWin.busy then done s
  else if bitOf v 0 then done (newtWindowAsk (bitsOf v 11 8) (bitsOf v 2 1) s)
  else done { s with eng := { s.eng with newtWin := { s.eng.newtWin with unit := bitsOf v 11 8, suite := bitsOf v 2 1 } } }

/-- NEWT_PERIODIC_TEST: every ST_PERIOD seconds the next core in service is tested, through the window (log entry 46). -/
def execNewtPeriodicTest (s : State) : Next :=
  if s.time.mono < s.eng.newtLast + stPeriod s.eng.newtPeriod ∨ s.eng.newtWin.busy then done s
  else match ((List.range 16).map fun k => (s.eng.newtNext + k) % 16).find? (fun n => (newtAt s n).up) with
    | none => done s
    | some n => done (newtWindowAsk n 3 { s with eng := { s.eng with newtNext := (n + 1) % 16, newtLast := s.time.mono } })

/-- A window test of a Newt core ends: the core is zeroised and released. -/
def newtWindowEnd (n : Fin 16) (pass : Bool) (cause : Nat) (cycles : Nat) (s : State) : State :=
  let s := { s with eng := { s.eng with newtWin := { s.eng.newtWin with state := 3, pass := pass, fail := !pass, cycles := cycles } } }
  let s := releaseNewt n.val s
  if pass then testPassed (.newt n) s else testFailed (.newt n) s.eng.newtWin.suite cause s

/-- A window test of an Iguana unit ends (09 R276). -/
def iguWindowEnd (n : Fin 28) (pass : Bool) (s : State) : State :=
  let free (e : Engine) : Engine := { e with owner := .free }
  let s := { s with eng := { s.eng with iguWin := { s.eng.iguWin with state := 3, pass := pass, fail := !pass } } }
  let s := if n.val < 16 then modBig n.val (fun c => { c with window := false }) s
    else if n.val < 20 then modLat (n.val - 16) free s else modHash (n.val - 20) free s
  if pass then testPassed (.igu n) s else testFailed (.igu n) 0 1 s

/-- WINDOW_TEST_DONE: the known-answer test that a window, a Tarn clear or a divergence started on a unit ends. -/
def execWindowTestDone (unit : TestUnit) (pass : Bool) (cycles : BitVec 14) (s : State) : Next :=
  let listed (s : State) : State :=
    if s.eng.tests.contains unit then
      let s := { s with eng := { s.eng with tests := s.eng.tests.filter (· != unit) } }
      if pass then testPassed unit s else testFailed unit 3 1 s
    else s
  match unit with
  | .newt n => if s.eng.newtWin.state = 2 ∧ s.eng.newtWin.unit = n.val then done (newtWindowEnd n pass 1 cycles.toNat s) else done (listed s)
  | .igu n => if s.eng.iguWin.state = 2 ∧ s.eng.iguWin.unit = n.val then done (iguWindowEnd n pass s) else done (listed s)
  | _ => done (listed s)

/-- NEWT_WIN_TIMEOUT: a test that has held its core for 4 µs loses it and counts as failed (R236). -/
def execNewtWinTimeout (s : State) : Next :=
  if h : s.eng.newtWin.unit < 16 then
    if s.eng.newtWin.state = 2 ∧ 4000 + s.eng.newtWin.since ≤ s.time.mono then
      done (newtWindowEnd ⟨s.eng.newtWin.unit, h⟩ false 2 (Nat.min 16383 ((s.time.mono - s.eng.newtWin.since) * 10 / 8)) s)
    else done s
  else done s

end Sys2Proof.Machine
end

