-- ==== Sys2Proof/Machine/Iguana.lean ====
section
/-!
DEFINITION. The Iguana engine (09_iguana_engine.md): signatures, key pairs, agreement, KEM, RSA encryption, hashing, loaded curves, unit
faults and tests.
-/
namespace Sys2Proof.Machine

/-- The Scree cluster of the unit a job holds (16 R459). -/
def Job.iguCluster (j : Job) : Nat :=
  match j.unit with
  | some (.iguana n _) => 10 + n / 4
  | some (.lattice _) => 14
  | some (.hash _) => 15
  | _ => j.cluster

/-- ST_INPUT_REJECTED with event 0x1A5, which names no check (R264, R285). -/
def rejectInput {α : Type} (j : Job) : Cmd α := do
  modify (note 0x1A5 j.iguCluster [j.part, j.desc.opcode.toNat])
  Cmd.fail stInputRejected

/-- Go on only if a validation passes. -/
def valid (j : Job) (b : Bool) : Cmd Unit := if b then pure () else rejectInput j

/-! ## Keys of a command -/

/-- A public key: algorithm code, encoding, CURVE_LOAD input of a loaded curve. -/
structure PubKey where
  /-- Code of R251. -/
  alg : Nat
  /-- Encoding of R252. -/
  pub : Bytes
  /-- The loaded curve. -/
  curve : Bytes
  deriving DecidableEq, Repr

/-- The curve of a key. -/
def PubKey.weier (k : PubKey) : Weier := weierOf k.curve k.alg

/-- Field bytes of a Weierstrass key. -/
def fieldBytes (alg : Nat) (curve : Bytes) : Nat := fieldLen alg (leField curve 0 2)

/-- The length of a public key of a code; 0 for a loaded curve that is not there. -/
def pubLenOf (alg : Nat) (curve : Bytes) : Nat :=
  if 0x10 ≤ alg ∧ alg ≤ 0x13 then (if curve = [] then 0 else 2 * fieldBytes alg curve + 1) else pubLen alg

/-- The public part of a bound key. -/
def Binding.pub (b : Binding) : PubKey := { alg := b.attrs.code, pub := publicKey b.attrs.code b.material, curve := b.curve }

/-- The header of R255: whether its fields obey the uses of an opcode. -/
def headOk (inp : Bytes) (usesCtx usesPre keyIn : Bool) : Bool :=
  decide (8 ≤ inp.length) && (usesCtx || byteAt inp 0 == 0) && decide ((byteAt inp 1).toNat ≤ b2n usesPre) && byteAt inp 3 == 0 &&
  (keyIn || (byteAt inp 2 == 0 && leField inp 4 4 == 0))

/-- The key a command works with: the bound one, or the one in its input at byte 8 (R251, R252). `fits` judges an input code. -/
def keyOf (j : Job) (fits : Nat → Bool) : Except W16 PubKey :=
  match j.keyA with
  | some b => .ok b.pub
  | none => do
    let inp := j.input
    let alg := (byteAt inp 2).toNat
    let n := leField inp 4 4
    let curve := curveRaw j.curves alg
    need (decide (8 + n ≤ inp.length) && fits alg && decide (n ≠ 0 ∧ n = pubLenOf alg curve)) stFormat
    return { alg := alg, pub := slice inp 8 n, curve := curve }

/-- The rest of the input after header and input key. -/
def afterKey (j : Job) : Bytes := j.input.drop (8 + (if j.keyA.isSome then 0 else leField j.input 4 4))

/-! ## Draws (R273, R274; log entry 47 for the bytes a blinding takes) -/

/-- A scalar in [1, n − 1] by rejection. -/
def drawScalar (q inst n : Nat) : Nat → Cmd Nat
  | 0 => Cmd.hold
  | f + 1 => do
    let c := beNat (← draw q inst (ceilDiv (bitLen n) 8)) % 2 ^ bitLen n
    if c + 2 ≤ n then return c + 1 else drawScalar q inst n f

/-- The blinding of a secret scalar on coordinates of `l` bytes. -/
def drawBlind (q l : Nat) : Cmd Unit := do
  let _ ← draw q 257 (4 + l)

/-- The blinding of an RSA private operation with a modulus of `k` bytes. -/
def drawRsaBlind (q k : Nat) : Cmd Unit := do
  let _ ← draw q 257 (8 + k)

/-! ## PK_SIGN and PK_VERIFY (R256 to R258) -/

/-- The scheme carries a context for a key of this code. -/
def usesContext (alg : Nat) : Bool := alg == 7 || decide (0x38 ≤ alg ∧ alg ≤ 0x3A)
/-- The scheme takes a digest in place of the message. -/
def usesPrehash (scheme : Nat) : Bool := scheme == 1 || scheme == 3 || scheme == 4

/-- Length of a signature. -/
def sigLen (scheme : Nat) (k : PubKey) : Nat :=
  match scheme with
  | 1 => 2 * k.weier.orderLen
  | 2 => if k.alg = 7 then 114 else 64
  | 5 => (match k.alg with | 0x38 => 2420 | 0x39 => 3309 | _ => 4627)
  | _ => rsaLen k.alg

/-- The context and the message, or its digest where the scheme takes one; `none` where the lengths do not fit. -/
def signedPart (scheme hash : Nat) (inp rest : Bytes) : Option (Bytes × Bytes) :=
  let c := (byteAt inp 0).toNat
  let m := rest.drop c
  if rest.length < c then none
  else if usesPrehash scheme then
    if bitOf (byteAt inp 1).toNat 0 then (if m.length = digestLen hash then some (rest.take c, m) else none) else some (rest.take c, digest hash m)
  else some (rest.take c, m)

/-- ECDSA with fresh nonces until r and s are not zero. -/
def ecdsaSign (q inst : Nat) (c : Weier) (d : Nat) (dig : Bytes) : Nat → Cmd Bytes
  | 0 => Cmd.hold
  | f + 1 => do
    let k ← drawScalar q inst c.n 64
    match c.sign d k dig with
    | some sig => return sig
    | none => ecdsaSign q inst c d dig f

/-- PK_SIGN. -/
def pkSignRun (j : Job) : Cmd Run := do
  let a ← Cmd.of (bound j.keyA)
  let scheme := j.desc.par 56
  let hash := j.desc.par 57
  let k := a.pub
  let inp := j.input
  Cmd.need (decide (sigLen scheme k ≤ j.desc.outCap)) stFormat
  Cmd.need (headOk inp (usesContext k.alg) (usesPrehash scheme) false) stFormat
  let (ctx, m) ← Cmd.some? (signedPart scheme hash inp (inp.drop 8)) stFormat
  match scheme with
  | 1 =>
    let l := weierLen a.material
    let sig ← ecdsaSign j.seq j.part k.weier (beNat (slice a.material 0 l)) m 8
    drawBlind j.seq l
    return Run.output sig
  | 2 =>
    drawBlind j.seq (pubLen k.alg)
    return Run.output (fit (sigLen scheme k) (Config.pkSign 2 0 k.alg a.material ctx m []))
  | 3 =>
    drawRsaBlind j.seq (rsaLen k.alg)
    return Run.output (fit (sigLen scheme k) (Config.pkSign 3 hash k.alg a.material [] m []))
  | 4 =>
    let salt ← draw j.seq j.part (digestLen hash)
    drawRsaBlind j.seq (rsaLen k.alg)
    return Run.output (fit (sigLen scheme k) (Config.pkSign 4 hash k.alg a.material [] m salt))
  | _ =>
    let rnd ← draw j.seq j.part 32
    return Run.output (fit (sigLen scheme k) (Config.pkSign 5 0 k.alg a.material ctx m rnd))

def execPkSign (seq : Nat) (s : State) : Next := done (runOp 0x0701 anyJob pkSignRun seq s)

/-- The modulus and exponent of an RSA key obey R265 and R252. -/
def rsaKeyOk (k : PubKey) : Bool :=
  let n := rsaLen k.alg
  let m := beField k.pub 0 n
  let e := beField k.pub n 4
  decide (m % 2 = 1 ∧ bitLen m = 8 * n ∧ e % 2 = 1 ∧ 65537 ≤ e)

/-- A signature or ciphertext of an RSA key lies in [1, n − 1]. -/
def rsaRange (k : PubKey) (b : Bytes) : Bool := decide (1 ≤ beNat b ∧ beNat b < beField k.pub 0 (rsaLen k.alg))

/-- The validation of R265 for a verification. -/
def verifyValid (scheme : Nat) (k : PubKey) (sig : Bytes) : Bool :=
  match scheme with
  | 1 => k.weier.sigRange sig && (k.weier.pub (fieldBytes k.alg k.curve) k.pub).isSome
  | 2 => Config.edValid k.alg k.pub sig
  | 5 => true
  | _ => rsaKeyOk k && rsaRange k sig

/-- A signature verifies: `m` is the message, or its digest where the scheme takes one. -/
def sigOk (scheme hash : Nat) (k : PubKey) (ctx m sig : Bytes) : Bool :=
  if scheme = 1 then
    match k.weier.pub (fieldBytes k.alg k.curve) k.pub with
    | some q => k.weier.verify q m sig
    | none => false
  else Config.pkVerify scheme hash k.alg k.pub ctx m sig

/-- PK_VERIFY. -/
def pkVerifyRun (j : Job) : Cmd Run := do
  let scheme := j.desc.par 56
  let hash := j.desc.par 57
  let inp := j.input
  let alg := match j.keyA with | some b => b.attrs.code | none => (byteAt inp 2).toNat
  Cmd.need (headOk inp (usesContext alg) (usesPrehash scheme) j.keyA.isNone) stFormat
  let k ← Cmd.of (keyOf j (schemeFits scheme))
  let rest := afterKey j
  let n := sigLen scheme k
  Cmd.need (decide (n ≤ rest.length)) stFormat
  let (ctx, m) ← Cmd.some? (signedPart scheme hash inp (rest.drop n)) stFormat
  let sig := rest.take n
  valid j (verifyValid scheme k sig)
  Cmd.need (sigOk scheme hash k ctx m sig) stVerifyFail
  return Run.output []

def execPkVerify (seq : Nat) (s : State) : Next := done (runOp 0x0702 anyJob pkVerifyRun seq s)

/-! ## PK_KEYPAIR (R259) -/

/-- The X9.143 algorithm of a code. -/
def algChar (alg : Nat) : Byte := if isRsa alg then chr 'R' else if 0x30 ≤ alg then chr '9' else chr 'E'

/-- A usage of PK_KEYPAIR suits an algorithm (R118, R251). -/
def pairUsageOk (usage : W16) (alg : Nat) : Bool :=
  if usage = chars2 'S' '0' then isWeier alg || alg == 6 || alg == 7 || isRsa alg || decide (0x38 ≤ alg)
  else if usage = chars2 'K' '3' then isWeier alg || alg == 8
  else if usage = chars2 'D' '1' then isRsa alg || decide (0x30 ≤ alg ∧ alg ≤ 0x32)
  else if usage = chars2 'K' '2' then isRsa alg
  else false

/-- The attributes of PK_KEYPAIR's template. -/
def pairTemplate (alg : Nat) (t : Bytes) : Except W16 Attrs := do
  need (t.length == 32 && zeroAt t 6 8 && zeroAt t 26 32) stFormat
  let usage : W16 := BitVec.ofNat 16 (beField t 0 2)
  let mode := byteAt t 2
  let exp := byteAt t 3
  let mask := leField t 4 2
  let nb := leField t 8 8
  let na := leField t 16 8
  let version : W16 := BitVec.ofNat 16 (beField t 24 2)
  need (pairUsageOk usage alg && modeKnown mode && mode != chr 'Y' && decide (mask < 128)) stKeyUsage
  need ([chr 'E', chr 'N', chr 'S'].contains exp && (charBytes version).all isAlnum && (na == 0 || nb == 0 || decide (nb < na))) stFormat
  return { usage := usage, alg := algChar alg, mode := mode, exp := exp, mask := BitVec.ofNat 16 (Nat.land (defaultMask usage exp) mask),
           version := version, notBefore := nb, notAfter := na, code := alg }

/-- Length of the private material of a code (R253). -/
def materialLen (alg : Nat) (curve : Bytes) : Nat :=
  if isWeier alg then 3 * fieldBytes alg curve + 1 + (if 0x10 ≤ alg then 8 else 0)
  else if isRsa alg then 7 * rsaLen alg / 2 + 6
  else if alg = 7 then 57 else if 0x30 ≤ alg ∧ alg ≤ 0x32 then 64 else 32

/-- A probable prime of `h` bytes for e = 65,537 (FIPS 186-5 A.1.3): at least √2 · 2^(8h − 1), far from `other` if that is given. -/
def drawPrime (q h : Nat) (other : Option Nat) : Nat → Cmd Nat
  | 0 => Cmd.hold
  | f + 1 => do
    let b ← draw q 256 h
    let c := beNat b
    let c := if c % 2 = 0 then c + 1 else c
    let apart : Bool := match other with
      | none => true
      | some p => decide (2 ^ (8 * h - 100) < p - c ∨ 2 ^ (8 * h - 100) < c - p)
    if 2 ^ (16 * h - 1) ≤ c * c ∧ c < 2 ^ (8 * h) ∧ apart ∧ Nat.gcd (c - 1) 65537 = 1 ∧ Config.probablePrime c b then return c
    else drawPrime q h other f

/-- Private material of a code: scalars by rejection, RSA primes by the probable-prime method, seeds as drawn. -/
def drawMaterial (j : Job) (alg : Nat) (curve : Bytes) : Cmd Bytes := do
  if isWeier alg then do
    let c := weierOf curve alg
    let l := fieldBytes alg curve
    let d ← drawScalar j.seq 256 c.n 64
    drawBlind j.seq l
    return beBytes l d ++ pointBytes l (c.mul d c.base) ++ (if 0x10 ≤ alg then (curveOf curve).digest else [])
  else if isRsa alg then do
    let k := rsaLen alg
    let h := k / 2
    let p ← drawPrime j.seq h none (40 * k)
    let r ← drawPrime j.seq h (some p) (40 * k)
    let e := 65537
    return beBytes 2 k ++ beBytes k (p * r) ++ beBytes 4 e ++ beBytes h p ++ beBytes h r ++ beBytes h (invMod e (p - 1)) ++
      beBytes h (invMod e (r - 1)) ++ beBytes h (invMod r p)
  else do
    let m ← draw j.seq 256 (materialLen alg curve)
    if alg < 0x30 then drawBlind j.seq (materialLen alg curve)
    return m

/-- PK_KEYPAIR. -/
def pkKeypairRun (j : Job) : Cmd Run := do
  let alg := j.desc.par 56
  let a ← Cmd.of (pairTemplate alg j.input)
  let curve := curveRaw j.curves alg
  Cmd.need (!(decide (0x10 ≤ alg ∧ alg ≤ 0x13)) || curve != []) stKeyGone
  let n := materialLen alg curve
  Cmd.need (j.keyB.isNone || exportable a) stKeyUsage
  let parent ← Cmd.of (masterRef (← get) j.part)
  let size := 16 + pubLenOf alg curve + (if j.keyB.isSome then blockLen n else 0)
  Cmd.need (decide (size ≤ j.desc.outCap)) stFormat
  Cmd.need (depthOk (← get) parent) stKeyUsage
  let w ← place j n
  let m ← drawMaterial j alg curve
  let node := nodeFor (← get) j.part w (bitOf (j.desc.par 57) 0) a parent 0 m
  let block ← (match j.keyB with
    | some b => wrapOut j.seq j.part b.material a 0 parent node.persistent (nodeHandle w.index node.gen) node.check m
    | none => pure [])
  return Run.creates w.index node (publicKey alg m ++ block)

def execPkKeypair (seq : Nat) (s : State) : Next := done (runOp 0x0703 anyJob pkKeypairRun seq s)

/-! ## PK_AGREE (R260) -/

/-- The one-step KDF of SP 800-56C with SHA-256. -/
def oneStepKdf (z info : Bytes) (n : Nat) : Bytes :=
  (((List.range (ceilDiv n 32)).map fun i => sha256B (beBytes 4 (i + 1) ++ z ++ info)).flatten).take n

/-- The header names the peer's key, or leaves it to A (log entry 48). -/
def agreeHead (inp : Bytes) (alg n : Nat) : Bool :=
  decide (8 ≤ inp.length) && byteAt inp 0 == 0 && byteAt inp 1 == 0 && byteAt inp 3 == 0 &&
  ((byteAt inp 2 == 0 && leField inp 4 4 == 0) || ((byteAt inp 2).toNat == alg && leField inp 4 4 == n))

/-- The shared secret; `none` at infinity. -/
def sharedSecret (a : Binding) (peer : Bytes) : Option Bytes :=
  let k := a.pub
  if k.alg = 8 then some (fit 32 (Config.x25519 a.material peer))
  else
    let l := fieldBytes k.alg k.curve
    let h := if 0x10 ≤ k.alg then (byteAt k.curve 2).toNat else 1
    let d := beNat (slice a.material 0 l)
    (k.weier.mul (h * d) (some (beField peer 1 l, beField peer (1 + l) l))).map fun x => beBytes l x.1

/-- The peer key passes R265. -/
def peerValid (k : PubKey) (peer : Bytes) : Bool :=
  if k.alg = 8 then decide (leNat peer < 2 ^ 255 - 19) && !Config.x25519LowOrder (leNat peer)
  else (k.weier.pub (fieldBytes k.alg k.curve) peer).isSome

/-- PK_AGREE. -/
def pkAgreeRun (j : Job) : Cmd Run := do
  let a ← Cmd.of (bound j.keyA)
  let k := a.pub
  let inp := j.input
  let n := pubLenOf k.alg k.curve
  let kdf1 := j.desc.par 56 == 1
  Cmd.need (agreeHead inp k.alg n && (if kdf1 then decide (8 + n ≤ inp.length ∧ inp.length ≤ 8 + n + 256) else decide (inp.length = 8 + n))) stFormat
  let zlen := if k.alg = 8 then 32 else fieldBytes k.alg k.curve
  Cmd.need (kdf1 || decide (zlen ≤ j.desc.outCap)) stFormat
  let peer := slice inp 8 n
  valid j (peerValid k peer)
  drawBlind j.seq zlen
  match sharedSecret a peer with
  | none => rejectInput j
  | some z => return Run.output (if kdf1 then oneStepKdf z (inp.drop (8 + n)) j.desc.outCap else z)

def execPkAgree (seq : Nat) (s : State) : Next := done (runOp 0x0704 anyJob pkAgreeRun seq s)

/-! ## ML-KEM (R261) -/

/-- The 12-bit coefficients of an encoding, two in every three bytes. -/
def coeffs : Bytes → List Nat
  | a :: b :: c :: r => (a.toNat + b.toNat % 16 * 256) :: (b.toNat / 16 + c.toNat * 16) :: coeffs r
  | _ => []

/-- Every coefficient of an encapsulation key lies below q (R265). -/
def kemKeyOk (ek : Bytes) : Bool := (coeffs (ek.take (ek.length - 32))).all (· < 3329)

/-- KEM_ENCAPS. -/
def kemEncapsRun (j : Job) : Cmd Run := do
  let inp := j.input
  let set := j.desc.par 56
  let n := pubLen set
  Cmd.need (headOk inp false false true && byteAt inp 2 == 0 &&
    (match j.keyA with
     | some _ => leField inp 4 4 == 0 && inp.length == 8
     | none => leField inp 4 4 == n && inp.length == 8 + n)) stFormat
  let ek := match j.keyA with | some b => publicKey set b.material | none => inp.drop 8
  valid j (kemKeyOk (fit n ek))
  let m ← draw j.seq j.part 32
  let (c, k) := Config.kemEncaps set (fit n ek) m
  return Run.output (fit (kemLen set) c ++ fit 32 k)

def execKemEncaps (seq : Nat) (s : State) : Next := done (runOp 0x0705 anyJob kemEncapsRun seq s)

/-- KEM_DECAPS: a ciphertext of the right length is never rejected. -/
def kemDecapsRun (_ : State) (j : Job) : Except W16 Run := do
  let a ← bound j.keyA
  need (j.desc.inLen == kemLen (j.desc.par 56)) stFormat
  return Run.output (fit 32 (Config.kemDecaps (j.desc.par 56) a.material j.input))

def execKemDecaps (seq : Nat) (s : State) : Next := done (runPure 0x0706 kemDecapsRun seq s)

/-! ## RSAES-OAEP (R262) -/

/-- The hash code of R256 that byte 56 names. -/
def oaepHash (d : Desc) : Nat := d.par 56 + 1

/-- RSA_ENCRYPT. -/
def rsaEncryptRun (j : Job) : Cmd Run := do
  let inp := j.input
  Cmd.need (headOk inp true false j.keyA.isNone) stFormat
  let k ← Cmd.of (keyOf j isRsa)
  let n := rsaLen k.alg
  let h := digestLen (oaepHash j.desc)
  let rest := afterKey j
  let l := (byteAt inp 0).toNat
  Cmd.need (decide (l ≤ rest.length ∧ rest.length - l + 2 * h + 2 ≤ n ∧ n ≤ j.desc.outCap)) stFormat
  valid j (rsaKeyOk k)
  let seed ← draw j.seq j.part h
  return Run.output (fit n (Config.oaepEncrypt (oaepHash j.desc) k.pub (rest.take l) (rest.drop l) seed))

def execRsaEncrypt (seq : Nat) (s : State) : Next := done (runOp 0x0708 anyJob rsaEncryptRun seq s)

/-- RSA_DECRYPT: the capacity is compared before any decryption. -/
def rsaDecryptRun (j : Job) : Cmd Run := do
  let a ← Cmd.of (bound j.keyA)
  let k := a.pub
  let n := rsaLen k.alg
  let inp := j.input
  let l := (byteAt inp 0).toNat
  Cmd.need (decide (n - 2 * digestLen (oaepHash j.desc) - 2 ≤ j.desc.outCap)) stFormat
  Cmd.need (headOk inp true false false && inp.length == 8 + l + n) stFormat
  let ct := inp.drop (8 + l)
  valid j (rsaKeyOk k && rsaRange k ct)
  drawRsaBlind j.seq n
  match Config.oaepDecrypt (oaepHash j.desc) a.material (slice inp 8 l) ct with
  | some m => return Run.output (m.take (n - 2 * digestLen (oaepHash j.desc) - 2))
  | none => rejectInput j

def execRsaDecrypt (seq : Nat) (s : State) : Next := done (runOp 0x0707 anyJob rsaDecryptRun seq s)

/-! ## HASH and HMAC (R263) -/

/-- HASH: SHAKE writes exactly the output capacity. -/
def hashRun (_ : State) (j : Job) : Except W16 Run :=
  let c := j.desc.par 56
  .ok (Run.output (if c = 0x0C ∨ c = 0x0D then (List.range j.desc.outCap).map (Config.shake (c == 0x0D) j.input) else digest c j.input))

def execHash (seq : Nat) (s : State) : Next := done (runPure 0x0901 hashRun seq s)

/-- HMAC: byte 57 cuts it, 0 leaves it whole. -/
def hmacRun (_ : State) (j : Job) : Except W16 Run := do
  let a ← bound j.keyA
  let c := j.desc.par 56
  return Run.output ((hmac c a.material j.input).take (if j.desc.par 57 = 0 then digestLen c else j.desc.par 57))

def execHmac (seq : Nat) (s : State) : Next := done (runPure 0x0902 hmacRun seq s)

/-! ## CURVE_LOAD (R267 to R269) -/

/-- The embedding degree is above 20: p^k ≢ 1 mod n for k from 1 to 20. -/
def embedOk (p n : Nat) : Nat → Nat → Bool
  | 0, _ => true
  | f + 1, x => x % n != 1 % n && embedOk p n f (x * p % n)

/-- The first check of R268 that a curve fails. -/
def curveCause (raw : Bytes) : Option Nat :=
  let bits := leField raw 0 2
  let l := ceilDiv bits 8
  let c := curveNums raw
  let h := (byteAt raw 2).toNat
  let cert := beField raw (8 + 6 * l) (l + 1)
  if !(decide (bitLen c.p = bits ∧ 3 < c.p ∧ c.a < c.p ∧ c.b < c.p ∧ c.gx < c.p ∧ c.gy < c.p)) then some 1
  else if !Config.probablePrime c.p raw then some 2
  else if (4 * c.a ^ 3 + 27 * c.b ^ 2) % c.p = 0 then some 3
  else if !c.on c.gx c.gy then some 4
  else if !(Config.probablePrime c.n raw && decide (16 * c.p < c.n * c.n ∧ c.n * h = cert) &&
      decide ((cert - (c.p + 1)) ^ 2 ≤ 4 * c.p ∧ ((c.p + 1) - cert) ^ 2 ≤ 4 * c.p) && (c.mul c.n c.base).isNone) then some 5
  else if !embedOk c.p c.n 20 (c.p % c.n) then some 6
  else if cert = c.p then some 7
  else none

/-- CURVE_LOAD: a curve that passes is committed at the job's end; field bits 0 clear the slot. -/
def curveLoadRun (j : Job) : Cmd Run := do
  let raw := j.input
  let slot := j.desc.par 56
  let bits := leField raw 0 2
  if bits = 0 ∧ raw.length = 8 then do
    Cmd.need (zeroAt raw 3 8) stFormat
    return { Run.output (sha256Head 8 (raw.drop 8)) with commits := [.curve j.part slot none], events := [⟨0x1A6, j.iguCluster, [j.part, slot]⟩] }
  else do
    Cmd.need (curveLayout raw) stFormat
    match curveCause raw with
    | some cause =>
      modify (note 0x1A4 j.iguCluster [j.part, slot, cause])
      Cmd.fail stInputRejected
    | none =>
      let c := curveOf raw
      return { Run.output c.digest with
        commits := [.curve j.part slot (some c)], events := [⟨0x1A3, j.iguCluster, [j.part, slot, leNat c.digest]⟩] }

def execCurveLoad (seq : Nat) (s : State) : Next := done (runOp 0x0709 anyJob curveLoadRun seq s)

/-! ## Unit faults and tests (R275, R276, R284) -/

/-- IGU_UNIT_FAULT: the running job ends with ST_ENGINE_FAULT and its bank is zeroised; Tarn IGUg, LAT or HASH, and event 0x1A1. -/
def execIguUnitFault (unit : Fin 28) (datapath : Bool) (info : W32) (s : State) : Next :=
  let u : TestUnit := .igu unit
  let before := s.jobs.filter fun j => j.holds u
  let s := unitFault u (fun j => !j.parked) datapath info s
  let s := note 0x1A1 (if unit.val < 16 then 10 + unit.val / 4 else if unit.val < 20 then 14 else 15) ([unit.val, info.toNat] ++ endedNow before s) s
  done (if unit.val < 16 then settleCore unit.val s else s)

/-- No job is in the unit. -/
def iguFree (s : State) (n : Nat) : Bool :=
  if n < 16 then (bigAt s n).bank0 == .free && (bigAt s n).bank1 == .free
  else if n < 20 then (latAt s (n - 16)).owner == .free else (hashAt s (n - 20)).owner == .free

/-- The window asks for an Iguana unit. -/
def iguWindowAsk (n : Nat) (s : State) : State :=
  let s := { s with eng := { s.eng with iguWin := { s.eng.iguWin with unit := n, state := 1 } } }
  if iguFree s n then iguWindowTake n s else s

/-- IGU_WIN_START: a write of IGU_WIN_CTRL. -/
def execIguWinStart (value : W32) (s : State) : Next := served s <|
  let v := value.toNat
  let n := bitsOf v 12 8
  if s.eng.iguWin.busy ∨ 27 < n then done s
  else if bitOf v 0 then done (iguWindowAsk n s)
  else done { s with eng := { s.eng with iguWin := { s.eng.iguWin with unit := n } } }

/-- IGU_PERIODIC_TEST: every ST_PERIOD seconds the next unit in service is tested (log entry 46). -/
def execIguPeriodicTest (s : State) : Next :=
  if s.time.mono < s.eng.iguLast + stPeriod s.eng.iguPeriod ∨ s.eng.iguWin.busy then done s
  else
    let up (n : Nat) : Bool := if h : n < 28 then unitUp s (.igu ⟨n, h⟩) else false
    match ((List.range 28).map fun k => (s.eng.iguNext + k) % 28).find? up with
    | none => done s
    | some n => done (iguWindowAsk n { s with eng := { s.eng with iguNext := (n + 1) % 28, iguLast := s.time.mono } })

end Sys2Proof.Machine
end

