-- ==== Sys2Proof/Machine/Auth.lean ====
section
/-!
DEFINITION. Authority (12_custodians_and_identity.md): enrolled custodians, rules and statements (R340 to R351), hybrid identity
signatures and their check (R359, 11 R327).
-/
namespace Sys2Proof.Machine

/-! ## Custodians (R340) -/

/-- The vault's entry for a custodian. -/
def custEntry (s : State) (c : Nat) : Option Custodian := Tab.get none s.vault.custodians c
/-- The stored public key. -/
def custPub (s : State) (c : Nat) : Bytes := Tab.get [] s.nv.keyStore c

/-- An enrolled custodian: its entry and a stored key that matches the vault's digest. -/
def enrolled (s : State) (c : Nat) : Option Custodian :=
  match custEntry s c with
  | some e => if sha384B (custPub s c) = e.digest then some e else none
  | none => none

/-- The enrolled custodians. -/
def enrolledAll (s : State) : List (Nat × Custodian) := (List.range 32).filterMap fun c => (enrolled s c).map fun e => (c, e)

/-- The rule of a class (R343). -/
def ruleAt (s : State) (cls : Nat) : Rule := Tab.get Rule.default_ s.vault.rules cls
/-- All 11 rules. -/
def allRules (s : State) : List Rule := (List.range 11).map fun i => ruleAt s (i + 1)

/-- Custodians of some groups meet a rule: M of them in the mask, from D groups. -/
def meets (r : Rule) (groups : List Nat) : Bool :=
  let gs := groups.filter fun g => r.mask.toNat.testBit g
  decide (r.m ≤ gs.length ∧ r.d ≤ (List.dedup gs).length)

/-- Fewer custodians are enrolled than the ENROL rule's M (R342). -/
def bootstrap (s : State) : Bool := decide ((enrolledAll s).length < (ruleAt s 1).m)

/-- The custodian set digest (R361). -/
def setDigest (table : Nat → Option (Custodian × Bytes)) (rs : List Rule) : Bytes :=
  sha384B (((List.range 32).flatMap fun c => match table c with
    | some (e, pub) => [e.alg, BitVec.ofNat 8 e.group] ++ pub
    | none => [0, 0]) ++ ruleBytes rs)

/-- The custodian table as it stands. -/
def custTable (s : State) (c : Nat) : Option (Custodian × Bytes) := (custEntry s c).map fun e => (e, custPub s c)

/-! ## Signatures -/

/-- P-384. -/
def p384 : Weier := namedCurve 2

/-- An ECDSA P-384 signature, r ǁ s over SHA-384, verifies. -/
def p384Verify (pub msg sig : Bytes) : Bool :=
  match p384.pub 48 pub with
  | some q => sig.length == 2 * p384.orderLen && p384.sigRange sig && p384.verify q (sha384B msg) sig
  | none => false

/-- A pure ML-DSA-65 signature with an empty context verifies. -/
def mldsaVerify (pub msg sig : Bytes) : Bool := Config.pkVerify 5 0 0x39 pub [] msg sig

/-- A signature of a custodian's algorithm (R346). -/
def custVerify (alg : Byte) (pub msg sig : Bytes) : Bool := if alg = 0x02 then p384Verify pub msg sig else mldsaVerify pub msg sig

/-- Length of a custodian's signature. -/
def custSigLen (alg : Byte) : Nat := if alg = 0x02 then 96 else 3309

/-- A hybrid signature verifies: both parts must (11 R327). -/
def hybridVerify (pub1 pub2 msg sig : Bytes) : Bool :=
  sig.length == 3405 && p384Verify pub1 msg (slice sig 0 96) && mldsaVerify pub2 msg (sig.drop 96)

/-- The module's hybrid identity signature, with randomness of instance 259 (R359; 10 R294). A forwarded job takes the active's (log
entry 32). -/
def hybridSign (j : Job) (msg : Bytes) : Cmd Bytes := do
  let a ← ecdsaSign j.seq 259 p384 (beNat (Config.identityKey false)) (sha384B msg) 8
  let rnd ← draw j.seq 259 32
  share j.seq 3405 fun s => (fit 96 a ++ fit 3309 (Config.pkSign 5 0 0x39 (Config.identityKey true) [] msg rnd), s)

/-- The serial number that statements and offers of a job bear: the active's (R351). -/
def jobSerial (s : State) (j : Job) : Bytes := if j.fwd then fit 16 s.pair.peerSerial else beBytes 16 Config.serial.toNat

/-! ## Authorisation lists (R346 to R350) -/

/-- Statement length by algorithm. -/
def stmtLen (alg : Byte) : Nat := 128 + custSigLen alg

/-- Cut a list into `n` statements whose lengths add up. A custodian of no entry fixes no length: both are tried (log entry 45). -/
def splitList (alg : Nat → Option Byte) : Nat → Bytes → Option (List Bytes)
  | 0, b => if b = [] then some [] else none
  | n + 1, b =>
    let cut (l : Nat) : Option (List Bytes) := if b.length < l then none else (splitList alg n (b.drop l)).map fun r => b.take l :: r
    match alg (byteAt b 3).toNat with
    | some a => cut (stmtLen a)
    | none => (match cut 224 with | some r => some r | none => cut 3437)

/-- What a list is judged against. -/
structure AuthCtx where
  /-- Action class. -/
  cls : Nat
  /-- Serial number. -/
  serial : Bytes
  /-- Challenge of the list's first statement. -/
  chal : Bytes
  /-- It is outstanding. -/
  live : Bool
  /-- Action digest. -/
  dig : Bytes
  /-- Time. -/
  clk : Clock
  deriving DecidableEq, Repr

/-- Why a statement is not counted, by the causes of R364; `none` if it is (R349). `key` gives a custodian's algorithm and public key. -/
def stmtCause (x : AuthCtx) (key : Nat → Option (Byte × Bytes)) (seen : List Nat) (b : Bytes) : Option Nat :=
  let c := (byteAt b 3).toNat
  let nb := leField b 100 8
  let na := leField b 108 8
  if byteAt b 0 ≠ 1 ∨ byteAt b 1 ≠ 0x10 ∨ (byteAt b 2).toNat ≠ x.cls ∨ !zeroAt b 116 128 then some 1
  else if slice b 4 16 ≠ x.serial then some 2
  else if slice b 20 32 ≠ x.chal ∨ !x.live then some 3
  else if slice b 52 48 ≠ x.dig then some 4
  else if na < nb ∨ 86400 * 10 ^ 9 < na - nb ∨ !((x.clk.within nb na).getD false) then some 5
  else match key c with
    | none => some 6
    | some (alg, pub) =>
      if !custVerify alg pub (b.take 128) (b.drop 128) then some 7
      else if seen.contains c then some 8
      else none

/-- The custodians counted, in order, and the cause of the first statement that is not. -/
def countStmts (x : AuthCtx) (key : Nat → Option (Byte × Bytes)) : List Nat → Option Nat → List Bytes → List Nat × Option Nat
  | seen, first, [] => (seen, first)
  | seen, first, b :: r =>
    match stmtCause x key seen b with
    | none => countStmts x key (seen ++ [(byteAt b 3).toNat]) first r
    | some c => countStmts x key seen (if first.isNone then some c else first) r

/-- The action digest of R347. -/
def actionDigest (j : Job) (off : Nat) : Bytes := sha384B (leBytes 2 j.desc.opcode.toNat ++ j.desc.params ++ j.input.take off)

/-- Challenges still outstanding (R345). -/
def liveChallenges (s : State) : List (Bytes × Nat) := s.cust.challenges.filter fun c => decide (s.time.mono < 600 * 10 ^ 9 + c.2)

/-- Judge the list at offset `off` of a job's input for class `cls`. `new` is a key being enrolled: its statement proves possession and
does not count (R341, R342). The challenge named is consumed whatever follows. -/
def judge (j : Job) (cls off : Nat) (dig : Bytes) (new : Option (Nat × Byte × Bytes)) : Cmd Unit := do
  let s ← get
  let b := j.input.drop off
  let chal := slice b 24 32
  let live := (liveChallenges s).any fun c => c.1 == chal
  modify fun s => { s with cust := { s.cust with challenges := s.cust.challenges.filter fun c => c.1 != chal } }
  let clk ← readClock j.seq
  Cmd.need (clk.state != 0) stStateReject
  let n := (byteAt b 0).toNat
  let algOf (c : Nat) : Option Byte := match new with
    | some (k, a, _) => if c = k then some a else (custEntry s c).map (·.alg)
    | none => (custEntry s c).map (·.alg)
  let keyOf (c : Nat) : Option (Byte × Bytes) :=
    let own := (enrolled s c).map fun e => (e.alg, custPub s c)
    match new with
    | some (k, a, pub) => if c = k then some (a, pub) else own
    | none => own
  Cmd.need (decide (4 ≤ b.length ∧ 1 ≤ n ∧ n ≤ 9) && zeroAt b 1 4) stFormat
  let stmts ← Cmd.some? (splitList algOf n (b.drop 4)) stFormat
  let (counted, cause) := countStmts { cls := cls, serial := jobSerial s j, chal := chal, live := live, dig := dig, clk := clk } keyOf [] none stmts
  let mine := match new with | some (k, _, _) => counted.filter (· != k) | none => counted
  let proved := match new with | some (k, _, _) => counted.contains k | none => true
  let rule := ruleAt s cls
  let ok := if cls = 1 ∧ bootstrap s then
      (enrolledAll s).all fun e => mine.contains e.1 || (match new with | some (k, _, _) => e.1 == k | none => false)
    else meets rule (mine.filterMap fun c => (custEntry s c).map (·.group))
  if ok && proved then modify (note 0x204 18 [j.desc.opcode.toNat, cls, (mine.map fun c => 2 ^ c).sum])
  else
    modify (note 0x203 18 [j.desc.opcode.toNat, cls, mine.length, rule.m, cause.getD 9])
    Cmd.fail stAuthRequired

end Sys2Proof.Machine
end

