-- ==== Sys2Proof/Machine/Custodian.lean ====
section
/-!
DEFINITION. Custodian commands (12_custodians_and_identity.md): challenges, key component sessions, enrolment, master loading, rules and
cell-service windows, with the expiries of R345, R352 and the key store (R340); TDES_SET (08 R230, R231).
-/
namespace Sys2Proof.Machine

/-- Change the custodian block. -/
def modCust (f : Cust → Cust) (s : State) : State := { s with cust := f s.cust }

/-! ## Challenges (R345) -/

/-- AUTH_CHALLENGE: a fresh challenge and the stamp of its issue; a 17th discards the oldest. -/
def authChallengeRun (j : Job) : Cmd Run := do
  Cmd.of (noInput j)
  let c ← draw j.seq 0 32
  let clk ← readClock j.seq
  modify fun s => modCust (fun x =>
    { x with challenges := (if x.challenges.length < 16 then x.challenges else x.challenges.drop (x.challenges.length - 15)) ++ [(c, s.time.mono)] }) s
  return Run.output (c ++ leBytes 8 clk.stamp)

def execAuthChallenge (seq : Nat) (s : State) : Next := done (runOp 0x0109 anyJob authChallengeRun seq s)

/-- CHALLENGE_EXPIRY: challenges of 600 s and more are gone. -/
def execChallengeExpiry (s : State) : Next := done (modCust (fun x => { x with challenges := liveChallenges s }) s)

/-! ## Sessions (R352 to R356) -/

/-- The session of a custodian. -/
def sessionAt (s : State) (c : Nat) : Option Session := Tab.get none s.cust.sessions c
/-- Open or close one. -/
def setSession (c : Nat) (x : Option Session) (s : State) : State := modCust (fun y => { y with sessions := Tab.set none y.sessions c x }) s

/-- Step 1: a signed session offer. -/
def sessionOpenRun (j : Job) : Cmd Run := do
  Cmd.of (noInput j)
  let c := j.desc.par 56
  Cmd.need (enrolled (← get) c).isSome stStateReject
  let nonce ← draw j.seq 0 32
  let seed ← draw j.seq 0 64
  let d ← drawScalar j.seq 0 p384.n 64
  let offer := [1, 0x20, BitVec.ofNat 8 c, 0] ++ jobSerial (← get) j ++ nonce ++ fit 1184 (Config.publicOf 0x31 seed) ++
    pointBytes 48 (p384.mul d p384.base) ++ zeros 11
  let sig ← hybridSign j offer
  modify fun s => setSession c (some { offer := offer, kem := seed, ec := beBytes 48 d, opened := s.time.mono }) s
  return { Run.output (offer ++ sig) with events := [⟨0x205, 18, [c]⟩] }

def execCustodianSessionOpen (seq : Nat) (s : State) : Next := done (runOp 0x010A (fun j => j.desc.par 57 == 1) sessionOpenRun seq s)

/-- The key of a hybrid exchange (R354, 11 R329): shared secret, x-coordinate, transcript. -/
def exchangeKey (ss z t : Bytes) : Bytes := (sha384B ([0, 0, 0, 1] ++ ss ++ z ++ t)).take 32

/-- The x-coordinate of a P-384 agreement; `none` for a point that fails R264. -/
def p384Agree (d : Nat) (pub : Bytes) : Option Bytes :=
  (p384.pub 48 pub).bind fun q => (p384.mul d (some q)).map fun x => beBytes 48 x.1

/-- Step 2: the component of a token message (R355): any end of it closes the session. -/
def sessionExchangeRun (j : Job) : Cmd Run := do
  let c := j.desc.par 56
  let s ← get
  let ses ← Cmd.some? (sessionAt s c) stStateReject
  modify (setSession c none)
  let m := j.input
  let e := enrolled s c
  let lenOk : Bool := match e with
    | some e => m.length == 1280 + custSigLen e.alg
    | none => m.length == 1376 || m.length == 4589
  let slot := (byteAt m 4).toNat
  let target := (byteAt m 3).toNat
  Cmd.need (lenOk && byteAt m 0 == 1 && byteAt m 1 == 0x21 && (byteAt m 2).toNat == c && slice m 8 32 == slice ses.offer 20 32 &&
    decide (1 ≤ slot ∧ slot ≤ 8) && zeroAt m 5 8 && zeroAt m 1225 1232) stFormat
  Cmd.need (match e with | some e => custVerify e.alg (custPub s c) (m.take 1280) (m.drop 1280) | none => false) stVerifyFail
  let z ← Cmd.some? (p384Agree (beNat ses.ec) (slice m 1128 97)) stInputRejected
  let ss := fit 32 (Config.kemDecaps 0x31 ses.kem (slice m 40 1088))
  let k := exchangeKey ss z (sha384B (ses.offer ++ m.take 1232))
  let comp ← Cmd.some? (gcmOpen k (zeros 12) (m.take 1232) (slice m 1232 32) (slice m 1264 16)) stVerifyFail
  let old := match s.vault.load with | some l => l | none => { master := target, slots := [] }
  let load := if old.master = target then old else { master := target, slots := [] }
  let dropped : List Ev := if old.master = target ∨ old.slots = [] then [] else
    [⟨0x207, 18, [old.master, (old.slots.map fun x => 2 ^ (x.1 - 1)).sum, 1]⟩]
  Cmd.need (!allZero comp && !(load.slots.any fun x => x.1 == slot)) stFormat
  Cmd.need (!(load.slots.any fun x => x.2.2 == c)) stAuthRequired
  let check := (cmac false comp (zeros 16)).take 5
  return { Run.output ([BitVec.ofNat 8 slot, 5] ++ check ++ [0]) with
    commits := [.pendingLoad (some { load with slots := load.slots ++ [(slot, comp, c)] })],
    events := dropped ++ [⟨0x206, 18, [c, target, slot, leNat check]⟩] }

def execCustodianSessionExchange (seq : Nat) (s : State) : Next := done (runOp 0x010A (fun j => j.desc.par 57 == 2) sessionExchangeRun seq s)

/-- Step 3: the session closes. -/
def sessionCloseRun (j : Job) : Cmd Run := do
  Cmd.of (noInput j)
  let c := j.desc.par 56
  Cmd.need (sessionAt (← get) c).isSome stStateReject
  modify (setSession c none)
  return Run.output []

def execCustodianSessionClose (seq : Nat) (s : State) : Next := done (runOp 0x010A (fun j => j.desc.par 57 == 3) sessionCloseRun seq s)

/-- SESSION_EXPIRY: 300 s after opening. -/
def execSessionExpiry (custodian : Fin 32) (s : State) : Next :=
  match sessionAt s custodian with
  | some x => if 300 * 10 ^ 9 + x.opened ≤ s.time.mono then done (setSession custodian none s) else done s
  | none => done s

/-! ## CUSTODIAN_ENROL (R341, R342) -/

/-- Every rule that the enrolled custodians can meet now, they can meet after a change of entry `c`. -/
def rulesKept (s : State) (c : Nat) (group : Option Nat) : Bool :=
  let now := (enrolledAll s).map fun e => e.2.group
  let then_ := (((enrolledAll s).filter fun e => e.1 != c).map fun e => e.2.group) ++ group.toList
  (allRules s).all fun r => !(meets r now) || meets r then_

/-- CUSTODIAN_ENROL. -/
def custodianEnrolRun (j : Job) : Cmd Run := do
  let c := j.desc.par 56
  let group := j.desc.par 57
  let inp := j.input
  let alg := byteAt inp 0
  let n := leField inp 4 4
  Cmd.need (decide (8 ≤ inp.length) && (match alg.toNat with | 0 => n == 0 | 0x02 => n == 97 | 0x39 => n == 1952 | _ => false) &&
    decide (8 + n ≤ inp.length)) stFormat
  let pub := slice inp 8 n
  judge j 1 (8 + n) (actionDigest j (8 + n)) (if alg = 0 then none else some (c, alg, pub))
  Cmd.need (zeroAt inp 1 4) stFormat
  let s ← get
  Cmd.need (alg == 0 || !((List.range 32).any fun k => k != c && (enrolled s k).isSome && custPub s k == pub)) stFormat
  Cmd.need (rulesKept s c (if alg = 0 then none else some group)) stFormat
  if alg = 0 then do
    let gone : List Ev := match custEntry s c with | some e => [⟨0x202, 18, [c, e.group]⟩] | none => []
    return { Run.output [] with commits := [.custodian c none []], events := gone }
  else do
    let dig := sha384B pub
    return { Run.output [] with
      commits := [.custodian c (some { alg := alg, group := group, digest := dig }) pub],
      events := [⟨0x201, 18, [c, group, alg.toNat, leField dig 0 2]⟩] }

def execCustodianEnrol (seq : Nat) (s : State) : Next := done (runOp 0x010B anyJob custodianEnrolRun seq s)

/-! ## MASTER_LOAD (R357) -/

/-- The XOR of the components in slots 1 to `n`. -/
def masterOf (l : PendingLoad) (n : Nat) : Bytes :=
  ((List.range n).map fun i => match l.slots.find? (fun x => x.1 == i + 1) with | some (_, b, _) => fit 32 b | none => zeros 32).foldl xorBytes (zeros 32)

/-- Slots 1 to `n` are filled and no other is. -/
def slotsFilled (l : PendingLoad) (n : Nat) : Bool :=
  (List.range 8).all fun i => (l.slots.any fun x => x.1 == i + 1) == decide (i < n)

/-- MASTER_LOAD. -/
def masterLoadRun (j : Job) : Cmd Run := do
  let m := j.desc.par 56
  let n := j.desc.par 57
  let inp := j.input
  Cmd.need (decide (8 ≤ inp.length)) stFormat
  judge j 3 8 (actionDigest j 8) none
  let s ← get
  let st := partState s m
  Cmd.need (m == 0 || st == 1 || st == 3) stStateReject
  Cmd.need (byteAt inp 0 == 5 && zeroAt inp 6 8) stFormat
  let l ← Cmd.some? s.vault.load stFormat
  Cmd.need (decide (2 ≤ n) && l.master == m && slotsFilled l n) stFormat
  let key := masterOf l n
  let check := (cmac false key (zeros 16)).take 5
  Cmd.need (check == slice inp 1 5) stKeyVerifyFail
  let v := vaultAt s m
  let g := nextGen v.gen
  return { Run.output [] with
    commits := [.vault m { v with master := some key, gen := g }, .pendingLoad none], change := some (0x20000 + m), drain := .bound,
    events := [⟨0x103, 4, [m, v.gen, g]⟩, ⟨0x208, 18, [m, n, (l.slots.map fun x => 2 ^ x.2.2).sum, leNat check]⟩] }

def execMasterLoad (seq : Nat) (s : State) : Next := done (runOp 0x010C anyJob masterLoadRun seq s)

/-! ## POLICY_SET areas 2 and 3 (R344, R358) -/

/-- The rules of a POLICY_SET input; `none` where a value is out of range. -/
def rulesOf (b : Bytes) : Option (List Rule) :=
  (chunks 4 b).mapM fun r =>
    let m := (byteAt r 0).toNat
    let d := (byteAt r 1).toNat
    if 2 ≤ m ∧ m ≤ 8 ∧ 1 ≤ d ∧ d ≤ m ∧ byteAt r 2 ≠ 0 ∧ byteAt r 3 = 0 then some { m := m, d := d, mask := byteAt r 2 } else none

/-- POLICY_SET area 2: all 11 rules. -/
def policyRulesRun (j : Job) : Cmd Run := do
  Cmd.need (decide (44 ≤ j.input.length)) stFormat
  judge j 2 44 (actionDigest j 44) none
  let rs ← Cmd.some? (rulesOf (j.input.take 44)) stFormat
  let s ← get
  Cmd.need (rs.all fun r => meets r ((enrolledAll s).map fun e => e.2.group)) stFormat
  return { Run.output [] with commits := [.rules rs], events := [⟨0x209, 18, [leField (setDigest (custTable s) rs) 0 4]⟩] }

def execPolicySetRules (seq : Nat) (s : State) : Next := done (runOp 0x010D (fun j => j.desc.par 56 == 2) policyRulesRun seq s)

/-- POLICY_SET area 3: a cell-service window. -/
def policyWindowRun (j : Job) : Cmd Run := do
  let inp := j.input
  Cmd.need (decide (8 ≤ inp.length)) stFormat
  judge j 7 8 (actionDigest j 8) none
  let secs := leField inp 0 2
  let cells := (byteAt inp 2).toNat
  Cmd.need (decide (60 ≤ secs ∧ secs ≤ 3600 ∧ 1 ≤ cells ∧ cells ≤ 3) && zeroAt inp 3 8) stFormat
  return { Run.output [] with commits := [.window cells secs], events := [⟨0x20A, 18, [1, cells, secs]⟩] }

def execPolicySetCellWindow (seq : Nat) (s : State) : Next := done (runOp 0x010D (fun j => j.desc.par 56 == 3) policyWindowRun seq s)

/-- CUSTODIAN_KEY_STORE_ERASE: the key store that matches nothing is erased while main power is present (R340). -/
def execCustodianKeyStoreErase (s : State) : Next :=
  if s.nv.keyStoreErase && s.pwr.main then done { s with nv := { s.nv with keyStore := [], keyStoreErase := false } } else done s

/-! ## TDES_SET (08 R230, R231) -/

/-- A partition a command names is there when it executes. -/
def namedThere (j : Job) : Cmd Unit := do
  let st := partState (← get) (j.desc.par 56)
  Cmd.need (st == 1 || st == 3) stStateReject

/-- Both forms: the state takes effect as it commits. -/
def tdesSet (on : Bool) (j : Job) : Cmd Run := do
  namedThere j
  let p := j.desc.par 56
  let v := vaultAt (← get) p
  return { Run.output [] with
    commits := [.vault p { v with tdes := on }], drain := if on then .none else .tdes, events := [⟨0x183, 6, [p, b2n on, j.seq]⟩] }

/-- Enabling needs authorisations of class TDES. -/
def tdesEnableRun (j : Job) : Cmd Run := do
  judge j 5 0 (actionDigest j 0) none
  tdesSet true j

/-- Disabling needs none. -/
def tdesDisableRun (j : Job) : Cmd Run := do
  Cmd.of (noInput j)
  tdesSet false j

def execTdesSetEnable (seq : Nat) (s : State) : Next := done (runOp 0x0108 (fun j => j.desc.par 57 == 1) tdesEnableRun seq s)
def execTdesSetDisable (seq : Nat) (s : State) : Next := done (runOp 0x0108 (fun j => j.desc.par 57 == 0) tdesDisableRun seq s)

end Sys2Proof.Machine
end

