-- ==== Sys2Proof/Machine/Dukpt.lean ====
section
/-!
DEFINITION. The DUKPT commands (07_cryptograms_dukpt_tokens.md R196 to R198), MAC_GENERATE and MAC_VERIFY (R199, R200), FF1
tokenisation (R201, R202).
-/
namespace Sys2Proof.Machine

/-! ## DUKPT_INIT_EXPORT (R198) -/

/-- DUKPT_INIT_EXPORT: the initial key as a key block under key B. -/
def dukptExportRun (j : Job) : Cmd Run := do
  let a ← Cmd.of (bound j.keyA)
  let b ← Cmd.of (bound j.keyB)
  let inp := j.input
  let tdes := isTdes a.attrs
  Cmd.need (inp.length == 16 && (if tdes then zeroAt inp 10 16 && ksnCounter true inp == 0 else zeroAt inp 8 16)) stFormat
  let at_ : Attrs := {
    Attrs.none with
    usage := chars2 'B' '1', alg := a.attrs.alg, mode := chr 'X', exp := chr 'N', mask := BitVec.ofNat 16 mKdf, version := chars2 '0' '0' }
  let n := a.material.length
  Cmd.need (mayWrap b.material at_ n) stKeyUsage
  Cmd.need (decide (blockLen n ≤ j.desc.outCap)) stFormat
  let ik ← (if tdes then derived j a 0x21 (ksnBase inp) (tdesInitial a.material inp)
    else derived j a 0x11 (slice inp 0 8) (aesInitial a.material (slice inp 0 8)))
  return Run.output (← wrapOut j.seq j.part b.material at_ 0 (.node a.node a.gen) false 0 (checkValue at_ ik) ik)

def execDukptInitExport (seq : Nat) (s : State) : Next := done (runOp 0x0501 anyJob dukptExportRun seq s)

/-! ## The header and the working key (R196, R197) -/

/-- Bytes of a working key by its algorithm code of header byte 13. -/
def workLen (alg : Nat) : Nat :=
  match alg with
  | 0 => 16 | 1 => 24 | 2 => 16 | 3 => 24 | _ => 32

/-- What a DUKPT command asks: data or MAC, and the direction (encrypt or generate first). -/
structure DukptUse where
  /-- A MAC command. -/
  mac : Bool
  /-- Encrypts or generates. -/
  forward : Bool
  deriving DecidableEq, Repr

/-- The key usage of AES DUKPT. -/
def aesUsage (u : DukptUse) (sel : Nat) : Nat :=
  (if u.mac then 0x2000 else 0x3000) + (if sel = 1 then 2 else if u.forward then 0 else 1)

/-- The working key is TDES. -/
def workTdes (a : Binding) (inp : Bytes) : Bool := isTdes a.attrs || decide ((byteAt inp 13).toNat < 2)

/-- Checks of a command of this group in the order of R208, and its working key. -/
def dukptKey (j : Job) (u : DukptUse) (form macOk : Bool) : Cmd (Bool × Bytes) := do
  let a ← Cmd.of (bound j.keyA)
  let inp := j.input
  let tdes := isTdes a.attrs
  let wt := workTdes a inp
  let alg := (byteAt inp 13).toNat
  let sel := (byteAt inp 12).toNat
  let m := (byteAt inp 14).toNat
  Cmd.need (form && byteAt inp 15 == 0 && (!tdes || zeroAt inp 10 12)) stFormat
  let s ← get
  Cmd.need (tdes || decide (4 < alg) || (if wt then (vaultAt s j.part).tdes else decide (workLen alg ≤ a.material.length))) stKeyUsage
  Cmd.need (decide (4 < alg) || macOk) stKeyUsage
  let c ← checkCounter j tdes (slice inp 0 12)
  Cmd.need (decide (sel ≤ 1) && (if tdes then alg == 0 else decide (alg ≤ 4)) && (if u.mac && wt then m == 1 || m == 2 else m == 0)) stFormat
  let key ← transactionKey j a (slice inp 0 12) c
  let k := if tdes then (if u.mac then macVariant (sel == 1) key else dataVariant (sel == 1) key)
    else dukptStep key (aesUsage u sel) alg (workLen alg) (workTail (slice inp 0 12) c)
  return (wt, k)

/-! ## Data commands (R198) -/

/-- DUKPT_ENCRYPT and DUKPT_DECRYPT: ECB or CBC over whole blocks. -/
def dukptDataRun (enc : Bool) (j : Job) : Cmd Run := do
  let a ← Cmd.of (bound j.keyA)
  let inp := j.input
  let n := blockSize (workTdes a inp)
  let cbc := j.desc.par 56 == 2
  let ivOk := if cbc then zeroAt inp (16 + n) 32 else zeroAt inp 16 32
  let (t, k) ← dukptKey j ⟨false, enc⟩ (decide (32 ≤ inp.length) && ivOk) true
  let data := inp.drop 32
  Cmd.need (data.length % n == 0) stFormat
  let iv := slice inp 16 n
  return Run.output (if cbc then (if enc then cbcEnc t k iv data else cbcDec t k iv data) else if enc then ecbEnc t k data else ecbDec t k data)

def execDukptDecrypt (seq : Nat) (s : State) : Next := done (runOp 0x0502 anyJob (dukptDataRun false) seq s)
def execDukptEncrypt (seq : Nat) (s : State) : Next := done (runOp 0x0503 anyJob (dukptDataRun true) seq s)

/-! ## MAC commands (R198) -/

/-- The MAC algorithm and length suit the working key (log entry 43 for a three-key TDES working key). -/
def dukptMacFits (wt : Bool) (alg len wlen : Nat) : Bool :=
  if wt then alg == 3 && wlen == 16 && decide (4 ≤ len ∧ len ≤ 8) else alg == 6 && decide (4 ≤ len ∧ len ≤ 16)

/-- The MAC of a message under a working key; `none` where its padding allows no such message. -/
def dukptMac (wt : Bool) (k m : Bytes) (padding len : Nat) : Option Bytes :=
  if wt then (pad padding 8 m).map fun x => (mac3 k x).take len else some ((cmac false k m).take len)

/-- DUKPT_MAC_GENERATE and DUKPT_MAC_VERIFY. -/
def dukptMacRun (verify : Bool) (j : Job) : Cmd Run := do
  let a ← Cmd.of (bound j.keyA)
  let inp := j.input
  let l := j.desc.par 57
  let wt := workTdes a inp
  let wlen := if isTdes a.attrs then 16 else workLen (byteAt inp 13).toNat
  let form := decide ((if verify then 48 else 32) ≤ inp.length) && zeroAt inp 16 32
  let (t, k) ← dukptKey j ⟨true, !verify⟩ form (dukptMacFits wt (j.desc.par 56) l wlen)
  Cmd.need (!verify || zeroAt inp (32 + l) 48) stFormat
  let m ← Cmd.some? (dukptMac t k (inp.drop (if verify then 48 else 32)) (byteAt inp 14).toNat l) stFormat
  Cmd.need (!verify || m == slice inp 32 l) stVerifyFail
  return Run.output (if verify then [] else m)

def execDukptMacGenerate (seq : Nat) (s : State) : Next := done (runOp 0x0504 anyJob (dukptMacRun false) seq s)
def execDukptMacVerify (seq : Nat) (s : State) : Next := done (runOp 0x0505 anyJob (dukptMacRun true) seq s)

/-! ## MAC_GENERATE and MAC_VERIFY (R199, R200) -/

/-- The MAC of a message by algorithm and padding codes of 08 R219 and R220. -/
def macOf (alg padding : Nat) (tdes : Bool) (k m : Bytes) : Option Bytes :=
  match alg with
  | 6 => some (cmac tdes k m)
  | 3 => (pad padding 8 m).map (mac3 k)
  | _ => (pad padding 8 m).map (mac1 true k)

/-- Both commands. -/
def macRun (verify : Bool) (j : Job) : Cmd Run := do
  let a ← Cmd.of (bound j.keyA)
  let inp := j.input
  let l := j.desc.par 58
  Cmd.need (!verify || (decide (16 ≤ inp.length) && zeroAt inp l 16)) stFormat
  let m ← Cmd.some? (macOf (j.desc.par 56) (j.desc.par 57) (isTdes a.attrs) a.material (if verify then inp.drop 16 else inp)) stFormat
  Cmd.need (!verify || m.take l == inp.take l) stVerifyFail
  return Run.output (if verify then [] else m.take l)

/-- MAC_GENERATE. -/
def execMacGenerate (seq : Nat) (s : State) : Next := done (runOp 0x0603 anyJob (macRun false) seq s)
/-- MAC_VERIFY. -/
def execMacVerify (seq : Nat) (s : State) : Next := done (runOp 0x0604 anyJob (macRun true) seq s)

/-! ## FF1 (R201, R202; SP 800-38G) -/

/-- The value of a numeral. -/
def numeral (r : Nat) (b : Byte) : Option Nat :=
  let n := b.toNat
  let v := if 48 ≤ n ∧ n ≤ 57 then some (n - 48) else if 97 ≤ n ∧ n ≤ 122 then some (n - 87) else none
  v.bind fun v => if v < r then some v else none

/-- The character of a value. -/
def numChar (v : Nat) : Byte := BitVec.ofNat 8 (if v < 10 then 48 + v else 87 + v)

/-- The number a numeral string stands for. -/
def numVal (r : Nat) (x : List Nat) : Nat := x.foldl (fun a d => r * a + d) 0

/-- `m` numerals of a number. -/
def numStr (r : Nat) : Nat → Nat → List Nat
  | 0, _ => []
  | m + 1, v => numStr r m (v / r) ++ [v % r]

/-- Bytes that hold any string of `v` numerals. -/
def ff1Bytes (r v : Nat) : Nat := ceilDiv (Nat.log2 (r ^ v - 1) + 1) 8

/-- The round function's number y. -/
def ff1Round (key tweak : Bytes) (r n i : Nat) (b : List Nat) : Nat :=
  let u := n / 2
  let w := ff1Bytes r (n - u)
  let d := 4 * ceilDiv w 4 + 4
  let p : Bytes := [1, 2, 1] ++ beBytes 3 r ++ [10, BitVec.ofNat 8 u] ++ beBytes 4 n ++ beBytes 4 tweak.length
  let q := tweak ++ zeros ((16 - (tweak.length + w + 1) % 16) % 16) ++ [BitVec.ofNat 8 i] ++ beBytes w (numVal r b)
  let x := cbcMac false key (p ++ q)
  let more := ((List.range (ceilDiv d 16 - 1)).map fun k => blockEnc false key (xorBytes x (beBytes 16 (k + 1)))).flatten
  beNat ((x ++ more).take d)

/-- One round of encryption. -/
def ff1Enc1 (key tweak : Bytes) (r n : Nat) (ab : List Nat × List Nat) (i : Nat) : List Nat × List Nat :=
  let m := if i % 2 = 0 then n / 2 else n - n / 2
  (ab.2, numStr r m ((numVal r ab.1 + ff1Round key tweak r n i ab.2) % r ^ m))

/-- One round of decryption. -/
def ff1Dec1 (key tweak : Bytes) (r n : Nat) (ab : List Nat × List Nat) (i : Nat) : List Nat × List Nat :=
  let m := if i % 2 = 0 then n / 2 else n - n / 2
  let y := ff1Round key tweak r n i ab.1 % r ^ m
  (numStr r m ((numVal r ab.2 + r ^ m - y) % r ^ m), ab.1)

/-- FF1 on a numeral string. -/
def ff1 (enc : Bool) (key tweak : Bytes) (r : Nat) (x : List Nat) : List Nat :=
  let n := x.length
  let ab := (x.take (n / 2), x.drop (n / 2))
  let ab := if enc then (List.range 10).foldl (ff1Enc1 key tweak r n) ab else (List.range 10).reverse.foldl (ff1Dec1 key tweak r n) ab
  ab.1 ++ ab.2

/-- Both commands. -/
def ff1Run (enc : Bool) (j : Job) : Cmd Run := do
  let a ← Cmd.of (bound j.keyA)
  let r := radixOf (j.desc.par 56)
  let t := j.desc.par 57
  let x ← Cmd.some? ((j.input.drop t).mapM (numeral r)) stFormat
  return Run.output ((ff1 enc a.material (j.input.take t) r x).map numChar)

/-- FF1_TOKENISE. -/
def execFf1Tokenise (seq : Nat) (s : State) : Next := done (runOp 0x0605 anyJob (ff1Run true) seq s)
/-- FF1_DETOKENISE. -/
def execFf1Detokenise (seq : Nat) (s : State) : Next := done (runOp 0x0606 anyJob (ff1Run false) seq s)

end Sys2Proof.Machine
end

