-- ==== Sys2Proof/Machine/General.lean ====
section
/-!
DEFINITION. The general commands 0x0A01 to 0x0A05: NOP, FENCE and CANCEL (03 R65 to R67), TIME_READ (03 R73), JOURNAL_MARK (03 R74).
-/
namespace Sys2Proof.Machine

/-- A command without input or output (log entry 35). -/
def emptyRun (_ : State) (j : Job) : Except W16 Run := do
  noInput j
  return Run.output []

def execNop (seq : Nat) (s : State) : Next := done (runPure 0x0A01 emptyRun seq s)

/-- JOURNAL_MARK: its journal entry is its whole effect. -/
def execJournalMark (seq : Nat) (s : State) : Next := done (runPure 0x0A05 emptyRun seq s)

/-- TIME_READ: the stamp, then TIME_ERR_BOUND as 64 bits. -/
def timeReadRun (j : Job) : Cmd Run := do
  Cmd.of (noInput j)
  let c ← readClock j.seq
  return Run.output (leBytes 8 c.stamp ++ leBytes 8 c.bound)

def execTimeRead (seq : Nat) (s : State) : Next := done (runOp 0x0A04 anyJob timeReadRun seq s)

/-! ## FENCE (03 R65) -/

/-- The admitted jobs of a partition with a lower sequence that have not completed. -/
def earlierJobs (s : State) (j : Job) : List Job :=
  s.jobs.filter fun k => k.part == j.part && decide (k.seq < j.seq) && k.live && !k.copied

/-- FENCE: it waits until every earlier job of its partition has completed. The standby's copy waits for nothing. -/
def fenceRun (j : Job) : Cmd Run := do
  Cmd.of (noInput j)
  let s ← get
  if j.fwd || (earlierJobs s j).isEmpty then return Run.output [] else Cmd.hold

def execFence (seq : Nat) (s : State) : Next := done (runOp 0x0A02 anyJob fenceRun seq s)

/-! ## CANCEL (03 R66, R67) -/

/-- The job lies in the scope of a CANCEL. -/
def cancelScope (d : Desc) (k : Job) : Bool :=
  match d.par 57 with
  | 0 => k.ring == d.par 56 && k.index == leField d.params 4 4
  | 1 => k.ring == d.par 56
  | _ => k.desc.flow == leField d.params 2 2

/-- What a CANCEL does to one target: one not dispatched ends now, a dispatched one at its next yield point, at once
where it already stands at one (09 R272). -/
def cancelTarget (s : State) (q : Nat) : State :=
  match findJob s q with
  | none => s
  | some k =>
    if k.ended then s
    else if k.ran then endWhereWaiting q (modJob q (fun x => { x with cancel := true }) s)
    else endJob q stCancelled .cancelled s

/-- A target's journal entry says ST_CANCELLED. -/
def wasCancelled (s : State) (q : Nat) : Bool := s.jrn.entries.any fun e => e.seq == q && e.status == stCancelled

/-- The status of a CANCEL whose targets have completed. -/
def cancelStatus (s : State) (targets : List Nat) : W16 :=
  if targets = [] then stCancelNotFound else if targets.any (wasCancelled s) then stOk else stCancelLate

/-- CANCEL: its targets are marked as it runs first, and it ends after the last of them has completed. The standby's copy takes the
status from the active, which decides what depends on timing (15 R427; log entry 32). -/
def cancelRun (j : Job) : Cmd Run := do
  Cmd.of (noInput j)
  if !j.fwd && j.phase != .waiting then do
    let s ← get
    let ts := ((earlierJobs s j).filter (cancelScope j.desc)).map (·.seq)
    set (modJob j.seq (fun x => { x with afterDone := ts }) (ts.foldl cancelTarget s))
  let s ← get
  let ts := match findJob s j.seq with | some x => x.afterDone | none => []
  if !j.fwd && (s.jobs.any fun k => ts.contains k.seq && k.live) then Cmd.hold
  else do
    let b ← share j.seq 2 fun s => (leBytes 2 (cancelStatus s ts).toNat, s)
    return { Run.output [] with st := BitVec.ofNat 16 (leNat b) }

def execCancel (seq : Nat) (s : State) : Next := done (runOp 0x0A03 anyJob cancelRun seq s)

end Sys2Proof.Machine
end

