-- ==== Sys2Proof/Machine/Guard.lean ====
section
/-!
DEFINITION. Tarn and the Guard units (17_faults_and_guards.md): error events, escalation, clears, severities, injection, the error pair,
the region map, its commits, and refused accesses.
-/
namespace Sys2Proof.Machine

/-! ## Tarn (R475 to R483, R490) -/

/-- Change Tarn. -/
def modTarn (f : Tarn → Tarn) (s : State) : State := { s with tarn := f s.tarn }

/-- The sources, by number. -/
def tarnNos : List Nat := List.range 60

/-- The cause of a kind-C source lasts. -/
def causeLives (s : State) (n : Nat) : Bool := (Tab.get none s.tarn.live n).isSome

/-- Escalation time, ns. -/
def escNs (s : State) : Nat := 100000 * clampTo 1 10000 s.tarn.esc

/-- The severity a step of escalation leads to: a source that does not permit DEGRADE goes from NOTE straight to FATAL. -/
def nextSeverity (n eff : Nat) : Nat := if eff = 1 ∧ sevPermitted n 2 then 2 else 3

/-- The effective severity of a set bit rises to `lvl` (R478, R482): out of IGNORE the bit is raised as at its latch. -/
def raiseTo (n lvl : Nat) (s : State) : State :=
  let x := srcAt s n
  let s := modSrc n (fun y => { y with eff := lvl, timer := if lvl = 3 then none else if y.timer.isSome then y.timer else some s.time.mono }) s
  let s := if x.eff = 0 then note 0x2A1 23 [n, lvl, x.kind, x.unit, x.info.toNat] (sendMsix 0 48 s) else s
  severityEffects n x.unit lvl (!x.injected) s

/-- TARN_ESCALATION: the timer of a set bit has expired. -/
def execTarnEscalation (source : Fin 60) (s : State) : Next :=
  let n := source.val
  let x := srcAt s n
  match x.timer with
  | none => done s
  | some t =>
    if !x.set ∨ s.time.mono < t + escNs s then done s
    else
      let lvl := nextSeverity n x.eff
      let s := sendMsix 0 48 (note 0x2A2 23 [n, x.eff, lvl] s)
      done (raiseTo n lvl (modSrc n (fun y => { y with timer := some s.time.mono }) s))

/-- Every unit that Tarn can take out of service. -/
def allUnits : List TestUnit := (List.finRange 32).map .gecko ++ (List.finRange 4).map .pinv ++ testedUnits'
where
  /-- Newt cores and the units of the Iguana engine. -/
  testedUnits' : List TestUnit := (List.finRange 16).map .newt ++ (List.finRange 28).map .igu

/-- The units of a source that are out of service. -/
def unitsOut (s : State) (n : Nat) : List TestUnit := allUnits.filter fun u => unitSrc u == n && !unitUp s u

/-- Clear one bit (R479): a kind-C cause that lasts sets it again at once; else the bit goes and the tests of its units begin (R480). -/
def clearSrc (s : State) (n : Nat) : State :=
  if !(srcAt s n).set then s
  else if causeLives s n then note 0x2A3 23 [n, 2] s
  else
    let s := modSrc n (fun _ => TarnSrc.clear) s
    note 0x2A3 23 [n, 1] { s with eng := { s.eng with tests := (s.eng.tests ++ unitsOut s n).dedup } }

/-- Bits at effective FATAL. -/
def fatalBits (s : State) : Nat := ((tarnNos.filter fun n => (srcAt s n).set && (srcAt s n).eff == 3).map fun n => 2 ^ n).sum

/-- The error pair of a running module (R483). -/
def errNormal (s : State) : State := if s.pwr.ready then modTarn (fun t => { t with errPair := some (true, false) }) s else s

/-- TARN_STATUS_CLEAR: a write of 1 to bits; `gone` names the sources of kind C whose cause has gone. The last FATAL bit cleared ends the
SUSPEND that Tarn caused (R481). -/
def execTarnStatusClear (mask gone : W64) (s : State) : Next := openTo s <|
  let s := modTarn (fun t => { t with live := t.live.filter fun x => !gone.getLsbD x.1 }) s
  let was := fatalBits s
  let s := (tarnNos.filter fun n => mask.getLsbD n).foldl clearSrc s
  done (if was ≠ 0 ∧ fatalBits s = 0 then note 0x2A4 23 [was] (errNormal s) else s)

/-- A severity register with its permitted changes (R476): sources `base` to `base + cnt - 1`. -/
def sevMerge (old new : W64) (base cnt : Nat) : W64 :=
  BitVec.ofNat 64 ((List.range cnt).map fun i =>
    let v := bitsOf new.toNat (2 * i + 1) (2 * i)
    (if sevPermitted (base + i) v then v else bitsOf old.toNat (2 * i + 1) (2 * i)) * 2 ^ (2 * i)).sum

/-- TARN_SEV_WRITE: a committed write of TARN_SEV0 or TARN_SEV1 (R476, R482, R490). -/
def execTarnSevWrite (high : Bool) (value : W64) (s : State) : Next := openTo s <|
  let old := if high then s.tarn.sev1 else s.tarn.sev0
  let new := if high then sevMerge old value 32 28 else sevMerge old value 0 32
  if new = old then done s
  else if s.tarn.lock then done (accError 2 (if high then 0xF0030 else 0xF0028) s)
  else
    let s := modTarn (fun t => if high then { t with sev1 := new } else { t with sev0 := new }) s
    let s := tarnNos.foldl (fun s n => if (srcAt s n).set && decide ((srcAt s n).eff < sevOf s n) then raiseTo n (sevOf s n) s else s) s
    done (note 0x2A5 23 [leField (sha256Head 4 (leBytes 8 s.tarn.sev0.toNat ++ leBytes 8 s.tarn.sev1.toNat)) 0 4] s)

/-- TARN_INJECT: GO latches the source as an event of kind E with KIND 63 (R490). -/
def execTarnInject (value : W32) (s : State) : Next := openTo s <|
  let n := bitsOf value.toNat 5 0
  if !value.getLsbD 8 ∨ 60 ≤ n then done s else done (tarnOpen n 63 0 true (note 0x2A6 23 [n] s))

/-- A cause of kind C begins to last, and latches its source. -/
def raiseC (n kind unit : Nat) (info : W32) (s : State) : State :=
  tarnRaise n kind unit info false (modTarn (fun t => { t with live := Tab.set none t.live n (some (kind, unit, info)) }) s)

/-- ERR_READBACK_MISMATCH: a pin has read back other than driven for 10 µs (R483). -/
def execErrReadbackMismatch (pinP pinN : Bool) (s : State) : Next :=
  match s.tarn.errPair with
  | none => done s
  | some (p, n) =>
    if pinP = p ∧ pinN = n then done s
    else done (raiseC 57 (if pinP = p then 2 else 1) 0 (Config.freeWord s.freeCtr) { s with freeCtr := s.freeCtr + 1 })

/-! ## Guard units (R484 to R488) -/

/-- World of a master (R484): 0 CUSTODIAN, 1 SERVICE, 2 PARTITION. -/
def masterWorld (m : Nat) : Nat := if m < 0x20 then 2 else if m = 0x22 then 0 else 1

/-- The code of an access kind. -/
def accessCode : AccessKind → Nat
  | .read => 1 | .write => 2 | .fetch => 3

/-- An address lies in an enabled sub-region of an enabled region (R485). -/
def regionHit (g : GuardRegion) (a : Nat) : Bool :=
  let n := g.size.toNat
  g.en && decide (a / 2 ^ n = g.base.toNat / 2 ^ n) && !g.srd.getLsbD (a % 2 ^ n / 2 ^ (n - 3))

/-- The map that staged regions make of the one in force. -/
def stagedMap (s : State) : Tab (Option GuardRegion) :=
  match s.grd.staged with
  | none => s.grd.regions
  | some m => m.foldl (fun t x => Tab.set none t (32 * x.1.val + x.2.1.val) (some x.2.2)) s.grd.regions

/-- The region that decides an access: the matching one with the highest number. -/
def deciding (map : Tab (Option GuardRegion)) (u a : Nat) : Option (Nat × GuardRegion) :=
  (List.range 32).foldl (fun b r => match Tab.get none map (32 * u + r) with
    | some g => if regionHit g a then some (r, g) else b
    | none => b) none

/-- The region that decides an access now: a new access held by a commit is checked under the new rules (R488). -/
def decidingNow (s : State) (u a : Nat) : Option (Nat × GuardRegion) :=
  if s.grd.boot && s.grd.staged.isNone then none else deciding (stagedMap s) u a

/-- A unit admits an access: before the first commit CUSTODIAN alone; then as the deciding region says (R485, R486). -/
def guardAdmits (s : State) (u world a : Nat) : Bool :=
  if s.grd.boot && s.grd.staged.isNone then world == 0
  else match decidingNow s u a with
    | some (_, g) => g.worlds.getLsbD world
    | none => false

/-- GRD_VIOL_INFO without VALID. -/
def violInfo (s : State) (u master world kind a : Nat) (debug : Bool) : Nat :=
  master * 2 ^ 16 + kind * 2 ^ 14 + world * 2 ^ 12 + flagAt debug 11 +
    (match decidingNow s u a with | some (r, _) => r * 2 ^ 5 | none => 2 ^ 10)

/-- A unit's violation record. -/
def violAt (s : State) (u : Nat) : Viol := Tab.get Viol.none_ s.grd.viols u

/-- The effects of a refused access (R487). The job of a Gecko thread ends: one of those on the engine, which one being open where there are
several (log entry 62). -/
def violation (u master world kind : Nat) (a : W32) (debug : Bool) (s : State) : State :=
  let info := violInfo s u master world kind a.toNat debug
  let load (v : Viol) : Viol :=
    if v.valid then { v with count := BitVec.ofNat 32 (satAdd 0xFFFFFFFF v.count.toNat 1) }
    else { valid := true, addr := a, info := BitVec.ofNat 32 info, count := BitVec.ofNat 32 (satAdd 0xFFFFFFFF v.count.toNat 1) }
  let s := { s with grd := { s.grd with viols := Tab.modify Viol.none_ s.grd.viols u load } }
  let s := tarnRaise (48 + u) kind master a false s
  let s := note 0x2B1 (24 + u) [u, info, a.toNat] s
  let js := s.jobs.filter fun j => j.thread == some master && !j.ended
  if master < 0x20 ∧ js ≠ [] then
    let (k, s) := freeBelow js.length s
    match js[k]? with
    | some j => endJob j.seq stEngineFault .yielded s
    | none => s
  else s

/-- TARN_ERROR_EVENT: an error line reports. Of a Guard unit it names a refused access: KIND the access, UNIT the master, INFO the
address; one that the map admits is none. -/
def execTarnErrorEvent (source : Fin 60) (kind : BitVec 6) (unit : Byte) (info : W32) (s : State) : Next :=
  let n := source.val
  if !s.pwr.main || s.pwr.perst then done s
  else if 48 ≤ n ∧ n ≤ 55 then
    let w := masterWorld unit.toNat
    if guardAdmits s (n - 48) w info.toNat then done s else done (violation (n - 48) unit.toNat w kind.toNat info false s)
  else if srcKindC n then done (raiseC n kind.toNat unit.toNat info s)
  else done (tarnRaise n kind.toNat unit.toNat info false s)

/-- GRD_COMMIT: firmware stages regions and commits; new accesses are held (R488). -/
def execGrdCommit (map : List (Fin 8 × Fin 32 × GuardRegion)) (s : State) : Next :=
  if s.grd.staged.isSome then done s else done { s with grd := { s.grd with staged := some map, since := s.time.mono } }

/-- GRD_COMMIT_APPLY: the last old access has retired. -/
def execGrdCommitApply (s : State) : Next :=
  match s.grd.staged with
  | none => done s
  | some _ =>
    let e := s.grd.epoch + 1
    let ev : List Nat := [s.grd.epoch.toNat, e.toNat, s.time.mono - s.grd.since]
    done (note 0x2B2 24 ev { s with grd := { s.grd with regions := stagedMap s, boot := false, staged := none, epoch := e } })

end Sys2Proof.Machine
end

