-- ==== Sys2Proof/Machine/Firmware.lean ====
section
/-!
DEFINITION. Firmware slots (14_life_cycle_and_debug.md R406 to R408): their bytes, headers and checks.
-/
namespace Sys2Proof.Machine

/-- Bytes of a slot: 24 MiB (R406). -/
def slotSize : Nat := 24 * 2 ^ 20

/-- `n` bytes of a slot (`false` A) from address `a`: the factory image until slot A is written; erased flash reads 0xFF (log entry 50). -/
def slotBytes (s : State) (b : Bool) (a n : Nat) : Bytes :=
  if !b && s.nv.factoryA then (List.range n).map fun i => Config.factoryImage.getD (a + i) 0xFF
  else Tab.readBytes 0xFF slotSize (if b then s.nv.slotB else s.nv.slotA) a n

/-- Write bytes into a slot; the factory image gives way to its own bytes first. -/
def slotWrite (b : Bool) (a : Nat) (bs : Bytes) (s : State) : State :=
  if b then { s with nv := { s.nv with slotB := Tab.writeBytes 0xFF slotSize s.nv.slotB a bs } }
  else
    let base := if s.nv.factoryA then Tab.writeBytes 0xFF slotSize [] 0 Config.factoryImage else s.nv.slotA
    { s with nv := { s.nv with factoryA := false, slotA := Tab.writeBytes 0xFF slotSize base a bs } }

/-- Erase a slot. -/
def slotErase (b : Bool) (s : State) : State :=
  if b then { s with nv := { s.nv with slotB := [] } } else { s with nv := { s.nv with factoryA := false, slotA := [] } }

/-- The header of a slot's image. -/
def slotHeader (s : State) (b : Bool) : Bytes := slotBytes s b 0 4096

/-- Security version of a slot's image. -/
def slotVersion (s : State) (b : Bool) : Nat := leField (slotHeader s b) 4 4

/-- The body of a slot's image. -/
def slotBody (s : State) (b : Bool) : Bytes := slotBytes s b 4096 (leField (slotHeader s b) 8 4)

/-- The form of a header: its constant, a version of 0 to 255, a body that fits, the zero bytes. -/
def headerForm (h : Bytes) : Bool :=
  decide (leField h 0 4 = 0x5A465731 ∧ leField h 4 4 ≤ 255 ∧ 4096 + leField h 8 4 ≤ slotSize) && zeroAt h 12 16 && zeroAt h 3469 4096

/-- A slot's image is whole: its form, both signatures, the body digest. -/
def slotSigned (s : State) (b : Bool) : Bool :=
  let h := slotHeader s b
  headerForm h && p384Verify (Config.firmwareAuthority false) (h.take 64) (slice h 64 96) &&
    mldsaVerify (Config.firmwareAuthority true) (h.take 64) (slice h 160 3309) && sha384B (slotBody s b) == slice h 16 48

/-- It may run: whole, and at or above the anti-rollback count. -/
def slotVerifies (s : State) (b : Bool) : Bool := slotSigned s b && decide (s.nv.rollback ≤ slotVersion s b)

/-- Security version of the running image. -/
def fwVersion (s : State) : Nat := slotVersion s s.pwr.running

/-- The measurement of the running image: over its header and body (12 R361; log entry 51). -/
def fwMeasure (s : State) : Bytes := sha384B (slotHeader s s.pwr.running ++ slotBody s s.pwr.running)

end Sys2Proof.Machine
end

