-- ==== Sys2Proof/Machine/Parts.lean ====
section
/-!
DEFINITION. Partitions (11_partitions_and_migration.md): creation, destruction, configuration, freeze and thaw, the two sides of a
migration, partition resets, and the stop of a function's DMA (R308, 20 R539).
-/
namespace Sys2Proof.Machine

/-! ## The configuration record (R311, R313; 08 R232) -/

/-- Existing partitions with their configurations as commits under way will leave them. -/
def cfgsAhead (s : State) : List (Nat × PartCfg) :=
  (s.parts.filter fun x => existsPart s x.1).map fun x =>
    (x.1, ((s.jobs.flatMap (·.commits)).findSome? fun c => match c with
      | .config p c => if p = x.1 then some c else none
      | _ => none).getD x.2.cfg)

/-- Two stretches of indices meet. -/
def overlaps (a n b m : Nat) : Bool := decide (n ≠ 0 ∧ m ≠ 0 ∧ a < b + m ∧ b < a + n)

/-- A node range fits: it meets no other partition's range, covers no other partition's node, and holds every node of its own. -/
def rangeFits (s : State) (p : Nat) (c : PartCfg) : Bool :=
  let inside (i : Nat) : Bool := decide (c.rangeFirst ≤ i ∧ i < c.rangeFirst + c.rangeCount)
  c.rangeCount == 0 ||
    ((cfgsAhead s).all (fun x => x.1 == p || !overlaps c.rangeFirst c.rangeCount x.2.rangeFirst x.2.rangeCount) &&
     s.mas.nodes.all (fun x => x.2.state == .free || decide (0x1C000 ≤ x.1) || (inside x.1 == (x.2.owner == p))))

/-- The derived-key cache limits of all partitions stay within 16,384. -/
def cacheFits (s : State) (p : Nat) (c : PartCfg) : Bool :=
  decide ((((cfgsAhead s).filter fun x => x.1 != p).map fun x => x.2.cache).sum + c.cache ≤ 16384)

/-- Pinning is free: not partition 0, not a fourth cluster, not a cluster another partition has, not a partition pinned elsewhere. -/
def pinFits (s : State) (p : Nat) (c : PartCfg) : Bool :=
  match c.pin with
  | none => true
  | some k =>
    let others := ((cfgsAhead s).filter fun x => x.1 != p).filterMap fun x => x.2.pin
    p != 0 && !others.contains k && decide (others.length < 3) &&
      (match (partAt s p).cfg.pin with | some o => o == k | none => true)

/-- Read and judge a record for a partition (log entry 52 for pinning). -/
def judgeCfg (s : State) (p : Nat) (b : Bytes) : Except W16 PartCfg := do
  let c ← (match cfgOf p b with | some c => .ok c | none => .error stFormat)
  need (pinFits s p c) stStateReject
  need (cacheFits s p c && rangeFits s p c) stQuota
  return c

/-! ## PART_CREATE and PART_CONFIGURE (R313, R315) -/

/-- PART_CREATE. -/
def partCreateRun (j : Job) : Cmd Run := do
  let p := j.desc.par 56
  let there := existsPart (← get) p
  Cmd.need (decide (64 ≤ j.input.length)) stFormat
  judge j 4 64 (actionDigest j 64) none
  Cmd.need (!there) stStateReject
  let c ← Cmd.of (judgeCfg (← get) p (j.input.take 64))
  let m ← draw j.seq 256 32
  return { Run.output [] with
    commits := [.vault p { VaultPart.absent with exists_ := true, master := some m, gen := 1 }, .config p c], change := none,
    events := [⟨0x1E1, 17, [p, j.seq]⟩] }

def execPartCreate (seq : Nat) (s : State) : Next := done (runOp 0x0101 anyJob partCreateRun seq s)

/-- PART_CONFIGURE: it completes once the jobs admitted before its commit have. -/
def partConfigureRun (j : Job) : Cmd Run := do
  namedThere j
  let p := j.desc.par 56
  Cmd.need (partState (← get) p == 1) stStateReject
  Cmd.need (j.input.length == 64) stFormat
  let c ← Cmd.of (judgeCfg (← get) p j.input)
  return { Run.output [] with
    commits := [.config p c], drain := .all, events := [⟨0x1E3, 17, [p, leField (sha256Head 4 j.input) 0 4]⟩] }

def execPartConfigure (seq : Nat) (s : State) : Next := done (runOp 0x0103 anyJob partConfigureRun seq s)

/-! ## Stopping a partition's work (R320, R322) -/

/-- A reset ends a job: what has not been dispatched ends now; dispatched work at its next yield point or end; a completion not yet
written never is. A waiting PART_DESTROY goes on (R321), and so does a job whose commits wait for the standby (15 R426). -/
def resetJob (q : Nat) (s : State) : State :=
  match findJob s q with
  | none => s
  | some j =>
    if j.phase = .lag then s
    else if j.phase = .retired then goneSilently j s
    else
      let s := modJob q (fun x => { x with suppressed := true }) s
      if j.ended then modJob q (fun x => { x with doom := some stCancelled }) s
      else if !j.ran then endJob q stCancelled .reset s
      else if j.pastStop then s
      else endWhereWaiting q (modJob q (fun x => { x with doom := some stCancelled }) s)

/-- Fetching stops, what has arrived unchecked is discarded, refused descriptors lose their completions, and the jobs end. -/
def stopPart (p : Nat) (s : State) : State :=
  let s := ringNos.foldl (fun s r =>
    let g := ringAt s p r
    if g.reads = [] ∧ g.held = [] then s else
    modRing p r (fun g => { g with
      reads := g.reads.map (fun f => { f with discard := true }), held := [], reserved := g.reserved - g.held.length }) s) s
  let s := modPart p (fun x => { x with dectabHold := match x.dectabHold with | some (_, none) => none | h => h }) s
  let s := (s.refused.filter (Job.of p)).foldl (fun s j =>
    completed p j.ring j.seq (modRing p j.ring (fun g => { g with reserved := g.reserved - 1 })
      { s with refused := s.refused.filter fun k => k.seq != j.seq })) s
  ((s.jobs.filter fun j => j.part == p && !j.copied).map (·.seq)).foldl (fun s q => resetJob q s) s

/-- Every job of a partition is gone, but for those that wait for the standby alone. -/
def partStopped (s : State) (p : Nat) : Bool := !(s.jobs.any fun j => j.part == p && j.live && !j.copied && !(j.desc.opcode == 0x0102 && j.phase == .waiting))

/-- A reset of partition `p` starts (R319, R320 steps 1 and 2). -/
def startReset (p cause : Nat) (s : State) : State :=
  if !existsPart s p || (partAt s p).destroying || (partAt s p).resetting.isSome then s
  else
    let n := (s.jobs.filter fun j => j.part == p && j.live && !j.copied).length
    stopPart p (modPart p (fun x => { x with resetting := some { t0 := s.time.mono, cause := cause, ended := n } }) s)

/-- A function-level reset clears Bus Master Enable, the D3hot state and the MSI-X table of a function (PCIe Base Specification; log
entry 53). -/
def resetFunction (p : Nat) (s : State) : State :=
  modPart p (fun x => { x with bme := false, d3hot := false }) { s with msix := s.msix.filter fun x => x.1 / 64 ≠ p }

/-- VF_FLR: a function-level reset of VF n. -/
def execVfFlr (p : Fin 256) (s : State) : Next := if p.val = 0 then done s else done (startReset p 1 (resetFunction p s))

/-- Every existing partition 1 to 255 is reset at once. -/
def resetVfs (s : State) : State :=
  ((List.range 256).drop 1).foldl (fun s p => startReset p 3 (resetFunction p s)) s

/-- The selector registers of the physical function return to their reset values (21 R563, R566). -/
def resetSelectors (s : State) : State :=
  { s with
    sys := { s.sys with partSel := 0, cirqSel := 0, estSel := 0 }
    cust := { s.cust with selRule := 1, selCust := 0, certChain := false, certLevel := 0, certPos := 0 }
    eng := { s.eng with curveSlot := 0, curvePart := 0 }
    rng := { s.rng with sel := 0 }
    tmp := { s.tmp with monSel := 0, evSel := 0 }
    grd := { s.grd with sel := 0 }
    scr := { s.scr with sel := 0 }
    tarn := { s.tarn with dsel := 0 }
    pmc := { s.pmc with sel := 0 } }

/-- PF_FLR. -/
def execPfFlr (s : State) : Next := done (startReset 0 3 (resetFunction 0 (resetSelectors (resetVfs s))))

/-- VF_ENABLE_CLEAR. -/
def execVfEnableClear (s : State) : Next := done (resetVfs s)

/-- PART_VF_CTRL_RESET: a function's write of RESET. -/
def execPartVfCtrlReset (p : Fin 256) (value : W32) (s : State) : Next := served s <|
  done (if value.getLsbD 0 then startReset p 2 s else s)

/-- PART_CTRL_RESET: partition 0 writes it for the selected partition; ignored for partition 0 and an ABSENT one (R338). -/
def execPartCtrlReset (value : W32) (s : State) : Next := served s <|
  done (if value.getLsbD 0 ∧ s.sys.partSel ≠ 0 then startReset s.sys.partSel 2 s else s)

/-- Write one dump record into a dump ring (18 R503): the ring after it. -/
def dumpInto (p : Nat) (h : HostRing) (s : State) : HostRing × State :=
  let x := partAt s p
  let bs := leBytes 8 (stamp s).toNat ++ leBytes 8 h.count.toNat ++
    ((List.range 8).flatMap fun i => leBytes 8 (Tab.get (0 : W64) x.cnt i).toNat) ++ zeros 48
  let (h', ok, addr) := ringAppend x.cfg p h bs
  let s := if ok then hostWrite p addr bs 0x26 0 s else note 0x2C3 32 [p, h.count.toNat % 2 ^ h.log2, h.count.toNat] s
  (h', if p = 0 then sendMsix 0 55 s else sendMsix p 7 s)

/-- The dump that fell due during a reset is written (18 R503). -/
def owedDump (p : Nat) (s : State) : State :=
  match (partAt s p).dumpOwed with
  | some h => (dumpInto p h s).2
  | none => s

/-- The registers of a partition that its reset returns to their reset values (21 R566): host journal ring, window, dump ring, error
registers. -/
def Part.regsReset (x : Part) : Part :=
  { x with
    errResetDone := false, errReadFail := false, errRing := false, errAccess := false, errAddr := 0, errInfo := 0,
    jrn := HostRing.reset 10, jrnAll := false, winSeq := 0, winBusy := false, winResult := 2, winEntry := [],
    dump := HostRing.reset 4, dumpPeriod := 1000, dumpLast := 0, dumpOwed := none, heldWrites := [] }

/-- Staging and latched words of a function's host journal and dump registers go with them. -/
def dropHalves (p : Nat) (s : State) : State :=
  { s with sys := { s.sys with
    stage := s.sys.stage.filter fun x => x.1 / 2 ^ 24 ≠ p ∨ (p = 0 ∧ !(0xD0400 ≤ x.1 ∧ x.1 < 0xD0460) ∧ !(0x81100 ≤ x.1 ∧ x.1 < 0x81160) ∧ !(0x20000 ≤ x.1 ∧ x.1 < 0x20400)) } }

/-- PART_RESET_DONE: the partition's jobs have stopped; its cache entries are flushed, its rings and error registers return to their
reset values, and a dump that fell due is written (R320 steps 5 and 6; 18 R503). -/
def execPartResetDone (p : Fin 256) (s : State) : Next :=
  match (partAt s p).resetting with
  | none => done s
  | some r =>
    if !partStopped s p then done s else
    let s := { s with mas := { s.mas with cache := s.mas.cache.filter fun e => e.part != p.val } }
    let s := dropHalves p (owedDump p (resetRings p s))
    let s := modPart p (fun x => { x.regsReset with resetting := none, errResetDone := r.cause == 2 }) s
    let s := note 0x1E4 17 [p, r.cause, r.ended, (s.time.mono - r.t0) / 1000] s
    done (if r.cause = 2 then partErrMsix p s else s)

/-! ## PART_DESTROY (R316) -/

/-- Nodes a partition owns. -/
def nodeCount (s : State) (p : Nat) : Nat := (s.mas.nodes.filter fun x => x.2.owner == p && x.2.state == .current).length

/-- The partition's existence ends: what the vault keeps of it, and events. -/
def destroyed (s : State) (p : Nat) (v : VaultPart) (more : List Ev) : Run :=
  { Run.output [] with commits := [.vault p v], events := [⟨0x1E2, 17, [p, nodeCount s p]⟩] ++ more }

/-- Stop partition `p` for its destruction: DESTROYING, and the reset sequence with its completions suppressed. -/
def beginDestroy (p : Nat) (s : State) : State := stopPart p (modPart p (fun x => { x with destroying := true }) s)

/-- PART_DESTROY: authorised once, it waits until the partition's jobs are gone. -/
def partDestroyRun (j : Job) : Cmd Run := do
  let p := j.desc.par 56
  let s ← get
  if j.phase == .waiting && (partAt s p).destroying then
    (if partStopped s p then return destroyed s p VaultPart.absent [] else Cmd.hold)
  else do
    judge j 4 0 (actionDigest j 0) none
    Cmd.need (partState s p == 1 && p != 0) stStateReject
    let s ← get
    if j.fwd then return destroyed s p VaultPart.absent []
    else do
      modify (beginDestroy p)
      let s ← get
      if partStopped s p then return destroyed s p VaultPart.absent [] else Cmd.hold

def execPartDestroy (seq : Nat) (s : State) : Next := done (runOp 0x0102 anyJob partDestroyRun seq s)

/-! ## Freeze and thaw (R323, R324) -/

/-- Nothing of a partition is in flight, waiting or admitted. -/
def partQuiet (s : State) (p : Nat) : Bool :=
  !(s.jobs.any fun j => j.part == p && j.live && !j.copied) && !(s.refused.any (Job.of p)) && decide (inFlight s p = 0)

/-- Fetching stops, and background jobs not dispatched are cancelled. -/
def beginFreeze (p : Nat) (s : State) : State :=
  let s := modPart p (fun x => { x with freezing := true }) s
  endJobs ((s.jobs.filter fun j => j.part == p && j.desc.cls == 1 && !j.ran && !j.ended && !j.copied).map (·.seq)) stCancelled .cancelled s

/-- The record of a frozen partition. -/
def frozenRun (s : State) (p : Nat) : Run :=
  { Run.output [] with commits := [.vault p { vaultAt s p with frozen := true }], events := [⟨0x1E5, 17, [p]⟩] }

/-- PART_FREEZE: it drains the partition, which then is FROZEN. Background jobs admitted while it drains are cancelled too. -/
def partFreezeRun (j : Job) : Cmd Run := do
  Cmd.of (noInput j)
  let p := j.desc.par 56
  Cmd.need (j.phase == .waiting || (partState (← get) p == 1 && p != 0)) stStateReject
  if j.fwd then return frozenRun (← get) p
  else do
    modify (beginFreeze p)
    let s ← get
    if partQuiet s p then return frozenRun s p else Cmd.hold

def execPartFreeze (seq : Nat) (s : State) : Next := done (runOp 0x0104 anyJob partFreezeRun seq s)

/-- PART_THAW, by the migration sub-state. -/
def partThawRun (j : Job) : Cmd Run := do
  Cmd.of (noInput j)
  let p := j.desc.par 56
  let v := vaultAt (← get) p
  Cmd.need (partState (← get) p == 3 && v.mig != 3) stStateReject
  return { Run.output [] with
    commits := [.vault p { v with frozen := false, mig := 0, lost := false }], events := [⟨0x1E6, 17, [p, v.mig]⟩] }

def execPartThaw (seq : Nat) (s : State) : Next := done (runOp 0x0105 anyJob partThawRun seq s)

/-! ## Migration: steps and items (R326) -/

/-- Length of item `i` of a step header, 0 to 2. -/
def itemLen (b : Bytes) (i : Nat) : Nat := leField b (4 + 4 * i) 4

/-- A step's items, of which there are `n`; `none` where the header or the lengths are wrong. -/
def itemsOf (b : Bytes) (step n : Nat) : Option (List Bytes) :=
  let ls := (List.range 3).map (itemLen b)
  if 16 ≤ b.length ∧ (byteAt b 0).toNat = step ∧ zeroAt b 1 4 ∧ (ls.drop n).all (· == 0) ∧ b.length = 16 + ls.sum then
    some ((List.range n).map fun i => slice b (16 + (ls.take i).sum) (ls.getD i 0))
  else none

/-- The job is the step `k` of its command. -/
def stepIs (k : Nat) (j : Job) : Bool := (byteAt j.input 0).toNat == k

/-- The partition is FROZEN. -/
def needFrozen (j : Job) : Cmd VaultPart := do
  let s ← get
  Cmd.need (partState s (j.desc.par 56) == 3) stStateReject
  return vaultAt s (j.desc.par 56)

/-- A receipt (type 3) or release (type 4) without its signatures (R332). -/
def slipBytes (type p : Nat) (issuer other nonce dig : Bytes) (st : Nat) : Bytes :=
  [1, BitVec.ofNat 8 type, BitVec.ofNat 8 p, 0] ++ fit 16 issuer ++ fit 16 other ++ fit 32 nonce ++ fit 32 dig ++ leBytes 8 st ++ zeros 4

/-- A slip of a type for a partition verifies: its form, the chain of its issuer, both signatures. -/
def slipOk (type p : Nat) (slip chain : Bytes) : Bool :=
  slip.length == 3517 && byteAt slip 0 == 1 && (byteAt slip 1).toNat == type && (byteAt slip 2).toNat == p && byteAt slip 3 == 0 &&
    zeroAt slip 108 112 &&
    (match Config.chainVerify chain with
     | some (serial, _, k1, k2) => fit 16 serial == slice slip 4 16 && hybridVerify k1 k2 (slip.take 112) (slip.drop 112)
     | none => false)

/-- Change the migration data of a partition. -/
def modMigr (p : Nat) (f : Migration → Migration) (s : State) : State := modPart p (fun x => { x with migr := f x.migr }) s

/-- The first 32 bytes of SHA-384 over an image. -/
def imageDigest (b : Bytes) : Bytes := (sha384B b).take 32

/-! ## The image (R329, R330) -/

/-- One section: type, zero bytes, length, content. -/
def sectionBytes (type : Nat) (b : Bytes) : Bytes := [BitVec.ofNat 8 type, 0, 0, 0] ++ leBytes 4 b.length ++ b

/-- A node as an image carries it: its bytes, with its index in bytes 58 to 61 (log entry 54). -/
def imageNode (i : Nat) (n : Node) : Bytes :=
  let b := nodeBytes n
  b.take 58 ++ leBytes 4 i ++ b.drop 62

/-- The sections of partition `p`. -/
def imageBody (s : State) (p : Nat) : Bytes :=
  let x := partAt s p
  let v := vaultAt s p
  let some_ {α : Type} (t : Tab (Option α)) (f : Nat → α → Bytes) : Bytes :=
    t.flatMap fun e => match e.2 with | some c => f e.1 c | none => []
  sectionBytes 1 (cfgBytes x.cfg) ++
  sectionBytes 2 (fit 32 (v.master.getD []) ++ leBytes 2 v.gen ++ [BitVec.ofNat 8 (b2n v.tdes), 0]) ++
  ((s.mas.nodes.filter fun e => e.2.owner == p && e.2.state == .current).flatMap fun e => sectionBytes 3 (imageNode e.1 e.2)) ++
  some_ x.ctxs (fun i c => sectionBytes 4 (leBytes 4 i ++ ctxBytes c)) ++
  some_ x.curves (fun i c => sectionBytes 5 ([BitVec.ofNat 8 i, 0, 0, 0] ++ c.raw)) ++
  some_ x.dectabs (fun i d => sectionBytes 6 ([BitVec.ofNat 8 i, 0, 0, 0] ++ fit 16 d))

/-- PART_SAVE step 1 (R328 to R330). A partition that awaits its release cannot be saved (R324; log entry 55). -/
def partSaveRun (j : Job) : Cmd Run := do
  let v ← needFrozen j
  let p := j.desc.par 56
  Cmd.need (v.mig != 3) stStateReject
  let items ← Cmd.some? (itemsOf j.input 1 2) stFormat
  let offer := items.getD 0 []
  Cmd.need (offer.length == 4749) stFormat
  Cmd.need (!v.lost) stKeyGone
  let (serial, _, k1, k2) ← Cmd.some? (Config.chainVerify (items.getD 1 [])) stVerifyFail
  Cmd.need (slice offer 8 16 == fit 16 serial) stVerifyFail
  Cmd.need (hybridVerify k1 k2 (offer.take 1344) (offer.drop 1344)) stVerifyFail
  let s ← get
  Cmd.need (byteAt offer 0 == 1 && byteAt offer 1 == 1 && (byteAt offer 2).toNat == p && byteAt offer 3 == 3 &&
    decide (fwVersion s ≤ leField offer 4 4) && zeroAt offer 1337 1344) stVerifyFail
  let body := imageBody s p
  Cmd.need (decide (1280 + 16 + 3405 + body.length ≤ j.desc.outCap)) stFormat
  let m ← draw j.seq 0 32
  let e ← drawScalar j.seq 0 p384.n 64
  let (c, ss) := Config.kemEncaps 0x31 (slice offer 56 1184) m
  let z ← Cmd.some? (p384Agree e (slice offer 1240 97)) stInputRejected
  let clk ← readClock j.seq
  let mine := jobSerial (← get) j
  let head := [1, 2, BitVec.ofNat 8 p, 0] ++ mine ++ fit 16 serial ++ slice offer 24 32 ++ leBytes 8 clk.stamp ++ leBytes 8 j.seq ++
    fit 1088 c ++ pointBytes 48 (p384.mul e p384.base) ++ zeros 3 ++ leBytes 4 body.length ++ zeros 4
  let k := exchangeKey (fit 32 ss) z (sha384B (offer.take 1344 ++ head))
  let (ct, tag) := gcmSeal k (zeros 12) head body
  let sig ← hybridSign j (head ++ ct ++ tag)
  let image := head ++ ct ++ tag ++ sig
  let dig := imageDigest image
  modify (modMigr p fun g => { g with offer := none, images := g.images ++ [(fit 16 serial, slice offer 24 32, dig)] })
  return { Run.output image with
    commits := [.vault p { v with mig := 2 }], events := [⟨0x1E7, 17, [p, leNat (fit 16 serial), leNat dig]⟩] }

/-- A PART_SAVE of another step value than 2 or 3: any but 1 ends with ST_FORMAT. -/
def execPartSaveSave (seq : Nat) (s : State) : Next :=
  done (runOp 0x0106 (fun j => !stepIs 2 j && !stepIs 3 j) partSaveRun seq s)

/-- A release slip, signed. -/
def signSlip (type : Nat) (j : Job) (other nonce dig : Bytes) : Cmd Bytes := do
  let clk ← readClock j.seq
  let b := slipBytes type (j.desc.par 56) (jobSerial (← get) j) other nonce dig clk.stamp
  let sig ← hybridSign j b
  return b ++ sig

/-- The receipt names this image: nonce, digest, and the two modules. -/
def receiptNames (s : State) (j : Job) (r : Bytes) (target nonce dig : Bytes) : Bool :=
  slice r 4 16 == target && slice r 20 16 == jobSerial s j && slice r 36 32 == nonce && slice r 68 32 == dig

/-- PART_SAVE step 2: the partition is destroyed, and a release issued for it (R333; log entry 56). -/
def partReleaseRun (j : Job) : Cmd Run := do
  let p := j.desc.par 56
  let v ← needFrozen j
  let items ← Cmd.some? (itemsOf j.input 2 2) stFormat
  let r := items.getD 0 []
  Cmd.need (r.length == 3517) stFormat
  let s ← get
  Cmd.need (v.mig == 2 && (partAt s p).migr.images.any (fun x => receiptNames s j r x.1 x.2.1 x.2.2)) stVerifyFail
  Cmd.need (slipOk 3 p r (items.getD 1 [])) stVerifyFail
  Cmd.need (decide (3517 ≤ j.desc.outCap)) stFormat
  let out ← signSlip 4 j (slice r 4 16) (slice r 36 32) (slice r 68 32)
  let s ← get
  return { destroyed s p { VaultPart.absent with release := some (slice r 36 32, slice r 68 32) }
      [⟨0x1E9, 17, [p, leNat (slice r 4 16), leNat (slice r 36 32)]⟩] with out := out }

def execPartSaveRelease (seq : Nat) (s : State) : Next := done (runOp 0x0106 (stepIs 2) partReleaseRun seq s)

/-- PART_SAVE step 3: the receipt matches the stored record of the last release. -/
def partReissueRun (j : Job) : Cmd Run := do
  let p := j.desc.par 56
  let items ← Cmd.some? (itemsOf j.input 3 1) stFormat
  let r := items.getD 0 []
  Cmd.need (r.length == 3517) stFormat
  let s ← get
  Cmd.need ((match (vaultAt s p).release with
    | some (n, d) => slice r 36 32 == n && slice r 68 32 == d && slice r 20 16 == jobSerial s j
    | none => false) && byteAt r 1 == 3 && (byteAt r 2).toNat == p) stVerifyFail
  Cmd.need (decide (3517 ≤ j.desc.outCap)) stFormat
  return Run.output (← signSlip 4 j (slice r 4 16) (slice r 36 32) (slice r 68 32))

def execPartSaveReissue (seq : Nat) (s : State) : Next := done (runOp 0x0106 (stepIs 3) partReissueRun seq s)

/-! ## The target (R327, R331 to R334) -/

/-- PART_RESTORE step 1: a signed offer with ephemeral keys; a further one takes its place (log entry 55). -/
def partOfferRun (j : Job) : Cmd Run := do
  let p := j.desc.par 56
  let v ← needFrozen j
  let _ ← Cmd.some? (itemsOf j.input 1 0) stFormat
  Cmd.need (decide (v.mig ≤ 1)) stStateReject
  Cmd.need (decide (4749 ≤ j.desc.outCap)) stFormat
  let nonce ← draw j.seq 259 32
  let seed ← draw j.seq 0 64
  let d ← drawScalar j.seq 0 p384.n 64
  let s ← get
  let vb ← share j.seq 5 fun s => ([BitVec.ofNat 8 (lcCode s)] ++ leBytes 4 (fwVersion s), s)
  let head := [1, 1, BitVec.ofNat 8 p] ++ vb ++ jobSerial s j ++ nonce ++ fit 1184 (Config.publicOf 0x31 seed) ++
    pointBytes 48 (p384.mul d p384.base) ++ zeros 7
  let sig ← hybridSign j head
  modify (modMigr p fun g => { g with offer := some (head, seed, beBytes 48 d) })
  return { Run.output (head ++ sig) with commits := [.vault p { v with mig := 1 }] }

/-- A PART_RESTORE of another step value than 2 to 4: any but 1 ends with ST_FORMAT. -/
def execPartRestoreOffer (seq : Nat) (s : State) : Next :=
  done (runOp 0x0107 (fun j => !stepIs 2 j && !stepIs 3 j && !stepIs 4 j) partOfferRun seq s)

/-- The sections of a body in order; `none` where one is cut off. `fuel` bounds them. -/
def sectionsOf : Nat → Bytes → Option (List (Nat × Bytes))
  | _, [] => some []
  | 0, _ => none
  | f + 1, b =>
    let n := leField b 4 4
    if b.length < 8 + n ∨ b.length < 8 ∨ !zeroAt b 1 4 then none
    else (sectionsOf f (b.drop (8 + n))).map fun r => ((byteAt b 0).toNat, slice b 8 n) :: r

/-- The contents of the sections of one type. -/
def sectionsAt (t : Nat) (xs : List (Nat × Bytes)) : List Bytes := (xs.filter fun x => x.1 == t).map (·.2)

/-- A node section is well formed: its length, a current node of the partition, a depth of 1 to 8. -/
def nodeSectionOk (p : Nat) (b : Bytes) : Bool :=
  let n := nodeOf b 0
  b.length == 128 + 128 * extSlots (leField b 12 2) && decide (128 ≤ b.length ∧ 16 ≤ leField b 12 2 ∧ leField b 12 2 ≤ 4096) &&
    n.state == .current && n.owner == p && decide (1 ≤ n.gen ∧ 1 ≤ n.depth ∧ n.depth ≤ 8 ∧ (byteAt b 49 = 3 ∨ byteAt b 49 = 5))

/-- Every section is well formed, with one configuration record and one master (R330). -/
def sectionsOk (p : Nat) (xs : List (Nat × Bytes)) : Bool :=
  xs.all (fun x => match x.1 with
    | 1 => x.2.length == 64 && (cfgOf p x.2).isSome
    | 2 => x.2.length == 36 && decide ((byteAt x.2 34).toNat ≤ 1) && byteAt x.2 35 == 0 && decide (1 ≤ leField x.2 32 2)
    | 3 => nodeSectionOk p x.2
    | 4 => x.2.length == 56 && decide (leField x.2 0 4 < 65536)
    | 5 => decide ((byteAt x.2 0).toNat ≤ 3) && zeroAt x.2 1 4 && curveLayout (x.2.drop 4)
    | 6 => x.2.length == 20 && decide ((byteAt x.2 0).toNat ≤ 15) && zeroAt x.2 1 4
    | _ => false) &&
  (sectionsAt 1 xs).length == 1 && (sectionsAt 2 xs).length == 1

/-- The partition holds no node, blob, context, curve or table. -/
def partEmpty (s : State) (p : Nat) : Bool :=
  let x := partAt s p
  !(s.mas.nodes.any fun e => e.2.owner == p && e.2.state != .free) && !(x.ctxs.any fun e => e.2.isSome) &&
    !(x.curves.any fun e => e.2.isSome) && !(x.dectabs.any fun e => e.2.isSome)

/-- A node index that partition `p` may take: free, resident, in its own range or in nobody else's. -/
def indexFits (s : State) (p i : Nat) : Bool :=
  let c := (partAt s p).cfg
  decide (1 ≤ i ∧ i < 0x1C000) && (nodeAt s i).state == .free && !((pendingSlots s).any fun x => decide (x.1 ≤ i ∧ i < x.1 + x.2)) &&
    (if c.rangeCount ≠ 0 then decide (c.rangeFirst ≤ i ∧ i < c.rangeFirst + c.rangeCount)
     else !((otherRanges s p).any fun r => decide (r.1 ≤ i ∧ i < r.1 + r.2)))

/-- Give each node its extension slots beside the node indices and the slots already given. -/
def placeAll (s : State) (p : Nat) : List (Nat × Nat) → List (Nat × Node) → Option (List (Nat × Node))
  | _, [] => some []
  | more, (i, n) :: r =>
    let k := extSlots n.material.length
    if k = 0 then (placeAll s p more r).map fun l => (i, { n with extFirst := 0, extCount := 0 }) :: l
    else match findSlots s p k more with
      | none => none
      | some e => (placeAll s p (more ++ [(e, k)]) r).map fun l => (i, { n with extFirst := e, extCount := k }) :: l

/-- PART_RESTORE step 2 (R331). -/
def partRestoreRun (j : Job) : Cmd Run := do
  let p := j.desc.par 56
  let v ← needFrozen j
  let items ← Cmd.some? (itemsOf j.input 2 3) stFormat
  let image := items.getD 0 []
  let head := image.take 1280
  let n := leField head 1272 4
  Cmd.need (image.length == 1280 + 16 + 3405 + n) stFormat
  Cmd.need (decide (3517 ≤ j.desc.outCap)) stFormat
  judge j 8 (16 + itemLen j.input 0 + itemLen j.input 1) (sha384B head) none
  let s ← get
  let (serial, _, k1, k2) ← Cmd.some? (Config.chainVerify (items.getD 1 [])) stVerifyFail
  let (offer, kem, ec) ← Cmd.some? (partAt s p).migr.offer stVerifyFail
  let signed := image.take (1280 + n + 16)
  Cmd.need (v.mig == 1 && hybridVerify k1 k2 signed (image.drop (1280 + n + 16)) && byteAt head 0 == 1 && byteAt head 1 == 2 &&
    (byteAt head 2).toNat == p && byteAt head 3 == 0 && slice head 4 16 == fit 16 serial && slice head 20 16 == jobSerial s j &&
    slice head 36 32 == slice offer 24 32 && zeroAt head 1269 1272 && zeroAt head 1276 1280) stVerifyFail
  let z ← Cmd.some? (p384Agree (beNat ec) (slice head 1172 97)) stInputRejected
  let ss := fit 32 (Config.kemDecaps 0x31 kem (slice head 84 1088))
  let k := exchangeKey ss z (sha384B (offer ++ head))
  let body ← Cmd.some? (gcmOpen k (zeros 12) head (slice image 1280 n) (slice image (1280 + n) 16)) stVerifyFail
  let xs ← Cmd.some? (sectionsOf body.length body) stFormat
  Cmd.need (sectionsOk p xs) stFormat
  let own := (partAt s p).cfg
  let c ← Cmd.some? (cfgOf p ((sectionsAt 1 xs).headD [])) stFormat
  let c := { c with base := own.base, size := own.size }
  let curves : Tab (Option Curve) := (sectionsAt 5 xs).foldl (fun t b => Tab.set none t (byteAt b 0).toNat (some (curveOf (b.drop 4)))) []
  let coded (b : Bytes) : Except W16 (Nat × Node) :=
    let m := nodeOf b 0
    let a := m.attrs
    if a.alg = chr 'R' ∨ a.alg = chr 'E' ∨ a.alg = chr '9' then
      (match materialCode curves a.usage a.alg m.material with
       | none => .error stFormat
       | some code => if materialValid curves code m.material then .ok (leField b 58 4, { m with attrs := { a with code := code } }) else .error stInputRejected)
    else .ok (leField b 58 4, m)
  let nodes ← Cmd.of ((sectionsAt 3 xs).mapM coded)
  Cmd.need (partEmpty s p && nodes.all (fun x => indexFits s p x.1) && decide ((nodes.map (·.1)).dedup.length = nodes.length)) stKeyVerifyFail
  Cmd.need (pinFits s p c) stStateReject
  Cmd.need (cacheFits s p c && (cfgsAhead s).all (fun x => x.1 == p || !overlaps c.rangeFirst c.rangeCount x.2.rangeFirst x.2.rangeCount)) stQuota
  let placed ← Cmd.some? (placeAll s p (nodes.map fun x => (x.1, 1)) nodes) stQuota
  let sec2 := (sectionsAt 2 xs).headD []
  let dig := imageDigest image
  let out ← signSlip 3 j (fit 16 serial) (slice offer 24 32) dig
  modify (modMigr p fun g => { g with offer := none, restored := some (fit 16 serial, slice offer 24 32, dig) })
  return { Run.output out with
    commits := [.vault p { v with master := some (sec2.take 32), gen := leField sec2 32 2, tdes := byteAt sec2 34 == 1, mig := 3 },
                .config p c] ++
      ((List.range 4).filterMap fun i => match Tab.get none curves i with | some c => some (.curve p i (some c)) | none => none) ++
      placed.map (fun x => .node x.1 x.2) ++
      (sectionsAt 4 xs).map (fun b => .ctx p (leField b 0 4) (ctxOf (b.drop 4) (BitVec.ofNat 32 (leField b 52 4)))) ++
      (sectionsAt 6 xs).map (fun b => .dectab p (byteAt b 0).toNat (slice b 4 16)),
    events := [⟨0x1E8, 17, [p, leNat (fit 16 serial), leNat dig]⟩] }

def execPartRestoreRestore (seq : Nat) (s : State) : Next := done (runOp 0x0107 (stepIs 2) partRestoreRun seq s)

/-- PART_RESTORE step 3 (R334). -/
def partActivateRun (j : Job) : Cmd Run := do
  let p := j.desc.par 56
  let v ← needFrozen j
  let items ← Cmd.some? (itemsOf j.input 3 2) stFormat
  let r := items.getD 0 []
  Cmd.need (r.length == 3517) stFormat
  let s ← get
  Cmd.need (v.mig == 3 && slipOk 4 p r (items.getD 1 []) && slice r 20 16 == jobSerial s j &&
    (match (partAt s p).migr.restored with
     | some (serial, n, d) => slice r 4 16 == serial && slice r 36 32 == n && slice r 68 32 == d
     | none => false)) stVerifyFail
  return { Run.output [] with
    commits := [.vault p { v with mig := 0, frozen := false }], events := [⟨0x1EA, 17, [p, leNat (slice r 4 16)]⟩] }

def execPartRestoreActivate (seq : Nat) (s : State) : Next := done (runOp 0x0107 (stepIs 3) partActivateRun seq s)

/-- PART_RESTORE step 4: without effect at MIG 0 (R334). -/
def partAbortRun (j : Job) : Cmd Run := do
  let p := j.desc.par 56
  let v ← needFrozen j
  let _ ← Cmd.some? (itemsOf j.input 4 1) stFormat
  judge j 8 16 (actionDigest j 16) none
  Cmd.need (v.mig != 2) stStateReject
  if v.mig = 0 then return Run.output []
  else return { Run.output [] with
    commits := [.vault p { v with mig := 0, master := if v.mig = 3 then none else v.master }], events := [⟨0x1EB, 17, [p, v.mig]⟩] }

def execPartRestoreAbort (seq : Nat) (s : State) : Next := done (runOp 0x0107 (stepIs 4) partAbortRun seq s)

/-! ## DMA of a function (R308, 20 R539) -/

/-- Fetching and waiting jobs of a partition proceed. -/
def dmaOn (p : Nat) (s : State) : State := progressAll (fun j => j.part == p) (flushHeld p s)

/-- BUS_MASTER_ENABLE_CLEAR. -/
def execBusMasterEnableClear (p : Fin 256) (s : State) : Next := done (modPart p (fun x => { x with bme := false }) s)

/-- BUS_MASTER_ENABLE_SET. -/
def execBusMasterEnableSet (p : Fin 256) (s : State) : Next := done (dmaOn p (modPart p (fun x => { x with bme := true }) s))

/-- D3HOT_ENTRY. -/
def execD3hotEntry (p : Fin 256) (s : State) : Next := done (modPart p (fun x => { x with d3hot := true }) s)

/-- D3HOT_EXIT. -/
def execD3hotExit (p : Fin 256) (s : State) : Next := done (dmaOn p (modPart p (fun x => { x with d3hot := false }) s))

end Sys2Proof.Machine
end

