-- ==== Sys2Proof/Machine/Journal.lean ====
section
/-!
DEFINITION. The journal's mark, host ring set-up and window (16 R447, R452 to R456) and the Scree event recorder (16 R458 to R468).
-/
namespace Sys2Proof.Machine

/-! ## The sequence mark (R447) -/

/-- MARK_RAISE: the next sequence has come within 2^31 of the mark. -/
def execMarkRaise (s : State) : Next :=
  if s.nv.mark.toNat ≤ 2 ^ 31 + s.jrn.next then done { s with nv := { s.nv with mark := s.nv.mark + 0x100000000 } } else done s

/-! ## Setting up host rings (R453; 18 R500, R503, R505) -/

/-- A write of size and enable to a host ring's configuration: the fields first, then the enable is judged (21 R562). While enabled, a
change of another field is refused: `same` says that the fields outside LOG2_SIZE would stay. -/
def ringCfg (ok : Bool) (same : Bool) (k : Nat) (en : Bool) (h : HostRing) : HostRing :=
  if h.en then { h with en := en, cfgErr := h.cfgErr || h.log2 != k || !same }
  else if !en then { h with log2 := k }
  else if ok then { h with log2 := k, en := true, count := 0 }
  else { h with log2 := k, cfgErr := true }

/-- Offset of a function's JRN set. -/
def jrnSet (p : Nat) : Nat := if p = 0 then 0xD0400 else 0x1C00

/-- JRN_HR_CFG_WRITE. -/
def execJrnHrCfgWrite (p : Fin 256) (value : W32) (s : State) : Next :=
  served s <|
  let x := partAt s p
  let k := bitsOf value.toNat 4 0
  let all := p.val == 0 && value.getLsbD 9
  let h := ringCfg (hostRingOk x.cfg p 10 24 k x.jrn.base.toNat 32) (all == x.jrnAll) k (value.getLsbD 8) x.jrn
  let s := modPart p (fun y => { y with jrn := h, jrnAll := if x.jrn.en then y.jrnAll else all }) s
  done (if h.en ∧ !x.jrn.en then note 0x282 22 [p, 1, k, b2n all] s
    else if !h.en ∧ x.jrn.en then note 0x282 22 [p, 2, h.log2, b2n x.jrnAll] s else s)

/-! ## The journal window (R452, R456) -/

/-- An entry a function may read. -/
def readable (s : State) (p : Nat) (e : Entry) : Bool := p == 0 || (e.part == p && decide ((partAt s p).createSeq ≤ e.seq))

/-- A search starts. -/
def startSearch (p : Nat) (q : Nat) (s : State) : State :=
  modPart p (fun x => { x with winSeq := BitVec.ofNat 64 q, winBusy := true }) s

/-- JRN_WIN_SEQ_WRITE: the upper-word write commits the sequence and starts the search. -/
def execJrnWinSeqWrite (p : Fin 256) (upper : W32) (s : State) : Next :=
  served s <|
  let off := jrnSet p + 0x18
  let v := commitValue s p off (partAt s p).winSeq.toNat upper
  done (startSearch p v (setStage p off none s))

/-- JRN_SEARCH_DONE: the first readable entry at or above the sequence is copied. RESULT 1 says that the sequence lay below the oldest
entry held. -/
def execJrnSearchDone (p : Fin 256) (s : State) : Next :=
  let x := partAt s p
  if !x.winBusy then done s
  else
    let old := match s.jrn.entries with | e :: _ => decide (x.winSeq.toNat < e.seq) | [] => false
    match s.jrn.entries.find? (fun e => decide (x.winSeq.toNat ≤ e.seq) && readable s p e) with
    | some e => done (modPart p (fun x => { x with winBusy := false, winResult := if old then 1 else 0, winEntry := entryBytes e }) s)
    | none => done (modPart p (fun x => { x with winBusy := false, winResult := 2, winEntry := [] }) s)

/-- JRN_WIN_ENTRY_READ: a read of bytes 24 to 31 of the copy starts the next search (log entry 63 for a copy of zero). -/
def execJrnWinEntryRead (p : Fin 256) (s : State) : Next :=
  served s <|
  let b := (partAt s p).winEntry
  done (startSearch p (leField b 0 8 + 1) (emit (.read p (jrnSet p + 0x58) (leField b 24 8)) s))

/-! ## Scree records (R458 to R464) -/

/-- Change Scree. -/
def modScr (f : Scree → Scree) (s : State) : State := { s with scr := f s.scr }

/-- Size of the ring. -/
def screeSize : Nat := 2 ^ 20

/-- The bytes of a record: header, stamp, payload (R458). -/
def recordBytes (x : ScreeItem) : Bytes :=
  let n := 12 + x.payload.length
  leBytes 4 (n / 4 * 2 ^ 24 + x.code * 2 ^ 12 + severityOf x.code * 2 ^ 8 + x.cluster) ++ leBytes 8 x.stamp.toNat ++ x.payload

/-- A byte of the ring at a position. -/
def screeByte (s : State) (pos : Nat) : Byte := Tab.get 0 s.scr.ring (pos % screeSize)

/-- The oldest position moves past whole records until `n` more bytes fit (R464). -/
def makeRoom (n : Nat) : Nat → State → State
  | 0, s => s
  | f + 1, s =>
    if s.scr.wrPos.toNat + n - s.scr.oldPos.toNat ≤ screeSize then s
    else
      let len := 4 * (screeByte s (s.scr.oldPos.toNat + 3)).toNat
      let old := s.scr.oldPos.toNat + Nat.max 12 len
      makeRoom n f (modScr (fun c => { c with
        oldPos := BitVec.ofNat 64 old, overrun := c.overrun || decide (c.ack.toNat < old),
        cursorLost := c.cursorLost || decide (c.cursor.toNat < old) }) s)

/-- The fill interrupt (R468). -/
def screeFill (s : State) : State :=
  if s.scr.armed && decide (4096 * Nat.max 1 s.scr.thresh ≤ s.scr.wrPos.toNat - s.scr.ack.toNat) then
    sendMsix 0 49 (modScr (fun c => { c with armed := false }) s)
  else s

/-- Close one record (R460). -/
def closeRecord (x : ScreeItem) (s : State) : State :=
  let bs := recordBytes x
  let s := makeRoom bs.length 64 s
  let pos := s.scr.wrPos.toNat
  screeFill (modScr (fun c => { c with
    ring := Tab.writeBytes 0 screeSize c.ring pos bs, wrPos := BitVec.ofNat 64 (pos + bs.length), gaps := c.gaps || x.code == 1 }) s)

/-- A FIFO. -/
def fifoAt (s : State) (c : Nat) : Fifo := Tab.get Fifo.empty s.scr.fifos c

/-- The FIFO served next: round-robin over those with items. -/
def nextFifo (s : State) : Option Nat := nextAfter 38 s.scr.last ((List.range 38).filter fun c => (fifoAt s c).items ≠ [])

/-- GAP (R461, R463). -/
def gapItem (c : Nat) (f : Fifo) : ScreeItem :=
  { code := 1, stamp := f.firstLoss, cluster := 0xFF, payload := leBytes 4 f.lost ++ [BitVec.ofNat 8 c] ++ zeros 3 }

/-- The oldest item leaves a FIFO; a loss enters as a GAP before any new item (R461). -/
def fifoTake (c : Nat) (f : Fifo) : Fifo :=
  if f.lost = 0 then { f with items := f.items.drop 1 }
  else { items := f.items.drop 1 ++ [gapItem c f], lost := 0, firstLoss := 0 }

/-- SCREE_RECORD_CLOSE: the writer takes the next item and closes its record; SCREE_FROZEN goes first after a freeze. -/
def execScreeRecordClose (s : State) : Next :=
  if s.scr.frozen.isSome then done s
  else match s.scr.thawRecord with
    | some x => done (closeRecord x (modScr (fun c => { c with thawRecord := none }) s))
    | none => match nextFifo s with
      | none => done s
      | some c => match (fifoAt s c).items with
        | [] => done s
        | x :: _ => done (closeRecord x (modScr (fun r => { r with fifos := Tab.modify Fifo.empty r.fifos c (fifoTake c), last := c }) s))

/-! ## Rate limits (R462) -/

/-- The limiter of a code. -/
def codeAt (s : State) (code : Nat) : CodeState := Tab.get CodeState.reset s.scr.codes code
/-- Change it. -/
def modCode (code : Nat) (f : CodeState → CodeState) (s : State) : State :=
  modScr (fun c => { c with codes := Tab.modify CodeState.reset c.codes code f }) s

/-- Time between two tokens, ns. -/
def tokenNs (c : CodeState) : Nat := ceilDiv 10000000 (rateOf c)

/-- TOKEN_REFILL: a bucket below its capacity gains a token. -/
def execTokenRefill (code : BitVec 12) (s : State) : Next :=
  let c := codeAt s code.toNat
  if c.spent = 0 ∨ s.time.mono < c.refilled + tokenNs c then done s
  else done (modCode code.toNat (fun c => { c with spent := c.spent - 1, refilled := c.refilled + tokenNs c }) s)

/-- SUPPRESSED: 10 ms after an episode opened its summary enters the FIFO of the source that opened it, once there is room. -/
def execSuppressed (code : BitVec 12) (s : State) : Next :=
  match (codeAt s code.toNat).episode with
  | none => done s
  | some (t, n, first, last, cl) =>
    let f := fifoAt s cl
    if s.time.mono < 10000000 + t ∨ 16 ≤ f.items.length ∨ f.lost ≠ 0 then done s
    else
      let x : ScreeItem := {
        code := 2, stamp := first, cluster := 0xFF, payload := leBytes 2 code.toNat ++ zeros 2 ++ leBytes 4 n ++ leBytes 8 last.toNat }
      done (screePut cl x (modCode code.toNat (fun c => { c with episode := none }) s))

/-! ## Freeze (R466) and acknowledgement (R468) -/

/-- SCR_CTRL_FREEZE. -/
def execScrCtrlFreeze (s : State) : Next := openTo s <|
  if s.scr.frozen.isSome then done s else done (modScr (fun c => { c with frozen := some (s.time.mono, stamp s) }) s)

/-- A freeze ends: SCREE_FROZEN is the first record written afterwards. -/
def endFreeze (cause : Byte) (s : State) : State :=
  match s.scr.frozen with
  | none => s
  | some (t, st) => modScr (fun c => { c with
      frozen := none, thawRecord := some {
        code := 3, stamp := st, cluster := 0xFF, payload := leBytes 4 ((s.time.mono - t) / 1000) ++ [cause] ++ zeros 3 } }) s

/-- SCR_CTRL_THAW. -/
def execScrCtrlThaw (s : State) : Next := openTo s <| done (endFreeze 1 s)

/-- FREEZE_MAX_EXPIRY. -/
def execFreezeMaxExpiry (s : State) : Next :=
  match s.scr.frozen with
  | none => done s
  | some (t, _) => if s.time.mono < t + 1000000 * clampTo 1 1000 s.scr.freezeMax then done s else done (endFreeze 2 s)

/-- SCR_ACK_WRITE: the upper-word write commits the acknowledged position, at most SCR_WR_POS (21 R556), and rearms the fill interrupt. -/
def execScrAckWrite (upper : W32) (s : State) : Next := openTo s <|
  let v := commitValue s 0 0xE0030 s.scr.ack.toNat upper
  let v := Nat.min v s.scr.wrPos.toNat
  done (screeFill (setStage 0 0xE0030 none (modScr (fun c => { c with ack := BitVec.ofNat 64 v, armed := true }) s)))

end Sys2Proof.Machine
end

