-- ==== Sys2Proof/Machine/Reset.lean ====
section
/-!
DEFINITION. What a module reset keeps and loses (19 R525, R526; 11 R310), the start that follows it, the close of a debug session (14
R404), the evidence register and counter (13 R380, R381, R384).
-/
namespace Sys2Proof.Machine

/-! ## Stage words under way (14 R393, R396) -/

/-- The first `n` ones of a pattern, from the lowest upward. -/
def partialPattern (p n : Nat) : Nat := (((List.range 32).filter p.testBit).take n |>.map fun i => 2 ^ i).sum

/-- What a stage word reads: 10 µs for each bit already written. -/
def stageShown (s : State) (k : Nat) : Nat :=
  match s.nv.writing with
  | some (w, t) => if w = k then partialPattern (stagePattern k) ((s.time.mono - t) / 10000) else stageAt s k
  | none => stageAt s k

/-- The writing of a stage word stops where it stands. -/
def stopWriting (s : State) : State :=
  match s.nv.writing with
  | some (w, _) => { s with nv := { s.nv with writing := none, stage := Tab.set (0 : W32) s.nv.stage w (BitVec.ofNat 32 (stageShown s w)) } }
  | none => s

/-! ## Module reset -/

/-- The main domain is lost: the vault die, the retention cells, OTP and flash, the always-on domain and the levels of the pins stay. The
model's monotonic count goes on, so that intervals of the vault die keep their length (log entry 60). -/
def coldMain (s : State) : State :=
  let r := State.reset
  let s := stopWriting s
  let keep (x : Nat × VaultPart) : Option (Nat × Part) :=
    if x.1 = 0 then some (0, Part.custodian)
    else if x.2.exists_ ∧ x.2.mig = 2 then
      some (x.1, { Part.reset with migr := { Migration.none_ with images := (partAt s x.1).migr.images } })
    else none
  { r with
    time := { r.time with mono := s.time.mono }
    parts := s.vault.parts.filterMap keep
    vault := s.vault
    nv := s.nv
    tmp := { s.tmp with mons := Tab.set Monitor.quiet (Tab.set Monitor.quiet s.tmp.mons 1 Monitor.quiet) 3 Monitor.quiet }
    tarn := { r.tarn with live := s.tarn.live }
    pair := { r.pair with inhibit := s.pair.inhibit, inhibitAt := s.pair.inhibitAt, posB := s.pair.posB }
    pwr := { r.pwr with main := s.pwr.main, aux := s.pwr.aux, perst := s.pwr.perst, qPin := s.pwr.qPin, mon := s.pwr.mon }
    smb := s.smb
    out := s.out
    freeCtr := s.freeCtr
    pending := s.pending }

/-- A start begins: t0 is now, and slot 0 is switched first (19 R510, R516). -/
def beginStart (posB fuseOk pufOk : Bool) (s : State) : State :=
  { s with
    pair := { s.pair with posB := posB }
    time := { s.time with srcSince := s.time.mono }
    cirq := { s.cirq with window := s.time.mono }
    tarn := { s.tarn with errPair := some (false, true) }
    pwr := { s.pwr with
      perst := false, t0 := s.time.mono, bootAt := s.time.mono, phase := 2, slot := 0, domains := 3, rootFuse := fuseOk, rootPuf := pufOk } }

/-- The core die restarts, with the start-up that follows (14 R404). -/
def restart (s : State) : State := beginStart s.pair.posB s.pwr.rootFuse s.pwr.rootPuf (coldMain s)

/-! ## Debug sessions (14 R404) -/

/-- A secret-adjacent right is held. -/
def secretRights (r : BitVec 11) : Bool := r.getLsbD 8 || r.getLsbD 9 || r.getLsbD 10

/-- The session closes: event 0x245; one that held a secret-adjacent right, or replaced one that did, ends with a restart. -/
def closeDebug (cause : Nat) (s : State) : State :=
  if !s.dbg.open_ then s
  else
    let secret := s.dbg.restart
    let s := note 0x245 20 [cause, b2n s.dbg.marked] { s with dbg := Debug.closed }
    if secret then restart s else s

/-! ## The evidence counter (13 R381, R384) -/

/-- A copy's count: the set bits from bit 0 upward. -/
def thermo (v : BitVec 2048) : Nat := ((List.range 2048).takeWhile fun i => v.getLsbD i).length

/-- A copy has a set bit above a clear one. -/
def ragged (v : BitVec 2048) : Bool := (List.range 2048).any fun i => decide (thermo v < i) && v.getLsbD i

/-- The evidence count reported: copy B's, or the larger where the copies disagree. -/
def evCount (s : State) : Nat :=
  if s.tmp.mismatch then Nat.max (thermo s.nv.otpA) (thermo s.nv.otpB) else thermo s.nv.otpB

/-- One burn: the next bit of copy A, then the same of copy B. A full counter takes none (R385). -/
def burnOnce (s : State) : State :=
  let n := thermo s.nv.otpA
  if 2048 ≤ n then s
  else { s with nv := { s.nv with otpA := s.nv.otpA ||| BitVec.ofNat 2048 (2 ^ n), otpB := s.nv.otpB ||| BitVec.ofNat 2048 (2 ^ n) } }

/-- Event 0x225. -/
def noteBurn (cause : Nat) (s : State) : State := note 0x225 19 [thermo s.nv.otpA, thermo s.nv.otpB, cause] s

/-! ## The evidence register (13 R380) -/

/-- What feeds the vault die: 0 main power, 1 cells, 2 the holdup capacitor. -/
def vaultPower (s : State) : Nat := if s.pwr.main then 0 else if s.tmp.holdup.isSome then 2 else 1

/-- A cell is present: in place and above 1.5 V (R382). -/
def Cell.present (c : Cell) : Bool := c.state == 0 || c.state == 2

/-- The vault die has power. -/
def vaultAlive (s : State) : Bool := s.pwr.main || s.tmp.holdup.isSome || s.tmp.cellA.state != 1 || s.tmp.cellB.state != 1

/-- Write an entry; with 16 held the oldest goes and the overflow count rises. -/
def evWrite (e : Evidence) (s : State) : State :=
  if s.nv.evreg.length < 16 then { s with nv := { s.nv with evreg := s.nv.evreg ++ [e] } }
  else { s with nv := { s.nv with evreg := s.nv.evreg.drop 1 ++ [e], evOvf := satAdd 255 s.nv.evOvf 1 } }

/-- The 16 bytes of an entry. -/
def evBytes (e : Evidence) : Bytes :=
  [BitVec.ofNat 8 e.monitor, BitVec.ofNat 8 e.response, BitVec.ofNat 8 e.power, BitVec.ofNat 8 (flagAt e.burn 0 + flagAt e.unread 1)] ++
  leBytes 4 e.secs.toNat ++ leBytes 8 e.stamp.toNat

/-- Burns pending. -/
def pendingBurns (s : State) : Nat := (s.nv.evreg.filter (·.burn)).length

end Sys2Proof.Machine
end

