-- ==== Sys2Proof/Machine/Rng.lean ====
section
/-!
DEFINITION. The random service (10_random_service.md): sources and their tests, the pool, the start-up collection, reseeds, and RANDOM.
-/
namespace Sys2Proof.Machine

/-! ## Sources -/

/-- Source `i`. -/
def sourceAt (s : State) (i : Nat) : Source := Tab.get Source.start s.rng.sources i
/-- Change the random service. -/
def modRng (f : Rng → Rng) (s : State) : State := { s with rng := f s.rng }
/-- Change a source. -/
def modSource (i : Nat) (f : Source → Source) (s : State) : State :=
  modRng (fun r => { r with sources := Tab.modify Source.start r.sources i f }) s

/-- Sources in service, as bits (R304). -/
def sourceBits (s : State) : Nat := ((List.range 3).map fun i => flagAt ((sourceAt s i).state == 1) i).sum
/-- How many sources are in service. -/
def sourcesUp (s : State) : Nat := ((List.range 3).filter fun i => (sourceAt s i).state == 1).length

/-- Credit of a source in 1/2000 bit at 500 kbit/s since a moment, counted for at most 384 bits (R286, R288). -/
def credit (s : State) (i since now : Nat) : Nat :=
  if (sourceAt s i).state = 1 then Nat.min (384 * 2000) (now - Nat.max since (sourceAt s i).since) else 0

/-- The block in progress and a held block are discarded (R287). -/
def discardBlock (s : State) : State := modRng (fun r => { r with heldBlock := none, blockAt := s.time.mono }) s

/-- The jobs that wait for a draw or an explicit reseed. -/
def drawWaits (s : State) : List Nat :=
  (s.jobs.filter fun j => !j.fwd && (j.phase == .waitRandom || s.rng.explicit.contains j.seq)).map (·.seq)

/-- The service stops: waiting draws end, every instance is marked reseed-required, the pool is zeroised (R300). -/
def entropyStop (s : State) : State :=
  let qs := drawWaits s
  let s := endJobs qs stEntropyFault .ran s
  let s := modRng (fun r => { r with
    state := 3, pool := [], heldBlock := none, explicit := [],
    drbg := r.drbg.map fun x => (x.1, { x.2 with required := true }) }) s
  note 0x1C3 16 [sourceBits s, qs.length] s

/-- A source leaves service: its block is discarded, Tarn RNG is raised, and the service goes on with two (R287, R300). -/
def sourceOut (i cause attempt : Nat) (s : State) : State :=
  let s := modSource i (fun x => { x with state := 2, cause := cause }) s
  let s := tarnOpen 30 1 i false (note 0x1C2 16 [i, cause, attempt] (discardBlock s))
  if s.rng.state = 1 ∨ s.rng.state = 2 then
    (if sourcesUp s = 2 then modRng (fun r => { r with state := 2 }) s else entropyStop s)
  else if ((List.range 3).filter fun k => (sourceAt s k).state != 2).length ≤ 1 then modRng (fun r => { r with state := 3 }) s
  else s

/-- RNG_STARTUP_TEST_DONE: the start-up test of a source ends. At power-up it is tried three times, and a third failure stops the start
(R287, R293). -/
def execRngStartupTestDone (source : Fin 3) (pass : Bool) (s : State) : Next :=
  let i := source.val
  let x := sourceAt s i
  if x.state ≠ 0 ∨ !domainOn s 6 then done s
  else if pass then
    let s := modSource i (fun x => { x with state := 1, since := s.time.mono }) s
    let s := if x.again then note 0x1C5 16 [i] s else s
    done (if s.rng.state = 2 ∧ sourcesUp s = 3 then modRng (fun r => { r with state := 1 }) s else s)
  else if x.again then done (sourceOut i 3 1 s)
  else if x.tries < 2 then
    done (note 0x1C2 16 [i, 3, x.tries + 1] (modSource i (fun x => { x with tries := x.tries + 1, cause := 3 }) s))
  else done (startStop 2 30 (sourceOut i 3 3 (modSource i (fun x => { x with tries := 3 }) s)))

/-- RNG_SOURCE_FAIL: a source in service fails its RCT or APT. -/
def execRngSourceFail (source : Fin 3) (apt : Bool) (s : State) : Next :=
  let i := source.val
  if (sourceAt s i).state ≠ 1 ∨ !domainOn s 6 then done s
  else
    let s := modSource i (fun x => { x with
      rctFails := if apt then x.rctFails else satAdd 0xFFFF x.rctFails 1, aptFails := if apt then satAdd 0xFFF x.aptFails 1 else x.aptFails }) s
    done (sourceOut i (if apt then 2 else 1) 0 s)

/-- RNG_CTRL_RESTART: the named sources that are out of service are restarted; after a stop, the collection begins once none is out
(R287, R301). -/
def execRngCtrlRestart (value : W32) (s : State) : Next := served s <|
  let s := (List.range 3).foldl (fun s i =>
    if bitOf value.toNat i && (sourceAt s i).state == 2 then modSource i (fun x => { x with state := 0, again := true }) s else s) s
  if s.rng.state = 3 ∧ (List.range 3).all (fun i => (sourceAt s i).state != 2) then
    let now := s.time.mono
    let s := modRng (fun r => { r with state := 0, began := now, blockAt := now }) s
    done ((List.range 3).foldl (fun s i => modSource i (fun x => { x with since := now }) s) s)
  else done s

/-! ## Blocks and the pool (R288 to R290) -/

/-- A closed block conditioned: SHA-384 over the raw bits and the block counter. -/
def conditioned (raw : Bytes) (counter : Nat) : Bytes := sha384B (raw ++ leBytes 8 counter)

/-- Condition a block into the pool. -/
def poolIn (raw : Bytes) (s : State) : State :=
  modRng (fun r => { r with pool := r.pool ++ [conditioned raw r.counter], counter := r.counter + 1, blockAt := s.time.mono }) s

/-- RNG_BLOCK_CLOSE: the block in progress reaches 512 bits of credit: it enters the pool, or is held while that is full. -/
def execRngBlockClose (raw : Bytes) (s : State) : Next :=
  let c := ((List.range 3).map fun i => credit s i s.rng.blockAt s.time.mono).sum
  if (s.rng.state ≠ 1 ∧ s.rng.state ≠ 2) ∨ c < 512 * 2000 ∨ s.rng.heldBlock.isSome then done s
  else if s.rng.pool.length < 16 then done (poolIn raw s)
  else done (modRng (fun r => { r with heldBlock := some raw }) s)

/-- Take the oldest block: a held block is conditioned and enters at once (R290). -/
def poolOut (s : State) : Bytes × State :=
  let b := s.rng.pool.headD []
  let s := modRng (fun r => { r with pool := r.pool.drop 1 }) s
  match s.rng.heldBlock with
  | some raw => (b, poolIn raw (modRng (fun r => { r with heldBlock := none }) s))
  | none => (b, s)

/-! ## Reseeds (R297 to R299) -/

/-- The instance a scheduled reseed serves next: at the ceiling first, then the largest count past 2^16. -/
def reseedNext (s : State) : Option Nat :=
  let asks := s.rng.drbg.filter fun x => x.2.up && x.2.pending
  asks.foldl (fun b x => match b with
    | none => some x.1
    | some k => if (instAt s k).count < x.2.count then some x.1 else some k) none

/-- The explicit reseed served next: round-robin over partitions, oldest first in each. -/
def explicitNext (s : State) : Option Job :=
  let js := s.rng.explicit.filterMap (findJob s)
  let dist (p : Nat) : Nat := (p + 255 - s.rng.explicitLast) % 256
  bestBy (fun a b => if a.part ≠ b.part then decide (dist a.part < dist b.part) else decide (a.seq < b.seq)) js

/-- RNG_RESEED: one reseed, of one pool block. -/
def execRngReseed (s : State) : Next :=
  if !rngServing s ∨ s.rng.pool = [] then done s
  else match reseedNext s with
    | some i =>
      let (b, s) := poolOut s
      done (setInst i ((instAt s i).reseed b) s)
    | none =>
      if s.rng.pool.length ≤ clampTo 2 8 s.rng.reserve then done s
      else match explicitNext s with
        | none => done s
        | some j =>
          let (b, s) := poolOut s
          let s := setInst j.part ((instAt s j.part).reseed b) s
          done (modRng (fun r => { r with explicit := r.explicit.filter (· != j.seq), explicitLast := j.part }) s)

/-! ## Ready (R291, R301) -/

/-- Each pair had earned 512 bits of credit 13 µs ago. -/
def pairsReady (s : State) : Bool :=
  let c (i : Nat) := credit s i s.rng.began (s.time.mono - 13000)
  (List.range 3).all (fun i => (sourceAt s i).state == 1) &&
    decide (512 * 2000 ≤ c 0 + c 1 ∧ 512 * 2000 ≤ c 0 + c 2 ∧ 512 * 2000 ≤ c 1 + c 2)

/-- Seed or reseed an instance from the seed instance (R295, R301). -/
def seedInst (s : State) (i : Nat) : State :=
  if (instAt s i).up then
    let (e, s) := drawInst 260 seedLen s
    setInst i ((instAt s i).reseed e) s
  else instantiateInst i s

/-- RNG_READY: a full collection has passed: the seed instance, then every other. -/
def execRngReady (raw : Bytes) (s : State) : Next :=
  if s.rng.state ≠ 0 ∨ !pairsReady s then done s
  else
    let e := conditioned raw s.rng.counter
    let seed := if (instAt s 260).up then (instAt s 260).reseed e else Drbg.instantiate e []
    let s := setInst 260 seed (modRng (fun r => { r with state := 1, counter := r.counter + 1, blockAt := s.time.mono }) s)
    let s := (List.range 260).foldl seedInst s
    let s := if s.pwr.ready then s else { s with pwr := { s.pwr with phase := Nat.max 7 s.pwr.phase } }
    done (note 0x1C1 16 [(s.time.mono - s.rng.began) / 1000, sourceBits s] s)

/-! ## RANDOM (R296, R299) -/

/-- RANDOM: one request of the output capacity; byte 56 bit 0 asks for a reseed before it. -/
def randomRun (j : Job) : Cmd Run := do
  Cmd.of (noIn j)
  let s ← get
  if bitOf (j.desc.par 56) 0 && !j.fwd then
    Cmd.need (instServes s j.part) stEntropyFault
    if s.rng.explicit.contains j.seq then Cmd.hold
    else if j.phase == .running then
      modify (modRng fun r => { r with explicit := r.explicit ++ [j.seq] })
      Cmd.hold
  return Run.output (← draw j.seq j.part j.desc.outCap)
where
  /-- It takes no input (log entry 35). -/
  noIn (j : Job) : Except W16 Unit := need (j.desc.inLen == 0) stFormat

/-- RANDOM. -/
def execRandom (seq : Nat) (s : State) : Next := done (runOp 0x0801 anyJob randomRun seq s)

end Sys2Proof.Machine
end

