-- ==== Sys2Proof/Machine/Tamper.lean ====
section
/-!
DEFINITION. Tamper monitors, responses and zeroisation (13_tamper_and_zeroisation.md), cells and their service window (12 R358), POLICY_SET
area 1, and the TMP commands.
-/
namespace Sys2Proof.Machine

/-! ## Policy (R371, R386) -/

/-- The default entry: response, N, W in µs. -/
def policyDefault (e : Nat) : Policy :=
  match e with
  | 0 => { response := 4, n := 1, w := 0 }
  | 1 => { response := 3, n := 4, w := 10000 }
  | 2 => { response := 3, n := 3, w := 1000000 }
  | 3 => { response := 3, n := 2, w := 1000 }
  | 4 => { response := 4, n := 1, w := 0 }
  | _ => { response := 1, n := 1, w := 0 }

/-- The policy in force for an entry. -/
def policyAt (s : State) (e : Nat) : Policy := (Tab.get none s.vault.policy e).getD (policyDefault e)

/-- The permitted and certified values of an entry. -/
def policyOk (e : Nat) (p : Policy) : Bool :=
  match e with
  | 0 => decide (3 ≤ p.response ∧ p.response ≤ 4 ∧ p.n = 1 ∧ p.w = 0)
  | 1 => decide (2 ≤ p.response ∧ p.response ≤ 4 ∧ 1 ≤ p.n ∧ p.n ≤ 8 ∧ 1000 ≤ p.w ∧ p.w ≤ 100000)
  | 2 => decide (2 ≤ p.response ∧ p.response ≤ 4 ∧ 1 ≤ p.n ∧ p.n ≤ 4 ∧ 100000 ≤ p.w ∧ p.w ≤ 10000000)
  | 3 => decide (2 ≤ p.response ∧ p.response ≤ 4 ∧ 1 ≤ p.n ∧ p.n ≤ 4 ∧ 100 ≤ p.w ∧ p.w ≤ 10000)
  | 4 => decide (3 ≤ p.response ∧ p.response ≤ 4 ∧ 1 ≤ p.n ∧ p.n ≤ 2 ∧ 1000 ≤ p.w ∧ p.w ≤ 100000)
  | _ => decide (1 ≤ p.response ∧ p.response ≤ 4 ∧ p.n = 1 ∧ p.w = 0)

/-- An entry of the POLICY_SET input. -/
def policyEntry (b : Bytes) : Policy := { response := (byteAt b 0).toNat, n := (byteAt b 1).toNat, w := leField b 4 4 }

/-- POLICY_SET area 1. -/
def policyTamperRun (j : Job) : Cmd Run := do
  let inp := j.input
  Cmd.need (decide (64 ≤ inp.length)) stFormat
  judge j 6 64 (actionDigest j 64) none
  let es := (List.range 7).map fun i => slice inp (8 * i) 8
  let ps := es.map policyEntry
  Cmd.need (zeroAt inp 56 64 && es.all (fun e => zeroAt e 2 4) && (List.range 7).all fun i => policyOk i (ps.getD i (policyDefault 5))) stFormat
  return { Run.output [] with commits := [.policy ps], events := [⟨0x226, 19, [leField (sha256Head 4 (inp.take 56)) 0 4]⟩] }

def execPolicySetTamper (seq : Nat) (s : State) : Next := done (runOp 0x010D (fun j => j.desc.par 56 == 1) policyTamperRun seq s)

/-! ## Zeroisation (R374 to R377) -/

/-- Jobs that wait to commit would write after the clear: they end (log entry 61). -/
def endCommitting (s : State) : State :=
  endJobs ((s.jobs.filter fun j => decide (j.commits ≠ []) && !j.ended && !j.copied).map (·.seq)) stSuspended .reset s

/-- The working scope. -/
def zeroiseWorking (s : State) : State :=
  let s := dropForwarded (endCommitting s)
  let s := endJobs (drawWaits s) stEntropyFault .ran s
  let now := s.time.mono
  let lost := (List.range 3).any fun i => (sourceAt s i).state == 2
  { s with
    mas := { s.mas with nodes := [], blobs := [], cache := [] }
    parts := s.parts.map fun x => (x.1, { x.2 with ctxs := [], curves := [], dectabs := [], tr34 := [] })
    rng := { s.rng with
      drbg := [], pool := [], heldBlock := none, explicit := [], state := if lost then 3 else 0, began := now, blockAt := now }
    vault := { s.vault with
      load := none, parts := s.vault.parts.map fun x => (x.1, if x.2.frozen then { x.2 with lost := true } else x.2) }
    cust := { s.cust with sessions := [], challenges := [] } }

/-- A partition 1 to 255 whose vault record is gone: its rings are off; completions still owed are written (R372). -/
def partGone (x : Nat × Part) : Nat × Part :=
  if x.1 = 0 then x
  else (x.1, { Part.reset with bme := x.2.bme, d3hot := x.2.d3hot, cnt := x.2.cnt, resetting := x.2.resetting, jrn := x.2.jrn, cfg := { PartCfg.afterStart with base := x.2.cfg.base, size := x.2.cfg.size } })

/-- The vault scope: partitions 1 to 255 become ABSENT, custodians, rules, window and policy go, the custodian key store is to be erased. -/
def zeroiseVault (s : State) : State :=
  { s with
    vault := { s.vault with
      parts := [(0, { VaultPart.absent with exists_ := true })], custodians := [], rules := [], window := none, load := none, policy := [] }
    nv := { s.nv with keyStoreErase := true }
    parts := s.parts.map partGone
    rings := s.rings.map fun x => if x.1 / 16 = 0 then x else (x.1, { x.2 with en := false })
    eng := { s.eng with colour := [] } }

/-- A zeroisation of scope 3 or 4 begins, or one under way widens: with main power off only the vault scope is there to clear. -/
def zeroise (scope cause : Nat) (s : State) : State :=
  if !s.pwr.main then { zeroiseVault s with vault := { (zeroiseVault s).vault with zeroisePending := true } }
  else
    let s := detach 3 s
    let s := zeroiseWorking s
    let s := if scope = 4 then zeroiseVault s else s
    let z := match s.tmp.zeroising with
      | some (k, t, c) => (Nat.max k scope, t, c)
      | none => (scope, s.time.mono, cause)
    { s with tmp := { s.tmp with zeroising := some z }, vault := { s.vault with zeroisePending := true } }

/-- ZEROISE_READBACK_DONE: every cleared location has been read back (R375). -/
def execZeroiseReadbackDone (ok : Bool) (s : State) : Next :=
  if !domainOn s 4 then done s else
  match s.tmp.zeroising with
  | none => done s
  | some (k, t, c) =>
    let s := { s with tmp := { s.tmp with zeroising := none }, vault := { s.vault with zeroisePending := false } }
    let s := note 0x223 19 [k, (s.time.mono - t) / 1000, b2n ok, c] s
    done (if ok then s else tarnOpen 37 1 0 false s)

/-! ## Responses (R370 to R372, R378, R379) -/

/-- The effects of a response (R370): SUSPEND stops service and gives up the role (R372; 15 R416). -/
def applyResponse (r : Nat) (s : State) : State :=
  if r = 0 then s
  else
    let s := { s with tmp := { s.tmp with alarm := true, level := Nat.max s.tmp.level r } }
    let s := if 2 ≤ r then giveUpRole (suspendJobs { s with tmp := { s.tmp with suspended := true } }) else s
    if 3 ≤ r then zeroise r 1 s else s

/-- A tamper event's response with main power: SUSPEND and more close a debug session (14 R404). -/
def respond (r : Nat) (s : State) : State :=
  let s := applyResponse r s
  if 2 ≤ r then closeDebug 3 s else s

/-- The response of a monitor entry as the life cycle and a full counter leave it (R385; 14 R391). -/
def responseOf (s : State) (r : Nat) : Nat :=
  if lcCode s ≤ 1 then 0 else if 2048 ≤ thermo s.nv.otpA then Nat.max 2 r else r

/-- An event (R369): an evidence entry, a burn, the records, the response. `reg` is its entry in the evidence register, `conf` the
configured response, `ev` the Scree event from the applied response and the count. -/
def tamperEvent (reg conf : Nat) (ev : Nat → Nat → Nat × List Nat) (s : State) : State :=
  if !vaultAlive s then s
  else
    let r := responseOf s conf
    let main := s.pwr.main
    let factory := decide (lcCode s ≤ 1)
    let applied := if main then r else if 2 ≤ r then 4 else r
    let full := decide (2048 ≤ thermo s.nv.otpA)
    let served := main || decide (0 < s.nv.reservoir)
    let e : Evidence := {
      monitor := reg, response := applied, power := vaultPower s, burn := !factory && !full && !served, unread := true, secs := s.nv.secs,
      stamp := if main then stamp s else 0 }
    let s := evWrite e s
    let burns := !factory && !full && served
    let s := if burns then burnOnce s else s
    let s := if burns && !main then { s with nv := { s.nv with reservoir := s.nv.reservoir - 1 } } else s
    if main then
      let (code, fields) := ev applied (evCount s)
      let s := note code 19 fields s
      let s := if burns then noteBurn 1 s else s
      respond r (sendMsix 0 53 s)
    else if 2 ≤ r then zeroise 4 1 s
    else s

/-- Event 0x221. -/
def tamperEv (entry : Nat) (a b : Bool) (conf applied count : Nat) : Nat × List Nat := (0x221, [entry, b2n a, b2n b, conf, applied, count])

/-! ## Monitors (R366, R367, R369) -/

/-- A monitor's state. -/
def monAt (s : State) (m : Nat) : Monitor := Tab.get Monitor.quiet s.tmp.mons m
/-- Change it. -/
def modMon (m : Nat) (f : Monitor → Monitor) (s : State) : State :=
  { s with tmp := { s.tmp with mons := Tab.modify Monitor.quiet s.tmp.mons m f } }

/-- The monitor is watched: rails and clock only with main power (R379). -/
def monWatched (s : State) (m : Nat) : Bool := vaultAlive s && (s.pwr.main || (m != 1 && m != 3))

/-- MONITOR_EXCURSION: the levels of a monitor's detectors; a trip of either counts, and N within W is an event. -/
def execMonitorExcursion (monitor : Fin 5) (detA detB : Bool) (s : State) : Next :=
  let m := monitor.val
  if !monWatched s m then done s
  else if !detA && !detB then done (modMon m (fun x => { x with a := false, b := false }) s)
  else
    let p := policyAt s m
    let now := s.time.mono
    let times := ((monAt s m).times.filter fun t => decide (now < t + 1000 * p.w)) ++ [now]
    if times.length < p.n then done (modMon m (fun _ => { a := detA, b := detB, times := times }) s)
    else done (tamperEvent m p.response (tamperEv m detA detB p.response) (modMon m (fun _ => { a := detA, b := detB, times := [] }) s))

/-- Agreement time of a pair, ms (R367). -/
def agreeMs (m : Nat) : Nat :=
  match m with
  | 0 => 20 | 1 => 1 | 2 => 3000 | 3 => 1 | 4 => 30 | _ => 300

/-- A monitor fault: policy entry 6, event 0x222. -/
def monitorFault (m det ms : Nat) (s : State) : State :=
  let s := if s.pwr.main then { s with tmp := { s.tmp with monFault := true } } else s
  tamperEvent 6 (policyAt s 6).response (fun _ _ => (0x222, [m, det, ms])) s

/-- DETECTOR_DISAGREEMENT: one detector of a pair has been tripped alone for longer than the agreement time. -/
def execDetectorDisagreement (monitor : Fin 6) (detA : Bool) (s : State) : Next :=
  let m := monitor.val
  if !monWatched s m then done s
  else done (monitorFault m (if detA then 0 else 1) (agreeMs m) (modMon m (fun x => { x with a := detA, b := !detA }) s))

/-- TAMPER_CLOCK_FAULT: the controller runs on the remaining clock (R367). -/
def execTamperClockFault (clockB : Bool) (s : State) : Next :=
  if !vaultAlive s || !(if clockB then s.tmp.clockB else s.tmp.clockA) then done s
  else done (monitorFault 6 (b2n clockB) 0 { s with tmp :=
    if clockB then { s.tmp with clockB := false } else { s.tmp with clockA := false } })

/-! ## Cells (R368, R382, R383; 12 R358) -/

/-- A cell of the bay. -/
def cellAt (s : State) (b : Bool) : Cell := if b then s.tmp.cellB else s.tmp.cellA
/-- Set it. -/
def setCell (b : Bool) (c : Cell) (s : State) : State :=
  { s with tmp := if b then { s.tmp with cellB := c } else { s.tmp with cellA := c } }

/-- The service window covers a cell. -/
def windowCovers (s : State) (b : Bool) : Bool :=
  match s.vault.window with
  | some w => w.cells.testBit (b2n b) && decide (s.time.mono < w.until_)
  | none => false

/-- A cell-change record. -/
def noteCell (b : Bool) (what : Nat) (s : State) : State :=
  if s.pwr.main then note 0x224 19 [b2n b, what, b2n (windowCovers s b)] s else s

/-- The bay's detectors: a contact open, a voltage below 1.5 V. -/
def bayTrips (s : State) : State :=
  let gone := s.tmp.cellA.state == 1 || s.tmp.cellB.state == 1
  let low := decide (s.tmp.cellA.volts.toNat ≤ 75) || decide (s.tmp.cellB.volts.toNat ≤ 75)
  modMon 5 (fun x => { x with a := gone, b := low }) s

/-- Both cells absent at once (R382). -/
def bothAbsent (s : State) : State :=
  let s := if s.pwr.main then s else { s with tmp := { s.tmp with holdup := some s.time.mono } }
  tamperEvent 7 4 (tamperEv 7 true true 4) s

/-- One cell removed with no window over it. -/
def oneAbsent (s : State) : State := tamperEvent 5 (policyAt s 5).response (tamperEv 5 true true (policyAt s 5).response) s

/-- CELL_REMOVAL. -/
def execCellRemoval (cellB : Bool) (s : State) : Next :=
  if (cellAt s cellB).state = 1 ∨ !vaultAlive s then done s
  else
    let s := bayTrips (setCell cellB { state := 1, volts := 0, since := s.time.mono } s)
    let s := noteCell cellB 1 s
    if !(cellAt s (!cellB)).present then done (bothAbsent s)
    else if windowCovers s cellB then done (tamperEvent 8 0 (tamperEv 8 true true 0) s)
    else done (oneAbsent s)

/-- CELL_INSERTION: an inserted cell above 1.5 V settles; it takes over from the holdup capacitor. -/
def execCellInsertion (cellB : Bool) (volts : Byte) (s : State) : Next :=
  if (cellAt s cellB).state ≠ 1 then done s
  else
    let ok := decide (75 < volts.toNat)
    let s := setCell cellB { state := if ok then 3 else 1, volts := volts, since := s.time.mono } s
    let s := if ok then { s with tmp := { s.tmp with holdup := none } } else s
    done (noteCell cellB 2 (bayTrips s))

/-- A present cell's voltage is judged: low between 1.5 V and 2.6 V, event 0x229 once an episode. -/
def judgeCell (b : Bool) (s : State) : State :=
  let c := cellAt s b
  if c.volts.toNat < 130 then
    let s' := setCell b { c with state := 2 } s
    if c.state ≠ 2 ∧ s.pwr.main then note 0x229 19 [b2n b, c.volts.toNat] s' else s'
  else setCell b { c with state := 0 } s

/-- CELL_SETTLED: the cell has stayed in range for 1 s. -/
def execCellSettled (cellB : Bool) (s : State) : Next :=
  let c := cellAt s cellB
  if c.state = 3 ∧ c.since + 10 ^ 9 ≤ s.time.mono then done (judgeCell cellB s) else done s

/-- CELL_LOW: a present cell's voltage, above 1.5 V. -/
def execCellLow (cellB : Bool) (volts : Byte) (s : State) : Next :=
  let c := cellAt s cellB
  if !c.present ∨ volts.toNat ≤ 75 then done s else done (judgeCell cellB (setCell cellB { c with volts := volts } s))

/-- CELL_WINDOW_EXPIRY: the window closes; a cell of it still absent counts as removed with no window over it (12 R358). -/
def execCellWindowExpiry (s : State) : Next :=
  match s.vault.window with
  | none => done s
  | some w =>
    if s.time.mono < w.until_ then done s
    else
      let s := { s with vault := { s.vault with window := none } }
      let s := if s.pwr.main then note 0x20A 18 [2, w.cells, w.secs] s else s
      let away (b : Bool) : Bool := w.cells.testBit (b2n b) && !(cellAt s b).present
      let s := if away false then oneAbsent s else s
      done (if away true then oneAbsent s else s)

/-- HOLDUP_EXPIRY: 90 s after the last cell left without main power, the vault die loses power: what its SRAM held is gone. -/
def execHoldupExpiry (s : State) : Next :=
  match s.tmp.holdup with
  | some t =>
    if s.pwr.main ∨ s.time.mono < 90 * 10 ^ 9 + t then done s
    else done { s with vault := Vault.factory, tmp := { Tamper.reset with cellA := s.tmp.cellA, cellB := s.tmp.cellB } }
  | none => done s

/-! ## TMP registers (R373, R380, R387) -/

/-- A detector is tripped. -/
def anyTripped (s : State) : Bool := s.tmp.mons.any fun x => x.2.a || x.2.b

/-- TMP_CTRL_RESUME. A debug session with a secret-adjacent right keeps the module in SUSPEND (14 R403). -/
def execTmpCtrlResume (s : State) : Next := openTo s <|
  if anyTripped s ∨ pendingBurns s ≠ 0 ∨ s.tmp.zeroising.isSome ∨ (s.dbg.open_ && s.dbg.restart) then done { s with tmp := { s.tmp with refused := true } }
  else done (note 0x227 19 [s.tmp.level] { s with tmp := { s.tmp with
    suspended := false, alarm := false, refused := false, level := 0, monFault := false } })

/-- TMP_CTRL_EVREG_CLEAR: entries read are cleared, and the overflow count. -/
def execTmpCtrlEvregClear (s : State) : Next := openTo s <| done { s with nv := { s.nv with evreg := s.nv.evreg.filter (·.unread), evOvf := 0 } }

/-- TMP_EVREG_DATA_READ: four bytes of the selected entry; its unread bit is cleared. -/
def execTmpEvregDataRead (word : Fin 4) (s : State) : Next :=
  if lcCode s = 5 then done (emit (.read 0 (0xA0030 + 4 * word.val) 0) s) else
  let i := s.tmp.evSel
  let v := match s.nv.evreg[i]? with | some e => leField (evBytes e) (4 * word.val) 4 | none => 0
  let s := emit (.read 0 (0xA0030 + 4 * word.val) v) s
  done { s with nv := { s.nv with evreg := s.nv.evreg.modify i fun e => { e with unread := false } } }

end Sys2Proof.Machine
end

