-- ==== Sys2Proof/Machine/LifeCycle.lean ====
section
/-!
DEFINITION. Life-cycle transitions, Zalilys certificates, firmware updates, debug sessions and accesses (14_life_cycle_and_debug.md) and
attestation (12 R361).
-/
namespace Sys2Proof.Machine

/-! ## Zalilys certificates (R400, R401) -/

/-- Length of a certificate. -/
def certLen : Nat := 3533

/-- The first check of R401 that a certificate fails, by its cause in event 0x24A. -/
def certCause (s : State) (serial b : Bytes) (clk : Clock) (type target : Nat) : Option Nat :=
  let nb := leField b 52 8
  let na := leField b 60 8
  if !hybridVerify (Config.lifeCycleAuthority false) (Config.lifeCycleAuthority true) (b.take 128) (b.drop 128) then some 1
  else if byteAt b 0 ≠ 1 ∨ (byteAt b 1).toNat ≠ type ∨ (byteAt b 2).toNat ≠ target ∨ byteAt b 3 ≠ 0 ∨ !zeroAt b 72 128 ∨
    (type ≠ 0x32 ∧ !zeroAt b 68 72) then some 5
  else if slice b 4 16 ≠ serial then some 2
  else if !((liveChallenges s).any fun c => c.1 == slice b 20 32) then some 3
  else if na < nb ∨ 86400 * 10 ^ 9 < na - nb ∨ !((clk.within nb na).getD false) then some 4
  else none

/-- Judge a certificate; the challenge it names is consumed whatever follows (12 R345). -/
def certCheck (j : Job) (b : Bytes) (type target : Nat) : Cmd Unit := do
  let clk ← readClock j.seq
  Cmd.need (clk.state != 0) stStateReject
  Cmd.need (b.length == certLen) stFormat
  let s ← get
  let cause := certCause s (jobSerial s j) b clk type target
  modify fun s => { s with cust := { s.cust with challenges := s.cust.challenges.filter fun c => c.1 != slice b 20 32 } }
  match cause with
  | none => return ()
  | some k => do
    modify (note 0x24A 20 [type, k])
    Cmd.fail stVerifyFail

/-! ## Transitions (R394 to R398) -/

/-- The move accepts the authority: 1 custodian authorisations, 2 a Zalilys certificate. -/
def lcAuthority (src dst auth : Nat) (boot : Bool) : Bool :=
  lcMove src dst &&
  (if src = 0 ∨ src = 1 ∨ src = 4 ∨ src = 0xFF then auth == 2 else auth == 1 || (auth == 2 && dst == 4 && boot))

/-- The conditions of PROVISIONED to DEPLOYED (R395). -/
def deployable (s : State) : Bool :=
  !bootstrap s && (vaultAt s 0).master.isSome && (allRules s).all fun r => meets r ((enrolledAll s).map fun e => e.2.group)

/-- The transition record. -/
def setTransition (t : Option Nat) (s : State) : State := { s with nv := { s.nv with transition := t } }

/-- Scree and the on-module journal are cleared (R394). -/
def clearRecords (s : State) : State :=
  { s with
    jrn := { s.jrn with entries := [] }
    scr := { s.scr with
      fifos := [], ring := [], wrPos := 0, oldPos := 0, cursor := 0, ack := 0, cursorLost := false, overrun := false, gaps := false,
      thawRecord := none, armed := true } }

/-- Partition 1 is destroyed with its jobs (R394). -/
def dropPartition (p q : Nat) (s : State) : State :=
  if !existsPart s p then s else
  let s := endJobs ((s.jobs.filter fun j => j.part == p && !j.ended).map (·.seq)) stCancelled .reset s
  applyVault p VaultPart.absent q s

/-- Step 3: the erase of a move begins. TEST to PROVISIONED clears the working scope; RMA and SCRAPPED take the effects of ZEROISE_ALL. -/
def lcErase (dst q : Nat) (s : State) : State :=
  match dst with
  | 2 => zeroise 3 1 (dropPartition 1 q s)
  | 4 | 5 => applyResponse 4 s
  | _ => s

/-- An erase is not yet read back, or its read-back failed. -/
def erasing (s : State) : Bool := s.tmp.zeroising.isSome || ((srcAt s 37).set && (srcAt s 37).kind == 1)

/-- What follows the read-back: the recorders of a TEST module, or flash and the root of a module to be scrapped (R394, R398). -/
def lcAfterErase (dst : Nat) (s : State) : State :=
  match dst with
  | 2 => clearRecords s
  | 5 => { s with nv := { s.nv with
      slotA := [], slotB := [], factoryA := false, pending := false, keyStore := [], keyStoreErase := false, scrapped := true } }
  | _ => s

/-- Steps 4 and 5: the stage word is written and the record cleared. -/
def lcWrite (dst : Nat) (s : State) : State :=
  setTransition none { s with nv := { s.nv with
    writing := none, stage := Tab.set (0 : W32) s.nv.stage (dst - 1) (BitVec.ofNat 32 (stagePattern (dst - 1))) } }

/-- The rest of a transition, once its erase is read back: the stage word takes 160 µs. -/
def lcFinish (j : Job) : Cmd Run := do
  let s ← get
  let dst := j.desc.par 56
  let src := lcCode s
  if erasing s then Cmd.hold
  else match s.nv.writing with
    | none => do
      modify fun s =>
        let s := lcAfterErase dst s
        { s with nv := { s.nv with writing := some (dst - 1, s.time.mono) } }
      Cmd.hold
    | some (_, t) => do
      if s.time.mono < 160000 + t then Cmd.hold
      else do
        modify (lcWrite dst)
        return { Run.output [] with events := [⟨0x241, 20, [src, dst, j.seq]⟩] }

/-- LC_TRANSITION. The standby's copy judges, and changes nothing of its own life cycle (log entry 66). -/
def lcTransitionRun (j : Job) : Cmd Run := do
  if j.phase == .waiting then lcFinish j
  else do
    let dst := j.desc.par 56
    let inp := j.input
    let auth := (byteAt inp 0).toNat
    let own ← share j.seq 2 fun s => ([BitVec.ofNat 8 (lcCode s), BitVec.ofNat 8 (b2n (bootstrap s))], s)
    let src := (byteAt own 0).toNat
    Cmd.need (!(auth == 1 || auth == 2) || lcAuthority src dst auth (byteAt own 1 == 1)) stStateReject
    Cmd.need ((auth == 1 || auth == 2) && zeroAt inp 1 8 && decide (8 ≤ inp.length)) stFormat
    if auth = 1 then judge j 0x0A 8 (actionDigest j 8) none
    else certCheck j (inp.drop 8) (if src = 4 ∨ src = 0xFF then 0x31 else 0x30) dst
    let s ← get
    Cmd.need (dst != 3 || deployable s) stStateReject
    if j.fwd then return Run.output []
    else do
      set (lcErase dst j.seq (setTransition (some dst) s))
      if dst = 2 ∨ dst = 4 ∨ dst = 5 then Cmd.hold else lcFinish j

def execLcTransition (seq : Nat) (s : State) : Next := done (runOp 0x010E anyJob lcTransitionRun seq s)

/-! ## FW_UPDATE (R407) -/

/-- Stage 1: the input is written into the inactive slot. -/
def fwLoadRun (j : Job) : Cmd Run := do
  let off := leField j.desc.params 4 4
  Cmd.need (decide (off + j.input.length ≤ slotSize)) stFormat
  modify fun s =>
    let b := !s.pwr.running
    let s := { s with nv := { s.nv with pending := false } }
    slotWrite b off j.input (if off = 0 then slotErase b s else s)
  return Run.output []

def execFwUpdateLoad (seq : Nat) (s : State) : Next := done (runOp 0x010F (fun j => j.desc.par 56 == 1) fwLoadRun seq s)

/-- Stage 2: the authorisations, then the whole inactive image. -/
def fwActivateRun (j : Job) : Cmd Run := do
  judge j 9 0 (actionDigest j 0) none
  let s ← get
  let b := !s.pwr.running
  Cmd.need (slotVerifies s b) stVerifyFail
  modify fun s => { s with nv := { s.nv with pending := true } }
  return { Run.output [] with events := [⟨0x247, 20, [b2n b, slotVersion s b, leField (slotHeader s b) 16 4]⟩] }

def execFwUpdateActivate (seq : Nat) (s : State) : Next := done (runOp 0x010F (fun j => j.desc.par 56 == 2) fwActivateRun seq s)

/-! ## ATTEST (12 R361) -/

/-- The partition configuration digest. -/
def partDigest (s : State) (p : Nat) : Bytes :=
  sha384B (cfgBytes (partAt s p).cfg ++ [BitVec.ofNat 8 (b2n (vaultAt s p).tdes)] ++ leBytes 2 (vaultAt s p).gen)

/-- The 256-byte statement. -/
def attestation (s : State) (j : Job) (nonce : Bytes) : Bytes :=
  let bit := j.desc.par 56 == 1
  [1, 5, BitVec.ofNat 8 j.part, BitVec.ofNat 8 (b2n bit)] ++ jobSerial s j ++ nonce ++ fwMeasure s ++ leBytes 4 (fwVersion s) ++
  [BitVec.ofNat 8 (lcCode s), BitVec.ofNat 8 s.time.state.code, 0, 0] ++ leBytes 4 (evCount s) ++ leBytes 8 (stamp s).toNat ++
  (if bit then partDigest s j.part else zeros 48) ++ setDigest (custTable s) (allRules s) ++ leBytes 8 j.seq ++ zeros 32

/-- ATTEST: the statement and the identity signature over it; a forwarded job takes the active's statement. -/
def attestRun (j : Job) : Cmd Run := do
  Cmd.need (j.input.length == 32) stFormat
  let st ← share j.seq 256 fun s => (attestation s j j.input, s)
  let sig ← hybridSign j st
  return Run.output (st ++ sig)

def execAttest (seq : Nat) (s : State) : Next := done (runOp 0x0111 anyJob attestRun seq s)

/-! ## Debug sessions (R402 to R405) -/

/-- Rights outside the table of R402. -/
def rightsKnown (r : Nat) : Bool := decide (Nat.land r 0x707 = r)

/-- The session opens, in place of one that was open. -/
def openDebug (rights notAfter : Nat) (s : State) : State :=
  let r := BitVec.ofNat 11 rights
  { s with dbg := {
      open_ := true, rights := r, notAfter := notAfter, marked := false, page := [], refreshed := s.time.mono,
      restart := secretRights r || (s.dbg.open_ && s.dbg.restart) } }

/-- The end of DEBUG_CERT_ACCEPT, once a forced zeroisation is read back. -/
def debugOpen (j : Job) : Cmd Run := do
  let rights := leField j.input 68 4
  let notAfter := leField j.input 60 8
  let secret := secretRights (BitVec.ofNat 11 rights)
  let s ← get
  if secret && erasing s then Cmd.hold
  else do
    set (openDebug rights notAfter s)
    return { Run.output [] with events := [⟨0x244, 20, [rights, notAfter, b2n secret]⟩] }

/-- DEBUG_CERT_ACCEPT: authorisations where the state asks for them, the certificate, its rights. The standby's copy opens no port. -/
def debugCertRun (j : Job) : Cmd Run := do
  if j.phase == .waiting then debugOpen j
  else do
    let own ← share j.seq 1 fun s => ([BitVec.ofNat 8 (lcCode s)], s)
    let listed := byteAt own 0 == 2 || byteAt own 0 == 3
    let inp := j.input
    Cmd.need (if listed then decide (certLen < inp.length) else inp.length == certLen) stFormat
    if listed then judge j 0x0B certLen (actionDigest j certLen) none
    certCheck j (inp.take certLen) 0x32 0
    let rights := leField inp 68 4
    Cmd.need (rightsKnown rights) stFormat
    if j.fwd then return Run.output []
    else if secretRights (BitVec.ofNat 11 rights) then do
      modify (applyResponse 4)
      Cmd.hold
    else debugOpen j

def execDebugCertAccept (seq : Nat) (s : State) : Next := done (runOp 0x0110 anyJob debugCertRun seq s)

/-- DBG_CTRL_CLOSE. -/
def execDbgCtrlClose (s : State) : Next := served s (done (closeDebug 2 s))

/-- DEBUG_SESSION_EXPIRY: NTB has reached the certificate's not-after. -/
def execDebugSessionExpiry (s : State) : Next :=
  if s.dbg.open_ && decide (s.dbg.notAfter ≤ ntbNow s) then done (closeDebug 1 s) else done s

/-! ## DEBUG_ACCESS (R405; 17 R491) -/

/-- The debug port's world (R402): SERVICE with a right of the secret-adjacent class, or in BLANK, where no secret exists. -/
def debugWorld (s : State) : Nat := if secretRights s.dbg.rights || lcCode s == 0 then 1 else 2

/-- The port is open: a session, or BLANK (R390). -/
def debugPortOpen (s : State) : Bool := s.dbg.open_ || lcCode s == 0

/-- Rights other than boundary scan, which makes no fabric access. -/
def debugFabric (s : State) : Bool := lcCode s == 0 || !((s.dbg.rights &&& 0x703) == 0)

/-- What an admitted read returns: the debug status page, or bytes of the fabric that the spec places nowhere (log entry 5). -/
def debugRead (a : W32) (s : State) : Bytes × State :=
  let off := a.toNat - Config.debugPage.toNat
  if Config.debugPage.toNat ≤ a.toNat ∧ off + 4 ≤ 65536 then (slice s.dbg.page off 4, s) else freeBytes 4 s

/-- DEBUG_ACCESS: a JTAG access through the debug port. -/
def execDebugAccess (kind : AccessKind) (address : W32) (s : State) : Next :=
  if !s.pwr.main || !debugPortOpen s || !debugFabric s then done s
  else
    let u := (Config.fabricUnit address).val
    let w := debugWorld s
    let s := pmc { code := 0x12, n := 1, cls := 0, master := 0x30, world := w, addr := address.toNat, stage := 0, job := none } s
    if guardAdmits s u w address.toNat then
      match kind with
      | .write => done s
      | _ => let (b, s) := debugRead address s; done (emit (.debug b) s)
    else
      let region := match decidingNow s u address.toNat with | some (r, _) => r | none => 32
      let s := violation u 0x30 w (accessCode kind) address true s
      let s := note 0x246 20 [address.toNat, accessCode kind, u, region] s
      let s := { s with dbg := if s.dbg.open_ then { s.dbg with marked := true } else s.dbg }
      match kind with
      | .write => done s
      | _ => done (emit (.debug (zeros 4)) s)

end Sys2Proof.Machine
end

