-- ==== Sys2Proof/Machine/Power.lean ====
section
/-!
DEFINITION. Supplies, start-up, power domains and quiesce (19_power_clocks_start.md), with what a start does for the other chapters: evidence
(13 R381, R384), life cycle and firmware (14 R393, R397, R408), root (05 R106), partitions (11 R310), sequence mark (16 R447).
-/
namespace Sys2Proof.Machine

/-- Change the power block. -/
def modPwr (f : Power → Power) (s : State) : State := { s with pwr := f s.pwr }

/-- A start is under way and has not stopped. -/
def starting (s : State) : Bool := s.pwr.main && !s.pwr.perst && !s.pwr.ready && s.pwr.fault == 0

/-! ## Steps of the boot ROM (R516 step 3) -/

/-- Pending evidence burns, oldest first (13 R381). -/
def bootBurns (s : State) : State :=
  let one (s : State) : State := noteBurn 2 (modPwr (fun p => { p with burns := p.burns + 1 }) (burnOnce s))
  let s := (List.range (pendingBurns s)).foldl (fun s _ => one s) s
  { s with nv := { s.nv with evreg := s.nv.evreg.map fun e => { e with burn := false } } }

/-- A burn cut short between the copies is completed (13 R384). -/
def bootCopies (s : State) : State :=
  let a := thermo s.nv.otpA
  let b := thermo s.nv.otpB
  if a = b + 1 then
    noteBurn 2 (modPwr (fun p => { p with burns := p.burns + 1 }) { s with nv := { s.nv with otpB := s.nv.otpB ||| BitVec.ofNat 2048 (2 ^ b) } })
  else s

/-- Copies that differ by more than one, or have a set bit above a clear one, are reported (13 R384). -/
def bootMismatch (s : State) : State :=
  let bad := thermo s.nv.otpA + 1 < thermo s.nv.otpB ∨ thermo s.nv.otpB + 1 < thermo s.nv.otpA ∨ ragged s.nv.otpA ∨ ragged s.nv.otpB
  let s := { s with tmp := { s.tmp with mismatch := decide bad } }
  if bad then noteBurn 3 s else s

/-- Event 0x228 for each unread entry (13 R381). -/
def bootReplay (s : State) : State := (s.nv.evreg.filter (·.unread)).foldl (fun s e => note 0x228 19 [leNat (evBytes e)] s) s

/-- A transition record is completed or cleared (14 R397). The main-domain part of its erase went with main power. -/
def bootTransition (s : State) : State :=
  match s.nv.transition with
  | none => s
  | some dst =>
    let w := stageAt s (dst - 1)
    if w = stagePattern (dst - 1) then setTransition none s
    else if w ≠ 0 then s
    else
      let old := lcCode s
      let s := if dst = 2 then applyVault 1 VaultPart.absent 0 s
        else if dst = 4 ∨ dst = 5 then zeroiseVault { s with tmp := { s.tmp with suspended := true, alarm := true, level := Nat.max s.tmp.level 4 } }
        else s
      note 0x243 20 [old, dst] (lcWrite dst (lcAfterErase dst s))

/-- An INVALID state is recorded (14 R397). -/
def bootInvalid (s : State) : State :=
  if lcCode s = 0xFF then note 0x242 20 [((List.range 8).map fun i => flagAt (wordOk s i) i).sum] s else s

/-- A zeroisation that a loss of main power interrupted: main-domain SRAM comes up clear (13 R377). -/
def bootZeroise (s : State) : State :=
  if !s.vault.zeroisePending then s
  else
    let (scope, us) := match s.tmp.zeroising with | some (k, t, _) => (k, (s.time.mono - t) / 1000) | none => (4, 0)
    note 0x223 19 [scope, us, 1, 2] { s with
      tmp := { s.tmp with zeroising := none }, vault := { s.vault with zeroisePending := false } }

/-- The slot that is to run (14 R408). -/
def bootSlot (s : State) : State :=
  modPwr (fun p => { p with running := if s.nv.pending then !s.nv.current else s.nv.current, pendingRun := s.nv.pending }) s

/-- Causes of kind C that last latch again (17 R490). -/
def relatch (s : State) : State := s.tarn.live.foldl (fun s x => match x.2 with
  | some (k, u, i) => tarnRaise x.1 k u i false s
  | none => s) s

/-- PD_CTRL is on: the boot ROM's work. -/
def bootRom (s : State) : State :=
  relatch (bootSlot (bootZeroise (bootInvalid (bootTransition (bootReplay (bootMismatch (bootBurns (bootCopies s))))))))

/-- The root is read and the PUF regenerated (05 R106). -/
def bootRoot (s : State) : State :=
  if s.pwr.rootFuse then s
  else if s.pwr.rootPuf then
    let s := { s with freeCtr := s.freeCtr + 1 }
    tarnRaise 9 1 0 (Config.freeWord (s.freeCtr - 1)) false (note 0x101 4 [(Config.freeWord (s.freeCtr - 1)).toNat] s)
  else startStop 1 9 (note 0x102 4 [3] s)

/-! ## Domains at start (R510, R511) -/

/-- Set a domain's bit. -/
def switchOn (d : Nat) (s : State) : State := modPwr (fun p => { p with domains := p.domains ||| BitVec.ofNat 64 (2 ^ d) }) s

/-- POWER_DOMAIN_SLOT: the next start slot is reached, and its domain is switched on. -/
def execPowerDomainSlot (s : State) : Next :=
  let k := s.pwr.slot
  if !starting s ∨ 58 ≤ k ∨ s.time.mono < s.pwr.t0 + 25000 * k then done s
  else
    let s := switchOn (k + 2) (modPwr (fun p => { p with slot := k + 1 }) s)
    match k with
    | 2 => done (bootRom (modPwr (fun p => { p with phase := 3 }) s))
    | 3 => done (modPwr (fun p => { p with phase := 4 }) s)
    | 4 =>
      let s := modPwr (fun p => { p with phase := 5 }) s
      done { s with rng := { s.rng with began := s.time.mono, blockAt := s.time.mono } }
    | 8 => done (bootRoot (modPwr (fun p => { p with phase := Nat.max 6 p.phase }) s))
    | _ => done s

/-- DOMAIN_REGULATION_TIMEOUT: a domain has not regulated 20 µs after its switch: Tarn PWR, and at start fault code 6. -/
def execDomainRegulationTimeout (domain : Fin 60) (s : State) : Next :=
  let d := domain.val
  if !s.pwr.main || s.pwr.perst || !domainOn s d || decide (d < 2) then done s
  else if starting s then
    if d ≠ s.pwr.slot + 1 ∨ s.time.mono < s.pwr.t0 + 25000 * (d - 2) + 20000 then done s
    else done (startStop 6 42 (tarnOpen 42 1 d false s))
  else done (tarnOpen 42 1 d false s)

/-! ## Supplies (R507 to R509, R520, R525, R526) -/

/-- PERST_N_RELEASE: with 12 V good the start begins; without it, MAIN_POWER_GOOD begins it (R520). -/
def execPerstNRelease (posB : Bool) (fuseOk pufOk : Bool) (s : State) : Next :=
  if !s.pwr.perst then done s
  else if s.pwr.main then done (beginStart posB fuseOk pufOk s)
  else done (modPwr (fun p => { p with perst := false }) s)

/-- Work is in flight: jobs or refused descriptors without their completion. -/
def inFlightWork (s : State) : Bool := s.jobs.any (fun j => j.live && !j.copied) || decide (s.refused ≠ [])

/-- The vault's note of a loss while the core die ran (R508, R529). -/
def noteLoss (cause : Nat) (s : State) : State := { s with vault := { s.vault with lossCause := cause, lossQuiesce := s.pwr.quiesce } }

/-- PERST_N_ASSERT: a module reset. -/
def execPerstNAssert (s : State) : Next :=
  if s.pwr.perst then done s
  else if !s.pwr.main then done (modPwr (fun p => { p with perst := true }) s)
  else
    let s := if inFlightWork s then noteLoss 2 s else s
    done (modPwr (fun p => { p with perst := true }) (coldMain s))

/-- MAIN_POWER_LOSS: the module drops to the vault; with both cells out, the holdup capacitor alone feeds it (13 R383). -/
def execMainPowerLoss (s : State) : Next :=
  if !s.pwr.main then done s
  else
    let s := modPwr (fun p => { p with main := false }) (coldMain (if s.pwr.perst then s else noteLoss 1 s))
    if s.tmp.cellA.state = 1 ∧ s.tmp.cellB.state = 1 then done { s with tmp := { s.tmp with holdup := some s.time.mono } } else done s

/-- MAIN_POWER_GOOD: PD_VAULT moves back to main power, and with PERST_N released the module starts (R520). -/
def execMainPowerGood (posB : Bool) (fuseOk pufOk : Bool) (s : State) : Next :=
  if s.pwr.main then done s
  else
    let s := modPwr (fun p => { p with main := true }) { s with tmp := { s.tmp with holdup := none } }
    if s.pwr.perst then done s else done (beginStart posB fuseOk pufOk s)

/-- AUX_CHANGE: the auxiliary rail is lost or restored (R509). -/
def execAuxChange (good : Bool) (s : State) : Next :=
  if s.pwr.aux = good then done s
  else
    let s := modPwr (fun p => { p with aux := good }) s
    if s.pwr.main && domainOn s 4 then done (note 0x2E5 33 [if good then 2 else 1] s) else done s

/-! ## Quiesce (R522 to R524) -/

/-- The source that a quiesce record names. -/
def quiesceSource (s : State) : Nat := if s.pwr.qPin then 1 else 2

/-- A quiesce begins: fetching stops, and class-1 jobs not dispatched end. -/
def beginQuiesce (s : State) : State :=
  if s.pwr.quiesce ≠ 0 ∨ !s.pwr.ready then s
  else
    let s := note 0x2E3 33 [1, quiesceSource s, 0] (modPwr (fun p => { p with quiesce := 1, qSince := s.time.mono, qEnded := 0 }) s)
    endJobs ((s.jobs.filter fun j => j.desc.cls == 1 && !j.ran && !j.ended && !j.copied).map (·.seq)) stCancelled .cancelled s

/-- A quiesce is withdrawn. -/
def endQuiesce (src : Nat) (s : State) : State :=
  if s.pwr.quiesce = 0 then s
  else
    let s := note 0x2E3 33 [3, src, s.pwr.qEnded] (modPwr (fun p => { p with quiesce := 0 }) s)
    if s.pair.handing = some 0 then { s with pair := { s.pair with handing := none } } else s

/-- QUIESCE_REQ_N_ASSERT: the pin has been low for 10 µs. -/
def execQuiesceReqNAssert (s : State) : Next := done (beginQuiesce (modPwr (fun p => { p with qPin := true }) s))

/-- QUIESCE_REQ_N_RELEASE: the pin has been high for 10 µs. -/
def execQuiesceReqNRelease (s : State) : Next :=
  if !s.pwr.qPin then done s
  else
    let s := modPwr (fun p => { p with qPin := false }) s
    done (if s.pwr.qReg then s else endQuiesce 1 s)

/-- PWR_CTRL_QUIESCE. -/
def execPwrCtrlQuiesce (s : State) : Next := openTo s <|
  if !domainOn s 4 then done s else done (beginQuiesce (modPwr (fun p => { p with qReg := true }) s))

/-- PWR_CTRL_UNQUIESCE. -/
def execPwrCtrlUnquiesce (s : State) : Next := openTo s <|
  if !s.pwr.qReg then done s
  else
    let s := modPwr (fun p => { p with qReg := false }) s
    done (if s.pwr.qPin then s else endQuiesce 2 s)

/-- Step 5: dumps and samples stop, SAFE_REMOVE goes high. -/
def quiesceComplete (s : State) : State := note 0x2E3 33 [2, quiesceSource s, s.pwr.qEnded] (modPwr (fun p => { p with quiesce := 3 }) s)

/-- QUIESCE_DRAINED: every admitted job has ended. The active of a pair in step hands over first; a standby detaches with cause 4; an
active with no peer in step lets go of the role. -/
def execQuiesceDrained (s : State) : Next :=
  if (s.pwr.quiesce ≠ 1 ∧ s.pwr.quiesce ≠ 2) ∨ inFlightWork s then done s
  else if s.pair.role = 1 ∧ s.pair.state = .inStep then
    if s.pair.handing.isSome then done s
    else done (modPwr (fun p => { p with quiesce := 2 }) { s with pair := { s.pair with handing := some 0 } })
  else if s.pair.role = 1 then done (quiesceComplete (releaseActive (detach 4 s)))
  else done (quiesceComplete (detach 4 s))

/-- QUIESCE_MAX as it acts, ns (R528). -/
def quiesceNs (s : State) : Nat := 1000000 * clampTo 1 1000 s.pwr.quiesceMax

/-- QUIESCE_MAX_EXPIRY: what still runs ends at its next yield point with ST_CANCELLED (R523). -/
def execQuiesceMaxExpiry (s : State) : Next :=
  if s.pwr.quiesce ≠ 1 ∨ s.time.mono < s.pwr.qSince + quiesceNs s then done s
  else
    let left := s.jobs.filter fun j => !j.ended && !j.copied && !j.cancel && !j.pastStop
    let s := modPwr (fun p => { p with qEnded := p.qEnded + left.length }) s
    let s := endJobs ((left.filter fun j => !j.ran).map (·.seq)) stCancelled .cancelled s
    let mark (j : Job) : Job := if left.any (fun k => k.seq == j.seq) && j.ran then { j with cancel := true } else j
    done { s with jobs := s.jobs.map mark }

/-! ## The end of a start (R516 steps 8 to 13; 14 R408) -/

/-- The start goes on from the other slot, which has its own 1 s: event 0x248. The pending mark goes with the failure (log entry 67). -/
def fallback (cause : Nat) (s : State) : State :=
  let b := s.pwr.running
  let s := note 0x248 20 [b2n b, cause] s
  modPwr (fun p => { p with running := !b, pendingRun := false, bootAt := s.time.mono }) { s with nv := { s.nv with pending := false } }

/-- The slot's image does not verify: the other slot is tried; if it does not verify either, the start stops with fault code 3. -/
def imageFails (s : State) : State :=
  let b := s.pwr.running
  let s := if s.pwr.pendingRun || slotVerifies s (!b) then fallback (if slotSigned s b then 4 else 1) s else s
  if slotVerifies s (!b) then s else startStop 3 63 s

/-- A pending image that runs becomes current, and the anti-rollback counter is burnt up to its version, a bit at a time. -/
def adoptImage (s : State) : State :=
  if !s.pwr.pendingRun then s
  else
    let v := fwVersion s
    let s := modPwr (fun p => { p with pendingRun := false }) { s with nv := { s.nv with current := s.pwr.running, pending := false } }
    (List.range (v - s.nv.rollback)).foldl (fun s _ =>
      note 0x249 20 [s.nv.rollback, s.nv.rollback + 1] { s with nv := { s.nv with rollback := s.nv.rollback + 1 } }) s

/-- The sequence mark becomes the first sequence and rises (16 R447). -/
def takeMark (s : State) : State :=
  let m := s.nv.mark
  note 0x281 22 [m.toNat, (m + 0x100000000).toNat] { s with
    jrn := { s.jrn with first := m.toNat, next := m.toNat }, nv := { s.nv with mark := m + 0x100000000 } }

/-- Enrolled entries whose stored key does not match (12 R340). -/
def keyMismatches (s : State) : State :=
  (List.range 32).foldl (fun s c =>
    match custEntry s c with
    | some e => if sha384B (custPub s c) = e.digest then s else note 0x20B 18 [c, leField (sha384B (custPub s c)) 0 4] s
    | none => s) s

/-- SUSPEND is restored from the evidence register (13 R373). -/
def restoreTamper (s : State) : State :=
  if s.nv.evreg.any (fun e => decide (2 ≤ e.response)) then sendMsix 0 53 { s with tmp := { s.tmp with suspended := true } } else s

/-- A loss of main power is recorded (19 R529). -/
def noteLost (s : State) : State :=
  if s.vault.lossCause = 0 then s
  else note 0x2E4 33 [s.vault.lossCause, s.vault.lossQuiesce] { s with vault := { s.vault with lossCause := 0, lossQuiesce := 0 } }

/-- Step 12: what a start restores. -/
def bootRestore (s : State) : State :=
  let s := { s with vault := { s.vault with parts := s.vault.parts.map fun x => (x.1, x.2.lostMain) } }
  noteLost (restoreTamper (keyMismatches (takeMark (adoptImage s))))

/-- Step 13: READY. A quiesce requested meanwhile begins (R522). -/
def bootReady (s : State) : State :=
  let us := (s.time.mono - s.pwr.t0) / 1000
  let out := (allUnits.filter fun u => !unitUp s u).length
  let s := modPwr (fun p => { p with phase := 13, ready := true, startTime := BitVec.ofNat 32 us }) s
  let s := if tarnFatal s then s else modTarn (fun t => { t with errPair := some (true, false) }) s
  let s := note 0x2E1 33 [us, b2n s.pwr.running, s.pwr.burns, out] s
  if s.pwr.qPin || s.pwr.qReg then beginQuiesce s else s

/-- START_UP_COMPLETE: steps 8 to 13, once every domain is on and the random service is ready. A SCRAPPED module stays in the boot ROM
(14 R399). -/
def execStartUpComplete (s : State) : Next :=
  if !starting s ∨ s.pwr.slot < 58 ∨ s.pwr.phase < 7 ∨ !rngServing s ∨ lcCode s = 5 then done s
  else if !slotVerifies s s.pwr.running then done (imageFails s)
  else done (bootReady (bootRestore s))

/-- START_FAULT: a check of R518 fails. A pending image that fails its self-tests gives way to the other slot (14 R408). -/
def execStartFault (code : Fin 8) (s : State) : Next :=
  if !starting s then done s
  else match code.val with
    | 0 => done s
    | 1 => done (startStop 1 9 (note 0x102 4 [3] s))
    | 2 => done (startStop 2 30 s)
    | 3 => done (imageFails s)
    | 4 => if s.pwr.pendingRun then done (fallback 2 s) else done (startStop 4 63 s)
    | 6 => done (startStop 6 42 (tarnOpen 42 1 (s.pwr.slot + 1) false s))
    | 7 => if s.pwr.pendingRun then done (fallback 3 s) else done (startStop 7 63 s)
    | k => done (startStop k 63 s)

/-- FW_BOOT_TIMEOUT: the image has not reached ready within its 1 s. -/
def execFwBootTimeout (s : State) : Next :=
  if !starting s ∨ lcCode s = 5 ∨ s.time.mono < s.pwr.bootAt + 10 ^ 9 then done s
  else if s.pwr.pendingRun then done (fallback 3 s) else done (startStop 7 63 s)

/-! ## Domains at run time (R512, R513) -/

/-- Engine class of a switched domain (04 R82); 6 for PD_ULI; `none` for a domain that is never switched at run time. -/
def domainClass (d : Nat) : Option Nat :=
  if 21 ≤ d ∧ d ≤ 36 then some 1 else if 37 ≤ d ∧ d ≤ 52 then some 3 else if 53 ≤ d ∧ d ≤ 56 then some 4
  else if d = 57 ∨ d = 58 then some 5 else if d = 59 then some 6 else none

/-- The units of an engine domain. -/
def domainUnits (d : Nat) : List TestUnit := allUnits.filter fun u => unitDomain u == d && decide (21 ≤ d)

/-- A test holds a unit. -/
def unitTested (s : State) (u : TestUnit) : Bool :=
  match u with
  | .newt n => (newtAt s n.val).owner == .window
  | .igu n =>
    if n.val < 16 then (bigAt s n.val).window else if n.val < 20 then (latAt s (n.val - 16)).owner == .window
    else (hashAt s (n.val - 20)).owner == .window
  | _ => false

/-- A unit works: a job or a test holds it, or a bank is not free. -/
def unitBusy (s : State) (u : TestUnit) : Bool :=
  (s.jobs.any (Job.holds u)) || unitTested s u ||
  (match u with
   | .igu n => decide (n.val < 16) && !((bigAt s n.val).bank0 == .free && (bigAt s n.val).bank1 == .free)
   | _ => false)

/-- Another domain of the class is on with a unit in service. -/
def classStaysOn (s : State) (c d : Nat) : Bool :=
  allUnits.any fun u => unitCls u == c && unitUp s u && unitDomain u != d && domainOn s (unitDomain u)

/-- AUTO_OFF_IDLE: an engine domain idle for IDLE × 100 µs is switched off. -/
def execAutoOffIdle (domain : Fin 60) (s : State) : Next :=
  let d := domain.val
  let idleNs := 100000 * Nat.max 1 s.pwr.idle
  match domainClass d with
  | none => done s
  | some c =>
    if !s.pwr.ready || !s.pwr.autoOff || !domainOn s d || decide (s.time.mono < Tab.get 0 s.pwr.idleSince d + idleNs) then done s
    else if (domainUnits d).any (unitBusy s) then done s
    else if (if c = 6 then s.pair.state != .solo else !classStaysOn s c d) then done s
    else done (modPwr (fun p => { p with domains := p.domains &&& ~~~(BitVec.ofNat 64 (2 ^ d)) }) s)

/-- Work waits for a domain's units: a job in the class queue, on a Newt core one that may run in its cluster. -/
def workWaits (s : State) (c d : Nat) : Bool :=
  if c = 1 then decide (newtEligible s (d - 21) ≠ []) else s.jobs.any (Job.waitsFor c)

/-- DOMAIN_WAKE: a switch-on request; one with waiting work goes ahead of automatic ones (R512). -/
def execDomainWake (domain : Fin 60) (s : State) : Next :=
  let d := domain.val
  match domainClass d with
  | none => done s
  | some c =>
    if !s.pwr.ready || domainOn s d || s.pwr.queue.any (fun x => x.1 == d) then done s
    else if c = 6 then
      if s.pair.state = .solo then done s else done (modPwr (fun p => { p with queue := p.queue ++ [(d, true)] }) s)
    else if workWaits s c d then
      done (modPwr (fun p => { p with queue := (p.queue.filter (!·.2)) ++ [(d, false)] ++ p.queue.filter (·.2) }) s)
    else if !classStaysOn s c d && (domainUnits d).any (unitUp s) then done (modPwr (fun p => { p with queue := p.queue ++ [(d, true)] }) s)
    else done s

/-- DOMAIN_SWITCH_ON: the oldest request is served while fewer than two domains were switched on within 25 µs. -/
def execDomainSwitchOn (s : State) : Next :=
  match s.pwr.queue with
  | [] => done s
  | (d, _) :: rest =>
    let recent := s.pwr.switched.filter fun t => decide (s.time.mono < 25000 + t)
    if !s.pwr.ready || decide (2 ≤ recent.length) then done s
    else
      let s := switchOn d s
      done (modPwr (fun p => { p with
        queue := rest, switched := recent ++ [s.time.mono], idleSince := Tab.set 0 p.idleSince d s.time.mono }) s)

end Sys2Proof.Machine
end

