-- ==== Sys2Proof/Machine/Link.lean ====
section
/-!
DEFINITION. The interlock, the Ulistade link, its handshake and the heartbeats (15 R412 to R421, R434, R435).
-/
namespace Sys2Proof.Machine

/-- Change the pair block. -/
def modPair (f : Pair → Pair) (s : State) : State := { s with pair := f s.pair }

/-! ## Receiving a frame (R419, R421) -/

/-- Acknowledged frames leave the replay buffer, frames that waited for room are sent, and commits whose frames are acknowledged go on
(R421, R426). -/
def takeAck (low : Nat) (s : State) : State :=
  let d := (low + 2 ^ 32 - s.pair.acked % 2 ^ 32) % 2 ^ 32
  let a := s.pair.acked + d
  if d = 0 ∨ s.pair.txSeq ≤ a then s
  else
    let waiting := s.pair.backlog
    let s := modPair (fun p => { p with
      acked := a, ackAt := s.time.mono, replay := p.replay.filter (fun x => decide (a < x.1)), backlog := [] }) s
    let s := waiting.foldl (fun s x => sendFrame x.1 x.2 s) s
    let ready := s.jobs.filter fun j => j.phase == .waitAck && decide (j.commitLink ≤ a)
    (ready.map (·.seq)).foldl (fun s q => gates q (modJob q (fun x => { x with acked := true }) s)) s

/-- A valid frame keeps the in-band path alive; a lost path is restored once frames are acknowledged again. -/
def inbandSeen (s : State) : State :=
  let s := modPair (fun p => { p with inbandAt := some s.time.mono }) s
  if s.pair.inbandOk ∨ (s.pair.replay ≠ [] ∧ 100000 + s.pair.ackAt ≤ s.time.mono) then s
  else note 0x263 21 [1, 2] (modPair (fun p => { p with inbandOk := true }) s)

/-- A frame of a type: its payload and the state after it, or `none` where it is discarded. Handshake frames are in clear and count only
while no session is up (log entry 68). -/
def receive (type : Nat) (f : Bytes) (s : State) : Option (Bytes × State) :=
  let n := f.length
  let seq := leField f 8 8
  if !s.pair.trained || n < 32 || leField f 0 2 * 8 != n || (byteAt f 2).toNat != type || seq != s.pair.rxSeq + 1 then none
  else
    let body := slice f 16 (n - 32)
    let tag := slice f (n - 16) 16
    let plain :=
      if type ≤ 4 then
        if s.pair.session || s.pair.failed || !allZero tag || decide (1 < (byteAt f 3).toNat) then none else some body
      else if !s.pair.session || (byteAt f 3).toNat != b2n (!s.pair.posB) then none
      else gcmOpen (frameKey s.pair.keys (!s.pair.posB)) (frameIv seq) (slice f 2 14) body tag
    plain.map fun b => (b, inbandSeen (takeAck (leField f 4 4) (modPair (fun p => { p with rxSeq := seq }) s)))

/-! ## The handshake (R418) -/

/-- Clear what a handshake holds. -/
def clearShake (p : Pair) : Pair :=
  { p with chain := [], chainLen := 0, offer := none, transcript := none, keys := none, session := false, peerSerial := [], peerLc := 0 }

/-- The link counts from 1 anew, with nothing sent or received. -/
def clearLink (p : Pair) : Pair := { p with txSeq := 1, acked := 0, replay := [], backlog := [], rxSeq := 0 }

/-- This module's certificate chain item (12 R360). -/
def ownChain : Bytes :=
  Config.certificate false 0 ++ Config.certificate false 1 ++ Config.certificate true 0 ++ Config.certificate true 1

/-- CERT frames of the own chain. -/
def sendChain (s : State) : State :=
  (List.range (Nat.max 1 (ceilDiv ownChain.length 4096))).foldl (fun s i =>
    sendFrame 0x04 (leBytes 4 (4096 * i) ++ leBytes 4 ownChain.length ++ (ownChain.drop (4096 * i)).take 4096) s) s

/-- A handshake may run: the link is trained, no session is up, PAIRED is set, and PD_ULI is on. -/
def mayShake (s : State) : Bool := s.pair.trained && !s.pair.session && s.pair.paired && s.pwr.ready && domainOn s 59

/-- A handshake begins. -/
def startHandshake (s : State) : State :=
  if !mayShake s then s
  else sendChain (modPair (fun p => { clearLink (clearShake p) with retryAt := some s.time.mono, failed := false }) s)

/-- A failed check ends the handshake: event 0x265, and a retry after 1 s. -/
def failHandshake (cause : Nat) (s : State) : State :=
  note 0x265 21 [cause] (modPair (fun p => { clearLink (clearShake p) with retryAt := some s.time.mono, failed := true }) s)

/-- Bytes of a DRBG instance for the module itself; `none` where it does not serve. -/
def takeRandom (i n : Nat) (s : State) : Option (Bytes × State) :=
  if instServes s i && decide ((instAt s i).count < drbgCeiling) then some (drawInst i n s) else none

/-- A scalar below the order of P-384, by rejection. -/
def takeScalar (i : Nat) : Nat → State → Option (Nat × State)
  | 0, _ => none
  | f + 1, s =>
    match takeRandom i p384.orderLen s with
    | none => none
    | some (b, s) => if beNat b + 2 ≤ p384.n then some (beNat b + 1, s) else takeScalar i f s

/-- An ECDSA P-384 identity signature. -/
def shakeEcdsa (msg : Bytes) : Nat → State → Option (Bytes × State)
  | 0, _ => none
  | f + 1, s =>
    match takeScalar 259 64 s with
    | none => none
    | some (k, s) => match p384.sign (beNat (Config.identityKey false)) k (sha384B msg) with
      | some sig => some (fit 96 sig, s)
      | none => shakeEcdsa msg f s

/-- The hybrid identity signature of a handshake message (12 R359). -/
def shakeSign (msg : Bytes) (s : State) : Option (Bytes × State) :=
  match shakeEcdsa msg 8 s with
  | none => none
  | some (a, s) => (takeRandom 259 32 s).map fun (r, s) => (a ++ fit 3309 (Config.pkSign 5 0 0x39 (Config.identityKey true) [] msg r), s)

/-- Position A sends HELLO. -/
def sendHello (s : State) : Option State := do
  let (nonce, s) ← takeRandom 258 32 s
  let (seed, s) ← takeRandom 258 64 s
  let (d, s) ← takeScalar 258 64 s
  let offer := [1, 0x22, 0, 0] ++ beBytes 16 Config.serial.toNat ++ nonce ++ fit 1184 (Config.publicOf 0x31 seed) ++
    pointBytes 48 (p384.mul d p384.base) ++ zeros 11
  let (sig, s) ← shakeSign offer s
  return sendFrame 0x01 (offer ++ sig) (modPair (fun p => { p with offer := some (offer, seed, beBytes 48 d) }) s)

/-- Do what draws random values; where an instance cannot serve, the handshake stands until its next retry. -/
def orStand (f : State → Option State) (s : State) : State := (f s).getD s

/-- The peer's chain is complete (R418 step 4; the positions are compared here, log entry 68). -/
def chainArrived (peerB : Bool) (s : State) : State :=
  match Config.chainVerify s.pair.chain with
  | none => failHandshake 1 s
  | some (serial, lc, _, _) =>
    if s.pair.peer = 0 ∨ fit 16 serial ≠ leBytes 16 s.pair.peer.toNat then failHandshake 2 s
    else if peerB = s.pair.posB then failHandshake 4 s
    else
      let s := modPair (fun p => { p with peerSerial := fit 16 serial, peerLc := lc }) s
      if s.pair.posB then s else orStand sendHello s

/-- CERT. A first one before the own handshake has begun begins it. -/
def execCert (frame : Bytes) (s : State) : Next :=
  let s := if s.pair.txSeq = 1 ∧ s.pair.rxSeq = 0 ∧ !s.pair.failed then startHandshake s else s
  match receive 0x04 frame s with
  | none => done s
  | some (b, s) =>
    let off := leField b 0 4
    let total := leField b 4 4
    let n := Nat.min 4096 (total - off)
    if !s.pair.paired || s.pair.peerSerial != [] || off != s.pair.chain.length || (off != 0 && total != s.pair.chainLen) || b.length < 8 + n then
      done s
    else
      let s := modPair (fun p => { p with chain := p.chain ++ slice b 8 n, chainLen := total }) s
      done (if off + n = total then chainArrived (byteAt frame 3 == 1) s else s)

/-- The peer's identity keys, from its verified chain. -/
def peerKeys (s : State) : Option (Bytes × Bytes) :=
  if s.pair.peerSerial = [] then none else (Config.chainVerify s.pair.chain).map fun x => (x.2.2.1, x.2.2.2)

/-- The direction keys of R418 step 6. -/
def directionKeys (ss z t : Bytes) : Bytes × Bytes :=
  let k (tail : Bytes) : Bytes := (sha384B ([0, 0, 0, 1] ++ ss ++ z ++ t ++ tail)).take 32
  (k [0x41, 0x42], k [0x42, 0x41])

/-- A session offer of the peer is well formed and signed. -/
def offerOk (s : State) (o : Bytes) (k : Bytes × Bytes) : Bool :=
  byteAt o 0 == 1 && byteAt o 1 == 0x22 && zeroAt o 2 4 && slice o 4 16 == s.pair.peerSerial && zeroAt o 1333 1344 &&
    hybridVerify k.1 k.2 (o.take 1344) (slice o 1344 3405)

/-- Position B answers HELLO with KEYX and CONFIRM. -/
def answerHello (o : Bytes) (s : State) : Option State := do
  let (m, s) ← takeRandom 258 32 s
  let (d, s) ← takeScalar 258 64 s
  match p384Agree d (slice o 1236 97) with
  | none => return failHandshake 3 s
  | some z =>
    let (ct, ss) := Config.kemEncaps 0x31 (slice o 52 1184) m
    let head := [1, 0x23] ++ zeros 6 ++ slice o 20 32 ++ fit 1088 ct ++ pointBytes 48 (p384.mul d p384.base) ++ zeros 55
    let (sig, s) ← shakeSign head s
    let t := sha384B (o.take 1344 ++ head.take 1232)
    let s := modPair (fun p => { p with keys := some (directionKeys (fit 32 ss) z t), transcript := some t }) s
    return sendFrame 0x03 t (sendFrame 0x02 (head ++ sig) s)

/-- HELLO, at position B. -/
def execHello (frame : Bytes) (s : State) : Next :=
  match receive 0x01 frame s with
  | none => done s
  | some (b, s) =>
    match peerKeys s with
    | none => done s
    | some k =>
      if !s.pair.posB ∨ s.pair.keys.isSome then done s
      else if !offerOk s b k then done (failHandshake 3 s)
      else done (orStand (answerHello b) s)

/-- KEYX, at position A. -/
def execKeyx (frame : Bytes) (s : State) : Next :=
  match receive 0x02 frame s with
  | none => done s
  | some (b, s) =>
    match peerKeys s, s.pair.offer with
    | some k, some (o, seed, ec) =>
      if s.pair.keys.isSome then done s
      else if !(byteAt b 0 == 1 && byteAt b 1 == 0x23 && zeroAt b 2 8 && slice b 8 32 == slice o 20 32 && zeroAt b 1225 1280 &&
          hybridVerify k.1 k.2 (b.take 1280) (slice b 1280 3405)) then done (failHandshake 3 s)
      else
        (match p384Agree (beNat ec) (slice b 1128 97) with
         | none => done (failHandshake 3 s)
         | some z =>
           let ss := fit 32 (Config.kemDecaps 0x31 seed (slice b 40 1088))
           let t := sha384B (o ++ b.take 1232)
           let s := modPair (fun p => { p with keys := some (directionKeys ss z t), transcript := some t }) s
           done (sendFrame 0x03 t s))
    | _, _ => done s

/-- HANDSHAKE_RETRY: 1 s after a handshake failed, or began without coming to its end. -/
def execHandshakeRetry (s : State) : Next :=
  match s.pair.retryAt with
  | none => done s
  | some t => if t + 10 ^ 9 ≤ s.time.mono then done (startHandshake s) else done s

/-! ## Training (R417, R418) -/

/-- Lanes that the link runs on, given those that trained: all four, 0 and 1, or 0 alone. -/
def usableLanes (l : BitVec 4) : BitVec 4 :=
  if l = 15 then 15 else if l.getLsbD 0 && l.getLsbD 1 then 3 else if l.getLsbD 0 then 1 else 0

/-- Number of lanes. -/
def laneCount (l : BitVec 4) : Nat := popCount 4 l.toNat

/-- Lanes change: event 0x268. -/
def setLanes (l : BitVec 4) (s : State) : State :=
  if l = s.pair.lanes then s
  else note 0x268 21 [laneCount s.pair.lanes, laneCount l] (modPair (fun p => { p with lanes := l }) s)

/-- LINK_TRAINING: the link has trained on `lanes`: a retrain counts; a lane that failed and a retrain raise Tarn ULI. -/
def execLinkTraining (lanes : BitVec 4) (s : State) : Next :=
  if !s.pair.paired || !domainOn s 59 then done s
  else
    let again := s.pair.lanes != 0
    let s := setLanes (usableLanes lanes) s
    let s := modPair (fun p => { p with trained := p.lanes != 0, retrains := if again then satAdd 0xFFFF p.retrains 1 else p.retrains }) s
    let s := if lanes = 15 then s else tarnOpen 36 1 0 false s
    let s := if again then tarnOpen 36 2 0 false s else s
    done (startHandshake s)

/-- A session ends: its keys go, and the module leaves the pair (R418, R441). -/
def endSession (s : State) : State :=
  let s := if s.pair.session then becomeAlone 0 s else s
  modPair (fun p => { clearLink (clearShake p) with retryAt := none, failed := false }) s

/-- LINK_TRAINING_LOST: no lane trained for longer than the retrain time. -/
def execLinkTrainingLost (s : State) : Next :=
  if !s.pair.paired then done s
  else
    let s := modPair (fun p => { p with trained := false }) (setLanes 0 s)
    done (endSession (tarnOpen 36 1 0 false s))

/-! ## Heartbeats (R434, R435) -/

/-- The role a heartbeat reports: 0 standby, 1 active, 2 suspended or detached, 3 failing: a start that has stopped. -/
def reportedRole (s : State) : Nat :=
  if s.pwr.fault ≠ 0 then 3 else if s.pair.role = 1 then 1 else if s.pair.role = 0 ∧ !suspended s then 0 else 2

/-- HEARTBEAT_SEND, every 20 µs ± 1 µs: a HEARTBEAT frame while a session is up, and the sideband character. -/
def execHeartbeatSend (s : State) : Next :=
  if !s.pair.paired || !domainOn s 4 || decide (s.time.mono < 19000 + s.pair.hbSent) then done s
  else
    let r := reportedRole s
    let s := emit (.sideband s.pair.hbCounter r) (modPair (fun p => { p with hbSent := s.time.mono, hbCounter := (p.hbCounter + 1) % 64 }) s)
    done (sendFrame 0x10 ([BitVec.ofNat 8 r, BitVec.ofNat 8 s.pair.state.code, BitVec.ofNat 8 s.time.state.code, BitVec.ofNat 8 s.tmp.level] ++
      zeros 4 ++ leBytes 8 (s.jrn.next - 1) ++ leBytes 8 (stamp s).toNat ++ zeros 8) s)

/-- A report of the peer as active (R415). -/
def noteActive (role : Nat) (s : State) : State :=
  if role = 1 then modPair (fun p => { p with peerActiveAt := some s.time.mono }) s else s

/-- SIDEBAND_CHARACTER: valid where its counter is one more than the last valid one, or the path has been lost since (log entry 69). -/
def execSidebandCharacter (counter : BitVec 6) (role : BitVec 2) (s : State) : Next :=
  let ok := match s.pair.sideCounter with
    | none => true
    | some c => decide (counter.toNat = (c + 1) % 64)
  if !s.pair.paired || !ok then done s
  else
    let s := modPair (fun p => { p with sideCounter := some counter.toNat, sidebandAt := some s.time.mono, sideRole := role.toNat }) s
    let s := if s.pair.sidebandOk then s else note 0x263 21 [2, 2] (modPair (fun p => { p with sidebandOk := true }) s)
    done (noteActive role.toNat s)

/-- A path is judged lost: event 0x263, Tarn PAIR. -/
def losePath (sideband : Bool) (s : State) : State :=
  let s := modPair (fun p => if sideband then { p with sidebandOk := false, sideCounter := none } else { p with inbandOk := false }) s
  tarnOpen 35 1 0 false (note 0x263 21 [if sideband then 2 else 1, 1] s)

/-- PATH_LOST: nothing valid for 100 µs. -/
def execPathLost (sideband : Bool) (s : State) : Next :=
  let alive := if sideband then s.pair.sidebandOk else s.pair.inbandOk
  let last := (if sideband then s.pair.sidebandAt else s.pair.inbandAt).getD 0
  if alive && decide (100000 + last ≤ s.time.mono) then done (losePath sideband s) else done s

/-- LINK_ACK_TIMEOUT: unacknowledged frames are resent after 4 µs; after 100 µs the in-band path counts as lost (R421). -/
def execLinkAckTimeout (s : State) : Next :=
  if s.pair.replay = [] ∨ s.time.mono < 4000 + s.pair.ackAt then done s
  else
    let s := if s.pair.trained then s.pair.replay.foldl (fun s x => emit (.frame x.2) s) s else s
    done (if s.pair.inbandOk && decide (100000 + s.pair.ackAt ≤ s.time.mono) then losePath false s else s)

/-! ## The interlock (R414 to R416) -/

/-- PAIR_INHIBIT_CHANGE: the gate closes at once when the level rises. -/
def execPairInhibitChange (high : Bool) (s : State) : Next :=
  if s.pair.inhibit = high then done s
  else done (modPair (fun p => { p with inhibit := high, inhibitAt := s.time.mono, effective := p.effective && !high }) s)

/-- LIVENESS_TIMEOUT: the core die's liveness signal has not been refreshed for 200 µs. -/
def execLivenessTimeout (s : State) : Next := done (releaseActive s)

/-- The claim delay, ns. -/
def claimDelay (s : State) : Nat := if s.pair.posB then 60000 else 10000

/-- The claim conditions of R415. A HANDOVER frees the standby from the delay and from the reports of its peer; a pair member does not
claim under a Tarn FATAL either, nor while removal is safe (log entry 70). -/
def mayClaim (s : State) : Bool :=
  let p := s.pair
  let waiting := p.role == 0 && (p.state == .joining || p.state == .catchingUp || p.state == .diverged)
  s.pwr.ready && p.claimEn && !s.tmp.suspended && !(p.paired && tarnFatal s) && !waiting && !p.inhibit && !safeRemove s &&
    (p.handover || (decide (p.inhibitAt + claimDelay s ≤ s.time.mono) &&
      (match p.peerActiveAt with | some t => decide (100000 + t ≤ s.time.mono) | none => true)))

/-- PAIR_CLAIM: PAIR_ACT_OUT goes high. -/
def execPairClaim (s : State) : Next :=
  if s.pair.actOut ∨ !mayClaim s then done s
  else
    let cause := if s.pair.handover then 2 else if s.pair.role = 0 ∨ s.pair.claims ≠ 0 then 1 else 3
    done (modPair (fun p => { p with actOut := true, claimedAt := s.time.mono, claimCause := cause, claims := p.claims + 1 }) s)

end Sys2Proof.Machine
end

