-- ==== Sys2Proof/Machine/Pair.lean ====
section
/-!
DEFINITION. Execution in step, failover, hand-over, re-pairing and PAIR_STATUS (15 R422 to R445).
-/
namespace Sys2Proof.Machine

/-! ## Failover (R436) -/

/-- Jobs resolved from DONE, run to end, cancelled. -/
structure Resolved where
  /-- From DONE. -/
  fromDone : Nat
  /-- Run to their end. -/
  run : Nat
  /-- Cancelled. -/
  cancelled : Nat
  deriving DecidableEq, Repr

/-- A copy goes on as the module's own work: what its COMMIT frames have not brought is still to be committed. -/
def inherit (j : Job) (s : State) : State :=
  let s := modJob j.seq (fun x => { x with inherited := true }) s
  if j.phase = .ended ∨ j.phase = .retired then
    let s := inheritCommits j (modJob j.seq (fun x => { x with phase := .ended }) s)
    match findJob s j.seq with
    | some k => if k.commits = [] then s else gates j.seq (modJob j.seq (fun x => { x with phase := .running }) s)
    | none => s
  else s

/-- Resolve one forwarded job. -/
def resolve (f : Fwd) (x : Resolved × State) : Resolved × State :=
  let (c, s) := x
  if f.done.isSome then ({ c with fromDone := c.fromDone + 1 }, fwdGone f.seq s)
  else match findJob s f.seq with
    | some j =>
      if j.phase = .reading then ({ c with cancelled := c.cancelled + 1 }, fwdGone f.seq (jrnFinal f.seq stCancelled j.desc.noJournal s))
      else ({ c with run := c.run + 1 }, inherit j s)
    | none =>
      ({ c with cancelled := c.cancelled + 1 }, fwdGone f.seq (jrnFinal f.seq stCancelled (descOf 0 f.desc).noJournal s))

/-- The mark is kept above a sequence, with its distance of 2^31 (16 R447). -/
def markAbove (q : Nat) (s : State) : State :=
  let m := s.nv.mark.toNat
  if 2 ^ 31 + q < m then s
  else { s with nv := { s.nv with mark := s.nv.mark + BitVec.ofNat 64 (2 ^ 32 * ((2 ^ 31 + q - m) / 2 ^ 32 + 1)) } }

/-- A standby in step has become effective active without a hand-over. -/
def failover (s : State) : State :=
  let (c, s) := s.pair.fwd.foldl (fun x f => resolve f x) (⟨0, 0, 0⟩, s)
  let next := 2 ^ 20 + s.pair.highest
  let s := markAbove next { s with jrn := { s.jrn with next := next } }
  pairTo .alone 1 (note 0x266 21 [c.fromDone, c.run, c.cancelled, next] s)

/-- The module is effective active (R415 step 3). -/
def becomeActive (s : State) : State :=
  if s.pair.role = 1 then modPair (fun p => { p with effective := true }) s
  else
    let standby := s.pair.role = 0 ∧ s.pair.state = .inStep
    let planned := s.pair.handover
    let s := modPair (fun p => { p with effective := true, role := 1, handover := false }) s
    let s := sendMsix 0 51 (note 0x262 21 [1, s.pair.claimCause] s)
    if standby ∧ !planned then failover s else s

/-- CLAIM_CHECK: 2 µs after the claim PAIR_INHIBIT_IN is sampled. High, position B lets go; low for 2 µs, the module is effective
active. -/
def execClaimCheck (s : State) : Next :=
  let p := s.pair
  if !p.actOut || p.effective || decide (s.time.mono < 2000 + p.claimedAt) then done s
  else if p.inhibit then
    (if p.posB then done (note 0x262 21 [if p.role = 1 then 2 else p.role, 4]
        (modPair (fun p => { p with actOut := false, role := if p.role = 1 then 2 else p.role }) s))
     else done s)
  else if s.time.mono < 2000 + p.inhibitAt then done s
  else done (becomeActive s)

/-! ## The standby's copies (R424, R428) -/

/-- Change the record of a forwarded job. -/
def modFwd (q : Nat) (f : Fwd → Fwd) (s : State) : State :=
  modPair (fun p => { p with fwd := p.fwd.map fun x => if x.seq = q then f x else x }) s

/-- The module receives forwarded work. -/
def standsBy (s : State) : Bool := s.pair.role == 0 && (s.pair.state == .inStep || s.pair.state == .catchingUp)

/-- The stretch of a read stream from 0 on that has arrived whole. -/
def streamHead : Nat → List (Nat × Bytes) → Bytes
  | _, [] => []
  | at_, (o, b) :: r => if o = at_ then b ++ streamHead (at_ + b.length) r else []

/-- Bytes `a` to `a + n` of a job's read stream, once they are all there. -/
def streamBytes (f : Fwd) (a n : Nat) : Option Bytes :=
  let all := streamHead 0 f.data
  if a + n ≤ all.length then some (slice all a n) else none

/-- A result of the standby that the active does not share: the pair diverges, and the active hears of it (R424, R433). -/
def differs (j : Job) (st : W16) (s : State) : State :=
  diverge j.seq j.part j.desc.opcode (zeros 16) (zeros 16) (sendResult j.seq st 1 (zeros 16) s)

/-- The judgement of key periods on the standby: what the active bound holds; otherwise DISPATCH's NTB under the state of the admission
stamp decides (R34 of 02; log entry 71). -/
def fwdPeriod (s : State) (f : Fwd) (bound : Bool) (now : Nat) (a : Attrs) : Bool :=
  let st : NtbState := match f.stamp.toNat % 4 with | 0 => .unset | 1 => .locked | 2 => .holdover | _ => .free
  bound || periodOk { s with time := { s.time with state := st } } now a

/-- Which of the bindings of DISPATCH a role is: bindings are counted in order. -/
def roleOrder (j : Job) (second : Bool) : Nat :=
  if second then (if (roleOf j.desc false).isSome && !unbound j.desc false && !(j.desc.handle false == 0 && (match roleOf j.desc false with | some r => r.zero | none => true)) then 1 else 0) else 0

/-- Take a blob in from a copy's read stream: entry, then blob, with the checks of BLOB_LOAD (05 R131, R132). `true` when it is loaded. -/
def copyBlob (j : Job) (f : Fwd) (second : Bool) (index : Nat) (s : State) : Bool × State :=
  match streamBytes f j.blobBytes 16 with
  | none => (false, s)
  | some e =>
    let a := leField e 0 8
    let n := leField e 8 4
    let fail (check : Nat) (st : W16) (s : State) : State := endJob j.seq st .ran (note 0x104 4 [j.part, hIndex (j.desc.handle second), check] s)
    if n = 0 ∨ !zeroAt e 12 16 then (false, fail 0 stKeyGone s)
    else if !inWindow (partAt s j.part).cfg j.part a n then (false, endJob j.seq stAccess .ran s)
    else match streamBytes f (j.blobBytes + 16) n with
      | none => (false, s)
      | some b =>
        match loadBlob j.part index b s with
        | none => (false, s)
        | some (.error (st, check)) => (false, fail check st s)
        | some (.ok s) => (true, modJob j.seq (fun x => { x with blobBytes := x.blobBytes + 16 + n }) s)

/-- Bind one role of a copy: `true` when it is bound or needs nothing. `fuel` lets a blob be loaded first. -/
def copyBind (q : Nat) (second : Bool) : Nat → State → Bool × State
  | 0, s => (false, s)
  | n + 1, s =>
    match findJob s q, fwdOf s q with
    | some j, some f =>
      (match f.dispatched with
       | none => (false, s)
       | some (now, bound, gA, gB) =>
         if j.phase ≠ .reading then (false, s)
         else if !j.unboundRole second then (true, s)
         else
           let told := decide (roleOrder j second < bound)
           let blob := hType (j.desc.handle second) == 1
           let late := blob || (second && decide (bound = 0) && hType j.desc.keyA == 1) || j.desc.opcode == 0x0307
           match bindRole s j second (fwdPeriod s f told now) (some (if second then gB else gA)) with
           | .got b s' =>
             if !told && !late then (false, differs j stOk s)
             else (true, modJob q (fun x => if second then { x with keyB := b } else { x with keyA := b }) s')
           | .load i =>
             if told then (false, differs j stKeyGone s)
             else
               let (ok, s) := copyBlob j f second i s
               if ok then copyBind q second n s else (false, s)
           | .wait => (false, s)
           | .err st s' => if told then (false, differs j st s') else (false, endJob q st .ran s'))
    | _, _ => (false, s)

/-- Carry a copy as far as it can go: bind A, then B, take its input from the stream, ask for its unit. -/
def copyProgress (q : Nat) (s : State) : State :=
  let (a, s) := copyBind q false 3 s
  if !a then s else
  let (b, s) := copyBind q true 3 s
  if !b then s else
  match findJob s q, fwdOf s q with
  | some j, some f =>
    if j.phase ≠ .reading then s else
    match (if j.desc.inlined then some [] else streamBytes f j.blobBytes j.desc.inLen) with
    | none => s
    | some inp =>
      let s := if j.desc.inlined then s else modJob q (fun x => { x with pieces := if inp = [] then [] else [(0, inp)] }) s
      let s := match findJob s q with | some j => inputHandle j s | none => s
      let (b, s) := copyBind q true 3 s
      match findJob s q with
      | some j => if b then toUnit j s else s
      | none => s
  | _, _ => s

/-- Copies that wait for a place in the blob cache go on as others end. -/
def copiesAll (s : State) : State :=
  ((s.jobs.filter fun j => j.copied && j.phase == .reading).map (·.seq)).foldl (fun s q => copyProgress q s) s

/-! ## Frames of forwarded work (R422 to R429) -/

/-- ADMIT: the standby journals the sequence with its stamp and status. -/
def execAdmit (frame : Bytes) (s : State) : Next :=
  match receive 0x20 frame s with
  | none => done s
  | some (b, s) =>
    if !standsBy s then done s
    else
      let q := leField b 0 8
      let p := (byteAt b 16).toNat
      let r := (byteAt b 17).toNat
      let st := BitVec.ofNat 16 (leField b 18 2)
      let d := slice b 32 64
      let s := { s with jrn := { s.jrn with next := Nat.max s.jrn.next (q + 1) }, pair := { s.pair with highest := Nat.max s.pair.highest q } }
      let s := jrnAdd {
        seq := q, stamp := BitVec.ofNat 64 (leField b 8 8), part := p, ring := r, index := leField b 20 4,
        opcode := BitVec.ofNat 16 (leField d 0 2), status := st, digest := sha256Head 6 d } (descOf 0 d).noJournal s
      if st = stRunning then
        done (modPair (fun x => { x with fwd := x.fwd ++ [{
          seq := q, stamp := BitVec.ofNat 64 (leField b 8 8), part := p, ring := r, status := st, index := leField b 20 4, desc := d,
          dispatched := none, keyA := none, keyB := none, data := [], random := [], commits := [], before := none, done := none,
          result := none }] }) s)
      else done (sendJack p q s)

/-- DISPATCH: the copy is dispatched, and binds its keys. -/
def execDispatchFrame (frame : Bytes) (s : State) : Next :=
  match receive 0x21 frame s with
  | none => done s
  | some (b, s) =>
    let q := leField b 0 8
    match (if standsBy s then fwdOf s q else none) with
    | none => done s
    | some f =>
      if f.dispatched.isSome then done s
      else
        let now := leField b 8 8
        let s := modFwd q (fun f => { f with dispatched := some (now, (byteAt b 16).toNat, leField b 28 4, leField b 36 4) }) s
        let at_ := f.stamp.toNat / 4 * 4
        let j := { newJob s f.part f.ring f.index (descOf at_ f.desc) stOk with
          seq := q, admitted := at_, phase := .reading, ran := true, fwd := true }
        done (copyProgress q { s with jobs := s.jobs ++ [j] })

/-- DATA: a piece of a copy's read stream. -/
def execDataFrame (frame : Bytes) (s : State) : Next :=
  match receive 0x22 frame s with
  | none => done s
  | some (b, s) =>
    let q := leField b 0 8
    if !standsBy s then done s
    else done (copyProgress q (modFwd q (fun f => { f with data := Tab.put f.data (leField b 8 4) (slice b 16 (Nat.min 4096 (leField b 12 4))) }) s))

/-- RANDOM: a piece of a copy's random stream. -/
def execRandomFrame (frame : Bytes) (s : State) : Next :=
  match receive 0x23 frame s with
  | none => done s
  | some (b, s) =>
    let q := leField b 0 8
    if !standsBy s then done s
    else done (modFwd q (fun f => { f with random := Tab.put f.random (leField b 12 4) (slice b 16 (Nat.min 4096 (leField b 10 2))) }) s)

/-- The loaded curves by partition. -/
def curvesOf (s : State) (p : Nat) : Tab (Option Curve) := (partAt s p).curves

/-- A record is newer than the object held (R440 step 3): an object with no commit noted takes any. -/
def newer (s : State) (q kind index : Nat) : Bool :=
  let held := Tab.get 0 s.pair.commitSeqs (objectKey kind index)
  held == 0 || decide (held < q)

/-- Write a commit or snapshot record, and note its sequence. TR-34 entries add up: one already held is not added again (log entry 72). -/
def putRecord (q kind index : Nat) (b : Bytes) (s : State) : State :=
  match commitOf (curvesOf s) kind index b with
  | some (.tr34 p e) => if (partAt s p).tr34.contains e then s else applyCommit q s (.tr34 p e)
  | some c => noteCommits q [(kind, index)] (applyCommit q s c)
  | none => s

/-- A node written by a creation finds its slots taken (R425). -/
def conflicts (s : State) (f : Fwd) (kind index : Nat) (b : Bytes) : Bool :=
  let d := descOf 0 f.desc
  kind == 1 && createsNode d && !(d.opcode == 0x0201 && d.keyA == 0) &&
    ((nodeAt s index).state != .free ||
     (List.range (nodeOf b 0).extCount).any fun k => (nodeAt s ((nodeOf b 0).extFirst + k)).state != .free)

/-- COMMIT: in the order of the frames, at the index each names. What stood before a copy's first is kept for its run (log entry 39). -/
def execCommitFrame (frame : Bytes) (s : State) : Next :=
  match receive 0x24 frame s with
  | none => done s
  | some (b, s) =>
    let q := leField b 0 8
    let kind := (byteAt b 8).toNat
    let index := leField b 12 4
    let c := b.drop 24
    if s.pair.role ≠ 0 then done s
    else match fwdOf s q with
      | some f =>
        let ended := match findJob s q with | some j => j.ended | none => false
        if conflicts s f kind index c then
          done (diverge q f.part (descOf 0 f.desc).opcode (zeros 16) (zeros 16) (sendResult q stOk 1 (zeros 16) s))
        else
          let keep := if f.before.isNone && !ended then some (s.mas, s.parts, s.vault) else f.before
          done (putRecord q kind index c (modFwd q (fun f => { f with before := keep, commits := f.commits ++ [(kind, index, c)] }) s))
      | none =>
        if (s.pair.state = .joining ∨ s.pair.state = .catchingUp) ∧ (kind = 8 ∨ newer s q kind index) then done (putRecord q kind index c s)
        else done s

/-- DONE: the status is journalled and JACK is sent; then the results are compared (R427, R428, R431). -/
def execDoneFrame (frame : Bytes) (s : State) : Next :=
  match receive 0x25 frame s with
  | none => done s
  | some (b, s) =>
    let q := leField b 0 8
    match (if standsBy s then fwdOf s q else none) with
    | none => done s
    | some f =>
      let st := BitVec.ofNat 16 (leField b 8 2)
      let s := modFwd q (fun f => { f with done := some (st, (byteAt b 10).toNat, leField b 24 4, slice b 32 16) }) s
      let s := sendJack f.part q (jrnFinal q st (descOf 0 f.desc).noJournal s)
      done (copiesAll (fwdSettle q s))

/-- RESULT: the standby has retired its copy: the slot is released, or the pair diverges (R428, R429). -/
def execResultFrame (frame : Bytes) (s : State) : Next :=
  match receive 0x30 frame s with
  | none => done s
  | some (b, s) =>
    let q := leField b 0 8
    match findJob s q with
    | none => done s
    | some j =>
      if !forwardsJob s q ∨ j.copied then done s
      else
        let own := match s.pair.digests.find? (fun x => x.1 == q) with | some (_, _, d) => d | none => zeros 16
        if byteAt b 10 = 1 then done (diverge q j.part j.desc.opcode own (slice b 16 16) s)
        else if j.phase = .lag then done (dropJob q s)
        else done (modJob q (fun x => { x with resulted := true }) s)

/-- JACK: the completions named may be written; the time since DONE is the peer's journalling time (R431; 04 R81). -/
def execJack (frame : Bytes) (s : State) : Next :=
  match receive 0x31 frame s with
  | none => done s
  | some (b, s) =>
    let qs := (List.range (Nat.min 8 (byteAt b 0).toNat)).map fun i => leField b (8 + 8 * i) 8
    let mark (j : Job) : Job := if qs.contains j.seq && !j.fwd then { j with jacked := true } else j
    let now := s.time.mono
    let seen := (s.pair.digests.filter fun x => qs.contains x.1).map fun x => (now, now - x.2.1)
    done { s with
      jobs := s.jobs.map mark, refused := s.refused.map mark
      cirq := { s.cirq with mirrors := (s.cirq.mirrors.filter fun x => decide (now ≤ 1000000 + x.1)) ++ seen } }

/-- HEARTBEAT: the peer's role and state. An active whose standby fell back to JOINING streams again; a standby follows its active into
IN_STEP; a member whose peer is in no pair is ALONE (R440, R442; log entry 73). -/
def peerState (n : Nat) (s : State) : State :=
  let settled := s.pair.replay = []
  let mine := s.pair.state
  if s.pair.role = 0 ∧ mine = .catchingUp ∧ n = 4 then
    let s := modPair (fun p => { p with divSeq := 0, divPart := 0, divOpcode := 0, inStepSeq := p.highest, snapCount := 0, snapBytes := [] }) s
    note 0x267 21 [2, b2n s.pair.vaultCopy] (pairTo .inStep 0 s)
  else if settled ∧ n ≤ 1 ∧ (mine = .joining ∨ mine = .catchingUp ∨ mine = .inStep) then becomeAlone 0 s
  else s

/-! ## Catch-up (R440) -/

/-- Every SNAPSHOT record: kind, index, contents. Vault records go only where the vault is copied; curves precede the keys on them. -/
def snapshotRecords (s : State) (copy : Bool) : List (Nat × Nat × Bytes) :=
  let parts := (s.parts.filter fun x => existsPart s x.1)
  let per {α : Type} (kind scale : Nat) (t : Part → Tab (Option α)) (f : α → Bytes) : List (Nat × Nat × Bytes) :=
    parts.flatMap fun x => (t x.2).filterMap fun e => e.2.map fun c => (kind, x.1 * scale + e.1, f c)
  let left := match s.vault.window with
    | some w => [Commit.window w.cells (ceilDiv (w.until_ - s.time.mono) 1000000000)]
    | none => []
  let load := match s.vault.load with | some l => [Commit.pendingLoad (some l)] | none => []
  let policy := if s.vault.policy = [] then [] else
    [Commit.policy ((List.range 7).map fun i => (Tab.get none s.vault.policy i).getD { response := 0, n := 0, w := 0 })]
  let vault : List Commit :=
    if !copy then [] else
    (s.vault.parts.map fun x => Commit.vault x.1 x.2) ++ ((List.range 32).map fun c => Commit.custodian c (custEntry s c) (custPub s c)) ++
      [Commit.rules (allRules s)] ++ policy ++ left ++ load
  let nodes : List Commit := s.mas.nodes.filterMap fun x => match x.2.state with
    | .current => some (Commit.node x.1 x.2)
    | .free => some (Commit.freeNode x.1 x.2.gen x.2.owner)
    | _ => none
  vault.map Commit.record ++ (parts.map fun x => (6, x.1, cfgBytes x.2.cfg)) ++ per 4 4 (·.curves) (·.raw) ++ nodes.map Commit.record ++
    per 3 65536 (·.ctxs) ctxBytes ++ per 5 16 (·.dectabs) (fit 16) ++
    parts.flatMap fun x => x.2.tr34.map fun e => (Commit.tr34 x.1 e).record

/-- The payload of a SNAPSHOT frame, padded as it travels. -/
def snapshotPayload (s : State) (r : Nat × Nat × Bytes) : Bytes :=
  framePayload (leBytes 8 (Tab.get 0 s.pair.commitSeqs (objectKey r.1 r.2.1)) ++ [BitVec.ofNat 8 r.1, 0, 0, 0] ++ leBytes 4 r.2.1 ++ r.2.2)

/-- The active streams every lasting object and the cut, and forwards what comes after it. -/
def streamAll (s : State) : State :=
  let ps := (snapshotRecords s s.pair.vaultCopy).map (snapshotPayload s)
  let c := s.jrn.next - 1
  let s := ps.foldl (fun s b => sendFrame 0x41 b s) s
  let s := sendFrame 0x42 (leBytes 8 c ++ leBytes 8 ps.length ++ sha384B ps.flatten) s
  modPair (fun p => { p with cut := some c }) s

/-- Catch-up starts, by PAIR_STATUS `q` or AUTO_JOIN. -/
def startCatchup (q : Option Nat) (copy : Bool) (s : State) : State :=
  let s := modPair (fun p => { p with catchJob := q, vaultCopy := copy }) s
  let s := note 0x267 21 [1, b2n copy] (pairTo .catchingUp 0 s)
  streamAll s

/-- A free bit: what no frame carries of the peer (R439 checks 2 and 3; log entry 74). -/
def freeBit : Cmd Bool := fun s => let (n, s) := freeBelow 2 s; .ok (n == 1, s)

/-- Check 1 of R439. -/
def repairOk (s : State) : Bool := s.pair.session && s.pair.peerLc == 3 && lcCode s == 3

/-- The module may bring its peer into step. -/
def mayRepair (s : State) : Bool := s.pair.effective && (s.pair.state == .alone || s.pair.state == .diverged)

/-- PAIR_STATUS with byte 56 = 1. -/
def repairRun (j : Job) : Cmd Run := do
  let s ← get
  if j.phase = .waiting then
    if s.pair.state = .inStep then return Run.output [] else Cmd.hold
  else do
    Cmd.need (mayRepair s && repairOk s) stStateReject
    let same ← freeBit
    Cmd.need same stStateReject
    let matching ← freeBit
    if matching then do
      Cmd.of (noInput j)
      modify (startCatchup (some j.seq) false)
      Cmd.hold
    else do
      let boot ← freeBit
      Cmd.need boot stAuthRequired
      judge j 8 0 (actionDigest j 0) none
      modify (startCatchup (some j.seq) true)
      Cmd.hold

def execPairStatusRepair (seq : Nat) (s : State) : Next := done (runOp 0x0112 (fun j => j.desc.par 56 == 1) repairRun seq s)

/-- AUTO_JOIN: the same without a command, where the checks hold without a copy. -/
def autoJoin (s : State) : State :=
  if !(s.pair.autoJoin && mayRepair s && repairOk s) then s
  else
    let (a, s) := freeBelow 2 s
    let (b, s) := freeBelow 2 s
    if a = 1 ∧ b = 1 then startCatchup none false s else s

/-- CONFIRM: the transcripts agree, and the session is up (R418). -/
def execConfirm (frame : Bytes) (s : State) : Next :=
  match receive 0x03 frame s with
  | none => done s
  | some (b, s) =>
    match s.pair.transcript with
    | none => done s
    | some t =>
      if b.take 48 ≠ t then done (failHandshake 3 s)
      else done (autoJoin (modPair (fun p => { p with session := true, offer := none, chain := [], chainLen := 0, retryAt := none }) s))

/-- HEARTBEAT. -/
def execHeartbeat (frame : Bytes) (s : State) : Next :=
  match receive 0x10 frame s with
  | none => done s
  | some (b, s) =>
    let role := (byteAt b 0).toNat
    let n := (byteAt b 1).toNat
    let s := modPair (fun p => { p with
      peerRole := role, peerLevel := leField b 1 3, highest := if p.role = 1 ∧ role = 0 then leField b 8 8 else p.highest }) s
    let s := noteActive role s
    if s.pair.role = 1 ∧ s.pair.state = .catchingUp ∧ n = 2 ∧ s.pair.replay = [] then
      done (streamAll (note 0x267 21 [3, b2n s.pair.vaultCopy] s))
    else done (peerState n s)

/-- A module enters JOINING: its main-domain state is cleared and forwarded work dropped (step 1). -/
def join (s : State) : State :=
  let s := clearMain (modPair (fun p => { p with role := 0 }) s)
  note 0x267 21 [1, 0] (pairTo .joining 0 (modPair (fun p => { p with vaultCopy := false }) s))

/-- SNAPSHOT: the first begins the catch-up; a vault record waits for the end of the stream (steps 1 to 3). -/
def execSnapshot (frame : Bytes) (s : State) : Next :=
  match receive 0x41 frame s with
  | none => done s
  | some (b, s) =>
    if s.pair.actOut ∨ !s.pair.paired then done s
    else
      let s := if s.pair.state = .joining then s else join s
      let q := leField b 0 8
      let kind := (byteAt b 8).toNat
      let index := leField b 12 4
      let c := b.drop 16
      let s := modPair (fun p => { p with snapCount := p.snapCount + 1, snapBytes := p.snapBytes ++ b }) s
      if kind = 7 then done (modPair (fun p => { p with snapVault := p.snapVault ++ [(index, c)], vaultCopy := true }) s)
      else if kind = 8 ∨ newer s q kind index then done (putRecord q kind index c s)
      else done s

/-- The copied vault replaces the own one in one step (step 2). -/
def takeVault (s : State) : State :=
  if s.pair.snapVault = [] then s
  else
    let rs := s.pair.snapVault
    let s := setVault { s.vault with
      parts := [(0, { VaultPart.absent with exists_ := true })], custodians := [], rules := [], policy := [], window := none, load := none } s
    rs.foldl (fun s r => putRecord 0 7 r.1 r.2 s) s

/-- SNAPSHOT_END: count and digest are checked; a failure returns to step 1 (step 4). -/
def execSnapshotEnd (frame : Bytes) (s : State) : Next :=
  match receive 0x42 frame s with
  | none => done s
  | some (b, s) =>
    if s.pair.state ≠ .joining ∨ s.pair.role ≠ 0 then done s
    else if leField b 8 8 = s.pair.snapCount ∧ slice b 16 48 = sha384B s.pair.snapBytes then
      let c := leField b 0 8
      let s := takeVault s
      let s := modPair (fun p => { p with snapCount := 0, snapBytes := [], snapVault := [], highest := c }) { s with jrn := { s.jrn with next := c + 1 } }
      done (pairTo .catchingUp 0 s)
    else done (clearMain (note 0x267 21 [3, b2n s.pair.vaultCopy] s))

/-- CATCHUP_IN_STEP: every job up to the cut has retired (step 5). -/
def execCatchupInStep (s : State) : Next :=
  match s.pair.cut with
  | none => done s
  | some c =>
    let open_ := s.jobs.any fun j => decide (j.seq ≤ c) && s.pair.catchJob != some j.seq && j.phase != .retired && j.phase != .lag && !j.copied
    if s.pair.role ≠ 1 ∨ s.pair.state ≠ .catchingUp ∨ open_ then done s
    else
      let s := modPair (fun p => { p with
        cut := none, catchJob := none, divSeq := 0, divPart := 0, divOpcode := 0, inStepSeq := s.jrn.next - 1 }) s
      done (note 0x267 21 [2, b2n s.pair.vaultCopy] (pairTo .inStep 0 s))

/-! ## Leaving (R433, R441) -/

/-- DETACH from the peer. -/
def execDetach (frame : Bytes) (s : State) : Next :=
  match receive 0x44 frame s with
  | none => done s
  | some (b, s) =>
    let c := (byteAt b 0).toNat
    let st := s.pair.state
    if st = .solo ∨ st = .alone ∨ st = .diverged then done s
    else if c = 2 then done (diverge 0 0 0 (zeros 16) (zeros 16) s)
    else done (becomeAlone c s)

/-- PAIR_CTRL_DETACH: a standby clears its main-domain state and is ALONE; an active in DIVERGED is ALONE and clears nothing. -/
def execPairCtrlDetach (s : State) : Next := served s <|
  let standby := s.pair.role = 0
  match s.pair.state with
  | .solo => done s
  | .alone => done s
  | .diverged =>
    let s := pairTo .alone 1 (modPair (fun p => { p with role := if p.role = 0 then 2 else p.role }) s)
    done (if standby then clearMain s else s)
  | _ =>
    let s := detach 1 s
    done (if standby then clearMain s else s)

/-! ## Hand-over (R438) -/

/-- PAIR_STATUS with byte 56 = 2: the active stops fetching; the command ends once HANDOVER has gone. The standby's copy waits for
nothing. -/
def handoverRun (j : Job) : Cmd Run := do
  Cmd.of (noInput j)
  let s ← get
  if j.fwd then return Run.output []
  else if j.phase = .waiting then
    if s.pair.handing = some j.seq ∧ s.pair.handover then return Run.output [] else Cmd.hold
  else do
    Cmd.need (s.pair.role == 1 && s.pair.state == .inStep && s.pair.handing.isNone) stStateReject
    modify (modPair fun p => { p with handing := some j.seq, handover := false })
    Cmd.hold

def execPairStatusHandover (seq : Nat) (s : State) : Next := done (runOp 0x0112 (fun j => j.desc.par 56 == 2) handoverRun seq s)

/-- The role goes to the peer, the pair staying in step. -/
def letGo (s : State) : State :=
  note 0x262 21 [0, 2] (modPair (fun p => { p with role := 0, handing := none, handover := false, digests := [] }) (releaseActive s))

/-- The HANDOVER frame. -/
def sendHandover (s : State) : State := sendFrame 0x40 (leBytes 8 (s.jrn.next - 1) ++ zeros 24) s

/-- HANDOVER_DRAINED: every admitted job has retired on both modules, and HANDOVER goes out; then, for PAIR_STATUS once its completion is
written, PAIR_ACT_OUT goes low. -/
def execHandoverDrained (s : State) : Next :=
  match s.pair.handing with
  | none => done s
  | some q =>
    let others := s.jobs.any (fun j => j.seq != q && !j.copied) || decide (s.refused ≠ [])
    if others then done s
    else if q = 0 then done (letGo (sendHandover s))
    else if !s.pair.handover then done (modPair (fun p => { p with handover := true }) (sendHandover s))
    else if s.jobs.any (fun j => j.seq == q && j.live) then done s
    else done (letGo s)

/-- HANDOVER: the standby claims at once. -/
def execHandover (frame : Bytes) (s : State) : Next :=
  match receive 0x40 frame s with
  | none => done s
  | some (b, s) =>
    if s.pair.role ≠ 0 ∨ s.pair.state ≠ .inStep then done s
    else
      let q := leField b 0 8
      done (modPair (fun p => { p with handover := true, highest := Nat.max p.highest q })
        { s with jrn := { s.jrn with next := Nat.max s.jrn.next (q + 1) } })

/-! ## PAIR_STATUS read (R442) -/

/-- The 64 bytes. -/
def pairStatusBytes (s : State) : Bytes :=
  let p := s.pair
  [BitVec.ofNat 8 p.state.code, BitVec.ofNat 8 p.role, BitVec.ofNat 8 (b2n p.posB),
   BitVec.ofNat 8 (flagAt p.inbandOk 0 + flagAt p.sidebandOk 1 + flagAt p.inhibit 2 + flagAt p.actOut 3), BitVec.ofNat 8 (laneCount p.lanes)] ++
  zeros 3 ++ fit 16 p.peerSerial ++ leBytes 8 p.inStepSeq ++ leBytes 8 p.highest ++ leBytes 8 p.divergences ++ leBytes 8 p.claims ++
  leBytes 8 (stamp s).toNat

/-- PAIR_STATUS with byte 56 = 0: in DIVERGED it ends with ST_DIVERGED and writes its output all the same (R433). -/
def pairReadRun (j : Job) : Cmd Run := do
  Cmd.of (noInput j)
  let out ← share j.seq 64 fun s => (pairStatusBytes s, s)
  return { Run.output out with st := if byteAt out 0 = 5 then stDiverged else stOk }

def execPairStatusRead (seq : Nat) (s : State) : Next := done (runOp 0x0112 (fun j => j.desc.par 56 == 0) pairReadRun seq s)

end Sys2Proof.Machine
end

