-- ==== Sys2Proof/Machine/Pmc.lean ====
section
/-!
DEFINITION. The counter block's commands (18_performance_counters.md): clear, sample ring, dump rings and dumps.
-/
namespace Sys2Proof.Machine

/-- PMC_CLEAR_ALL: every counter is cleared (R494). -/
def execPmcClearAll (s : State) : Next :=
  served s <| done { s with pmc := { s.pmc with
    counters := (s.pmc.counters.map fun x => (x.1, { x.2 with value := 0 })).filter fun x => x.2 ≠ Counter.reset } }

/-- PMC_SR_CFG_WRITE: the sample ring of partition 0 (R500, R505); it has no error flag. -/
def execPmcSrCfgWrite (value : W32) (s : State) : Next :=
  served s <|
  let k := bitsOf value.toNat 4 0
  let h := ringCfg (hostRingOk (partAt s 0).cfg 0 4 16 k s.pmc.ring.base.toNat 32) true k (value.getLsbD 8) s.pmc.ring
  done { s with pmc := { s.pmc with ring := { h with cfgErr := false } } }

/-- PMC_P_DUMP_CFG_WRITE: a partition's dump ring (R503, R505). The period counts from the enable. -/
def execPmcPDumpCfgWrite (p : Fin 256) (value : W32) (s : State) : Next :=
  served s <|
  let x := partAt s p
  let k := bitsOf value.toNat 4 0
  let period := bitsOf value.toNat 31 20
  let h := ringCfg (hostRingOk x.cfg p 4 16 k x.dump.base.toNat 128) (period == x.dumpPeriod) k (value.getLsbD 8) x.dump
  done (modPart p (fun y => { y with
    dump := h, dumpPeriod := if x.dump.en then y.dumpPeriod else period, dumpLast := if h.en ∧ !x.dump.en then s.time.mono else y.dumpLast }) s)

/-- The dump period, ns. -/
def dumpNs (x : Part) : Nat := 1000000 * clampTo 1 1000 x.dumpPeriod

/-- PMC_DUMP: the period has passed. A dump that falls due during a partition reset waits for its end; a completed quiesce stops dumps (19
R522). -/
def execPmcDump (p : Fin 256) (s : State) : Next :=
  let x := partAt s p
  if !x.dump.en ∨ s.pwr.quiesce = 3 ∨ s.time.mono < x.dumpLast + dumpNs x then done s
  else
    let s := modPart p (fun y => { y with dumpLast := y.dumpLast + dumpNs x }) s
    if x.resetting.isSome then done (modPart p (fun y => { y with dumpOwed := some x.dump }) s)
    else
      let (h, s) := dumpInto p x.dump s
      done (modPart p (fun y => { y with dump := h }) s)

end Sys2Proof.Machine
end

