-- ==== Sys2Proof/Machine/RegMap.lean ====
section
/-!
DEFINITION. The register map as reads see it (21_register_reference.md): which registers each function has, where, how wide, and the value
each one shows, with the layouts of the chapters that own them. Offsets are those of the function's BAR0; a register that is write-only
reads zero (00 R7).
-/
namespace Sys2Proof.Machine

/-- A register that starts at an offset: whether it is 64 bits wide, and what a read of it returns. -/
abbrev RegVal := Option (Bool × Nat)

/-- A 32-bit register. -/
def r32 (v : Nat) : RegVal := some (false, v % 2 ^ 32)
/-- A 64-bit register. -/
def r64 (v : Nat) : RegVal := some (true, v % 2 ^ 64)

/-- Slot and partition of a job, as owner fields show them. -/
def ownerFields (s : State) (q : Nat) : Nat :=
  match findJob s q with
  | some j => j.slot % 2 ^ 15 * 2 ^ 8 + j.part
  | none => 0

/-- A microsecond count that reads 0 only at its end. -/
def usLeft (now end_ : Nat) : Nat := ceilDiv (end_ - now) 1000

/-! ## SYS and MSI-X (21 R551 to R555) -/

/-- The lock bit of block `b` (21 R554). -/
def lockBit (s : State) (b : Nat) : Bool :=
  match b with
  | 0 => s.time.lock
  | 1 => s.cirq.lock
  | 2 => s.eng.newtLock
  | 3 => s.eng.iguLock
  | 4 => s.rng.lock
  | 5 => s.pair.lock
  | 6 => s.scr.lock
  | 7 => s.tarn.lock
  | 8 => s.pmc.lock
  | 9 => s.pwr.lock
  | _ => false

/-- SYS_LOCK. -/
def sysLock (s : State) : Nat := ((List.range 10).map fun b => flagAt (lockBit s b) b).sum

/-- SYS_STATUS. -/
def sysStatus (s : State) : Nat :=
  flagAt s.pwr.ready 0 + flagAt s.tmp.suspended 1 + flagAt (tarnFatal s) 2 + flagAt s.pair.effective 3 + flagAt (s.pwr.quiesce == 3) 4 +
    flagAt s.dbg.open_ 5 + s.time.state.code * 2 ^ 6 + lcCode s * 2 ^ 8

/-- The MSI-X table of a function: 16 bytes an entry. -/
def msixTable (s : State) (p o : Nat) : RegVal :=
  let v := vectorAt s p (o / 16)
  match o % 16 with
  | 0 => r32 v.addr.toNat
  | 4 => r32 (v.addr.toNat / 2 ^ 32)
  | 8 => r32 v.data.toNat
  | 12 => r32 (b2n v.mask)
  | _ => none

/-- The pending bits of a function's `n` vectors. -/
def msixPba (s : State) (p n : Nat) : Nat := ((List.range n).map fun v => flagAt (vectorAt s p v).pend v).sum

/-- The SYS block, with the MSI-X structures of the physical function. -/
def sysReg (s : State) (o : Nat) : RegVal :=
  if 0x8000 ≤ o ∧ o < 0x8400 then msixTable s 0 (o - 0x8000)
  else match o with
  | 0x00 => r32 0x09600100
  | 0x04 => r32 (Config.part.toNat + Config.build.toNat * 2 ^ 8 + fwVersion s % 256 * 2 ^ 16)
  | 0x08 => r32 (sysStatus s)
  | 0x10 => r32 s.sys.scratch.toNat
  | 0x18 => r32 (sysLock s)
  | 0x20 => r32 s.sys.accErr.toNat
  | 0x24 => r32 s.sys.accAddr.toNat
  | 0x9000 => r64 (msixPba s 0 64)
  | _ => none

/-! ## TIME (02 R37 to R39) -/

/-- TIME_STATUS. -/
def timeStatus (s : State) : Nat :=
  let t := s.time
  let seen := match t.lastEdge with
    | some e => decide (t.mono ≤ 1500000000 + e)
    | none => false
  t.state.code + t.src * 2 ^ 2 + flagAt t.slew.isSome 4 + flagAt seen 5 + flagAt t.todValid 6 + flagAt t.ptmOk 7

/-- The TIME block. -/
def timeReg (s : State) (o : Nat) : RegVal :=
  let t := s.time
  match o with
  | 0x00 => r32 (t.src + t.ptmPeriod * 2 ^ 8 + flagAt t.todTx 12 + flagAt t.lock 31)
  | 0x08 => r32 (timeStatus s)
  | 0x10 => r64 t.ntb.toNat
  | 0x18 => r32 (errBound s)
  | 0x20 => r64 t.ptmOffset.toNat
  | 0x28 => r64 0
  | 0x30 => r32 0
  | 0x38 => r32 t.frameErr.toNat
  | _ => none

/-! ## Ring sets (03 R43 to R47) -/

/-- The ring sets of a partition: 64 bytes each. -/
def ringReg (s : State) (p o : Nat) : RegVal :=
  if 0x400 ≤ o then none else
  let r := o / 0x40
  let g := ringAt s p r
  match o % 0x40 with
  | 0x00 => r64 g.sqBase.toNat
  | 0x08 => r64 g.cqBase.toNat
  | 0x10 => r32 g.log2
  | 0x14 => r32 (g.vector + flagAt g.errInt 7 + g.count * 2 ^ 8 + g.timer * 2 ^ 16)
  | 0x18 => r32 (b2n g.en)
  | 0x1C => r32 (ringStatus s p r)
  | 0x20 => r32 g.sqHead
  | 0x24 => r32 g.sqTail
  | 0x28 => r32 (g.cqTail + flagAt g.phase 31)
  | 0x2C => r32 g.cqHead
  | _ => none

/-! ## CIRQ (04 R101 to R104) -/

/-- The CIRQ block. -/
def cirqReg (s : State) (o : Nat) : RegVal :=
  let x := partAt s s.sys.cirqSel
  if 0x40 ≤ o ∧ o < 0x58 ∧ o % 4 = 0 then r32 (segMax ((o - 0x40) / 4))
  else match o with
  | 0x00 => r32 (s.cirq.guard + s.cirq.pke * 2 ^ 16 + flagAt s.cirq.lock 31)
  | 0x08 => r32 (cirqStatus s)
  | 0x10 => r32 (hostRd s)
  | 0x14 => r32 (mirrorRtt s)
  | 0x20 => r32 s.sys.estSel.toNat
  | 0x24 => r32 (estimate (BitVec.ofNat 16 s.sys.estSel.toNat) (bitsOf s.sys.estSel.toNat 18 16))
  | 0x100 => r32 s.sys.cirqSel
  | 0x108 => r64 x.admitted.toNat
  | 0x110 => r64 x.dreject.toNat
  | 0x118 => r64 x.missed.toNat
  | 0x120 => r64 x.late.toNat
  | 0x128 => r64 x.floor.toNat
  | _ => none

/-! ## MAS (05 R136 to R138) -/

/-- The keystore registers of a partition. -/
def ksReg (s : State) (p o : Nat) : RegVal :=
  match o with
  | 0x00 => r32 (partAt s p).ks.head
  | 0x04 => r32 (partAt s p).ks.tail
  | 0x08 => r32 (ksStatus s p)
  | _ => none

/-! ## NEWT (08 R242 to R245) and IGU (09 R281 to R284) -/

/-- NEWT_COLOUR. -/
def newtColour (s : State) : Nat :=
  ((List.range 4).map fun c => match clusterPin s c with
    | some p => (p + 2 ^ 8) * 2 ^ (16 * c)
    | none => 0).sum

/-- NEWT_LOCK[n]. -/
def newtOwner (s : State) (n : Nat) : Nat :=
  let c := newtAt s n
  if !c.up then 3 * 2 ^ 30
  else match c.owner with
  | .free => 0
  | .job q => 2 ^ 30 + ownerFields s q
  | .window => 2 * 2 ^ 30

/-- NEWT_WIN_STATUS. -/
def newtWinStatus (w : Win) : Nat :=
  b2n w.pass + flagAt w.fail 1 + Nat.min 0x3FFF w.cycles * 2 ^ 2 + w.state * 2 ^ 30

/-- The NEWT block. -/
def newtReg (s : State) (o : Nat) : RegVal :=
  let w := s.eng.newtWin
  if 0x100 ≤ o ∧ o < 0x180 then (if o % 8 = 0 then r32 (newtOwner s ((o - 0x100) / 8)) else none)
  else match o with
  | 0x00 => r32 (s.eng.newtPeriod + flagAt s.eng.newtLock 31)
  | 0x08 => r32 ((List.range 16).map fun n => flagAt (newtAt s n).up n).sum
  | 0x10 => r64 (newtColour s)
  | 0x200 => r32 (b2n w.busy + w.suite * 2 + w.unit * 2 ^ 8)
  | 0x208 => r32 (newtWinStatus w)
  | _ => none

/-- Code of a bank state. -/
def Bank.code : Bank → Nat
  | .free => 0 | .running _ => 1 | .parked _ => 2 | .zeroising => 3

/-- The job that runs in a core. -/
def BigCore.runs (c : BigCore) : Option Nat :=
  match c.bank c.active, c.bank (!c.active) with
  | .running q, _ => some q
  | _, .running q => some q
  | _, _ => none

/-- IGU_BANK[n]. -/
def iguBank (s : State) (n : Nat) : Nat :=
  let c := bigAt s n
  c.bank0.code * 2 ^ 30 + c.bank1.code * 2 ^ 28 + flagAt (!c.up || c.window) 27 + flagAt c.active 23 +
    (match c.runs with | some q => ownerFields s q | none => 0)

/-- IGU_STATUS. -/
def iguStatus (s : State) : Nat :=
  ((List.range 16).map fun n => flagAt (bigAt s n).up n).sum + ((List.range 4).map fun n => flagAt (latAt s n).up (16 + n)).sum +
    ((List.range 8).map fun n => flagAt (hashAt s n).up (20 + n)).sum

/-- The IGU block. -/
def iguReg (s : State) (o : Nat) : RegVal :=
  let w := s.eng.iguWin
  let c := Tab.get none (partAt s s.eng.curvePart).curves s.eng.curveSlot
  if 0x100 ≤ o ∧ o < 0x180 then (if o % 8 = 0 then r32 (iguBank s ((o - 0x100) / 8)) else none)
  else match o with
  | 0x00 => r32 (s.eng.iguPeriod + flagAt s.eng.iguLock 31)
  | 0x08 => r32 (iguStatus s)
  | 0x200 => r32 (b2n w.busy + w.unit * 2 ^ 8)
  | 0x208 => r32 (b2n w.pass + flagAt w.fail 1 + w.state * 2 ^ 30)
  | 0x300 => r32 (s.eng.curvePart + s.eng.curveSlot * 2 ^ 8)
  | 0x308 => r32 (match c with | some x => 2 ^ 31 + x.bits % 2 ^ 10 * 2 ^ 10 + x.h % 16 | none => 0)
  | 0x310 => r64 (match c with | some x => leField x.digest 0 8 | none => 0)
  | _ => none

/-! ## RNG (10 R303 to R305) -/

/-- RNG_STATUS. -/
def rngStatus (s : State) : Nat :=
  s.rng.state + ((List.range 3).map fun i => flagAt ((sourceAt s i).state == 1) (2 + i)).sum + flagAt (rngServing s) 7 +
    s.rng.pool.length * 2 ^ 8

/-- RNG_SRC_STATUS[s]. -/
def rngSource (x : Source) : Nat := x.state + x.cause * 2 ^ 2 + Nat.min 0xFFF x.aptFails * 2 ^ 4 + Nat.min 0xFFFF x.rctFails * 2 ^ 16

/-- RNG_INST_INFO. -/
def rngInst (d : Drbg) : Nat :=
  Nat.min 0xFFFFFFFF d.count + flagAt d.pending 32 + flagAt (decide (drbgCeiling ≤ d.count)) 33 + flagAt d.required 34

/-- The RNG block. -/
def rngReg (s : State) (o : Nat) : RegVal :=
  match o with
  | 0x00 => r32 (s.rng.reserve + flagAt s.rng.lock 31)
  | 0x08 => r32 (rngStatus s)
  | 0x10 => r32 0
  | 0x20 => r32 (rngSource (sourceAt s 0))
  | 0x28 => r32 (rngSource (sourceAt s 1))
  | 0x30 => r32 (rngSource (sourceAt s 2))
  | 0x100 => r32 s.rng.sel
  | 0x108 => r64 (rngInst (instAt s s.rng.sel))
  | _ => none

/-! ## PART (11 R336 to R338) -/

/-- PART_VF_ERR. -/
def partErr (x : Part) : Nat := flagAt x.errAccess 0 + flagAt x.errRing 1 + flagAt x.errReadFail 2 + flagAt x.errResetDone 3

/-- A reset that a register started runs. -/
def resetRuns (x : Part) : Bool :=
  match x.resetting with
  | some r => r.cause == 2
  | none => false

/-- The partition registers of a function. -/
def partVfReg (s : State) (p o : Nat) : RegVal :=
  let x := partAt s p
  match o with
  | 0x00 => r32 (partStatus s p)
  | 0x08 => r32 (b2n (resetRuns x))
  | 0x10 => r32 (partErr x)
  | 0x18 => r64 x.errAddr.toNat
  | 0x20 => r32 x.errInfo.toNat
  | _ => none

/-- The counter set of a partition (18 R502, R504): its counters read zero to a partition without PMC_USER_READ (00 R11). -/
def pmcSetReg (s : State) (p o : Nat) : RegVal :=
  let x := partAt s p
  if o < 0x40 ∧ o % 8 = 0 then
    r64 (if p = 0 ∨ x.pmcUserRead then (Tab.get (0 : W64) x.cnt (o / 8)).toNat else 0)
  else match o with
  | 0x40 => r64 x.dump.base.toNat
  | 0x48 => r32 (x.dump.log2 + flagAt x.dump.en 8 + x.dumpPeriod * 2 ^ 20)
  | 0x50 => r64 x.dump.count.toNat
  | 0x58 => r32 (flagAt x.dump.cfgErr 0 + flagAt x.dump.skipped 1)
  | _ => none

/-- PART_ERR_SUM[i]. -/
def partErrSum (s : State) (i : Nat) : Nat := ((List.range 64).map fun b => flagAt (partErr (partAt s (64 * i + b)) != 0) b).sum

/-- The PART block, with partition 0's own registers. -/
def partReg (s : State) (o : Nat) : RegVal :=
  let q := s.sys.partSel
  if 0x1100 ≤ o then pmcSetReg s 0 (o - 0x1100)
  else if 0x1000 ≤ o then partVfReg s 0 (o - 0x1000)
  else match o with
  | 0x00 => r32 q
  | 0x08 => r32 (partStatus s q)
  | 0x10 => r32 (b2n (q != 0 && (partAt s q).pmcUserRead))
  | 0x18 => r32 (b2n (resetRuns (partAt s q)))
  | 0x20 => r64 (partUse s q)
  | 0x100 => r64 (partErrSum s 0)
  | 0x108 => r64 (partErrSum s 1)
  | 0x110 => r64 (partErrSum s 2)
  | 0x118 => r64 (partErrSum s 3)
  | _ => none

/-! ## CUST (12 R362, R363) -/

/-- The serial number. -/
def serialBytes : Bytes := beBytes 16 Config.serial.toNat

/-- The selected certificate. -/
def certShown (s : State) : Bytes := Config.certificate s.cust.certChain s.cust.certLevel

/-- CUST_STATUS. -/
def custStatus (s : State) : Nat :=
  let w := match s.vault.window with
    | some w => 2 ^ 14 + w.cells * 2 ^ 15
    | none => 0
  (enrolledAll s).length + (liveChallenges s).length * 2 ^ 8 + w + flagAt (bootstrap s) 17 +
    flagAt (match s.vault.load with | some l => !l.slots.isEmpty | none => false) 18

/-- CUST_INFO. -/
def custInfo (s : State) : Nat :=
  match enrolled s s.cust.selCust with
  | some c => leField c.digest 0 2 + c.alg.toNat * 2 ^ 16 + c.group * 2 ^ 24 + 2 ^ 31
  | none => 0

/-- CUST_LOAD. -/
def custLoad (s : State) : Nat :=
  match s.vault.load with
  | some l => l.master + (l.slots.map fun x => 2 ^ (7 + x.1)).sum
  | none => 0

/-- The CUST block. CUST_CERT_DATA shows the next four bytes of the certificate. -/
def custReg (s : State) (o : Nat) : RegVal :=
  let c := s.cust
  let r := ruleAt s c.selRule
  match o with
  | 0x00 => r32 (custStatus s)
  | 0x08 => r32 ((enrolledAll s).map fun e => 2 ^ e.1).sum
  | 0x10 => r32 (c.selCust + c.selRule * 2 ^ 8)
  | 0x18 => r32 (custInfo s)
  | 0x20 => r32 (r.mask.toNat + r.d * 2 ^ 8 + r.m * 2 ^ 12)
  | 0x28 => r32 (match s.vault.window with | some w => ceilDiv (w.until_ - s.time.mono) (10 ^ 9) | none => 0)
  | 0x30 => r32 (custLoad s)
  | 0x40 => r32 (c.certLevel + flagAt c.certChain 2)
  | 0x44 => r32 (certShown s).length
  | 0x48 => r32 (leField (certShown s) c.certPos 4)
  | 0x50 => r32 (leField serialBytes 0 4)
  | 0x54 => r32 (leField serialBytes 4 4)
  | 0x58 => r32 (leField serialBytes 8 4)
  | 0x5C => r32 (leField serialBytes 12 4)
  | _ => none

/-! ## TMP (13 R387, R388) -/

/-- TMP_STATUS. -/
def tmpStatus (s : State) : Nat :=
  let t := s.tmp
  flagAt t.monFault 3 + flagAt t.alarm 4 + flagAt t.suspended 5 + flagAt t.zeroising.isSome 6 + flagAt t.refused 7 + t.level * 2 ^ 8 +
    (s.nv.evreg.filter (·.unread)).length * 2 ^ 11 + pendingBurns s * 2 ^ 16 + flagAt (decide (2040 ≤ evCount s)) 21 +
    flagAt (decide (2048 ≤ evCount s)) 22 + flagAt t.mismatch 23

/-- TMP_MON_INFO. -/
def tmpMon (s : State) : Nat :=
  let e := s.tmp.monSel
  let m := monAt s e
  let p := policyAt s e
  let n := if p.w = 0 then m.times.length else (m.times.filter fun t => decide (s.time.mono < t + 1000 * p.w)).length
  flagAt m.a 0 + flagAt m.b 1 + flagAt (m.a != m.b) 2 + flagAt (e == 0 || 5 ≤ e) 3 + Nat.min 255 n * 2 ^ 8 + p.n * 2 ^ 16 + p.response * 2 ^ 24

/-- The TMP block. -/
def tmpReg (s : State) (o : Nat) : RegVal :=
  let t := s.tmp
  if 0x30 ≤ o ∧ o < 0x40 ∧ o % 4 = 0 then
    r32 (match s.nv.evreg[t.evSel]? with | some e => leField (evBytes e) (o - 0x30) 4 | none => 0)
  else match o with
  | 0x00 => r32 (tmpStatus s)
  | 0x08 => r32 0
  | 0x10 => r32 (thermo s.nv.otpA + thermo s.nv.otpB * 2 ^ 16)
  | 0x18 => r32 t.monSel
  | 0x1C => r32 (tmpMon s)
  | 0x20 => r32 (policyAt s t.monSel).w
  | 0x28 => r32 t.evSel
  | 0x40 => r32 (t.cellA.state + t.cellB.state * 2 ^ 4 + t.cellA.volts.toNat * 2 ^ 16 + t.cellB.volts.toNat * 2 ^ 24)
  | 0x48 => r32 s.nv.evOvf
  | _ => none

/-! ## LC and DBG (14 R409, R410) -/

/-- LC_STATUS. -/
def lcStatus (s : State) : Nat :=
  let ok (k : Nat) : Bool := stageShown s k == 0 || stageShown s k == stagePattern k
  lcCode s + flagAt s.nv.transition.isSome 9 + flagAt s.pwr.running 10 + flagAt s.nv.pending 11 +
    ((List.range 8).map fun k => flagAt (ok k) (16 + k)).sum + s.nv.rollback * 2 ^ 24

/-- The LC block. -/
def lcReg (s : State) (o : Nat) : RegVal :=
  if o = 0 then r32 (lcStatus s)
  else if 0x10 ≤ o ∧ o < 0x30 ∧ o % 4 = 0 then r32 (stageShown s ((o - 0x10) / 4))
  else none

/-- The DBG block. -/
def dbgReg (s : State) (o : Nat) : RegVal :=
  match o with
  | 0x00 => r32 (s.dbg.rights.toNat + flagAt s.dbg.open_ 15 + flagAt s.dbg.marked 16)
  | 0x08 => r32 0
  | _ => none

/-! ## PAIR (15 R443, R444) -/

/-- PAIR_STATE. -/
def pairStatus (p : Pair) : Nat :=
  p.state.code + p.role * 2 ^ 5 + flagAt p.posB 7 + flagAt p.inbandOk 8 + flagAt p.sidebandOk 9 + flagAt p.actOut 10 + flagAt p.inhibit 11

/-- PAIR_LAG: jobs forwarded and not retired on the standby (R429). -/
def pairLag (s : State) : Nat := (s.jobs.filter fun j => forwardsJob s j.seq && !j.resulted).length

/-- The PAIR block. -/
def pairReg (s : State) (o : Nat) : RegVal :=
  let p := s.pair
  if 0x18 ≤ o ∧ o < 0x28 ∧ o % 4 = 0 then r32 (p.peer.toNat / 2 ^ (8 * (o - 0x18)))
  else match o with
  | 0x00 => r32 (flagAt p.paired 0 + flagAt p.claimEn 1 + flagAt p.autoJoin 2 + flagAt p.lock 31)
  | 0x08 => r32 (pairStatus p)
  | 0x10 => r32 (flagAt p.trained 0 + flagAt p.session 1 + p.lanes.toNat * 2 ^ 4 + Nat.min 0xFFFF p.retrains * 2 ^ 16)
  | 0x30 => r64 p.divSeq.toNat
  | 0x38 => r32 (p.divOpcode.toNat + p.divPart * 2 ^ 16)
  | 0x40 => r32 (Nat.min 0xFFFF (pairLag s))
  | 0x48 => r32 0
  | _ => none

/-! ## JRN and SCR (16 R471 to R474) -/

/-- The JRN set of a partition. The entry copy is four 64-bit registers. -/
def jrnSetReg (s : State) (p o : Nat) : RegVal :=
  let x := partAt s p
  if 0x40 ≤ o ∧ o < 0x60 ∧ o % 8 = 0 then r64 (leField x.winEntry (o - 0x40) 8)
  else match o with
  | 0x00 => r64 x.jrn.base.toNat
  | 0x08 => r32 (x.jrn.log2 + flagAt x.jrn.en 8 + flagAt x.jrnAll 9)
  | 0x0C => r32 (flagAt x.jrn.cfgErr 0 + flagAt x.jrn.skipped 1)
  | 0x10 => r64 x.jrn.count.toNat
  | 0x18 => r64 x.winSeq.toNat
  | 0x20 => r32 (x.winResult + flagAt x.winBusy 8)
  | _ => none

/-- The JRN block. -/
def jrnReg (s : State) (o : Nat) : RegVal :=
  if 0x400 ≤ o then jrnSetReg s 0 (o - 0x400)
  else match o with
  | 0x00 => r64 s.jrn.first
  | 0x08 => r64 s.jrn.next
  | 0x10 => r64 s.nv.mark.toNat
  | _ => none

/-- A byte of SCR_WIN (16 R465). -/
def winByte (s : State) (pos : Nat) : Byte :=
  if s.scr.oldPos.toNat ≤ pos ∧ pos < s.scr.wrPos.toNat then screeByte s pos else 0

/-- `n` bytes of SCR_WIN from window offset `o`. -/
def winRead (s : State) (o n : Nat) : Nat := leNat ((List.range n).map fun k => winByte s (s.scr.cursor.toNat + o + k))

/-- SCR_STATUS. -/
def scrStatus (s : State) : Nat :=
  flagAt s.scr.frozen.isSome 0 + flagAt s.scr.overrun 1 + flagAt s.scr.cursorLost 2 + flagAt s.scr.gaps 3 +
    (s.scr.fifos.filter fun x => !x.2.items.isEmpty || x.2.lost != 0).length * 2 ^ 8

/-- The SCR block. -/
def scrReg (s : State) (o : Nat) : RegVal :=
  let c := s.scr
  if 0x1000 ≤ o ∧ o < 0x2000 ∧ o % 4 = 0 then r32 (winRead s (o - 0x1000) 4)
  else match o with
  | 0x00 => r32 (c.thresh + c.freezeMax * 2 ^ 16 + flagAt c.lock 31)
  | 0x08 => r32 (scrStatus s)
  | 0x10 => r32 0
  | 0x18 => r64 c.wrPos.toNat
  | 0x20 => r64 c.oldPos.toNat
  | 0x28 => r64 c.cursor.toNat
  | 0x30 => r64 c.ack.toNat
  | 0x38 => r32 c.sel
  | 0x3C => r32 ((Tab.get CodeState.reset c.codes c.sel).rate + severityOf c.sel * 2 ^ 16 + flagAt (screeExempt c.sel) 31)
  | 0x40 => r32 (Tab.get CodeState.reset c.codes c.sel).suppressed
  | _ => none

/-! ## TARN and GRD (17 R489 to R492) -/

/-- A bit for each source that `f` picks. -/
def srcBits (f : Nat → Bool) : Nat := (tarnNos.map fun n => flagAt (f n) n).sum

/-- TARN_DETAIL of a source. -/
def tarnDetail (x : TarnSrc) : Nat :=
  x.info.toNat + x.unit % 2 ^ 8 * 2 ^ 32 + x.kind % 2 ^ 6 * 2 ^ 40 + x.eff % 4 * 2 ^ 46 + x.count * 2 ^ 48

/-- The TARN block. -/
def tarnReg (s : State) (o : Nat) : RegVal :=
  let t := s.tarn
  match o with
  | 0x00 => r64 (srcBits fun n => (srcAt s n).set)
  | 0x08 => r64 (fatalBits s)
  | 0x10 => r64 (srcBits fun n => !(unitsOut s n).isEmpty)
  | 0x18 => r64 (srcBits (causeLives s))
  | 0x20 => r32 (t.esc + flagAt t.lock 31)
  | 0x28 => r64 t.sev0.toNat
  | 0x30 => r64 t.sev1.toNat
  | 0x38 => r32 t.dsel
  | 0x40 => r64 (tarnDetail (srcAt s t.dsel))
  | 0x48 => r32 (match (srcAt s t.dsel).timer with | some x => usLeft s.time.mono (x + escNs s) | none => 0)
  | 0x50 => r32 0
  | _ => none

/-- The GRD block. -/
def grdReg (s : State) (o : Nat) : RegVal :=
  let r := Tab.get none s.grd.regions s.grd.sel
  let v := violAt s ((o - 0x100) / 16)
  if 0x100 ≤ o ∧ o < 0x180 then
    (match o % 16 with
    | 0 => r32 v.addr.toNat
    | 4 => r32 (v.info.toNat + flagAt v.valid 31)
    | 8 => r32 v.count.toNat
    | _ => none)
  else match o with
  | 0x00 => r32 s.grd.epoch.toNat
  | 0x08 => r32 (((List.range 8).map fun u => flagAt (violAt s u).valid u).sum + flagAt s.grd.staged.isSome 8)
  | 0x10 => r32 (s.grd.sel % 32 + s.grd.sel / 32 * 2 ^ 8)
  | 0x18 => r32 (match r with | some x => x.base.toNat / 2 ^ 12 * 2 ^ 12 | none => 0)
  | 0x1C => r32 (match r with | some x => x.worlds.toNat + x.srd.toNat * 2 ^ 8 + x.size.toNat * 2 ^ 16 + flagAt x.en 31 | none => 0)
  | 0x20 => r32 0
  | _ => none

/-! ## PMC (18 R504, R505) and PWR (19 R527, R528) -/

/-- The selected counter. -/
def counterAt (s : State) : Counter := Tab.get Counter.reset s.pmc.counters s.pmc.sel

/-- The PMC block. -/
def pmcReg (s : State) (o : Nat) : RegVal :=
  let p := s.pmc
  let c := counterAt s
  match o with
  | 0x00 => r32 (b2n p.en + flagAt p.lock 31)
  | 0x08 => r32 p.lost.toNat
  | 0x10 => r32 0
  | 0x18 => r32 p.sel
  | 0x20 => r32 c.evt.toNat
  | 0x24 => r32 c.master.toNat
  | 0x28 => r32 c.lo.toNat
  | 0x2C => r32 c.hi.toNat
  | 0x30 => r32 c.period.toNat
  | 0x38 => r64 c.value.toNat
  | 0x40 => r64 p.ring.base.toNat
  | 0x48 => r32 (p.ring.log2 + flagAt p.ring.en 8)
  | 0x50 => r64 p.ring.count.toNat
  | _ => none

/-- PWR_STATUS. -/
def pwrStatus (s : State) : Nat :=
  let p := s.pwr
  flagAt (safeRemove s) 1 + p.quiesce * 2 ^ 2 + flagAt p.qReg 4 + flagAt p.qPin 5 + flagAt p.aux 6 + flagAt p.ready 7 + p.fault * 2 ^ 8 +
    p.phase * 2 ^ 12

/-- The PWR block. -/
def pwrReg (s : State) (o : Nat) : RegVal :=
  let p := s.pwr
  match o with
  | 0x00 => r32 (flagAt p.autoOff 0 + p.idle * 2 + p.quiesceMax * 2 ^ 17 + flagAt p.lock 31)
  | 0x08 => r32 (pwrStatus s)
  | 0x10 => r32 0
  | 0x18 => r64 p.domains.toNat
  | 0x20 => r32 p.startTime.toNat
  | 0x28 => r32 p.mon.toNat
  | _ => none

/-! ## The map of each function (21 R548, R549) -/

/-- The register of the physical function that starts at an offset (R548). -/
def pfReg (s : State) (off : Nat) : RegVal :=
  let o := off % 0x10000
  match off / 0x10000 with
  | 0x00 => sysReg s o
  | 0x01 => timeReg s o
  | 0x02 => ringReg s 0 o
  | 0x03 => cirqReg s o
  | 0x04 => if 0x100 ≤ o then ksReg s 0 (o - 0x100) else none
  | 0x05 => newtReg s o
  | 0x06 => iguReg s o
  | 0x07 => rngReg s o
  | 0x08 => partReg s o
  | 0x09 => custReg s o
  | 0x0A => tmpReg s o
  | 0x0B => lcReg s o
  | 0x0C => pairReg s o
  | 0x0D => jrnReg s o
  | 0x0E => scrReg s o
  | 0x0F => tarnReg s o
  | 0x10 => grdReg s o
  | 0x11 => pmcReg s o
  | 0x12 => pwrReg s o
  | 0x13 => dbgReg s o
  | _ => none

/-- The register of virtual function `p` that starts at an offset (R549). -/
def vfReg (s : State) (p off : Nat) : RegVal :=
  if off < 0x100 then partVfReg s p off
  else if off < 0x1000 then pmcSetReg s p (off - 0x100)
  else if off < 0x1800 then ringReg s p (off - 0x1000)
  else if off < 0x1C00 then ksReg s p (off - 0x1800)
  else if off < 0x2000 then jrnSetReg s p (off - 0x1C00)
  else if off < 0x2080 then msixTable s p (off - 0x2000)
  else if off = 0x3000 then r64 (msixPba s p 8)
  else none

/-- Bytes of a function's BAR0. -/
def barSize (p : Nat) : Nat := if p = 0 then 2 ^ 24 else 2 ^ 16

/-- The first byte of a function's doorbells. -/
def doorbells (p : Nat) : Nat := if p = 0 then 0x800000 else 0x8000

/-- While a start has stopped, only these blocks and the serial number are served (19 R519). -/
def servedStopped (off : Nat) : Bool :=
  off / 0x10000 == 0x12 || off / 0x10000 == 0x0B || off / 0x10000 == 0x0A || off / 0x10000 == 0x0F || off / 0x10000 == 0x0E ||
    decide (0x90050 ≤ off ∧ off < 0x90060)

/-- A SCRAPPED module shows these registers alone (14 R399). -/
def servedScrapped (off : Nat) : Bool := off == 0xB0000 || off == 0xA0010 || decide (0x90050 ≤ off ∧ off < 0x90060)

/-- The register shows its value; otherwise it reads zero. -/
def shows (s : State) (p off : Nat) : Bool :=
  if lcCode s = 5 then p == 0 && servedScrapped off
  else if s.pwr.fault ≠ 0 then p == 0 && servedStopped off
  else true

/-- The register that starts at an offset of a function's BAR0, as a read sees it. -/
def regAt (s : State) (p off : Nat) : RegVal :=
  (if p = 0 then pfReg s off else vfReg s p off).map fun x => (x.1, if shows s p off then x.2 else 0)

end Sys2Proof.Machine
end

