-- ==== Sys2Proof/Machine/Time.lean ====
section
/-!
DEFINITION. Network time (02_network_time.md): stepping, slewing and locking NTB, its sources and their loss, edge reports.
-/
namespace Sys2Proof.Machine

/-- Change the time block. -/
def modTime (f : TimeBlk → TimeBlk) (s : State) : State := { s with time := f s.time }

/-- One millisecond. -/
def oneMs : Nat := 1000000

/-- Move NTB to another state: event 0x0C1 and PF vector 50 (R32, R33, 03 R61). -/
def setTimeState (n : NtbState) (s : State) : State :=
  if s.time.state = n then s
  else
    let old := s.time.state.code
    let s := modTime (fun t => { t with
      state := n, firstSet := if t.firstSet.isNone && (n == .locked || n == .free) then some t.ntb.toNat else t.firstSet }) s
    sendMsix 0 50 (note 0x0C1 1 [old, n.code, s.time.src, errBound s] s)

/-- Step NTB by `off` ns: event 0x0C2; the calendar cursor follows (R22, 04 R86). -/
def stepNtb (off : Int) (s : State) : State :=
  let s := modTime (fun t => { t with ntb := BitVec.ofInt 64 (t.ntb.toNat + off), slew := none, slewBack := false }) s
  moveCursor (note 0x0C2 1 [(BitVec.ofInt 64 off).toNat] s)

/-- Correct an offset by the rows of R22 once NTB has been set: a slew of at most 1 ms, a forward step, or a backward slew above
1 ms. -/
def correct (off : Int) (s : State) : State :=
  if off = 0 then modTime (fun t => { t with slew := none, slewBack := false }) s
  else if off.natAbs ≤ oneMs then modTime (fun t => { t with slew := some (off * 2 ^ 32), slewBack := false }) s
  else if 0 < off then stepNtb off s
  else modTime (fun t => { t with slew := some (off * 2 ^ 32), slewBack := true }) s

/-- A measurement: while a slew runs it sets the remaining offset; a slew whose offset reaches zero or changes sign has finished,
and what is left is corrected (R22). -/
def measure (off : Int) (s : State) : State :=
  match s.time.slew with
  | none => correct off s
  | some r =>
    if (0 < r ∧ 0 < off) ∨ (r < 0 ∧ off < 0) then
      modTime (fun t => { t with slew := some (off * 2 ^ 32), slewBack := t.slewBack || decide (off < -(oneMs : Int)) }) s
    else correct off (modTime (fun t => { t with slew := none, slewBack := false }) s)

/-- The selected source meets its lock condition with an offset (R32). -/
def sourceLocked (off : Int) (s : State) : State :=
  match s.time.state with
  | .unset => setTimeState .locked (stepNtb off (modTime (fun t => { t with lost := false }) s))
  | .locked =>
    let s := measure off s
    if s.time.slewBack then setTimeState .holdover (modTime (fun t => { t with lost := false }) s) else s
  | .holdover =>
    let s := if s.time.lost ∧ errBound s < off.natAbs then note 0x0C5 1 [(BitVec.ofInt 64 off).toNat] s else s
    let s := modTime (fun t => { t with lost := false }) (measure off s)
    if s.time.slewBack then s else setTimeState .locked s
  | .free =>
    let s := modTime (fun t => { t with lost := false }) (measure off s)
    if off < -(oneMs : Int) then setTimeState .holdover (modTime (fun t => { t with slewBack := true }) s)
    else setTimeState .locked (modTime (fun t => { t with slewBack := false }) s)

/-- A measurement by a source that does not by itself meet the lock condition: it disciplines NTB in LOCKED, and sets the
remaining offset of a running slew (R22). -/
def sourceMeasured (off : Int) (s : State) : State :=
  if s.time.state = .locked then
    let s := measure off s
    if s.time.slewBack then setTimeState .holdover (modTime (fun t => { t with lost := false }) s) else s
  else if s.time.slew.isSome ∧ !s.time.lost then measure off s
  else s

/-- TIME_PAIR: the upper-word write applies the pair at its arrival (R25); only while host pairs are the source. -/
def execTimePair (upper : W32) (s : State) : Next := served s <|
  done <|
  let v : Nat := commitValue s 0 0x10028 0 upper
  if s.time.src = 0 then
    sourceLocked (Int.ofNat v - Int.ofNat s.time.ntb.toNat) (modTime (fun t => { t with lastPair := some t.mono }) s)
  else s

/-- TIME_CTRL.ACCEPT_FREE (R32). -/
def execAcceptFree (s : State) : Next := served s <|
  done <|
  if s.time.state = .holdover then setTimeState .free (note 0x0C4 1 [0, ntbNow s] s) else s

/-- Event 0x0C6 with the fields in force (R33). -/
def noteTimeCfg (cause : Nat) (s : State) : State :=
  note 0x0C6 1 [s.time.src, s.time.ptmPeriod, b2n s.time.todTx, cause] s

/-- A write of TIME_CFG (R38): ignored once locked; a source of 3 is ignored. -/
def writeTimeCfg (value : W32) (s : State) : State :=
  let v := value.toNat
  if s.time.lock then
    (if (bitsOf v 1 0 = 3 ∨ bitsOf v 1 0 = s.time.src) ∧ bitsOf v 11 8 = s.time.ptmPeriod ∧ bitOf v 12 = s.time.todTx then s
     else accError 2 0x10000 s)
  else
    let src := if bitsOf v 1 0 = 3 then s.time.src else bitsOf v 1 0
    let changed := src ≠ s.time.src
    let s := modTime (fun t => { t with
      src := src, ptmPeriod := bitsOf v 11 8, todTx := bitOf v 12, lock := bitOf v 31,
      srcSince := if changed then t.mono else t.srcSince }) s
    let s := if changed then
        noteTimeCfg 1 (modTime (fun t => { t with
          goodEdges := 0, bareEdges := 0, ptmGood := 0, ptmFail := 0, ptmLast := none, frame := none, frameError := 0 }) s)
      else s
    if bitOf v 31 then noteTimeCfg 2 s else s

/-- TIME_CFG_WRITE. -/
def execTimeCfgWrite (value : W32) (s : State) : Next := served s <| done (writeTimeCfg value s)

/-- Count a rejected frame (R28, R37). -/
def frameRejected (s : State) : State :=
  modTime (fun t => { t with frameErr := BitVec.ofNat 32 (satAdd 0xFFFFFFFF t.frameErr.toNat 1), todValid := false }) s

/-- The form of a next-edge frame (R27, R28). -/
def todForm (f : Bytes) : Bool :=
  decide (f.length = 16) && byteAt f 0 == 0xA5 && byteAt f 1 == 0x01 && byteAt f 2 == 0x01 &&
  decide ((byteAt f 3).toNat < 4) && decide (leField f 4 8 % 1000000000 = 0) &&
  decide (leField f 14 2 = (crc16 (f.take 14)).toNat)

/-- A frame waiting for an edge it cannot name any more. -/
def frameStale (t : TimeBlk) : Bool :=
  match t.frame with
  | none => false
  | some f => decide (990 * oneMs + f.at_ < t.mono)

/-- TIME_OF_DAY_FRAME: the last byte of a frame arrives (R27, R28). -/
def execTimeOfDayFrame (frame : Bytes) (s : State) : Next :=
  done <|
  let s := if frameStale s.time then frameRejected (modTime (fun t => { t with frame := none }) s) else s
  if todForm frame then
    modTime (fun t => { t with
      todValid := true
      frame := some { edge := leField frame 4 8, holdover := bitOf (byteAt frame 3).toNat 1, error := leField frame 12 2, at_ := t.mono } }) s
  else frameRejected s

/-- The frame that names an edge at this moment: its last byte came 990 ms to 10 ms before (R28). -/
def edgeFrame (t : TimeBlk) : Option TodFrame :=
  match t.frame with
  | none => none
  | some f => if 10 * oneMs + f.at_ ≤ t.mono ∧ t.mono ≤ 990 * oneMs + f.at_ then some f else none

/-- TIME_PPS_EDGE: a rising edge is latched and judged (R24, R28, R29). -/
def execTimePpsEdge (s : State) : Next :=
  done <|
  let t0 := s.time
  let spaced := match t0.lastEdge with
    | none => false
    | some e => decide (999990000 + e ≤ t0.mono ∧ t0.mono ≤ 1000010000 + e)
  let named := edgeFrame t0
  let s := if t0.frame.isSome ∧ named.isNone then frameRejected s else s
  let s := modTime (fun t => { t with
    lastEdge := some t.mono, frame := none,
    report := if t.todTx ∧ t.src = 1 then some (t.ntb.toNat, t.mono) else none }) s
  if s.time.src ≠ 1 then s else
  match named with
  | none => modTime (fun t => { t with bareEdges := t.bareEdges + 1, goodEdges := 0, lastNamed := none }) s
  | some f =>
    let follows := spaced && t0.lastNamed == some (f.edge - 1000000000) && decide (1000000000 ≤ f.edge)
    let n := if follows then t0.goodEdges + 1 else 1
    let s := modTime (fun t => { t with
      bareEdges := 0, goodEdges := n, lastNamed := some f.edge, frameError := if f.holdover then f.error else 0 }) s
    let off : Int := (f.edge : Int) - s.time.ntb.toNat
    if 3 ≤ n then sourceLocked off s else sourceMeasured off s

/-- The bytes of an edge report (R27, R29). -/
def reportBytes (s : State) (latched : Nat) : Bytes :=
  let b : Bytes := [0xA5, 0x81, 0x01, BitVec.ofNat 8 s.time.state.code] ++ leBytes 8 latched ++
    leBytes 2 (Nat.min 0xFFFF (errBound s))
  b ++ leBytes 2 (crc16 b).toNat

/-- EDGE_REPORT: 100 ms ± 1 ms after an edge it latched (R29). -/
def execEdgeReport (s : State) : Next :=
  done <|
  match s.time.report with
  | none => s
  | some (l, t) =>
    if 99 * oneMs + t ≤ s.time.mono ∧ s.time.todTx ∧ s.time.src = 1 then
      emit (.tod (reportBytes s l)) (modTime (fun t => { t with report := none }) s)
    else s

/-- PTM_REQUEST: every 2^PTM_PERIOD ms with PTM as the source; periods above 10 act as 10 (R26, R38). -/
def execPtmRequest (s : State) : Next :=
  done <|
  if s.time.src = 2 ∧ s.time.ptmSent + 2 ^ Nat.min 10 s.time.ptmPeriod * oneMs ≤ s.time.mono then
    emit .ptm (modTime (fun t => { t with ptmSent := t.mono, ptmOpen := true }) s)
  else s

/-- PTM_EXCHANGE_DONE: the exchange gives the master time, or fails (R24, R26). -/
def execPtmExchangeDone (master : Option W64) (s : State) : Next :=
  done <|
  if !s.time.ptmOpen then s else
  match master with
  | none => modTime (fun t => { t with ptmOpen := false, ptmOk := false, ptmFail := t.ptmFail + 1, ptmGood := 0, ptmLast := none }) s
  | some m =>
    let off : Int := (m.toNat : Int) + s.time.ptmOffset.toInt - s.time.ntb.toNat
    let n := match s.time.ptmLast with
      | none => 1
      | some l => if (off - l).natAbs ≤ 1000 then s.time.ptmGood + 1 else 1
    let s := modTime (fun t => { t with ptmOpen := false, ptmOk := true, ptmFail := 0, ptmGood := n, ptmLast := some off }) s
    if s.time.src ≠ 2 then s else if 4 ≤ n then sourceLocked off s else sourceMeasured off s

/-- The selected source meets its loss condition (R24). -/
def lossDue (t : TimeBlk) : Bool :=
  match t.src with
  | 0 => decide (30000000000 + Nat.max (t.lastPair.getD 0) t.srcSince ≤ t.mono)
  | 1 => decide (1500 * oneMs + Nat.max (t.lastEdge.getD 0) t.srcSince ≤ t.mono) || decide (5 ≤ t.bareEdges)
  | _ => decide (3 ≤ t.ptmFail)

/-- SOURCE_LOSS (R31, R32). -/
def execSourceLoss (s : State) : Next :=
  done <|
  if lossDue s.time ∧ !s.time.lost ∧ s.time.state ≠ .unset then
    let s := note 0x0C3 1 [s.time.src, s.time.src] s
    let e0 := if s.time.state = .locked then errBound s else slewLeft s.time + srcAccuracy s.time
    let s := modTime (fun t => { t with lost := true, lostAt := t.mono, e0 := e0 }) s
    if s.time.state = .locked then setTimeState .holdover s else s
  else s

/-- SLEW_DONE: the remaining offset has reached zero; a backward slew above 1 ms that ends leads to LOCKED unless the source has
met its loss condition since (R22, R32). -/
def execSlewDone (s : State) : Next :=
  done <|
  if s.time.slew = some 0 then
    let big := s.time.slewBack
    let s := modTime (fun t => { t with slew := none, slewBack := false }) s
    if big ∧ !s.time.lost ∧ (s.time.state = .holdover ∨ s.time.state = .free) then setTimeState .locked s else s
  else s

end Sys2Proof.Machine
end

