-- ==== Sys2Proof/Machine/Regs.lean ====
section
/-!
DEFINITION. Register accesses (21_register_reference.md): SYS_LOCK, the certificate window, four-byte reads with their latches and side
effects (R558, R560), and writes with their sizes, stages, locks and value rules (R557 to R564). Registers whose write has a row of its
own go through that row's meaning.
-/
namespace Sys2Proof.Machine

/-! ## Locks (R554, R564) -/

/-- Set the lock bit of block `b`; one that is set stays. The locks of TIME (02 R38) and PMC (18 R506) are recorded. -/
def setLock (b : Nat) (s : State) : State :=
  if lockBit s b then s
  else match b with
  | 0 => noteTimeCfg 2 { s with time := { s.time with lock := true } }
  | 1 => { s with cirq := { s.cirq with lock := true } }
  | 2 => { s with eng := { s.eng with newtLock := true } }
  | 3 => { s with eng := { s.eng with iguLock := true } }
  | 4 => { s with rng := { s.rng with lock := true } }
  | 5 => { s with pair := { s.pair with lock := true } }
  | 6 => { s with scr := { s.scr with lock := true } }
  | 7 => { s with tarn := { s.tarn with lock := true } }
  | 8 => note 0x2C1 32 [(s.pmc.counters.filter fun x => x.2.evt.getLsbD 31).length] { s with pmc := { s.pmc with lock := true } }
  | 9 => { s with pwr := { s.pwr with lock := true } }
  | _ => s

/-- Set the lock bit when the written word has it. -/
def lockIf (v b : Nat) (s : State) : State := if bitOf v 31 then setLock b s else s

/-- SYS_LOCK_WRITE: a 1 in bit b sets the lock bit of block b. -/
def execSysLockWrite (value : W32) (s : State) : Next := served s <|
  done ((List.range 10).foldl (fun s b => if value.getLsbD b then setLock b s else s) s)

/-- A write to RW-L fields of block `b`: stored while the lock is clear; after that ignored, with LOCKED unless they would stay (R564). -/
def rwl (b off : Nat) (same : Bool) (store : State → State) (s : State) : State :=
  if !lockBit s b then store s else if same then s else accError 2 off s

/-! ## The certificate window (12 R362) -/

/-- CUST_CERT_SEL_WRITE: the chain and level, and the read pointer at the start. Level 3 acts as 2. -/
def execCustCertSelWrite (value : W32) (s : State) : Next := served s <|
  done { s with cust := { s.cust with certChain := value.getLsbD 2, certLevel := Nat.min 2 (bitsOf value.toNat 1 0), certPos := 0 } }

/-- CUST_CERT_DATA_READ: the next four bytes, zero past the end; the pointer moves on. -/
def execCustCertDataRead (s : State) : Next :=
  if !shows s 0 0x90048 then done (emit (.read 0 0x90048 0) s)
  else
    let v := leField (certShown s) s.cust.certPos 4
    done (emit (.read 0 0x90048 v) { s with cust := { s.cust with certPos := s.cust.certPos + 4 } })

/-! ## Reads (R550, R557, R558, R560) -/

/-- The upper word of a register latched by a lower-word read. -/
def latchAt (s : State) (p off : Nat) : Option W32 := Tab.get none s.sys.latch (regKey p off)
/-- Latch it. -/
def setLatch (p off : Nat) (w : W32) (s : State) : State :=
  { s with sys := { s.sys with latch := Tab.set none s.sys.latch (regKey p off) (some w) } }

/-- An access error of the physical function; a virtual one has no record of them (R550, R557). -/
def pfError (p bit off : Nat) (s : State) : State := if p = 0 then accError bit off s else s

/-- The register lies in this function's last word of JRN_WIN_ENTRY. -/
def winTail (p off : Nat) : Bool := off == jrnSet p + 0x58

/-- The offset lies in SCR_WIN, which has rules of its own (16 R465). -/
def inWin (p off : Nat) : Bool := p == 0 && decide (0xE1000 ≤ off ∧ off < 0xE2000)

/-- A read of PWR_MON: what its sensors measure is open (19 R528; log entry 5). -/
def readMon (off : Nat) (s : State) : State :=
  let (b, s) := freeBytes 4 s
  emit (.read 0 off (leNat b)) { s with pwr := { s.pwr with mon := BitVec.ofNat 32 (leNat b) } }

/-- A four-byte read at an aligned offset inside the BAR. -/
def readWord (p : Fin 256) (off : Nat) (s : State) : Next :=
  if doorbells p ≤ off then done (emit (.read p off 0) s)
  else match regAt s p off with
  | some (true, v) =>
    let s := setLatch p off (BitVec.ofNat 32 (v / 2 ^ 32)) s
    if winTail p off && shows s p off then
      done (startSearch p (leField (partAt s p).winEntry 0 8 + 1) (emit (.read p off (v % 2 ^ 32)) s))
    else done (emit (.read p off (v % 2 ^ 32)) s)
  | some (false, v) =>
    if p.val = 0 ∧ off = 0x90048 then execCustCertDataRead s
    else if p.val = 0 ∧ 0xA0030 ≤ off ∧ off < 0xA0040 ∧ shows s 0 off then execTmpEvregDataRead (Fin.ofNat 4 ((off - 0xA0030) / 4)) s
    else if p.val = 0 ∧ off = 0x120028 ∧ s.pwr.main ∧ shows s 0 off then done (readMon off s)
    else done (emit (.read p off v) s)
  | none =>
    match (if 4 ≤ off then regAt s p (off - 4) else none) with
    | some (true, v) =>
      let w := match latchAt s p (off - 4) with
        | some w => if shows s p off then w.toNat else 0
        | none => v / 2 ^ 32
      done (emit (.read p off w) s)
    | _ => done (emit (.read p off 0) (pfError p 1 off s))

/-- LOWER_WORD_READ: a four-byte register read. Of the lower word of a 64-bit register it captures the register and latches the upper
word; of the upper word it returns what is latched; an unassigned offset reads zero. -/
def execLowerWordRead (p : Fin 256) (offset : Nat) (s : State) : Next :=
  if barSize p ≤ offset then done s
  else if offset % 4 ≠ 0 then
    done (emit (.read p offset 0) (if doorbells p ≤ offset ∨ inWin p offset then s else pfError p 0 offset s))
  else readWord p offset s

/-! ## Stored values of 64-bit registers (R556, R558) -/

/-- Drop the reserved low bits of a ring base. -/
def pageOf (v : Nat) : W64 := BitVec.ofNat 64 (v / 2 ^ 12 * 2 ^ 12)

/-- A write of a host ring's base: refused while the ring is enabled, unless it stays (16 R453). -/
def baseWrite (v : Nat) (h : HostRing) : HostRing :=
  if !h.en then { h with base := pageOf v } else if pageOf v = h.base then h else { h with cfgErr := true }

/-- A ring set's configuration may be written: disabled and idle (03 R50). -/
def ringFree (s : State) (p r : Nat) : Bool := !(ringAt s p r).en && ringIdle s p r

/-- A write of a ring set's base or size: ignored with CFG_ERR unless the ring is free (03 R50). -/
def ringSet (p r : Nat) (f : Ring → Ring) (s : State) : State :=
  modRing p r (if ringFree s p r then f else fun g => { g with cfgErr := true }) s

/-- A committed write of a ring set's 64-bit register at `o`. -/
def ringWrite64 (p o v : Nat) (s : State) : State :=
  match o % 0x40 with
  | 0x00 => ringSet p (o / 0x40) (fun g => { g with sqBase := pageOf v }) s
  | 0x08 => ringSet p (o / 0x40) (fun g => { g with cqBase := pageOf v }) s
  | _ => s

/-- SCR_CURSOR: a value not a multiple of 4 is ignored; a write ends CURSOR_LOST, which a cursor below the oldest record sets (16 R465). -/
def cursorWrite (v : Nat) (s : State) : State :=
  if v % 4 ≠ 0 then s
  else modScr (fun c => { c with cursor := BitVec.ofNat 64 v, cursorLost := decide (v < c.oldPos.toNat) }) s

/-- The registers that a partition's own function and partition 0 both have, by the offset of their set: a commit of `v`. -/
inductive RegSet where
  | ring | jrn | pmc | none_
  deriving DecidableEq, Repr

/-- Which set an offset lies in, and where. -/
def setOf (p off : Nat) : RegSet × Nat :=
  let at_ (r j m : Nat) : RegSet × Nat :=
    if r ≤ off ∧ off < r + 0x400 then (.ring, off - r)
    else if j ≤ off ∧ off < j + 0x60 then (.jrn, off - j)
    else if m ≤ off ∧ off < m + 0x60 then (.pmc, off - m)
    else (.none_, 0)
  if p = 0 then at_ 0x20000 0xD0400 0x81100 else at_ 0x1000 0x1C00 0x100

/-- The commit of a 64-bit register (R558): `v` is the whole value. Read-only registers ignore it. -/
def write64 (p : Fin 256) (off v : Nat) (s : State) : Next :=
  let up : W32 := BitVec.ofNat 32 (v / 2 ^ 32)
  let low (s : State) : State := setStage p off (some (BitVec.ofNat 32 v)) s
  let fresh (s : State) : State := setStage p off none s
  match setOf p off with
  | (.ring, o) => served s <| done (fresh (ringWrite64 p o v s))
  | (.jrn, 0x00) => served s <| done (fresh (modPart p (fun x => { x with jrn := baseWrite v x.jrn }) s))
  | (.jrn, 0x18) => served s (execJrnWinSeqWrite p up (low s))
  | (.pmc, 0x40) => served s <| done (fresh (modPart p (fun x => { x with dump := baseWrite v x.dump }) s))
  | _ =>
    if p.val ≠ 0 then done s
    else match off with
    | 0x10020 => served s <| done (fresh { s with time := { s.time with ptmOffset := BitVec.ofNat 64 v } })
    | 0x10028 => served s (execTimePair up (low s))
    | 0xE0028 => openTo s (done (fresh (cursorWrite v s)))
    | 0xE0030 => openTo s (execScrAckWrite up (low s))
    | 0xF0000 => execTarnStatusClear (BitVec.ofNat 64 v) 0 s
    | 0xF0028 => openTo s (execTarnSevWrite false (BitVec.ofNat 64 v) (fresh s))
    | 0xF0030 => openTo s (execTarnSevWrite true (BitVec.ofNat 64 v) (fresh s))
    | 0x110040 => served s <| done (fresh { s with pmc := { s.pmc with ring := { baseWrite v s.pmc.ring with cfgErr := false } } })
    | _ => done s

/-- The 64-bit registers that a lower-word write stages. -/
def staged64 (p off : Nat) : Bool :=
  match setOf p off with
  | (.ring, o) => o % 0x40 == 0x00 || o % 0x40 == 0x08
  | (.jrn, o) => o == 0x00 || o == 0x18
  | (.pmc, o) => o == 0x40
  | _ => p == 0 && (off == 0x10020 || off == 0x10028 || off == 0xE0028 || off == 0xE0030 || off == 0xF0028 || off == 0xF0030 || off == 0x110040)

/-! ## 32-bit registers -/

/-- RING_INT_CFG: a vector out of range keeps the field (03 R45, R61). -/
def ringInt (p v : Nat) (g : Ring) : Ring :=
  let vec := bitsOf v 5 0
  { g with timer := bitsOf v 25 16, count := bitsOf v 15 8, errInt := bitOf v 7,
           vector := if vec ≤ (if p = 0 then 47 else 6) then vec else g.vector }

/-- A write of a 32-bit register of a ring set. -/
def ringWrite32 (p : Fin 256) (o v : Nat) (s : State) : Next :=
  let r := Fin.ofNat 16 (o / 0x40)
  match o % 0x40 with
  | 0x10 => served s <| done (ringSet p r (fun g => { g with log2 := bitsOf v 4 0 }) s)
  | 0x14 => served s <| done (modRing p r (ringInt p v) s)
  | 0x18 => if bitOf v 0 then execRingEnable p r s else execRingDisable p r s
  | 0x1C => served s <| done (modRing p r (fun g => { g with
      cfgErr := g.cfgErr && !bitOf v 8, dbErr := g.dbErr && !bitOf v 9, fetchErr := g.fetchErr && !bitOf v 10 }) s)
  | _ => done s

/-- PART_VF_ERR: written ones clear. -/
def partErrClear (p v : Nat) (s : State) : State :=
  modPart p (fun x => { x with
    errAccess := x.errAccess && !bitOf v 0, errRing := x.errRing && !bitOf v 1, errReadFail := x.errReadFail && !bitOf v 2,
    errResetDone := x.errResetDone && !bitOf v 3 }) s

/-- JRN_HR_STATUS and PMC_P_STATUS: written ones clear. -/
def hostRingClear (v : Nat) (h : HostRing) : HostRing :=
  { h with cfgErr := h.cfgErr && !bitOf v 0, skipped := h.skipped && !bitOf v 1 }

/-- A write of a 32-bit word of an MSI-X entry (R555). A cleared mask lets a pending message go. -/
def msixWrite (p : Fin 256) (o v : Nat) (s : State) : Next :=
  let n := o / 16
  let put (f : Vector_ → Vector_) : Next :=
    done { s with msix := Tab.modify Vector_.reset s.msix (64 * p.val + n) f }
  match o % 16 with
  | 0 => put fun x => { x with addr := BitVec.ofNat 64 (x.addr.toNat / 2 ^ 32 * 2 ^ 32 + v) }
  | 4 => put fun x => { x with addr := BitVec.ofNat 64 (2 ^ 32 * v + x.addr.toNat % 2 ^ 32) }
  | 8 => put fun x => { x with data := BitVec.ofNat 32 v }
  | _ => if bitOf v 0 then put fun x => { x with mask := true } else execMsixVectorUnmask p (Fin.ofNat 64 n) s

/-- CIRQ_CFG (04 R102). -/
def cirqCfgWrite (v : Nat) (s : State) : State :=
  let k := bitsOf v 23 16
  let pke := if 16 ≤ k ∧ k ≤ 192 then k else s.cirq.pke
  lockIf v 1 (rwl 1 0x30000 (pke == s.cirq.pke && bitsOf v 9 0 == s.cirq.guard)
    (fun s => { s with cirq := { s.cirq with pke := pke, guard := bitsOf v 9 0 } }) s)

/-- PAIR_CFG (15 R444): PAIRED cleared ends the session, and the module is SOLO; set, it is ALONE (R442). -/
def pairCfgWrite (v : Nat) (s : State) : State :=
  let p := s.pair
  let same := bitOf v 0 == p.paired && bitOf v 1 == p.claimEn && bitOf v 2 == p.autoJoin
  let store (s : State) : State :=
    let s := modPair (fun p => { p with claimEn := bitOf v 1, autoJoin := bitOf v 2 }) s
    if bitOf v 0 == s.pair.paired then s
    else if bitOf v 0 then pairTo .alone 0 (modPair (fun p => { p with paired := true }) s)
    else pairTo .solo 0 (modPair (fun p => { p with paired := false, trained := false, role := if p.role = 0 then 2 else p.role }) (endSession s))
  lockIf v 5 (rwl 5 0xC0000 same store s)

/-- A word of PAIR_PEER_SERIAL. -/
def peerWrite (off v : Nat) (s : State) : State :=
  let k := 8 * (off - 0xC0018)
  let old := s.pair.peer.toNat / 2 ^ k % 2 ^ 32
  rwl 5 off (old == v) (modPair fun p => { p with peer := BitVec.ofNat 128 (p.peer.toNat - old * 2 ^ k + v * 2 ^ k) }) s

/-- SCR_CFG (16 R474). -/
def scrCfgWrite (v : Nat) (s : State) : State :=
  lockIf v 6 (rwl 6 0xE0000 (bitsOf v 25 16 == s.scr.freezeMax && bitsOf v 7 0 == s.scr.thresh)
    (modScr fun c => { c with freezeMax := bitsOf v 25 16, thresh := bitsOf v 7 0 }) s)

/-- SCR_CODE_CFG.RATE of the selected code: ignored for exempt codes (16 R474). -/
def scrRateWrite (v : Nat) (s : State) : State :=
  let c := Tab.get CodeState.reset s.scr.codes s.scr.sel
  if screeExempt s.scr.sel then s
  else rwl 6 0xE003C (bitsOf v 7 0 == c.rate)
    (modScr fun x => { x with codes := Tab.set CodeState.reset x.codes s.scr.sel { c with rate := bitsOf v 7 0 } }) s

/-- TARN_CFG (17 R490). -/
def tarnCfgWrite (v : Nat) (s : State) : State :=
  lockIf v 7 (rwl 7 0xF0020 (bitsOf v 13 0 == s.tarn.esc) (modTarn fun t => { t with esc := bitsOf v 13 0 }) s)

/-- PMC_CFG (18 R505). -/
def pmcCfgWrite (v : Nat) (s : State) : State :=
  lockIf v 8 (rwl 8 0x110000 (bitOf v 0 == s.pmc.en) (fun s => { s with pmc := { s.pmc with en := bitOf v 0 } }) s)

/-- A register of the selected counter: the lock of PMC_CFG holds for every one (18 R505). -/
def counterWrite (off : Nat) (f : Counter → Counter) (s : State) : State :=
  let c := counterAt s
  rwl 8 off (f c == c) (fun s => { s with pmc := { s.pmc with counters := Tab.set Counter.reset s.pmc.counters s.pmc.sel (f c) } }) s

/-- PWR_CFG (19 R528). -/
def pwrCfgWrite (v : Nat) (s : State) : State :=
  let p := s.pwr
  lockIf v 9 (rwl 9 0x120000 (bitsOf v 26 17 == p.quiesceMax && bitsOf v 16 1 == p.idle && bitOf v 0 == p.autoOff)
    (modPwr fun p => { p with quiesceMax := bitsOf v 26 17, idle := bitsOf v 16 1, autoOff := bitOf v 0 }) s)

/-- The rest of a command on a next state. -/
def andThen (n : Next) (f : State → Next) : Next :=
  match n with
  | .next s => f s
  | x => x

/-- Two bits of one control register that each start a command: the lower bit first (log entry 77). -/
def ctrlBits (v : Nat) (f g : State → Next) (s : State) : Next :=
  andThen (if bitOf v 0 then f s else done s) fun s => if bitOf v 1 then g s else done s

/-- A write of a 32-bit register of the physical function outside the sets that every function has. -/
def pfWrite32 (off v : Nat) (s : State) : Next :=
  let w : W32 := BitVec.ofNat 32 v
  let plain (f : State → State) : Next := served s (done (f s))
  if 0x8000 ≤ off ∧ off < 0x8400 then served s (msixWrite 0 (off - 0x8000) v s)
  else if 0xC0018 ≤ off ∧ off < 0xC0028 then plain (peerWrite off v)
  else if 0x100100 ≤ off ∧ off < 0x100180 then
    (if off % 16 = 4 ∧ bitOf v 31 then
      plain fun s => { s with grd := { s.grd with viols := Tab.modify Viol.none_ s.grd.viols ((off - 0x100100) / 16) fun x => { x with valid := false } } }
    else done s)
  else match off with
  | 0x00010 => plain fun s => { s with sys := { s.sys with scratch := w } }
  | 0x00018 => execSysLockWrite w s
  | 0x00020 => plain fun s => { s with sys := { s.sys with accErr := s.sys.accErr &&& ~~~(BitVec.ofNat 3 v) } }
  | 0x10000 => execTimeCfgWrite w s
  | 0x10030 => if bitOf v 0 then execAcceptFree s else done s
  | 0x30000 => plain (cirqCfgWrite v)
  | 0x30020 => plain fun s => { s with sys := { s.sys with estSel := BitVec.ofNat 32 (v % 2 ^ 19) } }
  | 0x30100 => plain fun s => { s with sys := { s.sys with cirqSel := v % 2 ^ 8 } }
  | 0x40100 => execMasKsHeadWrite 0 w s
  | 0x50000 => plain fun s => lockIf v 2 (rwl 2 off (bitsOf v 5 0 == s.eng.newtPeriod)
      (fun s => { s with eng := { s.eng with newtPeriod := bitsOf v 5 0 } }) s)
  | 0x50200 => execNewtWinStart w s
  | 0x60000 => plain fun s => lockIf v 3 (rwl 3 off (bitsOf v 5 0 == s.eng.iguPeriod)
      (fun s => { s with eng := { s.eng with iguPeriod := bitsOf v 5 0 } }) s)
  | 0x60200 => execIguWinStart w s
  | 0x60300 => plain fun s => { s with eng := { s.eng with curvePart := v % 2 ^ 8, curveSlot := bitsOf v 9 8 } }
  | 0x70000 => plain fun s => lockIf v 4 (rwl 4 off (bitsOf v 3 0 == s.rng.reserve) (modRng fun r => { r with reserve := bitsOf v 3 0 }) s)
  | 0x70010 => execRngCtrlRestart w s
  | 0x70100 => plain fun s => if bitsOf v 8 0 ≤ 260 then modRng (fun r => { r with sel := bitsOf v 8 0 }) s else s
  | 0x80000 => plain fun s => { s with sys := { s.sys with partSel := v % 2 ^ 8 } }
  | 0x80010 => plain fun s => if s.sys.partSel ≠ 0 ∧ existsPart s s.sys.partSel then
      modPart s.sys.partSel (fun x => { x with pmcUserRead := bitOf v 0 }) s else s
  | 0x80018 => execPartCtrlReset w s
  | 0x81008 => execPartVfCtrlReset 0 w s
  | 0x81010 => plain (partErrClear 0 v)
  | 0x90010 => plain (modCust fun c => { c with
      selCust := bitsOf v 4 0, selRule := if 1 ≤ bitsOf v 11 8 ∧ bitsOf v 11 8 ≤ 11 then bitsOf v 11 8 else c.selRule })
  | 0x90040 => execCustCertSelWrite w s
  | 0xA0008 => openTo s (ctrlBits v execTmpCtrlResume execTmpCtrlEvregClear s)
  | 0xA0018 => openTo s (done (if bitsOf v 2 0 = 7 then s else { s with tmp := { s.tmp with monSel := bitsOf v 2 0 } }))
  | 0xA0028 => openTo s (done { s with tmp := { s.tmp with evSel := bitsOf v 3 0 } })
  | 0xC0000 => plain (pairCfgWrite v)
  | 0xC0048 => if bitOf v 0 then execPairCtrlDetach s else done s
  | 0xE0000 => openTo s (done (scrCfgWrite v s))
  | 0xE0008 => openTo s (done (modScr (fun c => { c with overrun := c.overrun && !bitOf v 1, gaps := c.gaps && !bitOf v 3 }) s))
  | 0xE0010 => openTo s (ctrlBits v execScrCtrlFreeze execScrCtrlThaw s)
  | 0xE0038 => openTo s (done (modScr (fun c => { c with sel := v % 2 ^ 12 }) s))
  | 0xE003C => openTo s (done (scrRateWrite v s))
  | 0xF0020 => openTo s (done (tarnCfgWrite v s))
  | 0xF0038 => openTo s (done (modTarn (fun t => { t with dsel := v % 2 ^ 6 }) s))
  | 0xF0050 => execTarnInject w s
  | 0x100010 => plain fun s => { s with grd := { s.grd with sel := bitsOf v 10 8 * 32 + bitsOf v 4 0 } }
  | 0x110000 => plain (pmcCfgWrite v)
  | 0x110010 => if bitOf v 0 then execPmcClearAll s else done s
  | 0x110018 => plain fun s => { s with pmc := { s.pmc with sel := v % 2 ^ 9 } }
  | 0x110020 => plain (counterWrite off fun c => { c with evt := w &&& 0xFFFC00FF })
  | 0x110024 => plain (counterWrite off fun c => { c with master := w &&& 0xFFFF })
  | 0x110028 => plain (counterWrite off fun c => { c with lo := w })
  | 0x11002C => plain (counterWrite off fun c => { c with hi := w })
  | 0x110030 => plain (counterWrite off fun c => { c with period := w })
  | 0x110048 => execPmcSrCfgWrite w s
  | 0x120000 => openTo s (done (pwrCfgWrite v s))
  | 0x120010 => openTo s (ctrlBits v execPwrCtrlQuiesce execPwrCtrlUnquiesce s)
  | 0x130008 => if bitOf v 0 then execDbgCtrlClose s else done s
  | _ => done s

/-- A write of a 32-bit register. -/
def write32 (p : Fin 256) (off v : Nat) (s : State) : Next :=
  let w : W32 := BitVec.ofNat 32 v
  match setOf p off with
  | (.ring, o) => ringWrite32 p o v s
  | (.jrn, 0x08) => execJrnHrCfgWrite p w s
  | (.jrn, 0x0C) => served s (done (modPart p (fun x => { x with jrn := hostRingClear v x.jrn }) s))
  | (.pmc, 0x48) => execPmcPDumpCfgWrite p w s
  | (.pmc, 0x58) => served s (done (modPart p (fun x => { x with dump := hostRingClear v x.dump }) s))
  | _ =>
    if p.val = 0 then pfWrite32 off v s
    else if 0x2000 ≤ off ∧ off < 0x2080 then served s (msixWrite p (off - 0x2000) v s)
    else match off with
    | 0x0008 => execPartVfCtrlReset p w s
    | 0x0010 => served s (done (partErrClear p v s))
    | 0x1800 => execMasKsHeadWrite p w s
    | _ => done s

/-! ## Writes (R550, R557, R558) -/

/-- A write of half `upper` of a 64-bit register: TARN_STATUS clears at once (17 R489); the others stage the lower word and commit at the
upper. -/
def writeHalf (p : Fin 256) (off : Nat) (upper : Bool) (v : Nat) (s : State) : Next :=
  if p.val = 0 ∧ off = 0xF0000 then write64 p off (if upper then 2 ^ 32 * v else v) s
  else if !staged64 p off then done s
  else
    let cur := match regAt s p off with | some (_, x) => x | none => 0
    if upper then write64 p off (commitValue s p off cur (BitVec.ofNat 32 v)) s
    else if !shows s p off then done s
    else done (setStage p off (some (BitVec.ofNat 32 v)) s)

/-- An aligned four-byte write to the register space. -/
def writeWord (p : Fin 256) (off v : Nat) (s : State) : Next :=
  match regAt s p off with
  | some (false, _) => write32 p off v s
  | some (true, _) => writeHalf p off false v s
  | none =>
    match (if 4 ≤ off then regAt s p (off - 4) else none) with
    | some (true, _) => writeHalf p (off - 4) true v s
    | _ => done (pfError p 1 off s)

/-- Ring and offset in its page of a doorbell address. -/
def doorbellAt (p off : Nat) : Nat × Nat :=
  if p = 0 then ((off - 0x800000) / 0x1000, (off - 0x800000) % 0x1000) else ((off - 0x8000) / 0x800, (off - 0x8000) % 0x800)

/-- A write in a doorbell page (03 R53): two aligned 32-bit doorbells; any other write sets DB_ERR. Above the rings nothing happens. -/
def doorbellWrite (p : Fin 256) (off size v : Nat) (s : State) : Next :=
  let (r, o) := doorbellAt p off
  if 16 ≤ r then done s
  else
    let ring := Fin.ofNat 16 r
    let word := size == 4
    if o = 4 then execCqHead p ring word (BitVec.ofNat 32 v) s
    else execSqTail p ring (word && o == 0) (BitVec.ofNat 32 v) s

/-- REGISTER_WRITE: an aligned write of 4 bytes, or of 8 to a 64-bit register or to two 32-bit ones; any other is refused. -/
def execRegisterWrite (p : Fin 256) (offset size : Nat) (value : W64) (s : State) : Next :=
  let v := value.toNat
  if barSize p ≤ offset then done s
  else if doorbells p ≤ offset then doorbellWrite p offset size v s
  else if inWin p offset then done s
  else if size = 4 ∧ offset % 4 = 0 then writeWord p offset (v % 2 ^ 32) s
  else if size = 8 ∧ offset % 8 = 0 then
    match regAt s p offset with
    | some (true, _) => write64 p offset v s
    | _ => andThen (writeWord p offset (v % 2 ^ 32) s) (writeWord p (offset + 4) (v / 2 ^ 32))
  else done (pfError p 0 offset s)

/-! ## The debug status page (14 R402) -/

/-- The read-only status registers of each block, by block number of R548 and offset within it. -/
def statusRegs : List (Nat × List Nat) :=
  [(0x00, [0x00, 0x04, 0x08, 0x24]), (0x01, [0x08, 0x10, 0x14, 0x18, 0x38]),
   (0x02, (List.range 16).flatMap fun r => [0x40 * r + 0x1C, 0x40 * r + 0x20, 0x40 * r + 0x24, 0x40 * r + 0x28, 0x40 * r + 0x2C]),
   (0x03, [0x08, 0x10, 0x14, 0x24, 0x40, 0x44, 0x48, 0x4C, 0x50, 0x54, 0x108, 0x10C, 0x110, 0x114, 0x118, 0x11C, 0x120, 0x124, 0x128, 0x12C]),
   (0x04, [0x104, 0x108]), (0x05, [0x08, 0x10, 0x14, 0x208] ++ (List.range 16).map fun n => 0x100 + 8 * n),
   (0x06, [0x08, 0x208, 0x308, 0x310, 0x314] ++ (List.range 16).map fun n => 0x100 + 8 * n), (0x07, [0x08, 0x20, 0x28, 0x30, 0x108, 0x10C]),
   (0x08, [0x08, 0x20, 0x24, 0x100, 0x104, 0x108, 0x10C, 0x110, 0x114, 0x118, 0x11C]),
   (0x09, [0x00, 0x08, 0x18, 0x20, 0x28, 0x30, 0x44, 0x50, 0x54, 0x58, 0x5C]), (0x0A, [0x00, 0x10, 0x1C, 0x20, 0x40, 0x48]),
   (0x0B, 0x00 :: (List.range 8).map fun k => 0x10 + 4 * k), (0x0C, [0x08, 0x10, 0x30, 0x34, 0x38, 0x40]),
   (0x0D, [0x00, 0x04, 0x08, 0x0C, 0x10, 0x14, 0x40C, 0x410, 0x414, 0x420]), (0x0E, [0x08, 0x18, 0x1C, 0x20, 0x24, 0x40]),
   (0x0F, [0x00, 0x04, 0x08, 0x0C, 0x10, 0x14, 0x18, 0x1C, 0x40, 0x44, 0x48]),
   (0x10, [0x00, 0x08, 0x18, 0x1C] ++ (List.range 8).flatMap fun u => [0x100 + 16 * u, 0x104 + 16 * u, 0x108 + 16 * u]),
   (0x11, [0x08, 0x38, 0x3C, 0x50, 0x54]), (0x12, [0x08, 0x18, 0x1C, 0x20, 0x28]), (0x13, [0x00])]

/-- The word a register read returns, without its side effects. -/
def wordShown (s : State) (off : Nat) : Nat :=
  match regAt s 0 off with
  | some (_, v) => v % 2 ^ 32
  | none => match regAt s 0 (off - 4) with
    | some (true, v) => v / 2 ^ 32
    | _ => 0

/-- The 2 KiB of one block: its status registers at their offsets, zero elsewhere. -/
def blockPage (s : State) (b : Nat) (offs : List Nat) : Bytes :=
  (List.range 512).flatMap fun i => if offs.contains (4 * i) then leBytes 4 (wordShown s (b * 0x10000 + 4 * i)) else zeros 4

/-- DEBUG_PAGE_REFRESH: while a session holds right 0 or 1, at most every 100 µs: the status registers, 2 KiB a block in block order, then
the last 16 KiB of the firmware trace, which the sender supplies. -/
def execDebugPageRefresh (trace : Bytes) (s : State) : Next :=
  if !s.dbg.open_ ∨ !(s.dbg.rights.getLsbD 0 || s.dbg.rights.getLsbD 1) ∨ s.time.mono < 100000 + s.dbg.refreshed then done s
  else
    let page := (statusRegs.flatMap fun x => blockPage s x.1 x.2) ++ fit 16384 (trace.drop (trace.length - 16384))
    done { s with dbg := { s.dbg with page := page, refreshed := s.time.mono } }

end Sys2Proof.Machine
end

