-- ==== Sys2Proof/Machine/Smbus.lean ====
section
/-!
DEFINITION. The SMBus slave (20 R540, R541): its read commands and the Alert Response Address. `pec` says that the transaction carried no
packet error code or the right one.
-/
namespace Sys2Proof.Machine

/-- A command's handling (R540): no answer without a rail; after a wrong PEC a NACK and Tarn source SMBUS, which needs the core die. -/
def smbAnswer (pec : Bool) (f : State → Bytes × State) (s : State) : Next :=
  if !alwaysOn s then done s
  else if !pec then
    let s := emit .smbusNack s
    done (if s.pwr.main && !s.pwr.perst then tarnOpen 47 2 0 false s else s)
  else
    let (bs, s) := f s
    done (emit (.smbus bs) s)

/-- A field that needs main power: 0xFF without it (R541; log entry 76). -/
def mainByte (s : State) (v : Nat) : Byte := if s.pwr.main then BitVec.ofNat 8 v else 0xFF

/-- SMB_STATUS. -/
def execSmbStatus (pec : Bool) (s : State) : Next :=
  smbAnswer pec (fun s => ([BitVec.ofNat 8 (smbStatusByte s)], s)) (judgeAlert s)

/-- HEALTH, 8 bytes. -/
def healthBytes (s : State) : Bytes :=
  [BitVec.ofNat 8 s.pwr.fault, mainByte s (lcCode s), mainByte s s.tmp.level, mainByte s (s.tmp.cellA.state + s.tmp.cellB.state * 4),
   mainByte s (tarnNos.filter fun n => (srcAt s n).set && (srcAt s n).eff == 3).length, mainByte s s.pair.state.code,
   mainByte s s.time.state.code, mainByte s s.rng.state]

/-- SMB_HEALTH. -/
def execSmbHealth (pec : Bool) (s : State) : Next := smbAnswer pec (fun s => (healthBytes s, s)) s

/-- SMB_TEMPERATURE: what the sensors show is open (log entry 5); 0x8000 without main power. -/
def execSmbTemperature (pec : Bool) (s : State) : Next :=
  smbAnswer pec (fun s => if s.pwr.main then freeBytes 6 s else ([0x00, 0x80, 0x00, 0x80, 0x00, 0x80], s)) s

/-- SMB_EVIDENCE: the evidence count of 13 R384. -/
def execSmbEvidence (pec : Bool) (s : State) : Next :=
  smbAnswer pec (fun s => (if s.pwr.main then leBytes 2 (evCount s) else [0xFF, 0xFF], s)) s

/-- INVENTORY, 32 bytes. -/
def inventoryBytes (s : State) : Bytes :=
  serialBytes ++ [BitVec.ofNat 8 Config.part.toNat, Config.build, mainByte s (fwVersion s), mainByte s (b2n s.pwr.running),
    mainByte s (lcCode s)] ++ zeros 11

/-- SMB_INVENTORY. -/
def execSmbInventory (pec : Bool) (s : State) : Next := smbAnswer pec (fun s => (inventoryBytes s, s)) s

/-- SMB_QUIESCE_STATE. -/
def execSmbQuiesceState (pec : Bool) (s : State) : Next :=
  smbAnswer pec (fun s => ([BitVec.ofNat 8 (s.pwr.quiesce + flagAt (safeRemove s) 2 + flagAt s.pwr.qPin 3)], s)) s

/-- ALERT_RESPONSE_READ: the module that asserts the alert answers with its own address, and releases it. -/
def execAlertResponseRead (s : State) : Next :=
  let s := judgeAlert s
  if !alwaysOn s || !s.smb.alert then done s
  else done (emit (.smbus [BitVec.ofNat 8 (2 * (0x60 + s.smb.straps.toNat))]) { s with smb := { s.smb with alert := false } })

end Sys2Proof.Machine
end

