-- ==== Sys2Proof/Machine/Tr34.lean ====
section
/-!
DEFINITION. TR34_IMPORT (07_cryptograms_dukpt_tokens.md R204 to R207).
-/
namespace Sys2Proof.Machine

/-- Strength in bits that R120 compares here (PRESUMED, log entry 44): of an RSA modulus length in bytes, of a symmetric key. -/
def rsaStrength (k : Nat) : Nat := if k < 384 then 112 else if k < 512 then 128 else if k < 960 then 152 else 192
/-- Strength of a symmetric key. -/
def symStrength (alg : Byte) (n : Nat) : Nat := if alg = chr 'A' then 8 * n else if alg = chr 'T' then 112 else 0

/-- The header and clear key field of the content (R204): a Zalilys block is ignored. -/
def clearBlock (b : Bytes) : Option KeyBlock :=
  if byteAt b 0 ≠ chr 'D' ∨ b.length < 16 ∨ (decVal (slice b 1 4)).isNone ∨ !((slice b 5 7).all isAlnum) ∨ slice b 14 2 ≠ ascii "00" then none
  else match (decVal (slice b 12 2)).bind (fun n => optBlocks b n 16 none) with
    | none => none
    | some (pos, _) =>
      let bits := beField b pos 2
      if bits = 0 ∨ bits % 8 ≠ 0 ∨ b.length < pos + 2 + bits / 8 then none
      else some {
        usage := BitVec.ofNat 16 (beField b 5 2), alg := byteAt b 7, mode := byteAt b 8, version := BitVec.ofNat 16 (beField b 9 2),
        exp := byteAt b 11, key := slice b (pos + 2) (bits / 8), z := none }

/-- The cause for which a message is stale (R206): 1 outside the window, 2 replayed, 3 at or before the floor. -/
def staleCause (c : Clock) (x : Part) (time : Nat) (dig : Bytes) : Option Nat :=
  let e := if c.state = 2 then c.bound else 0
  let t := 10 ^ 9 * time
  let now := c.t
  let floor := Nat.max c.first (10 ^ 9 * x.trFloor.getD 0)
  if !(decide (now + e < 360 * 10 ^ 9 + t ∧ t + e < 60 * 10 ^ 9 + now)) then some 1
  else if x.tr34.any (fun y => y.digest == dig) then some 2
  else if t ≤ floor then some 3
  else none

/-- The attributes of an imported key (R118, R119, R205): a usage or mode the module does not take is ST_KEY_USAGE here. -/
def trAttrs (curves : Tab (Option Curve)) (b : KeyBlock) : Except W16 Attrs := do
  need ((usageRow b.usage).isSome && modeKnown b.mode) stKeyUsage
  attrsOf curves b

/-- A message of at most 16,384 bytes, parsed (R204). -/
def trParse (msg : Bytes) : Option Config.Cms := if msg.length ≤ 16384 then Config.cmsParse msg else none

/-- The content deciphered (R204). -/
def trContent (cek : Bytes) (c : Config.Cms) : Option Bytes :=
  if c.content.length % 16 = 0 ∧ c.content ≠ [] then unpad 4 16 (cbcDec false cek c.iv c.content) else none

/-- The key of a fresh, verified message becomes a node under the vault master, and the message is remembered (R205, R206). -/
def trTake (j : Job) (a : Binding) (c : Config.Cms) : Cmd Run := do
  let cek ← Cmd.some? (Config.oaepDecrypt 2 a.material [] c.wrappedKey) stInputRejected
  Cmd.need (cek.length == 32) stInputRejected
  let plain ← Cmd.some? (trContent cek c) stFormat
  let kb ← Cmd.some? (clearBlock plain) stFormat
  let at_ ← Cmd.of (trAttrs (partAt (← get) j.part).curves kb)
  Cmd.need (decide (symStrength at_.alg kb.key.length ≤ rsaStrength (rsaLen a.attrs.code))) stKeyUsage
  Cmd.need (at_.code == 0 || materialValid (partAt (← get) j.part).curves at_.code kb.key) stInputRejected
  let parent ← Cmd.of (masterRef (← get) j.part)
  let (i, n) ← newNode j (bitOf (j.desc.par 56) 0) at_ parent 0 kb.key
  let h := nodeHandle i n.gen
  return { Run.creates i n [] with
    commits := [.node i n, .tr34 j.part { time := c.signingTime, digest := sha256Head 16 j.input }],
    events := [⟨0x161, j.cluster, [j.part, h.toNat, leNat n.check]⟩] }

/-- TR34_IMPORT. -/
def tr34Run (j : Job) : Cmd Run := do
  let a ← Cmd.of (bound j.keyA)
  let b ← Cmd.of (bound j.keyB)
  let c ← Cmd.some? (trParse j.input) stFormat
  Cmd.need ((c.scheme == 3 || c.scheme == 4) && c.recipient == (sha256B (publicKey a.attrs.code a.material)).take 20) stFormat
  Cmd.need (c.digestOk && Config.pkVerify c.scheme 2 b.attrs.code (publicKey b.attrs.code b.material) [] c.signedBytes c.signature) stVerifyFail
  let clk ← readClock j.seq
  match staleCause clk (partAt (← get) j.part) c.signingTime (sha256Head 16 j.input) with
  | some cause =>
    modify (note 0x162 j.cluster [j.part, c.signingTime, cause])
    Cmd.fail stVerifyFail
  | none => trTake j a c

def execTr34Import (seq : Nat) (s : State) : Next := done (runOp 0x020F anyJob tr34Run seq s)

end Sys2Proof.Machine
end

