-- ==== Sys2Proof/Machine/Dispatch.lean ====
section
/-!
DEFINITION. The one dispatch: one arm per command, each a direct call of its meaning.
-/
namespace Sys2Proof.Machine

/-- The effect of a command on everything but the queue. -/
def exec (i : Instr) (s : State) : Host.Outcome State Fault Refusal :=
  match i with
  | .sqTail p ring word value => Sys2Proof.Machine.execSqTail p ring word value s
  | .cqHead p ring word value => Sys2Proof.Machine.execCqHead p ring word value s
  | .descriptorFetch => Sys2Proof.Machine.execDescriptorFetch s
  | .descriptorArrival p ring r => Sys2Proof.Machine.execDescriptorArrival p ring r s
  | .fenceRelease p ring => Sys2Proof.Machine.execFenceRelease p ring s
  | .jobDispatch => Sys2Proof.Machine.execJobDispatch s
  | .jobInputArrival seq off r => Sys2Proof.Machine.execJobInputArrival seq off r s
  | .blobLoad seq second entry blob => Sys2Proof.Machine.execBlobLoad seq second entry blob s
  | .hostReadTimeout what => Sys2Proof.Machine.execHostReadTimeout what s
  | .newtGrant core => Sys2Proof.Machine.execNewtGrant core s
  | .iguanaGrant core bank => Sys2Proof.Machine.execIguanaGrant core bank s
  | .pinvGrant unit => Sys2Proof.Machine.execPinvGrant unit s
  | .unitGrant unit => Sys2Proof.Machine.execUnitGrant unit s
  | .yieldPoint seq => Sys2Proof.Machine.execYieldPoint seq s
  | .bankZeroiseDone core bank => Sys2Proof.Machine.execBankZeroiseDone core bank s
  | .jobRetire seq => Sys2Proof.Machine.execJobRetire seq s
  | .completionWrite seq => Sys2Proof.Machine.execCompletionWrite seq s
  | .intModerationTimer p ring => Sys2Proof.Machine.execIntModerationTimer p ring s
  | .msixVectorUnmask p vector => Sys2Proof.Machine.execMsixVectorUnmask p vector s
  | .cursorAdvance => Sys2Proof.Machine.execCursorAdvance s
  | .serviceWindow => Sys2Proof.Machine.execServiceWindow s
  | .ringEnable p ring => Sys2Proof.Machine.execRingEnable p ring s
  | .ringDisable p ring => Sys2Proof.Machine.execRingDisable p ring s
  | .partCreate seq => Sys2Proof.Machine.execPartCreate seq s
  | .partDestroy seq => Sys2Proof.Machine.execPartDestroy seq s
  | .partConfigure seq => Sys2Proof.Machine.execPartConfigure seq s
  | .partFreeze seq => Sys2Proof.Machine.execPartFreeze seq s
  | .partThaw seq => Sys2Proof.Machine.execPartThaw seq s
  | .partSaveSave seq => Sys2Proof.Machine.execPartSaveSave seq s
  | .partSaveRelease seq => Sys2Proof.Machine.execPartSaveRelease seq s
  | .partSaveReissue seq => Sys2Proof.Machine.execPartSaveReissue seq s
  | .partRestoreOffer seq => Sys2Proof.Machine.execPartRestoreOffer seq s
  | .partRestoreRestore seq => Sys2Proof.Machine.execPartRestoreRestore seq s
  | .partRestoreActivate seq => Sys2Proof.Machine.execPartRestoreActivate seq s
  | .partRestoreAbort seq => Sys2Proof.Machine.execPartRestoreAbort seq s
  | .tdesSetEnable seq => Sys2Proof.Machine.execTdesSetEnable seq s
  | .tdesSetDisable seq => Sys2Proof.Machine.execTdesSetDisable seq s
  | .authChallenge seq => Sys2Proof.Machine.execAuthChallenge seq s
  | .custodianSessionOpen seq => Sys2Proof.Machine.execCustodianSessionOpen seq s
  | .custodianSessionExchange seq => Sys2Proof.Machine.execCustodianSessionExchange seq s
  | .custodianSessionClose seq => Sys2Proof.Machine.execCustodianSessionClose seq s
  | .custodianEnrol seq => Sys2Proof.Machine.execCustodianEnrol seq s
  | .masterLoad seq => Sys2Proof.Machine.execMasterLoad seq s
  | .policySetTamper seq => Sys2Proof.Machine.execPolicySetTamper seq s
  | .policySetRules seq => Sys2Proof.Machine.execPolicySetRules seq s
  | .policySetCellWindow seq => Sys2Proof.Machine.execPolicySetCellWindow seq s
  | .lcTransition seq => Sys2Proof.Machine.execLcTransition seq s
  | .fwUpdateLoad seq => Sys2Proof.Machine.execFwUpdateLoad seq s
  | .fwUpdateActivate seq => Sys2Proof.Machine.execFwUpdateActivate seq s
  | .debugCertAccept seq => Sys2Proof.Machine.execDebugCertAccept seq s
  | .attest seq => Sys2Proof.Machine.execAttest seq s
  | .pairStatusRead seq => Sys2Proof.Machine.execPairStatusRead seq s
  | .pairStatusRepair seq => Sys2Proof.Machine.execPairStatusRepair seq s
  | .pairStatusHandover seq => Sys2Proof.Machine.execPairStatusHandover seq s
  | .keyImport seq => Sys2Proof.Machine.execKeyImport seq s
  | .keyImportRestore seq => Sys2Proof.Machine.execKeyImportRestore seq s
  | .keyExport seq => Sys2Proof.Machine.execKeyExport seq s
  | .keyGenerate seq => Sys2Proof.Machine.execKeyGenerate seq s
  | .keyReplace seq => Sys2Proof.Machine.execKeyReplace seq s
  | .keyErase seq => Sys2Proof.Machine.execKeyErase seq s
  | .keyInvalidate seq => Sys2Proof.Machine.execKeyInvalidate seq s
  | .keyAttrRead seq => Sys2Proof.Machine.execKeyAttrRead seq s
  | .keyCheckValue seq => Sys2Proof.Machine.execKeyCheckValue seq s
  | .keyTranslate seq => Sys2Proof.Machine.execKeyTranslate seq s
  | .blobTableSet seq => Sys2Proof.Machine.execBlobTableSet seq s
  | .blobEvict seq => Sys2Proof.Machine.execBlobEvict seq s
  | .derivContextSet seq => Sys2Proof.Machine.execDerivContextSet seq s
  | .keystoreRingSet seq => Sys2Proof.Machine.execKeystoreRingSet seq s
  | .derivedCacheFlush seq => Sys2Proof.Machine.execDerivedCacheFlush seq s
  | .tr34Import seq => Sys2Proof.Machine.execTr34Import seq s
  | .pinTranslate seq => Sys2Proof.Machine.execPinTranslate seq s
  | .pinVerifyOffset seq => Sys2Proof.Machine.execPinVerifyOffset seq s
  | .pinVerifyPvv seq => Sys2Proof.Machine.execPinVerifyPvv seq s
  | .pinOffsetGen seq => Sys2Proof.Machine.execPinOffsetGen seq s
  | .pvvGen seq => Sys2Proof.Machine.execPvvGen seq s
  | .pinGenerate seq => Sys2Proof.Machine.execPinGenerate seq s
  | .dectabLoad seq => Sys2Proof.Machine.execDectabLoad seq s
  | .arqcVerify seq => Sys2Proof.Machine.execArqcVerify seq s
  | .arpcGenerate seq => Sys2Proof.Machine.execArpcGenerate seq s
  | .smMac seq => Sys2Proof.Machine.execSmMac seq s
  | .smEncrypt seq => Sys2Proof.Machine.execSmEncrypt seq s
  | .smPinChange seq => Sys2Proof.Machine.execSmPinChange seq s
  | .cvvGenerate seq => Sys2Proof.Machine.execCvvGenerate seq s
  | .cvvVerify seq => Sys2Proof.Machine.execCvvVerify seq s
  | .dukptInitExport seq => Sys2Proof.Machine.execDukptInitExport seq s
  | .dukptDecrypt seq => Sys2Proof.Machine.execDukptDecrypt seq s
  | .dukptEncrypt seq => Sys2Proof.Machine.execDukptEncrypt seq s
  | .dukptMacGenerate seq => Sys2Proof.Machine.execDukptMacGenerate seq s
  | .dukptMacVerify seq => Sys2Proof.Machine.execDukptMacVerify seq s
  | .encrypt seq => Sys2Proof.Machine.execEncrypt seq s
  | .decrypt seq => Sys2Proof.Machine.execDecrypt seq s
  | .macGenerate seq => Sys2Proof.Machine.execMacGenerate seq s
  | .macVerify seq => Sys2Proof.Machine.execMacVerify seq s
  | .ff1Tokenise seq => Sys2Proof.Machine.execFf1Tokenise seq s
  | .ff1Detokenise seq => Sys2Proof.Machine.execFf1Detokenise seq s
  | .pkSign seq => Sys2Proof.Machine.execPkSign seq s
  | .pkVerify seq => Sys2Proof.Machine.execPkVerify seq s
  | .pkKeypair seq => Sys2Proof.Machine.execPkKeypair seq s
  | .pkAgree seq => Sys2Proof.Machine.execPkAgree seq s
  | .kemEncaps seq => Sys2Proof.Machine.execKemEncaps seq s
  | .kemDecaps seq => Sys2Proof.Machine.execKemDecaps seq s
  | .rsaDecrypt seq => Sys2Proof.Machine.execRsaDecrypt seq s
  | .rsaEncrypt seq => Sys2Proof.Machine.execRsaEncrypt seq s
  | .curveLoad seq => Sys2Proof.Machine.execCurveLoad seq s
  | .random seq => Sys2Proof.Machine.execRandom seq s
  | .hash seq => Sys2Proof.Machine.execHash seq s
  | .hmac seq => Sys2Proof.Machine.execHmac seq s
  | .nop seq => Sys2Proof.Machine.execNop seq s
  | .fence seq => Sys2Proof.Machine.execFence seq s
  | .cancel seq => Sys2Proof.Machine.execCancel seq s
  | .timeRead seq => Sys2Proof.Machine.execTimeRead seq s
  | .journalMark seq => Sys2Proof.Machine.execJournalMark seq s
  | .timePair upper => Sys2Proof.Machine.execTimePair upper s
  | .acceptFree => Sys2Proof.Machine.execAcceptFree s
  | .timeCfgWrite value => Sys2Proof.Machine.execTimeCfgWrite value s
  | .timePpsEdge => Sys2Proof.Machine.execTimePpsEdge s
  | .timeOfDayFrame frame => Sys2Proof.Machine.execTimeOfDayFrame frame s
  | .edgeReport => Sys2Proof.Machine.execEdgeReport s
  | .ptmRequest => Sys2Proof.Machine.execPtmRequest s
  | .ptmExchangeDone master => Sys2Proof.Machine.execPtmExchangeDone master s
  | .sourceLoss => Sys2Proof.Machine.execSourceLoss s
  | .slewDone => Sys2Proof.Machine.execSlewDone s
  | .sweepVisit => Sys2Proof.Machine.execSweepVisit s
  | .generationChangeCommit seq => Sys2Proof.Machine.execGenerationChangeCommit seq s
  | .masKsHeadWrite p value => Sys2Proof.Machine.execMasKsHeadWrite p value s
  | .keystoreRecordWrite seq => Sys2Proof.Machine.execKeystoreRecordWrite seq s
  | .pinvUnitFault unit datapath info => Sys2Proof.Machine.execPinvUnitFault unit datapath info s
  | .newtCoreFault core datapath info => Sys2Proof.Machine.execNewtCoreFault core datapath info s
  | .iguUnitFault unit datapath info => Sys2Proof.Machine.execIguUnitFault unit datapath info s
  | .newtPeriodicTest => Sys2Proof.Machine.execNewtPeriodicTest s
  | .iguPeriodicTest => Sys2Proof.Machine.execIguPeriodicTest s
  | .newtWinStart value => Sys2Proof.Machine.execNewtWinStart value s
  | .iguWinStart value => Sys2Proof.Machine.execIguWinStart value s
  | .newtWinTimeout => Sys2Proof.Machine.execNewtWinTimeout s
  | .windowTestDone unit pass cycles => Sys2Proof.Machine.execWindowTestDone unit pass cycles s
  | .rngStartupTestDone source pass => Sys2Proof.Machine.execRngStartupTestDone source pass s
  | .rngSourceFail source apt => Sys2Proof.Machine.execRngSourceFail source apt s
  | .rngBlockClose raw => Sys2Proof.Machine.execRngBlockClose raw s
  | .rngReady raw => Sys2Proof.Machine.execRngReady raw s
  | .rngReseed => Sys2Proof.Machine.execRngReseed s
  | .rngCtrlRestart value => Sys2Proof.Machine.execRngCtrlRestart value s
  | .vfFlr p => Sys2Proof.Machine.execVfFlr p s
  | .pfFlr => Sys2Proof.Machine.execPfFlr s
  | .vfEnableClear => Sys2Proof.Machine.execVfEnableClear s
  | .partVfCtrlReset p value => Sys2Proof.Machine.execPartVfCtrlReset p value s
  | .partCtrlReset value => Sys2Proof.Machine.execPartCtrlReset value s
  | .partResetDone p => Sys2Proof.Machine.execPartResetDone p s
  | .busMasterEnableClear p => Sys2Proof.Machine.execBusMasterEnableClear p s
  | .busMasterEnableSet p => Sys2Proof.Machine.execBusMasterEnableSet p s
  | .d3hotEntry p => Sys2Proof.Machine.execD3hotEntry p s
  | .challengeExpiry => Sys2Proof.Machine.execChallengeExpiry s
  | .sessionExpiry custodian => Sys2Proof.Machine.execSessionExpiry custodian s
  | .cellWindowExpiry => Sys2Proof.Machine.execCellWindowExpiry s
  | .custodianKeyStoreErase => Sys2Proof.Machine.execCustodianKeyStoreErase s
  | .monitorExcursion monitor detA detB => Sys2Proof.Machine.execMonitorExcursion monitor detA detB s
  | .detectorDisagreement monitor detA => Sys2Proof.Machine.execDetectorDisagreement monitor detA s
  | .tamperClockFault clockB => Sys2Proof.Machine.execTamperClockFault clockB s
  | .zeroiseReadbackDone ok => Sys2Proof.Machine.execZeroiseReadbackDone ok s
  | .cellRemoval cellB => Sys2Proof.Machine.execCellRemoval cellB s
  | .cellInsertion cellB volts => Sys2Proof.Machine.execCellInsertion cellB volts s
  | .cellSettled cellB => Sys2Proof.Machine.execCellSettled cellB s
  | .cellLow cellB volts => Sys2Proof.Machine.execCellLow cellB volts s
  | .holdupExpiry => Sys2Proof.Machine.execHoldupExpiry s
  | .tmpCtrlResume => Sys2Proof.Machine.execTmpCtrlResume s
  | .tmpCtrlEvregClear => Sys2Proof.Machine.execTmpCtrlEvregClear s
  | .tmpEvregDataRead word => Sys2Proof.Machine.execTmpEvregDataRead word s
  | .dbgCtrlClose => Sys2Proof.Machine.execDbgCtrlClose s
  | .debugSessionExpiry => Sys2Proof.Machine.execDebugSessionExpiry s
  | .debugPageRefresh trace => Sys2Proof.Machine.execDebugPageRefresh trace s
  | .debugAccess kind address => Sys2Proof.Machine.execDebugAccess kind address s
  | .grdCommit map => Sys2Proof.Machine.execGrdCommit map s
  | .grdCommitApply => Sys2Proof.Machine.execGrdCommitApply s
  | .fwBootTimeout => Sys2Proof.Machine.execFwBootTimeout s
  | .pairClaim => Sys2Proof.Machine.execPairClaim s
  | .claimCheck => Sys2Proof.Machine.execClaimCheck s
  | .pairInhibitChange high => Sys2Proof.Machine.execPairInhibitChange high s
  | .livenessTimeout => Sys2Proof.Machine.execLivenessTimeout s
  | .linkTraining lanes => Sys2Proof.Machine.execLinkTraining lanes s
  | .handshakeRetry => Sys2Proof.Machine.execHandshakeRetry s
  | .cert frame => Sys2Proof.Machine.execCert frame s
  | .hello frame => Sys2Proof.Machine.execHello frame s
  | .keyx frame => Sys2Proof.Machine.execKeyx frame s
  | .confirm frame => Sys2Proof.Machine.execConfirm frame s
  | .heartbeat frame => Sys2Proof.Machine.execHeartbeat frame s
  | .heartbeatSend => Sys2Proof.Machine.execHeartbeatSend s
  | .sidebandCharacter counter role => Sys2Proof.Machine.execSidebandCharacter counter role s
  | .pathLost sideband => Sys2Proof.Machine.execPathLost sideband s
  | .linkAckTimeout => Sys2Proof.Machine.execLinkAckTimeout s
  | .admitFrame frame => Sys2Proof.Machine.execAdmit frame s
  | .dispatchFrame frame => Sys2Proof.Machine.execDispatchFrame frame s
  | .dataFrame frame => Sys2Proof.Machine.execDataFrame frame s
  | .randomFrame frame => Sys2Proof.Machine.execRandomFrame frame s
  | .commitFrame frame => Sys2Proof.Machine.execCommitFrame frame s
  | .doneFrame frame => Sys2Proof.Machine.execDoneFrame frame s
  | .resultFrame frame => Sys2Proof.Machine.execResultFrame frame s
  | .jack frame => Sys2Proof.Machine.execJack frame s
  | .handover frame => Sys2Proof.Machine.execHandover frame s
  | .handoverDrained => Sys2Proof.Machine.execHandoverDrained s
  | .snapshot frame => Sys2Proof.Machine.execSnapshot frame s
  | .snapshotEnd frame => Sys2Proof.Machine.execSnapshotEnd frame s
  | .catchupInStep => Sys2Proof.Machine.execCatchupInStep s
  | .detach frame => Sys2Proof.Machine.execDetach frame s
  | .pairCtrlDetach => Sys2Proof.Machine.execPairCtrlDetach s
  | .markRaise => Sys2Proof.Machine.execMarkRaise s
  | .jrnHrCfgWrite p value => Sys2Proof.Machine.execJrnHrCfgWrite p value s
  | .jrnWinSeqWrite p upper => Sys2Proof.Machine.execJrnWinSeqWrite p upper s
  | .jrnSearchDone p => Sys2Proof.Machine.execJrnSearchDone p s
  | .jrnWinEntryRead p => Sys2Proof.Machine.execJrnWinEntryRead p s
  | .screeRecordClose => Sys2Proof.Machine.execScreeRecordClose s
  | .tokenRefill code => Sys2Proof.Machine.execTokenRefill code s
  | .suppressed code => Sys2Proof.Machine.execSuppressed code s
  | .scrCtrlFreeze => Sys2Proof.Machine.execScrCtrlFreeze s
  | .scrCtrlThaw => Sys2Proof.Machine.execScrCtrlThaw s
  | .freezeMaxExpiry => Sys2Proof.Machine.execFreezeMaxExpiry s
  | .scrAckWrite upper => Sys2Proof.Machine.execScrAckWrite upper s
  | .tarnErrorEvent source kind unit info => Sys2Proof.Machine.execTarnErrorEvent source kind unit info s
  | .tarnEscalation source => Sys2Proof.Machine.execTarnEscalation source s
  | .tarnStatusClear mask gone => Sys2Proof.Machine.execTarnStatusClear mask gone s
  | .tarnSevWrite high value => Sys2Proof.Machine.execTarnSevWrite high value s
  | .tarnInject value => Sys2Proof.Machine.execTarnInject value s
  | .errReadbackMismatch pinP pinN => Sys2Proof.Machine.execErrReadbackMismatch pinP pinN s
  | .pmcClearAll => Sys2Proof.Machine.execPmcClearAll s
  | .pmcSrCfgWrite value => Sys2Proof.Machine.execPmcSrCfgWrite value s
  | .pmcPDumpCfgWrite p value => Sys2Proof.Machine.execPmcPDumpCfgWrite p value s
  | .pmcDump p => Sys2Proof.Machine.execPmcDump p s
  | .perstNRelease posB fuseOk pufOk => Sys2Proof.Machine.execPerstNRelease posB fuseOk pufOk s
  | .perstNAssert => Sys2Proof.Machine.execPerstNAssert s
  | .powerDomainSlot => Sys2Proof.Machine.execPowerDomainSlot s
  | .domainRegulationTimeout domain => Sys2Proof.Machine.execDomainRegulationTimeout domain s
  | .startUpComplete => Sys2Proof.Machine.execStartUpComplete s
  | .startFault code => Sys2Proof.Machine.execStartFault code s
  | .mainPowerLoss => Sys2Proof.Machine.execMainPowerLoss s
  | .auxChange good => Sys2Proof.Machine.execAuxChange good s
  | .autoOffIdle domain => Sys2Proof.Machine.execAutoOffIdle domain s
  | .domainWake domain => Sys2Proof.Machine.execDomainWake domain s
  | .domainSwitchOn => Sys2Proof.Machine.execDomainSwitchOn s
  | .quiesceReqNAssert => Sys2Proof.Machine.execQuiesceReqNAssert s
  | .quiesceReqNRelease => Sys2Proof.Machine.execQuiesceReqNRelease s
  | .pwrCtrlQuiesce => Sys2Proof.Machine.execPwrCtrlQuiesce s
  | .pwrCtrlUnquiesce => Sys2Proof.Machine.execPwrCtrlUnquiesce s
  | .quiesceDrained => Sys2Proof.Machine.execQuiesceDrained s
  | .quiesceMaxExpiry => Sys2Proof.Machine.execQuiesceMaxExpiry s
  | .smbStatus pec => Sys2Proof.Machine.execSmbStatus pec s
  | .smbHealth pec => Sys2Proof.Machine.execSmbHealth pec s
  | .smbTemperature pec => Sys2Proof.Machine.execSmbTemperature pec s
  | .smbEvidence pec => Sys2Proof.Machine.execSmbEvidence pec s
  | .smbInventory pec => Sys2Proof.Machine.execSmbInventory pec s
  | .smbQuiesceState pec => Sys2Proof.Machine.execSmbQuiesceState pec s
  | .alertResponseRead => Sys2Proof.Machine.execAlertResponseRead s
  | .sysLockWrite value => Sys2Proof.Machine.execSysLockWrite value s
  | .custCertSelWrite value => Sys2Proof.Machine.execCustCertSelWrite value s
  | .custCertDataRead => Sys2Proof.Machine.execCustCertDataRead s
  | .lowerWordRead p offset => Sys2Proof.Machine.execLowerWordRead p offset s
  | .registerWrite p offset size value => Sys2Proof.Machine.execRegisterWrite p offset size value s
  | .mainPowerGood posB fuseOk pufOk => Sys2Proof.Machine.execMainPowerGood posB fuseOk pufOk s
  | .linkTrainingLost => Sys2Proof.Machine.execLinkTrainingLost s
  | .d3hotExit p => Sys2Proof.Machine.execD3hotExit p s

end Sys2Proof.Machine
end

