-- ==== Sys2Proof/Laws/State.lean ====
section
/-!
SUPPORT. What the operations that change one part of the state leave: one lemma for each other part.
-/
namespace Sys2Proof.Machine

@[simp] theorem modRing_time (p : Nat) (r : Nat) (f : Ring → Ring) (s : State) : (modRing p r f s).time = s.time := rfl
@[simp] theorem modRing_cirq (p : Nat) (r : Nat) (f : Ring → Ring) (s : State) : (modRing p r f s).cirq = s.cirq := rfl
@[simp] theorem modRing_jobs (p : Nat) (r : Nat) (f : Ring → Ring) (s : State) : (modRing p r f s).jobs = s.jobs := rfl
@[simp] theorem modRing_refused (p : Nat) (r : Nat) (f : Ring → Ring) (s : State) : (modRing p r f s).refused = s.refused := rfl
@[simp] theorem modRing_mas (p : Nat) (r : Nat) (f : Ring → Ring) (s : State) : (modRing p r f s).mas = s.mas := rfl
@[simp] theorem modRing_eng (p : Nat) (r : Nat) (f : Ring → Ring) (s : State) : (modRing p r f s).eng = s.eng := rfl
@[simp] theorem modRing_rng (p : Nat) (r : Nat) (f : Ring → Ring) (s : State) : (modRing p r f s).rng = s.rng := rfl
@[simp] theorem modRing_parts (p : Nat) (r : Nat) (f : Ring → Ring) (s : State) : (modRing p r f s).parts = s.parts := rfl
@[simp] theorem modRing_vault (p : Nat) (r : Nat) (f : Ring → Ring) (s : State) : (modRing p r f s).vault = s.vault := rfl
@[simp] theorem modRing_nv (p : Nat) (r : Nat) (f : Ring → Ring) (s : State) : (modRing p r f s).nv = s.nv := rfl
@[simp] theorem modRing_cust (p : Nat) (r : Nat) (f : Ring → Ring) (s : State) : (modRing p r f s).cust = s.cust := rfl
@[simp] theorem modRing_tmp (p : Nat) (r : Nat) (f : Ring → Ring) (s : State) : (modRing p r f s).tmp = s.tmp := rfl
@[simp] theorem modRing_dbg (p : Nat) (r : Nat) (f : Ring → Ring) (s : State) : (modRing p r f s).dbg = s.dbg := rfl
@[simp] theorem modRing_pair (p : Nat) (r : Nat) (f : Ring → Ring) (s : State) : (modRing p r f s).pair = s.pair := rfl
@[simp] theorem modRing_jrn (p : Nat) (r : Nat) (f : Ring → Ring) (s : State) : (modRing p r f s).jrn = s.jrn := rfl
@[simp] theorem modRing_scr (p : Nat) (r : Nat) (f : Ring → Ring) (s : State) : (modRing p r f s).scr = s.scr := rfl
@[simp] theorem modRing_tarn (p : Nat) (r : Nat) (f : Ring → Ring) (s : State) : (modRing p r f s).tarn = s.tarn := rfl
@[simp] theorem modRing_grd (p : Nat) (r : Nat) (f : Ring → Ring) (s : State) : (modRing p r f s).grd = s.grd := rfl
@[simp] theorem modRing_pmc (p : Nat) (r : Nat) (f : Ring → Ring) (s : State) : (modRing p r f s).pmc = s.pmc := rfl
@[simp] theorem modRing_pwr (p : Nat) (r : Nat) (f : Ring → Ring) (s : State) : (modRing p r f s).pwr = s.pwr := rfl
@[simp] theorem modRing_smb (p : Nat) (r : Nat) (f : Ring → Ring) (s : State) : (modRing p r f s).smb = s.smb := rfl
@[simp] theorem modRing_sys (p : Nat) (r : Nat) (f : Ring → Ring) (s : State) : (modRing p r f s).sys = s.sys := rfl
@[simp] theorem modRing_msix (p : Nat) (r : Nat) (f : Ring → Ring) (s : State) : (modRing p r f s).msix = s.msix := rfl
@[simp] theorem modRing_out (p : Nat) (r : Nat) (f : Ring → Ring) (s : State) : (modRing p r f s).out = s.out := rfl
@[simp] theorem modRing_freeCtr (p : Nat) (r : Nat) (f : Ring → Ring) (s : State) : (modRing p r f s).freeCtr = s.freeCtr := rfl
@[simp] theorem modRing_pending (p : Nat) (r : Nat) (f : Ring → Ring) (s : State) : (modRing p r f s).pending = s.pending := rfl

@[simp] theorem modPart_time (p : Nat) (f : Part → Part) (s : State) : (modPart p f s).time = s.time := rfl
@[simp] theorem modPart_rings (p : Nat) (f : Part → Part) (s : State) : (modPart p f s).rings = s.rings := rfl
@[simp] theorem modPart_cirq (p : Nat) (f : Part → Part) (s : State) : (modPart p f s).cirq = s.cirq := rfl
@[simp] theorem modPart_jobs (p : Nat) (f : Part → Part) (s : State) : (modPart p f s).jobs = s.jobs := rfl
@[simp] theorem modPart_refused (p : Nat) (f : Part → Part) (s : State) : (modPart p f s).refused = s.refused := rfl
@[simp] theorem modPart_mas (p : Nat) (f : Part → Part) (s : State) : (modPart p f s).mas = s.mas := rfl
@[simp] theorem modPart_eng (p : Nat) (f : Part → Part) (s : State) : (modPart p f s).eng = s.eng := rfl
@[simp] theorem modPart_rng (p : Nat) (f : Part → Part) (s : State) : (modPart p f s).rng = s.rng := rfl
@[simp] theorem modPart_vault (p : Nat) (f : Part → Part) (s : State) : (modPart p f s).vault = s.vault := rfl
@[simp] theorem modPart_nv (p : Nat) (f : Part → Part) (s : State) : (modPart p f s).nv = s.nv := rfl
@[simp] theorem modPart_cust (p : Nat) (f : Part → Part) (s : State) : (modPart p f s).cust = s.cust := rfl
@[simp] theorem modPart_tmp (p : Nat) (f : Part → Part) (s : State) : (modPart p f s).tmp = s.tmp := rfl
@[simp] theorem modPart_dbg (p : Nat) (f : Part → Part) (s : State) : (modPart p f s).dbg = s.dbg := rfl
@[simp] theorem modPart_pair (p : Nat) (f : Part → Part) (s : State) : (modPart p f s).pair = s.pair := rfl
@[simp] theorem modPart_jrn (p : Nat) (f : Part → Part) (s : State) : (modPart p f s).jrn = s.jrn := rfl
@[simp] theorem modPart_scr (p : Nat) (f : Part → Part) (s : State) : (modPart p f s).scr = s.scr := rfl
@[simp] theorem modPart_tarn (p : Nat) (f : Part → Part) (s : State) : (modPart p f s).tarn = s.tarn := rfl
@[simp] theorem modPart_grd (p : Nat) (f : Part → Part) (s : State) : (modPart p f s).grd = s.grd := rfl
@[simp] theorem modPart_pmc (p : Nat) (f : Part → Part) (s : State) : (modPart p f s).pmc = s.pmc := rfl
@[simp] theorem modPart_pwr (p : Nat) (f : Part → Part) (s : State) : (modPart p f s).pwr = s.pwr := rfl
@[simp] theorem modPart_smb (p : Nat) (f : Part → Part) (s : State) : (modPart p f s).smb = s.smb := rfl
@[simp] theorem modPart_sys (p : Nat) (f : Part → Part) (s : State) : (modPart p f s).sys = s.sys := rfl
@[simp] theorem modPart_msix (p : Nat) (f : Part → Part) (s : State) : (modPart p f s).msix = s.msix := rfl
@[simp] theorem modPart_out (p : Nat) (f : Part → Part) (s : State) : (modPart p f s).out = s.out := rfl
@[simp] theorem modPart_freeCtr (p : Nat) (f : Part → Part) (s : State) : (modPart p f s).freeCtr = s.freeCtr := rfl
@[simp] theorem modPart_pending (p : Nat) (f : Part → Part) (s : State) : (modPart p f s).pending = s.pending := rfl

@[simp] theorem modVault_time (p : Nat) (f : VaultPart → VaultPart) (s : State) : (modVault p f s).time = s.time := rfl
@[simp] theorem modVault_rings (p : Nat) (f : VaultPart → VaultPart) (s : State) : (modVault p f s).rings = s.rings := rfl
@[simp] theorem modVault_cirq (p : Nat) (f : VaultPart → VaultPart) (s : State) : (modVault p f s).cirq = s.cirq := rfl
@[simp] theorem modVault_jobs (p : Nat) (f : VaultPart → VaultPart) (s : State) : (modVault p f s).jobs = s.jobs := rfl
@[simp] theorem modVault_refused (p : Nat) (f : VaultPart → VaultPart) (s : State) : (modVault p f s).refused = s.refused := rfl
@[simp] theorem modVault_mas (p : Nat) (f : VaultPart → VaultPart) (s : State) : (modVault p f s).mas = s.mas := rfl
@[simp] theorem modVault_eng (p : Nat) (f : VaultPart → VaultPart) (s : State) : (modVault p f s).eng = s.eng := rfl
@[simp] theorem modVault_rng (p : Nat) (f : VaultPart → VaultPart) (s : State) : (modVault p f s).rng = s.rng := rfl
@[simp] theorem modVault_parts (p : Nat) (f : VaultPart → VaultPart) (s : State) : (modVault p f s).parts = s.parts := rfl
@[simp] theorem modVault_nv (p : Nat) (f : VaultPart → VaultPart) (s : State) : (modVault p f s).nv = s.nv := rfl
@[simp] theorem modVault_cust (p : Nat) (f : VaultPart → VaultPart) (s : State) : (modVault p f s).cust = s.cust := rfl
@[simp] theorem modVault_tmp (p : Nat) (f : VaultPart → VaultPart) (s : State) : (modVault p f s).tmp = s.tmp := rfl
@[simp] theorem modVault_dbg (p : Nat) (f : VaultPart → VaultPart) (s : State) : (modVault p f s).dbg = s.dbg := rfl
@[simp] theorem modVault_pair (p : Nat) (f : VaultPart → VaultPart) (s : State) : (modVault p f s).pair = s.pair := rfl
@[simp] theorem modVault_jrn (p : Nat) (f : VaultPart → VaultPart) (s : State) : (modVault p f s).jrn = s.jrn := rfl
@[simp] theorem modVault_scr (p : Nat) (f : VaultPart → VaultPart) (s : State) : (modVault p f s).scr = s.scr := rfl
@[simp] theorem modVault_tarn (p : Nat) (f : VaultPart → VaultPart) (s : State) : (modVault p f s).tarn = s.tarn := rfl
@[simp] theorem modVault_grd (p : Nat) (f : VaultPart → VaultPart) (s : State) : (modVault p f s).grd = s.grd := rfl
@[simp] theorem modVault_pmc (p : Nat) (f : VaultPart → VaultPart) (s : State) : (modVault p f s).pmc = s.pmc := rfl
@[simp] theorem modVault_pwr (p : Nat) (f : VaultPart → VaultPart) (s : State) : (modVault p f s).pwr = s.pwr := rfl
@[simp] theorem modVault_smb (p : Nat) (f : VaultPart → VaultPart) (s : State) : (modVault p f s).smb = s.smb := rfl
@[simp] theorem modVault_sys (p : Nat) (f : VaultPart → VaultPart) (s : State) : (modVault p f s).sys = s.sys := rfl
@[simp] theorem modVault_msix (p : Nat) (f : VaultPart → VaultPart) (s : State) : (modVault p f s).msix = s.msix := rfl
@[simp] theorem modVault_out (p : Nat) (f : VaultPart → VaultPart) (s : State) : (modVault p f s).out = s.out := rfl
@[simp] theorem modVault_freeCtr (p : Nat) (f : VaultPart → VaultPart) (s : State) : (modVault p f s).freeCtr = s.freeCtr := rfl
@[simp] theorem modVault_pending (p : Nat) (f : VaultPart → VaultPart) (s : State) : (modVault p f s).pending = s.pending := rfl

@[simp] theorem setNode_time (i : Nat) (n : Node) (s : State) : (setNode i n s).time = s.time := rfl
@[simp] theorem setNode_rings (i : Nat) (n : Node) (s : State) : (setNode i n s).rings = s.rings := rfl
@[simp] theorem setNode_cirq (i : Nat) (n : Node) (s : State) : (setNode i n s).cirq = s.cirq := rfl
@[simp] theorem setNode_jobs (i : Nat) (n : Node) (s : State) : (setNode i n s).jobs = s.jobs := rfl
@[simp] theorem setNode_refused (i : Nat) (n : Node) (s : State) : (setNode i n s).refused = s.refused := rfl
@[simp] theorem setNode_eng (i : Nat) (n : Node) (s : State) : (setNode i n s).eng = s.eng := rfl
@[simp] theorem setNode_rng (i : Nat) (n : Node) (s : State) : (setNode i n s).rng = s.rng := rfl
@[simp] theorem setNode_parts (i : Nat) (n : Node) (s : State) : (setNode i n s).parts = s.parts := rfl
@[simp] theorem setNode_vault (i : Nat) (n : Node) (s : State) : (setNode i n s).vault = s.vault := rfl
@[simp] theorem setNode_nv (i : Nat) (n : Node) (s : State) : (setNode i n s).nv = s.nv := rfl
@[simp] theorem setNode_cust (i : Nat) (n : Node) (s : State) : (setNode i n s).cust = s.cust := rfl
@[simp] theorem setNode_tmp (i : Nat) (n : Node) (s : State) : (setNode i n s).tmp = s.tmp := rfl
@[simp] theorem setNode_dbg (i : Nat) (n : Node) (s : State) : (setNode i n s).dbg = s.dbg := rfl
@[simp] theorem setNode_pair (i : Nat) (n : Node) (s : State) : (setNode i n s).pair = s.pair := rfl
@[simp] theorem setNode_jrn (i : Nat) (n : Node) (s : State) : (setNode i n s).jrn = s.jrn := rfl
@[simp] theorem setNode_scr (i : Nat) (n : Node) (s : State) : (setNode i n s).scr = s.scr := rfl
@[simp] theorem setNode_tarn (i : Nat) (n : Node) (s : State) : (setNode i n s).tarn = s.tarn := rfl
@[simp] theorem setNode_grd (i : Nat) (n : Node) (s : State) : (setNode i n s).grd = s.grd := rfl
@[simp] theorem setNode_pmc (i : Nat) (n : Node) (s : State) : (setNode i n s).pmc = s.pmc := rfl
@[simp] theorem setNode_pwr (i : Nat) (n : Node) (s : State) : (setNode i n s).pwr = s.pwr := rfl
@[simp] theorem setNode_smb (i : Nat) (n : Node) (s : State) : (setNode i n s).smb = s.smb := rfl
@[simp] theorem setNode_sys (i : Nat) (n : Node) (s : State) : (setNode i n s).sys = s.sys := rfl
@[simp] theorem setNode_msix (i : Nat) (n : Node) (s : State) : (setNode i n s).msix = s.msix := rfl
@[simp] theorem setNode_out (i : Nat) (n : Node) (s : State) : (setNode i n s).out = s.out := rfl
@[simp] theorem setNode_freeCtr (i : Nat) (n : Node) (s : State) : (setNode i n s).freeCtr = s.freeCtr := rfl
@[simp] theorem setNode_pending (i : Nat) (n : Node) (s : State) : (setNode i n s).pending = s.pending := rfl

@[simp] theorem emit_time (o : Output) (s : State) : (emit o s).time = s.time := rfl
@[simp] theorem emit_rings (o : Output) (s : State) : (emit o s).rings = s.rings := rfl
@[simp] theorem emit_cirq (o : Output) (s : State) : (emit o s).cirq = s.cirq := rfl
@[simp] theorem emit_jobs (o : Output) (s : State) : (emit o s).jobs = s.jobs := rfl
@[simp] theorem emit_refused (o : Output) (s : State) : (emit o s).refused = s.refused := rfl
@[simp] theorem emit_mas (o : Output) (s : State) : (emit o s).mas = s.mas := rfl
@[simp] theorem emit_eng (o : Output) (s : State) : (emit o s).eng = s.eng := rfl
@[simp] theorem emit_rng (o : Output) (s : State) : (emit o s).rng = s.rng := rfl
@[simp] theorem emit_parts (o : Output) (s : State) : (emit o s).parts = s.parts := rfl
@[simp] theorem emit_vault (o : Output) (s : State) : (emit o s).vault = s.vault := rfl
@[simp] theorem emit_nv (o : Output) (s : State) : (emit o s).nv = s.nv := rfl
@[simp] theorem emit_cust (o : Output) (s : State) : (emit o s).cust = s.cust := rfl
@[simp] theorem emit_tmp (o : Output) (s : State) : (emit o s).tmp = s.tmp := rfl
@[simp] theorem emit_dbg (o : Output) (s : State) : (emit o s).dbg = s.dbg := rfl
@[simp] theorem emit_pair (o : Output) (s : State) : (emit o s).pair = s.pair := rfl
@[simp] theorem emit_jrn (o : Output) (s : State) : (emit o s).jrn = s.jrn := rfl
@[simp] theorem emit_scr (o : Output) (s : State) : (emit o s).scr = s.scr := rfl
@[simp] theorem emit_tarn (o : Output) (s : State) : (emit o s).tarn = s.tarn := rfl
@[simp] theorem emit_grd (o : Output) (s : State) : (emit o s).grd = s.grd := rfl
@[simp] theorem emit_pmc (o : Output) (s : State) : (emit o s).pmc = s.pmc := rfl
@[simp] theorem emit_pwr (o : Output) (s : State) : (emit o s).pwr = s.pwr := rfl
@[simp] theorem emit_smb (o : Output) (s : State) : (emit o s).smb = s.smb := rfl
@[simp] theorem emit_sys (o : Output) (s : State) : (emit o s).sys = s.sys := rfl
@[simp] theorem emit_msix (o : Output) (s : State) : (emit o s).msix = s.msix := rfl
@[simp] theorem emit_freeCtr (o : Output) (s : State) : (emit o s).freeCtr = s.freeCtr := rfl
@[simp] theorem emit_pending (o : Output) (s : State) : (emit o s).pending = s.pending := rfl

@[simp] theorem screePut_time (cluster : Nat) (x : ScreeItem) (s : State) : (screePut cluster x s).time = s.time := rfl
@[simp] theorem screePut_rings (cluster : Nat) (x : ScreeItem) (s : State) : (screePut cluster x s).rings = s.rings := rfl
@[simp] theorem screePut_cirq (cluster : Nat) (x : ScreeItem) (s : State) : (screePut cluster x s).cirq = s.cirq := rfl
@[simp] theorem screePut_jobs (cluster : Nat) (x : ScreeItem) (s : State) : (screePut cluster x s).jobs = s.jobs := rfl
@[simp] theorem screePut_refused (cluster : Nat) (x : ScreeItem) (s : State) : (screePut cluster x s).refused = s.refused := rfl
@[simp] theorem screePut_mas (cluster : Nat) (x : ScreeItem) (s : State) : (screePut cluster x s).mas = s.mas := rfl
@[simp] theorem screePut_eng (cluster : Nat) (x : ScreeItem) (s : State) : (screePut cluster x s).eng = s.eng := rfl
@[simp] theorem screePut_rng (cluster : Nat) (x : ScreeItem) (s : State) : (screePut cluster x s).rng = s.rng := rfl
@[simp] theorem screePut_parts (cluster : Nat) (x : ScreeItem) (s : State) : (screePut cluster x s).parts = s.parts := rfl
@[simp] theorem screePut_vault (cluster : Nat) (x : ScreeItem) (s : State) : (screePut cluster x s).vault = s.vault := rfl
@[simp] theorem screePut_nv (cluster : Nat) (x : ScreeItem) (s : State) : (screePut cluster x s).nv = s.nv := rfl
@[simp] theorem screePut_cust (cluster : Nat) (x : ScreeItem) (s : State) : (screePut cluster x s).cust = s.cust := rfl
@[simp] theorem screePut_tmp (cluster : Nat) (x : ScreeItem) (s : State) : (screePut cluster x s).tmp = s.tmp := rfl
@[simp] theorem screePut_dbg (cluster : Nat) (x : ScreeItem) (s : State) : (screePut cluster x s).dbg = s.dbg := rfl
@[simp] theorem screePut_pair (cluster : Nat) (x : ScreeItem) (s : State) : (screePut cluster x s).pair = s.pair := rfl
@[simp] theorem screePut_jrn (cluster : Nat) (x : ScreeItem) (s : State) : (screePut cluster x s).jrn = s.jrn := rfl
@[simp] theorem screePut_tarn (cluster : Nat) (x : ScreeItem) (s : State) : (screePut cluster x s).tarn = s.tarn := rfl
@[simp] theorem screePut_grd (cluster : Nat) (x : ScreeItem) (s : State) : (screePut cluster x s).grd = s.grd := rfl
@[simp] theorem screePut_pmc (cluster : Nat) (x : ScreeItem) (s : State) : (screePut cluster x s).pmc = s.pmc := rfl
@[simp] theorem screePut_pwr (cluster : Nat) (x : ScreeItem) (s : State) : (screePut cluster x s).pwr = s.pwr := rfl
@[simp] theorem screePut_smb (cluster : Nat) (x : ScreeItem) (s : State) : (screePut cluster x s).smb = s.smb := rfl
@[simp] theorem screePut_sys (cluster : Nat) (x : ScreeItem) (s : State) : (screePut cluster x s).sys = s.sys := rfl
@[simp] theorem screePut_msix (cluster : Nat) (x : ScreeItem) (s : State) : (screePut cluster x s).msix = s.msix := rfl
@[simp] theorem screePut_out (cluster : Nat) (x : ScreeItem) (s : State) : (screePut cluster x s).out = s.out := rfl
@[simp] theorem screePut_freeCtr (cluster : Nat) (x : ScreeItem) (s : State) : (screePut cluster x s).freeCtr = s.freeCtr := rfl
@[simp] theorem screePut_pending (cluster : Nat) (x : ScreeItem) (s : State) : (screePut cluster x s).pending = s.pending := rfl

@[simp] theorem modJob_time (q : Nat) (f : Job → Job) (s : State) : (modJob q f s).time = s.time := rfl
@[simp] theorem modJob_rings (q : Nat) (f : Job → Job) (s : State) : (modJob q f s).rings = s.rings := rfl
@[simp] theorem modJob_cirq (q : Nat) (f : Job → Job) (s : State) : (modJob q f s).cirq = s.cirq := rfl
@[simp] theorem modJob_refused (q : Nat) (f : Job → Job) (s : State) : (modJob q f s).refused = s.refused := rfl
@[simp] theorem modJob_mas (q : Nat) (f : Job → Job) (s : State) : (modJob q f s).mas = s.mas := rfl
@[simp] theorem modJob_eng (q : Nat) (f : Job → Job) (s : State) : (modJob q f s).eng = s.eng := rfl
@[simp] theorem modJob_rng (q : Nat) (f : Job → Job) (s : State) : (modJob q f s).rng = s.rng := rfl
@[simp] theorem modJob_parts (q : Nat) (f : Job → Job) (s : State) : (modJob q f s).parts = s.parts := rfl
@[simp] theorem modJob_vault (q : Nat) (f : Job → Job) (s : State) : (modJob q f s).vault = s.vault := rfl
@[simp] theorem modJob_nv (q : Nat) (f : Job → Job) (s : State) : (modJob q f s).nv = s.nv := rfl
@[simp] theorem modJob_cust (q : Nat) (f : Job → Job) (s : State) : (modJob q f s).cust = s.cust := rfl
@[simp] theorem modJob_tmp (q : Nat) (f : Job → Job) (s : State) : (modJob q f s).tmp = s.tmp := rfl
@[simp] theorem modJob_dbg (q : Nat) (f : Job → Job) (s : State) : (modJob q f s).dbg = s.dbg := rfl
@[simp] theorem modJob_pair (q : Nat) (f : Job → Job) (s : State) : (modJob q f s).pair = s.pair := rfl
@[simp] theorem modJob_jrn (q : Nat) (f : Job → Job) (s : State) : (modJob q f s).jrn = s.jrn := rfl
@[simp] theorem modJob_scr (q : Nat) (f : Job → Job) (s : State) : (modJob q f s).scr = s.scr := rfl
@[simp] theorem modJob_tarn (q : Nat) (f : Job → Job) (s : State) : (modJob q f s).tarn = s.tarn := rfl
@[simp] theorem modJob_grd (q : Nat) (f : Job → Job) (s : State) : (modJob q f s).grd = s.grd := rfl
@[simp] theorem modJob_pmc (q : Nat) (f : Job → Job) (s : State) : (modJob q f s).pmc = s.pmc := rfl
@[simp] theorem modJob_pwr (q : Nat) (f : Job → Job) (s : State) : (modJob q f s).pwr = s.pwr := rfl
@[simp] theorem modJob_smb (q : Nat) (f : Job → Job) (s : State) : (modJob q f s).smb = s.smb := rfl
@[simp] theorem modJob_sys (q : Nat) (f : Job → Job) (s : State) : (modJob q f s).sys = s.sys := rfl
@[simp] theorem modJob_msix (q : Nat) (f : Job → Job) (s : State) : (modJob q f s).msix = s.msix := rfl
@[simp] theorem modJob_out (q : Nat) (f : Job → Job) (s : State) : (modJob q f s).out = s.out := rfl
@[simp] theorem modJob_freeCtr (q : Nat) (f : Job → Job) (s : State) : (modJob q f s).freeCtr = s.freeCtr := rfl
@[simp] theorem modJob_pending (q : Nat) (f : Job → Job) (s : State) : (modJob q f s).pending = s.pending := rfl

@[simp] theorem dropJob_time (q : Nat) (s : State) : (dropJob q s).time = s.time := rfl
@[simp] theorem dropJob_rings (q : Nat) (s : State) : (dropJob q s).rings = s.rings := rfl
@[simp] theorem dropJob_cirq (q : Nat) (s : State) : (dropJob q s).cirq = s.cirq := rfl
@[simp] theorem dropJob_refused (q : Nat) (s : State) : (dropJob q s).refused = s.refused := rfl
@[simp] theorem dropJob_mas (q : Nat) (s : State) : (dropJob q s).mas = s.mas := rfl
@[simp] theorem dropJob_eng (q : Nat) (s : State) : (dropJob q s).eng = s.eng := rfl
@[simp] theorem dropJob_rng (q : Nat) (s : State) : (dropJob q s).rng = s.rng := rfl
@[simp] theorem dropJob_parts (q : Nat) (s : State) : (dropJob q s).parts = s.parts := rfl
@[simp] theorem dropJob_vault (q : Nat) (s : State) : (dropJob q s).vault = s.vault := rfl
@[simp] theorem dropJob_nv (q : Nat) (s : State) : (dropJob q s).nv = s.nv := rfl
@[simp] theorem dropJob_cust (q : Nat) (s : State) : (dropJob q s).cust = s.cust := rfl
@[simp] theorem dropJob_tmp (q : Nat) (s : State) : (dropJob q s).tmp = s.tmp := rfl
@[simp] theorem dropJob_dbg (q : Nat) (s : State) : (dropJob q s).dbg = s.dbg := rfl
@[simp] theorem dropJob_pair (q : Nat) (s : State) : (dropJob q s).pair = s.pair := rfl
@[simp] theorem dropJob_jrn (q : Nat) (s : State) : (dropJob q s).jrn = s.jrn := rfl
@[simp] theorem dropJob_scr (q : Nat) (s : State) : (dropJob q s).scr = s.scr := rfl
@[simp] theorem dropJob_tarn (q : Nat) (s : State) : (dropJob q s).tarn = s.tarn := rfl
@[simp] theorem dropJob_grd (q : Nat) (s : State) : (dropJob q s).grd = s.grd := rfl
@[simp] theorem dropJob_pmc (q : Nat) (s : State) : (dropJob q s).pmc = s.pmc := rfl
@[simp] theorem dropJob_pwr (q : Nat) (s : State) : (dropJob q s).pwr = s.pwr := rfl
@[simp] theorem dropJob_smb (q : Nat) (s : State) : (dropJob q s).smb = s.smb := rfl
@[simp] theorem dropJob_sys (q : Nat) (s : State) : (dropJob q s).sys = s.sys := rfl
@[simp] theorem dropJob_msix (q : Nat) (s : State) : (dropJob q s).msix = s.msix := rfl
@[simp] theorem dropJob_out (q : Nat) (s : State) : (dropJob q s).out = s.out := rfl
@[simp] theorem dropJob_freeCtr (q : Nat) (s : State) : (dropJob q s).freeCtr = s.freeCtr := rfl
@[simp] theorem dropJob_pending (q : Nat) (s : State) : (dropJob q s).pending = s.pending := rfl

@[simp] theorem modPinv_time (n : Nat) (f : Engine → Engine) (s : State) : (modPinv n f s).time = s.time := rfl
@[simp] theorem modPinv_rings (n : Nat) (f : Engine → Engine) (s : State) : (modPinv n f s).rings = s.rings := rfl
@[simp] theorem modPinv_cirq (n : Nat) (f : Engine → Engine) (s : State) : (modPinv n f s).cirq = s.cirq := rfl
@[simp] theorem modPinv_jobs (n : Nat) (f : Engine → Engine) (s : State) : (modPinv n f s).jobs = s.jobs := rfl
@[simp] theorem modPinv_refused (n : Nat) (f : Engine → Engine) (s : State) : (modPinv n f s).refused = s.refused := rfl
@[simp] theorem modPinv_mas (n : Nat) (f : Engine → Engine) (s : State) : (modPinv n f s).mas = s.mas := rfl
@[simp] theorem modPinv_rng (n : Nat) (f : Engine → Engine) (s : State) : (modPinv n f s).rng = s.rng := rfl
@[simp] theorem modPinv_parts (n : Nat) (f : Engine → Engine) (s : State) : (modPinv n f s).parts = s.parts := rfl
@[simp] theorem modPinv_vault (n : Nat) (f : Engine → Engine) (s : State) : (modPinv n f s).vault = s.vault := rfl
@[simp] theorem modPinv_nv (n : Nat) (f : Engine → Engine) (s : State) : (modPinv n f s).nv = s.nv := rfl
@[simp] theorem modPinv_cust (n : Nat) (f : Engine → Engine) (s : State) : (modPinv n f s).cust = s.cust := rfl
@[simp] theorem modPinv_tmp (n : Nat) (f : Engine → Engine) (s : State) : (modPinv n f s).tmp = s.tmp := rfl
@[simp] theorem modPinv_dbg (n : Nat) (f : Engine → Engine) (s : State) : (modPinv n f s).dbg = s.dbg := rfl
@[simp] theorem modPinv_pair (n : Nat) (f : Engine → Engine) (s : State) : (modPinv n f s).pair = s.pair := rfl
@[simp] theorem modPinv_jrn (n : Nat) (f : Engine → Engine) (s : State) : (modPinv n f s).jrn = s.jrn := rfl
@[simp] theorem modPinv_scr (n : Nat) (f : Engine → Engine) (s : State) : (modPinv n f s).scr = s.scr := rfl
@[simp] theorem modPinv_tarn (n : Nat) (f : Engine → Engine) (s : State) : (modPinv n f s).tarn = s.tarn := rfl
@[simp] theorem modPinv_grd (n : Nat) (f : Engine → Engine) (s : State) : (modPinv n f s).grd = s.grd := rfl
@[simp] theorem modPinv_pmc (n : Nat) (f : Engine → Engine) (s : State) : (modPinv n f s).pmc = s.pmc := rfl
@[simp] theorem modPinv_pwr (n : Nat) (f : Engine → Engine) (s : State) : (modPinv n f s).pwr = s.pwr := rfl
@[simp] theorem modPinv_smb (n : Nat) (f : Engine → Engine) (s : State) : (modPinv n f s).smb = s.smb := rfl
@[simp] theorem modPinv_sys (n : Nat) (f : Engine → Engine) (s : State) : (modPinv n f s).sys = s.sys := rfl
@[simp] theorem modPinv_msix (n : Nat) (f : Engine → Engine) (s : State) : (modPinv n f s).msix = s.msix := rfl
@[simp] theorem modPinv_out (n : Nat) (f : Engine → Engine) (s : State) : (modPinv n f s).out = s.out := rfl
@[simp] theorem modPinv_freeCtr (n : Nat) (f : Engine → Engine) (s : State) : (modPinv n f s).freeCtr = s.freeCtr := rfl
@[simp] theorem modPinv_pending (n : Nat) (f : Engine → Engine) (s : State) : (modPinv n f s).pending = s.pending := rfl

@[simp] theorem modNewt_time (n : Nat) (f : Core → Core) (s : State) : (modNewt n f s).time = s.time := rfl
@[simp] theorem modNewt_rings (n : Nat) (f : Core → Core) (s : State) : (modNewt n f s).rings = s.rings := rfl
@[simp] theorem modNewt_cirq (n : Nat) (f : Core → Core) (s : State) : (modNewt n f s).cirq = s.cirq := rfl
@[simp] theorem modNewt_jobs (n : Nat) (f : Core → Core) (s : State) : (modNewt n f s).jobs = s.jobs := rfl
@[simp] theorem modNewt_refused (n : Nat) (f : Core → Core) (s : State) : (modNewt n f s).refused = s.refused := rfl
@[simp] theorem modNewt_mas (n : Nat) (f : Core → Core) (s : State) : (modNewt n f s).mas = s.mas := rfl
@[simp] theorem modNewt_rng (n : Nat) (f : Core → Core) (s : State) : (modNewt n f s).rng = s.rng := rfl
@[simp] theorem modNewt_parts (n : Nat) (f : Core → Core) (s : State) : (modNewt n f s).parts = s.parts := rfl
@[simp] theorem modNewt_vault (n : Nat) (f : Core → Core) (s : State) : (modNewt n f s).vault = s.vault := rfl
@[simp] theorem modNewt_nv (n : Nat) (f : Core → Core) (s : State) : (modNewt n f s).nv = s.nv := rfl
@[simp] theorem modNewt_cust (n : Nat) (f : Core → Core) (s : State) : (modNewt n f s).cust = s.cust := rfl
@[simp] theorem modNewt_tmp (n : Nat) (f : Core → Core) (s : State) : (modNewt n f s).tmp = s.tmp := rfl
@[simp] theorem modNewt_dbg (n : Nat) (f : Core → Core) (s : State) : (modNewt n f s).dbg = s.dbg := rfl
@[simp] theorem modNewt_pair (n : Nat) (f : Core → Core) (s : State) : (modNewt n f s).pair = s.pair := rfl
@[simp] theorem modNewt_jrn (n : Nat) (f : Core → Core) (s : State) : (modNewt n f s).jrn = s.jrn := rfl
@[simp] theorem modNewt_scr (n : Nat) (f : Core → Core) (s : State) : (modNewt n f s).scr = s.scr := rfl
@[simp] theorem modNewt_tarn (n : Nat) (f : Core → Core) (s : State) : (modNewt n f s).tarn = s.tarn := rfl
@[simp] theorem modNewt_grd (n : Nat) (f : Core → Core) (s : State) : (modNewt n f s).grd = s.grd := rfl
@[simp] theorem modNewt_pmc (n : Nat) (f : Core → Core) (s : State) : (modNewt n f s).pmc = s.pmc := rfl
@[simp] theorem modNewt_pwr (n : Nat) (f : Core → Core) (s : State) : (modNewt n f s).pwr = s.pwr := rfl
@[simp] theorem modNewt_smb (n : Nat) (f : Core → Core) (s : State) : (modNewt n f s).smb = s.smb := rfl
@[simp] theorem modNewt_sys (n : Nat) (f : Core → Core) (s : State) : (modNewt n f s).sys = s.sys := rfl
@[simp] theorem modNewt_msix (n : Nat) (f : Core → Core) (s : State) : (modNewt n f s).msix = s.msix := rfl
@[simp] theorem modNewt_out (n : Nat) (f : Core → Core) (s : State) : (modNewt n f s).out = s.out := rfl
@[simp] theorem modNewt_freeCtr (n : Nat) (f : Core → Core) (s : State) : (modNewt n f s).freeCtr = s.freeCtr := rfl
@[simp] theorem modNewt_pending (n : Nat) (f : Core → Core) (s : State) : (modNewt n f s).pending = s.pending := rfl

@[simp] theorem modBig_time (n : Nat) (f : BigCore → BigCore) (s : State) : (modBig n f s).time = s.time := rfl
@[simp] theorem modBig_rings (n : Nat) (f : BigCore → BigCore) (s : State) : (modBig n f s).rings = s.rings := rfl
@[simp] theorem modBig_cirq (n : Nat) (f : BigCore → BigCore) (s : State) : (modBig n f s).cirq = s.cirq := rfl
@[simp] theorem modBig_jobs (n : Nat) (f : BigCore → BigCore) (s : State) : (modBig n f s).jobs = s.jobs := rfl
@[simp] theorem modBig_refused (n : Nat) (f : BigCore → BigCore) (s : State) : (modBig n f s).refused = s.refused := rfl
@[simp] theorem modBig_mas (n : Nat) (f : BigCore → BigCore) (s : State) : (modBig n f s).mas = s.mas := rfl
@[simp] theorem modBig_rng (n : Nat) (f : BigCore → BigCore) (s : State) : (modBig n f s).rng = s.rng := rfl
@[simp] theorem modBig_parts (n : Nat) (f : BigCore → BigCore) (s : State) : (modBig n f s).parts = s.parts := rfl
@[simp] theorem modBig_vault (n : Nat) (f : BigCore → BigCore) (s : State) : (modBig n f s).vault = s.vault := rfl
@[simp] theorem modBig_nv (n : Nat) (f : BigCore → BigCore) (s : State) : (modBig n f s).nv = s.nv := rfl
@[simp] theorem modBig_cust (n : Nat) (f : BigCore → BigCore) (s : State) : (modBig n f s).cust = s.cust := rfl
@[simp] theorem modBig_tmp (n : Nat) (f : BigCore → BigCore) (s : State) : (modBig n f s).tmp = s.tmp := rfl
@[simp] theorem modBig_dbg (n : Nat) (f : BigCore → BigCore) (s : State) : (modBig n f s).dbg = s.dbg := rfl
@[simp] theorem modBig_pair (n : Nat) (f : BigCore → BigCore) (s : State) : (modBig n f s).pair = s.pair := rfl
@[simp] theorem modBig_jrn (n : Nat) (f : BigCore → BigCore) (s : State) : (modBig n f s).jrn = s.jrn := rfl
@[simp] theorem modBig_scr (n : Nat) (f : BigCore → BigCore) (s : State) : (modBig n f s).scr = s.scr := rfl
@[simp] theorem modBig_tarn (n : Nat) (f : BigCore → BigCore) (s : State) : (modBig n f s).tarn = s.tarn := rfl
@[simp] theorem modBig_grd (n : Nat) (f : BigCore → BigCore) (s : State) : (modBig n f s).grd = s.grd := rfl
@[simp] theorem modBig_pmc (n : Nat) (f : BigCore → BigCore) (s : State) : (modBig n f s).pmc = s.pmc := rfl
@[simp] theorem modBig_pwr (n : Nat) (f : BigCore → BigCore) (s : State) : (modBig n f s).pwr = s.pwr := rfl
@[simp] theorem modBig_smb (n : Nat) (f : BigCore → BigCore) (s : State) : (modBig n f s).smb = s.smb := rfl
@[simp] theorem modBig_sys (n : Nat) (f : BigCore → BigCore) (s : State) : (modBig n f s).sys = s.sys := rfl
@[simp] theorem modBig_msix (n : Nat) (f : BigCore → BigCore) (s : State) : (modBig n f s).msix = s.msix := rfl
@[simp] theorem modBig_out (n : Nat) (f : BigCore → BigCore) (s : State) : (modBig n f s).out = s.out := rfl
@[simp] theorem modBig_freeCtr (n : Nat) (f : BigCore → BigCore) (s : State) : (modBig n f s).freeCtr = s.freeCtr := rfl
@[simp] theorem modBig_pending (n : Nat) (f : BigCore → BigCore) (s : State) : (modBig n f s).pending = s.pending := rfl

@[simp] theorem modLat_time (n : Nat) (f : Engine → Engine) (s : State) : (modLat n f s).time = s.time := rfl
@[simp] theorem modLat_rings (n : Nat) (f : Engine → Engine) (s : State) : (modLat n f s).rings = s.rings := rfl
@[simp] theorem modLat_cirq (n : Nat) (f : Engine → Engine) (s : State) : (modLat n f s).cirq = s.cirq := rfl
@[simp] theorem modLat_jobs (n : Nat) (f : Engine → Engine) (s : State) : (modLat n f s).jobs = s.jobs := rfl
@[simp] theorem modLat_refused (n : Nat) (f : Engine → Engine) (s : State) : (modLat n f s).refused = s.refused := rfl
@[simp] theorem modLat_mas (n : Nat) (f : Engine → Engine) (s : State) : (modLat n f s).mas = s.mas := rfl
@[simp] theorem modLat_rng (n : Nat) (f : Engine → Engine) (s : State) : (modLat n f s).rng = s.rng := rfl
@[simp] theorem modLat_parts (n : Nat) (f : Engine → Engine) (s : State) : (modLat n f s).parts = s.parts := rfl
@[simp] theorem modLat_vault (n : Nat) (f : Engine → Engine) (s : State) : (modLat n f s).vault = s.vault := rfl
@[simp] theorem modLat_nv (n : Nat) (f : Engine → Engine) (s : State) : (modLat n f s).nv = s.nv := rfl
@[simp] theorem modLat_cust (n : Nat) (f : Engine → Engine) (s : State) : (modLat n f s).cust = s.cust := rfl
@[simp] theorem modLat_tmp (n : Nat) (f : Engine → Engine) (s : State) : (modLat n f s).tmp = s.tmp := rfl
@[simp] theorem modLat_dbg (n : Nat) (f : Engine → Engine) (s : State) : (modLat n f s).dbg = s.dbg := rfl
@[simp] theorem modLat_pair (n : Nat) (f : Engine → Engine) (s : State) : (modLat n f s).pair = s.pair := rfl
@[simp] theorem modLat_jrn (n : Nat) (f : Engine → Engine) (s : State) : (modLat n f s).jrn = s.jrn := rfl
@[simp] theorem modLat_scr (n : Nat) (f : Engine → Engine) (s : State) : (modLat n f s).scr = s.scr := rfl
@[simp] theorem modLat_tarn (n : Nat) (f : Engine → Engine) (s : State) : (modLat n f s).tarn = s.tarn := rfl
@[simp] theorem modLat_grd (n : Nat) (f : Engine → Engine) (s : State) : (modLat n f s).grd = s.grd := rfl
@[simp] theorem modLat_pmc (n : Nat) (f : Engine → Engine) (s : State) : (modLat n f s).pmc = s.pmc := rfl
@[simp] theorem modLat_pwr (n : Nat) (f : Engine → Engine) (s : State) : (modLat n f s).pwr = s.pwr := rfl
@[simp] theorem modLat_smb (n : Nat) (f : Engine → Engine) (s : State) : (modLat n f s).smb = s.smb := rfl
@[simp] theorem modLat_sys (n : Nat) (f : Engine → Engine) (s : State) : (modLat n f s).sys = s.sys := rfl
@[simp] theorem modLat_msix (n : Nat) (f : Engine → Engine) (s : State) : (modLat n f s).msix = s.msix := rfl
@[simp] theorem modLat_out (n : Nat) (f : Engine → Engine) (s : State) : (modLat n f s).out = s.out := rfl
@[simp] theorem modLat_freeCtr (n : Nat) (f : Engine → Engine) (s : State) : (modLat n f s).freeCtr = s.freeCtr := rfl
@[simp] theorem modLat_pending (n : Nat) (f : Engine → Engine) (s : State) : (modLat n f s).pending = s.pending := rfl

@[simp] theorem modHash_time (n : Nat) (f : Engine → Engine) (s : State) : (modHash n f s).time = s.time := rfl
@[simp] theorem modHash_rings (n : Nat) (f : Engine → Engine) (s : State) : (modHash n f s).rings = s.rings := rfl
@[simp] theorem modHash_cirq (n : Nat) (f : Engine → Engine) (s : State) : (modHash n f s).cirq = s.cirq := rfl
@[simp] theorem modHash_jobs (n : Nat) (f : Engine → Engine) (s : State) : (modHash n f s).jobs = s.jobs := rfl
@[simp] theorem modHash_refused (n : Nat) (f : Engine → Engine) (s : State) : (modHash n f s).refused = s.refused := rfl
@[simp] theorem modHash_mas (n : Nat) (f : Engine → Engine) (s : State) : (modHash n f s).mas = s.mas := rfl
@[simp] theorem modHash_rng (n : Nat) (f : Engine → Engine) (s : State) : (modHash n f s).rng = s.rng := rfl
@[simp] theorem modHash_parts (n : Nat) (f : Engine → Engine) (s : State) : (modHash n f s).parts = s.parts := rfl
@[simp] theorem modHash_vault (n : Nat) (f : Engine → Engine) (s : State) : (modHash n f s).vault = s.vault := rfl
@[simp] theorem modHash_nv (n : Nat) (f : Engine → Engine) (s : State) : (modHash n f s).nv = s.nv := rfl
@[simp] theorem modHash_cust (n : Nat) (f : Engine → Engine) (s : State) : (modHash n f s).cust = s.cust := rfl
@[simp] theorem modHash_tmp (n : Nat) (f : Engine → Engine) (s : State) : (modHash n f s).tmp = s.tmp := rfl
@[simp] theorem modHash_dbg (n : Nat) (f : Engine → Engine) (s : State) : (modHash n f s).dbg = s.dbg := rfl
@[simp] theorem modHash_pair (n : Nat) (f : Engine → Engine) (s : State) : (modHash n f s).pair = s.pair := rfl
@[simp] theorem modHash_jrn (n : Nat) (f : Engine → Engine) (s : State) : (modHash n f s).jrn = s.jrn := rfl
@[simp] theorem modHash_scr (n : Nat) (f : Engine → Engine) (s : State) : (modHash n f s).scr = s.scr := rfl
@[simp] theorem modHash_tarn (n : Nat) (f : Engine → Engine) (s : State) : (modHash n f s).tarn = s.tarn := rfl
@[simp] theorem modHash_grd (n : Nat) (f : Engine → Engine) (s : State) : (modHash n f s).grd = s.grd := rfl
@[simp] theorem modHash_pmc (n : Nat) (f : Engine → Engine) (s : State) : (modHash n f s).pmc = s.pmc := rfl
@[simp] theorem modHash_pwr (n : Nat) (f : Engine → Engine) (s : State) : (modHash n f s).pwr = s.pwr := rfl
@[simp] theorem modHash_smb (n : Nat) (f : Engine → Engine) (s : State) : (modHash n f s).smb = s.smb := rfl
@[simp] theorem modHash_sys (n : Nat) (f : Engine → Engine) (s : State) : (modHash n f s).sys = s.sys := rfl
@[simp] theorem modHash_msix (n : Nat) (f : Engine → Engine) (s : State) : (modHash n f s).msix = s.msix := rfl
@[simp] theorem modHash_out (n : Nat) (f : Engine → Engine) (s : State) : (modHash n f s).out = s.out := rfl
@[simp] theorem modHash_freeCtr (n : Nat) (f : Engine → Engine) (s : State) : (modHash n f s).freeCtr = s.freeCtr := rfl
@[simp] theorem modHash_pending (n : Nat) (f : Engine → Engine) (s : State) : (modHash n f s).pending = s.pending := rfl

@[simp] theorem modSrc_time (n : Nat) (f : TarnSrc → TarnSrc) (s : State) : (modSrc n f s).time = s.time := rfl
@[simp] theorem modSrc_rings (n : Nat) (f : TarnSrc → TarnSrc) (s : State) : (modSrc n f s).rings = s.rings := rfl
@[simp] theorem modSrc_cirq (n : Nat) (f : TarnSrc → TarnSrc) (s : State) : (modSrc n f s).cirq = s.cirq := rfl
@[simp] theorem modSrc_jobs (n : Nat) (f : TarnSrc → TarnSrc) (s : State) : (modSrc n f s).jobs = s.jobs := rfl
@[simp] theorem modSrc_refused (n : Nat) (f : TarnSrc → TarnSrc) (s : State) : (modSrc n f s).refused = s.refused := rfl
@[simp] theorem modSrc_mas (n : Nat) (f : TarnSrc → TarnSrc) (s : State) : (modSrc n f s).mas = s.mas := rfl
@[simp] theorem modSrc_eng (n : Nat) (f : TarnSrc → TarnSrc) (s : State) : (modSrc n f s).eng = s.eng := rfl
@[simp] theorem modSrc_rng (n : Nat) (f : TarnSrc → TarnSrc) (s : State) : (modSrc n f s).rng = s.rng := rfl
@[simp] theorem modSrc_parts (n : Nat) (f : TarnSrc → TarnSrc) (s : State) : (modSrc n f s).parts = s.parts := rfl
@[simp] theorem modSrc_vault (n : Nat) (f : TarnSrc → TarnSrc) (s : State) : (modSrc n f s).vault = s.vault := rfl
@[simp] theorem modSrc_nv (n : Nat) (f : TarnSrc → TarnSrc) (s : State) : (modSrc n f s).nv = s.nv := rfl
@[simp] theorem modSrc_cust (n : Nat) (f : TarnSrc → TarnSrc) (s : State) : (modSrc n f s).cust = s.cust := rfl
@[simp] theorem modSrc_tmp (n : Nat) (f : TarnSrc → TarnSrc) (s : State) : (modSrc n f s).tmp = s.tmp := rfl
@[simp] theorem modSrc_dbg (n : Nat) (f : TarnSrc → TarnSrc) (s : State) : (modSrc n f s).dbg = s.dbg := rfl
@[simp] theorem modSrc_pair (n : Nat) (f : TarnSrc → TarnSrc) (s : State) : (modSrc n f s).pair = s.pair := rfl
@[simp] theorem modSrc_jrn (n : Nat) (f : TarnSrc → TarnSrc) (s : State) : (modSrc n f s).jrn = s.jrn := rfl
@[simp] theorem modSrc_scr (n : Nat) (f : TarnSrc → TarnSrc) (s : State) : (modSrc n f s).scr = s.scr := rfl
@[simp] theorem modSrc_grd (n : Nat) (f : TarnSrc → TarnSrc) (s : State) : (modSrc n f s).grd = s.grd := rfl
@[simp] theorem modSrc_pmc (n : Nat) (f : TarnSrc → TarnSrc) (s : State) : (modSrc n f s).pmc = s.pmc := rfl
@[simp] theorem modSrc_pwr (n : Nat) (f : TarnSrc → TarnSrc) (s : State) : (modSrc n f s).pwr = s.pwr := rfl
@[simp] theorem modSrc_smb (n : Nat) (f : TarnSrc → TarnSrc) (s : State) : (modSrc n f s).smb = s.smb := rfl
@[simp] theorem modSrc_sys (n : Nat) (f : TarnSrc → TarnSrc) (s : State) : (modSrc n f s).sys = s.sys := rfl
@[simp] theorem modSrc_msix (n : Nat) (f : TarnSrc → TarnSrc) (s : State) : (modSrc n f s).msix = s.msix := rfl
@[simp] theorem modSrc_out (n : Nat) (f : TarnSrc → TarnSrc) (s : State) : (modSrc n f s).out = s.out := rfl
@[simp] theorem modSrc_freeCtr (n : Nat) (f : TarnSrc → TarnSrc) (s : State) : (modSrc n f s).freeCtr = s.freeCtr := rfl
@[simp] theorem modSrc_pending (n : Nat) (f : TarnSrc → TarnSrc) (s : State) : (modSrc n f s).pending = s.pending := rfl

@[simp] theorem releaseActive_time (s : State) : (releaseActive s).time = s.time := rfl
@[simp] theorem releaseActive_rings (s : State) : (releaseActive s).rings = s.rings := rfl
@[simp] theorem releaseActive_cirq (s : State) : (releaseActive s).cirq = s.cirq := rfl
@[simp] theorem releaseActive_jobs (s : State) : (releaseActive s).jobs = s.jobs := rfl
@[simp] theorem releaseActive_refused (s : State) : (releaseActive s).refused = s.refused := rfl
@[simp] theorem releaseActive_mas (s : State) : (releaseActive s).mas = s.mas := rfl
@[simp] theorem releaseActive_eng (s : State) : (releaseActive s).eng = s.eng := rfl
@[simp] theorem releaseActive_rng (s : State) : (releaseActive s).rng = s.rng := rfl
@[simp] theorem releaseActive_parts (s : State) : (releaseActive s).parts = s.parts := rfl
@[simp] theorem releaseActive_vault (s : State) : (releaseActive s).vault = s.vault := rfl
@[simp] theorem releaseActive_nv (s : State) : (releaseActive s).nv = s.nv := rfl
@[simp] theorem releaseActive_cust (s : State) : (releaseActive s).cust = s.cust := rfl
@[simp] theorem releaseActive_tmp (s : State) : (releaseActive s).tmp = s.tmp := rfl
@[simp] theorem releaseActive_dbg (s : State) : (releaseActive s).dbg = s.dbg := rfl
@[simp] theorem releaseActive_jrn (s : State) : (releaseActive s).jrn = s.jrn := rfl
@[simp] theorem releaseActive_scr (s : State) : (releaseActive s).scr = s.scr := rfl
@[simp] theorem releaseActive_tarn (s : State) : (releaseActive s).tarn = s.tarn := rfl
@[simp] theorem releaseActive_grd (s : State) : (releaseActive s).grd = s.grd := rfl
@[simp] theorem releaseActive_pmc (s : State) : (releaseActive s).pmc = s.pmc := rfl
@[simp] theorem releaseActive_pwr (s : State) : (releaseActive s).pwr = s.pwr := rfl
@[simp] theorem releaseActive_smb (s : State) : (releaseActive s).smb = s.smb := rfl
@[simp] theorem releaseActive_sys (s : State) : (releaseActive s).sys = s.sys := rfl
@[simp] theorem releaseActive_msix (s : State) : (releaseActive s).msix = s.msix := rfl
@[simp] theorem releaseActive_out (s : State) : (releaseActive s).out = s.out := rfl
@[simp] theorem releaseActive_freeCtr (s : State) : (releaseActive s).freeCtr = s.freeCtr := rfl
@[simp] theorem releaseActive_pending (s : State) : (releaseActive s).pending = s.pending := rfl

@[simp] theorem accError_time (bit : Nat) (off : Nat) (s : State) : (accError bit off s).time = s.time := rfl
@[simp] theorem accError_rings (bit : Nat) (off : Nat) (s : State) : (accError bit off s).rings = s.rings := rfl
@[simp] theorem accError_cirq (bit : Nat) (off : Nat) (s : State) : (accError bit off s).cirq = s.cirq := rfl
@[simp] theorem accError_jobs (bit : Nat) (off : Nat) (s : State) : (accError bit off s).jobs = s.jobs := rfl
@[simp] theorem accError_refused (bit : Nat) (off : Nat) (s : State) : (accError bit off s).refused = s.refused := rfl
@[simp] theorem accError_mas (bit : Nat) (off : Nat) (s : State) : (accError bit off s).mas = s.mas := rfl
@[simp] theorem accError_eng (bit : Nat) (off : Nat) (s : State) : (accError bit off s).eng = s.eng := rfl
@[simp] theorem accError_rng (bit : Nat) (off : Nat) (s : State) : (accError bit off s).rng = s.rng := rfl
@[simp] theorem accError_parts (bit : Nat) (off : Nat) (s : State) : (accError bit off s).parts = s.parts := rfl
@[simp] theorem accError_vault (bit : Nat) (off : Nat) (s : State) : (accError bit off s).vault = s.vault := rfl
@[simp] theorem accError_nv (bit : Nat) (off : Nat) (s : State) : (accError bit off s).nv = s.nv := rfl
@[simp] theorem accError_cust (bit : Nat) (off : Nat) (s : State) : (accError bit off s).cust = s.cust := rfl
@[simp] theorem accError_tmp (bit : Nat) (off : Nat) (s : State) : (accError bit off s).tmp = s.tmp := rfl
@[simp] theorem accError_dbg (bit : Nat) (off : Nat) (s : State) : (accError bit off s).dbg = s.dbg := rfl
@[simp] theorem accError_pair (bit : Nat) (off : Nat) (s : State) : (accError bit off s).pair = s.pair := rfl
@[simp] theorem accError_jrn (bit : Nat) (off : Nat) (s : State) : (accError bit off s).jrn = s.jrn := rfl
@[simp] theorem accError_scr (bit : Nat) (off : Nat) (s : State) : (accError bit off s).scr = s.scr := rfl
@[simp] theorem accError_tarn (bit : Nat) (off : Nat) (s : State) : (accError bit off s).tarn = s.tarn := rfl
@[simp] theorem accError_grd (bit : Nat) (off : Nat) (s : State) : (accError bit off s).grd = s.grd := rfl
@[simp] theorem accError_pmc (bit : Nat) (off : Nat) (s : State) : (accError bit off s).pmc = s.pmc := rfl
@[simp] theorem accError_pwr (bit : Nat) (off : Nat) (s : State) : (accError bit off s).pwr = s.pwr := rfl
@[simp] theorem accError_smb (bit : Nat) (off : Nat) (s : State) : (accError bit off s).smb = s.smb := rfl
@[simp] theorem accError_msix (bit : Nat) (off : Nat) (s : State) : (accError bit off s).msix = s.msix := rfl
@[simp] theorem accError_out (bit : Nat) (off : Nat) (s : State) : (accError bit off s).out = s.out := rfl
@[simp] theorem accError_freeCtr (bit : Nat) (off : Nat) (s : State) : (accError bit off s).freeCtr = s.freeCtr := rfl
@[simp] theorem accError_pending (bit : Nat) (off : Nat) (s : State) : (accError bit off s).pending = s.pending := rfl

@[simp] theorem setStage_time (p : Nat) (off : Nat) (w : Option W32) (s : State) : (setStage p off w s).time = s.time := rfl
@[simp] theorem setStage_rings (p : Nat) (off : Nat) (w : Option W32) (s : State) : (setStage p off w s).rings = s.rings := rfl
@[simp] theorem setStage_cirq (p : Nat) (off : Nat) (w : Option W32) (s : State) : (setStage p off w s).cirq = s.cirq := rfl
@[simp] theorem setStage_jobs (p : Nat) (off : Nat) (w : Option W32) (s : State) : (setStage p off w s).jobs = s.jobs := rfl
@[simp] theorem setStage_refused (p : Nat) (off : Nat) (w : Option W32) (s : State) : (setStage p off w s).refused = s.refused := rfl
@[simp] theorem setStage_mas (p : Nat) (off : Nat) (w : Option W32) (s : State) : (setStage p off w s).mas = s.mas := rfl
@[simp] theorem setStage_eng (p : Nat) (off : Nat) (w : Option W32) (s : State) : (setStage p off w s).eng = s.eng := rfl
@[simp] theorem setStage_rng (p : Nat) (off : Nat) (w : Option W32) (s : State) : (setStage p off w s).rng = s.rng := rfl
@[simp] theorem setStage_parts (p : Nat) (off : Nat) (w : Option W32) (s : State) : (setStage p off w s).parts = s.parts := rfl
@[simp] theorem setStage_vault (p : Nat) (off : Nat) (w : Option W32) (s : State) : (setStage p off w s).vault = s.vault := rfl
@[simp] theorem setStage_nv (p : Nat) (off : Nat) (w : Option W32) (s : State) : (setStage p off w s).nv = s.nv := rfl
@[simp] theorem setStage_cust (p : Nat) (off : Nat) (w : Option W32) (s : State) : (setStage p off w s).cust = s.cust := rfl
@[simp] theorem setStage_tmp (p : Nat) (off : Nat) (w : Option W32) (s : State) : (setStage p off w s).tmp = s.tmp := rfl
@[simp] theorem setStage_dbg (p : Nat) (off : Nat) (w : Option W32) (s : State) : (setStage p off w s).dbg = s.dbg := rfl
@[simp] theorem setStage_pair (p : Nat) (off : Nat) (w : Option W32) (s : State) : (setStage p off w s).pair = s.pair := rfl
@[simp] theorem setStage_jrn (p : Nat) (off : Nat) (w : Option W32) (s : State) : (setStage p off w s).jrn = s.jrn := rfl
@[simp] theorem setStage_scr (p : Nat) (off : Nat) (w : Option W32) (s : State) : (setStage p off w s).scr = s.scr := rfl
@[simp] theorem setStage_tarn (p : Nat) (off : Nat) (w : Option W32) (s : State) : (setStage p off w s).tarn = s.tarn := rfl
@[simp] theorem setStage_grd (p : Nat) (off : Nat) (w : Option W32) (s : State) : (setStage p off w s).grd = s.grd := rfl
@[simp] theorem setStage_pmc (p : Nat) (off : Nat) (w : Option W32) (s : State) : (setStage p off w s).pmc = s.pmc := rfl
@[simp] theorem setStage_pwr (p : Nat) (off : Nat) (w : Option W32) (s : State) : (setStage p off w s).pwr = s.pwr := rfl
@[simp] theorem setStage_smb (p : Nat) (off : Nat) (w : Option W32) (s : State) : (setStage p off w s).smb = s.smb := rfl
@[simp] theorem setStage_msix (p : Nat) (off : Nat) (w : Option W32) (s : State) : (setStage p off w s).msix = s.msix := rfl
@[simp] theorem setStage_out (p : Nat) (off : Nat) (w : Option W32) (s : State) : (setStage p off w s).out = s.out := rfl
@[simp] theorem setStage_freeCtr (p : Nat) (off : Nat) (w : Option W32) (s : State) : (setStage p off w s).freeCtr = s.freeCtr := rfl
@[simp] theorem setStage_pending (p : Nat) (off : Nat) (w : Option W32) (s : State) : (setStage p off w s).pending = s.pending := rfl

@[simp] theorem modTime_rings (f : TimeBlk → TimeBlk) (s : State) : (modTime f s).rings = s.rings := rfl
@[simp] theorem modTime_cirq (f : TimeBlk → TimeBlk) (s : State) : (modTime f s).cirq = s.cirq := rfl
@[simp] theorem modTime_jobs (f : TimeBlk → TimeBlk) (s : State) : (modTime f s).jobs = s.jobs := rfl
@[simp] theorem modTime_refused (f : TimeBlk → TimeBlk) (s : State) : (modTime f s).refused = s.refused := rfl
@[simp] theorem modTime_mas (f : TimeBlk → TimeBlk) (s : State) : (modTime f s).mas = s.mas := rfl
@[simp] theorem modTime_eng (f : TimeBlk → TimeBlk) (s : State) : (modTime f s).eng = s.eng := rfl
@[simp] theorem modTime_rng (f : TimeBlk → TimeBlk) (s : State) : (modTime f s).rng = s.rng := rfl
@[simp] theorem modTime_parts (f : TimeBlk → TimeBlk) (s : State) : (modTime f s).parts = s.parts := rfl
@[simp] theorem modTime_vault (f : TimeBlk → TimeBlk) (s : State) : (modTime f s).vault = s.vault := rfl
@[simp] theorem modTime_nv (f : TimeBlk → TimeBlk) (s : State) : (modTime f s).nv = s.nv := rfl
@[simp] theorem modTime_cust (f : TimeBlk → TimeBlk) (s : State) : (modTime f s).cust = s.cust := rfl
@[simp] theorem modTime_tmp (f : TimeBlk → TimeBlk) (s : State) : (modTime f s).tmp = s.tmp := rfl
@[simp] theorem modTime_dbg (f : TimeBlk → TimeBlk) (s : State) : (modTime f s).dbg = s.dbg := rfl
@[simp] theorem modTime_pair (f : TimeBlk → TimeBlk) (s : State) : (modTime f s).pair = s.pair := rfl
@[simp] theorem modTime_jrn (f : TimeBlk → TimeBlk) (s : State) : (modTime f s).jrn = s.jrn := rfl
@[simp] theorem modTime_scr (f : TimeBlk → TimeBlk) (s : State) : (modTime f s).scr = s.scr := rfl
@[simp] theorem modTime_tarn (f : TimeBlk → TimeBlk) (s : State) : (modTime f s).tarn = s.tarn := rfl
@[simp] theorem modTime_grd (f : TimeBlk → TimeBlk) (s : State) : (modTime f s).grd = s.grd := rfl
@[simp] theorem modTime_pmc (f : TimeBlk → TimeBlk) (s : State) : (modTime f s).pmc = s.pmc := rfl
@[simp] theorem modTime_pwr (f : TimeBlk → TimeBlk) (s : State) : (modTime f s).pwr = s.pwr := rfl
@[simp] theorem modTime_smb (f : TimeBlk → TimeBlk) (s : State) : (modTime f s).smb = s.smb := rfl
@[simp] theorem modTime_sys (f : TimeBlk → TimeBlk) (s : State) : (modTime f s).sys = s.sys := rfl
@[simp] theorem modTime_msix (f : TimeBlk → TimeBlk) (s : State) : (modTime f s).msix = s.msix := rfl
@[simp] theorem modTime_out (f : TimeBlk → TimeBlk) (s : State) : (modTime f s).out = s.out := rfl
@[simp] theorem modTime_freeCtr (f : TimeBlk → TimeBlk) (s : State) : (modTime f s).freeCtr = s.freeCtr := rfl
@[simp] theorem modTime_pending (f : TimeBlk → TimeBlk) (s : State) : (modTime f s).pending = s.pending := rfl

@[simp] theorem setInst_time (i : Nat) (d : Drbg) (s : State) : (setInst i d s).time = s.time := rfl
@[simp] theorem setInst_rings (i : Nat) (d : Drbg) (s : State) : (setInst i d s).rings = s.rings := rfl
@[simp] theorem setInst_cirq (i : Nat) (d : Drbg) (s : State) : (setInst i d s).cirq = s.cirq := rfl
@[simp] theorem setInst_jobs (i : Nat) (d : Drbg) (s : State) : (setInst i d s).jobs = s.jobs := rfl
@[simp] theorem setInst_refused (i : Nat) (d : Drbg) (s : State) : (setInst i d s).refused = s.refused := rfl
@[simp] theorem setInst_mas (i : Nat) (d : Drbg) (s : State) : (setInst i d s).mas = s.mas := rfl
@[simp] theorem setInst_eng (i : Nat) (d : Drbg) (s : State) : (setInst i d s).eng = s.eng := rfl
@[simp] theorem setInst_parts (i : Nat) (d : Drbg) (s : State) : (setInst i d s).parts = s.parts := rfl
@[simp] theorem setInst_vault (i : Nat) (d : Drbg) (s : State) : (setInst i d s).vault = s.vault := rfl
@[simp] theorem setInst_nv (i : Nat) (d : Drbg) (s : State) : (setInst i d s).nv = s.nv := rfl
@[simp] theorem setInst_cust (i : Nat) (d : Drbg) (s : State) : (setInst i d s).cust = s.cust := rfl
@[simp] theorem setInst_tmp (i : Nat) (d : Drbg) (s : State) : (setInst i d s).tmp = s.tmp := rfl
@[simp] theorem setInst_dbg (i : Nat) (d : Drbg) (s : State) : (setInst i d s).dbg = s.dbg := rfl
@[simp] theorem setInst_pair (i : Nat) (d : Drbg) (s : State) : (setInst i d s).pair = s.pair := rfl
@[simp] theorem setInst_jrn (i : Nat) (d : Drbg) (s : State) : (setInst i d s).jrn = s.jrn := rfl
@[simp] theorem setInst_scr (i : Nat) (d : Drbg) (s : State) : (setInst i d s).scr = s.scr := rfl
@[simp] theorem setInst_tarn (i : Nat) (d : Drbg) (s : State) : (setInst i d s).tarn = s.tarn := rfl
@[simp] theorem setInst_grd (i : Nat) (d : Drbg) (s : State) : (setInst i d s).grd = s.grd := rfl
@[simp] theorem setInst_pmc (i : Nat) (d : Drbg) (s : State) : (setInst i d s).pmc = s.pmc := rfl
@[simp] theorem setInst_pwr (i : Nat) (d : Drbg) (s : State) : (setInst i d s).pwr = s.pwr := rfl
@[simp] theorem setInst_smb (i : Nat) (d : Drbg) (s : State) : (setInst i d s).smb = s.smb := rfl
@[simp] theorem setInst_sys (i : Nat) (d : Drbg) (s : State) : (setInst i d s).sys = s.sys := rfl
@[simp] theorem setInst_msix (i : Nat) (d : Drbg) (s : State) : (setInst i d s).msix = s.msix := rfl
@[simp] theorem setInst_out (i : Nat) (d : Drbg) (s : State) : (setInst i d s).out = s.out := rfl
@[simp] theorem setInst_freeCtr (i : Nat) (d : Drbg) (s : State) : (setInst i d s).freeCtr = s.freeCtr := rfl
@[simp] theorem setInst_pending (i : Nat) (d : Drbg) (s : State) : (setInst i d s).pending = s.pending := rfl

@[simp] theorem freeHeld_time (s : State) : (freeHeld s).time = s.time := rfl
@[simp] theorem freeHeld_rings (s : State) : (freeHeld s).rings = s.rings := rfl
@[simp] theorem freeHeld_cirq (s : State) : (freeHeld s).cirq = s.cirq := rfl
@[simp] theorem freeHeld_jobs (s : State) : (freeHeld s).jobs = s.jobs := rfl
@[simp] theorem freeHeld_refused (s : State) : (freeHeld s).refused = s.refused := rfl
@[simp] theorem freeHeld_eng (s : State) : (freeHeld s).eng = s.eng := rfl
@[simp] theorem freeHeld_rng (s : State) : (freeHeld s).rng = s.rng := rfl
@[simp] theorem freeHeld_parts (s : State) : (freeHeld s).parts = s.parts := rfl
@[simp] theorem freeHeld_vault (s : State) : (freeHeld s).vault = s.vault := rfl
@[simp] theorem freeHeld_nv (s : State) : (freeHeld s).nv = s.nv := rfl
@[simp] theorem freeHeld_cust (s : State) : (freeHeld s).cust = s.cust := rfl
@[simp] theorem freeHeld_tmp (s : State) : (freeHeld s).tmp = s.tmp := rfl
@[simp] theorem freeHeld_dbg (s : State) : (freeHeld s).dbg = s.dbg := rfl
@[simp] theorem freeHeld_pair (s : State) : (freeHeld s).pair = s.pair := rfl
@[simp] theorem freeHeld_jrn (s : State) : (freeHeld s).jrn = s.jrn := rfl
@[simp] theorem freeHeld_scr (s : State) : (freeHeld s).scr = s.scr := rfl
@[simp] theorem freeHeld_tarn (s : State) : (freeHeld s).tarn = s.tarn := rfl
@[simp] theorem freeHeld_grd (s : State) : (freeHeld s).grd = s.grd := rfl
@[simp] theorem freeHeld_pmc (s : State) : (freeHeld s).pmc = s.pmc := rfl
@[simp] theorem freeHeld_pwr (s : State) : (freeHeld s).pwr = s.pwr := rfl
@[simp] theorem freeHeld_smb (s : State) : (freeHeld s).smb = s.smb := rfl
@[simp] theorem freeHeld_sys (s : State) : (freeHeld s).sys = s.sys := rfl
@[simp] theorem freeHeld_msix (s : State) : (freeHeld s).msix = s.msix := rfl
@[simp] theorem freeHeld_out (s : State) : (freeHeld s).out = s.out := rfl
@[simp] theorem freeHeld_freeCtr (s : State) : (freeHeld s).freeCtr = s.freeCtr := rfl
@[simp] theorem freeHeld_pending (s : State) : (freeHeld s).pending = s.pending := rfl

@[simp] theorem wipeNodes_time (p : Nat) (s : State) : (wipeNodes p s).time = s.time := rfl
@[simp] theorem wipeNodes_rings (p : Nat) (s : State) : (wipeNodes p s).rings = s.rings := rfl
@[simp] theorem wipeNodes_cirq (p : Nat) (s : State) : (wipeNodes p s).cirq = s.cirq := rfl
@[simp] theorem wipeNodes_jobs (p : Nat) (s : State) : (wipeNodes p s).jobs = s.jobs := rfl
@[simp] theorem wipeNodes_refused (p : Nat) (s : State) : (wipeNodes p s).refused = s.refused := rfl
@[simp] theorem wipeNodes_eng (p : Nat) (s : State) : (wipeNodes p s).eng = s.eng := rfl
@[simp] theorem wipeNodes_rng (p : Nat) (s : State) : (wipeNodes p s).rng = s.rng := rfl
@[simp] theorem wipeNodes_parts (p : Nat) (s : State) : (wipeNodes p s).parts = s.parts := rfl
@[simp] theorem wipeNodes_vault (p : Nat) (s : State) : (wipeNodes p s).vault = s.vault := rfl
@[simp] theorem wipeNodes_nv (p : Nat) (s : State) : (wipeNodes p s).nv = s.nv := rfl
@[simp] theorem wipeNodes_cust (p : Nat) (s : State) : (wipeNodes p s).cust = s.cust := rfl
@[simp] theorem wipeNodes_tmp (p : Nat) (s : State) : (wipeNodes p s).tmp = s.tmp := rfl
@[simp] theorem wipeNodes_dbg (p : Nat) (s : State) : (wipeNodes p s).dbg = s.dbg := rfl
@[simp] theorem wipeNodes_pair (p : Nat) (s : State) : (wipeNodes p s).pair = s.pair := rfl
@[simp] theorem wipeNodes_jrn (p : Nat) (s : State) : (wipeNodes p s).jrn = s.jrn := rfl
@[simp] theorem wipeNodes_scr (p : Nat) (s : State) : (wipeNodes p s).scr = s.scr := rfl
@[simp] theorem wipeNodes_tarn (p : Nat) (s : State) : (wipeNodes p s).tarn = s.tarn := rfl
@[simp] theorem wipeNodes_grd (p : Nat) (s : State) : (wipeNodes p s).grd = s.grd := rfl
@[simp] theorem wipeNodes_pmc (p : Nat) (s : State) : (wipeNodes p s).pmc = s.pmc := rfl
@[simp] theorem wipeNodes_pwr (p : Nat) (s : State) : (wipeNodes p s).pwr = s.pwr := rfl
@[simp] theorem wipeNodes_smb (p : Nat) (s : State) : (wipeNodes p s).smb = s.smb := rfl
@[simp] theorem wipeNodes_sys (p : Nat) (s : State) : (wipeNodes p s).sys = s.sys := rfl
@[simp] theorem wipeNodes_msix (p : Nat) (s : State) : (wipeNodes p s).msix = s.msix := rfl
@[simp] theorem wipeNodes_out (p : Nat) (s : State) : (wipeNodes p s).out = s.out := rfl
@[simp] theorem wipeNodes_freeCtr (p : Nat) (s : State) : (wipeNodes p s).freeCtr = s.freeCtr := rfl
@[simp] theorem wipeNodes_pending (p : Nat) (s : State) : (wipeNodes p s).pending = s.pending := rfl

@[simp] theorem setVault_time (v : Vault) (s : State) : (setVault v s).time = s.time := rfl
@[simp] theorem setVault_rings (v : Vault) (s : State) : (setVault v s).rings = s.rings := rfl
@[simp] theorem setVault_cirq (v : Vault) (s : State) : (setVault v s).cirq = s.cirq := rfl
@[simp] theorem setVault_jobs (v : Vault) (s : State) : (setVault v s).jobs = s.jobs := rfl
@[simp] theorem setVault_refused (v : Vault) (s : State) : (setVault v s).refused = s.refused := rfl
@[simp] theorem setVault_mas (v : Vault) (s : State) : (setVault v s).mas = s.mas := rfl
@[simp] theorem setVault_eng (v : Vault) (s : State) : (setVault v s).eng = s.eng := rfl
@[simp] theorem setVault_rng (v : Vault) (s : State) : (setVault v s).rng = s.rng := rfl
@[simp] theorem setVault_parts (v : Vault) (s : State) : (setVault v s).parts = s.parts := rfl
@[simp] theorem setVault_nv (v : Vault) (s : State) : (setVault v s).nv = s.nv := rfl
@[simp] theorem setVault_cust (v : Vault) (s : State) : (setVault v s).cust = s.cust := rfl
@[simp] theorem setVault_tmp (v : Vault) (s : State) : (setVault v s).tmp = s.tmp := rfl
@[simp] theorem setVault_dbg (v : Vault) (s : State) : (setVault v s).dbg = s.dbg := rfl
@[simp] theorem setVault_pair (v : Vault) (s : State) : (setVault v s).pair = s.pair := rfl
@[simp] theorem setVault_jrn (v : Vault) (s : State) : (setVault v s).jrn = s.jrn := rfl
@[simp] theorem setVault_scr (v : Vault) (s : State) : (setVault v s).scr = s.scr := rfl
@[simp] theorem setVault_tarn (v : Vault) (s : State) : (setVault v s).tarn = s.tarn := rfl
@[simp] theorem setVault_grd (v : Vault) (s : State) : (setVault v s).grd = s.grd := rfl
@[simp] theorem setVault_pmc (v : Vault) (s : State) : (setVault v s).pmc = s.pmc := rfl
@[simp] theorem setVault_pwr (v : Vault) (s : State) : (setVault v s).pwr = s.pwr := rfl
@[simp] theorem setVault_smb (v : Vault) (s : State) : (setVault v s).smb = s.smb := rfl
@[simp] theorem setVault_sys (v : Vault) (s : State) : (setVault v s).sys = s.sys := rfl
@[simp] theorem setVault_msix (v : Vault) (s : State) : (setVault v s).msix = s.msix := rfl
@[simp] theorem setVault_out (v : Vault) (s : State) : (setVault v s).out = s.out := rfl
@[simp] theorem setVault_freeCtr (v : Vault) (s : State) : (setVault v s).freeCtr = s.freeCtr := rfl
@[simp] theorem setVault_pending (v : Vault) (s : State) : (setVault v s).pending = s.pending := rfl

@[simp] theorem noteCommits_time (q : Nat) (os : List (Nat × Nat)) (s : State) : (noteCommits q os s).time = s.time := rfl
@[simp] theorem noteCommits_rings (q : Nat) (os : List (Nat × Nat)) (s : State) : (noteCommits q os s).rings = s.rings := rfl
@[simp] theorem noteCommits_cirq (q : Nat) (os : List (Nat × Nat)) (s : State) : (noteCommits q os s).cirq = s.cirq := rfl
@[simp] theorem noteCommits_jobs (q : Nat) (os : List (Nat × Nat)) (s : State) : (noteCommits q os s).jobs = s.jobs := rfl
@[simp] theorem noteCommits_refused (q : Nat) (os : List (Nat × Nat)) (s : State) : (noteCommits q os s).refused = s.refused := rfl
@[simp] theorem noteCommits_mas (q : Nat) (os : List (Nat × Nat)) (s : State) : (noteCommits q os s).mas = s.mas := rfl
@[simp] theorem noteCommits_eng (q : Nat) (os : List (Nat × Nat)) (s : State) : (noteCommits q os s).eng = s.eng := rfl
@[simp] theorem noteCommits_rng (q : Nat) (os : List (Nat × Nat)) (s : State) : (noteCommits q os s).rng = s.rng := rfl
@[simp] theorem noteCommits_parts (q : Nat) (os : List (Nat × Nat)) (s : State) : (noteCommits q os s).parts = s.parts := rfl
@[simp] theorem noteCommits_vault (q : Nat) (os : List (Nat × Nat)) (s : State) : (noteCommits q os s).vault = s.vault := rfl
@[simp] theorem noteCommits_nv (q : Nat) (os : List (Nat × Nat)) (s : State) : (noteCommits q os s).nv = s.nv := rfl
@[simp] theorem noteCommits_cust (q : Nat) (os : List (Nat × Nat)) (s : State) : (noteCommits q os s).cust = s.cust := rfl
@[simp] theorem noteCommits_tmp (q : Nat) (os : List (Nat × Nat)) (s : State) : (noteCommits q os s).tmp = s.tmp := rfl
@[simp] theorem noteCommits_dbg (q : Nat) (os : List (Nat × Nat)) (s : State) : (noteCommits q os s).dbg = s.dbg := rfl
@[simp] theorem noteCommits_jrn (q : Nat) (os : List (Nat × Nat)) (s : State) : (noteCommits q os s).jrn = s.jrn := rfl
@[simp] theorem noteCommits_scr (q : Nat) (os : List (Nat × Nat)) (s : State) : (noteCommits q os s).scr = s.scr := rfl
@[simp] theorem noteCommits_tarn (q : Nat) (os : List (Nat × Nat)) (s : State) : (noteCommits q os s).tarn = s.tarn := rfl
@[simp] theorem noteCommits_grd (q : Nat) (os : List (Nat × Nat)) (s : State) : (noteCommits q os s).grd = s.grd := rfl
@[simp] theorem noteCommits_pmc (q : Nat) (os : List (Nat × Nat)) (s : State) : (noteCommits q os s).pmc = s.pmc := rfl
@[simp] theorem noteCommits_pwr (q : Nat) (os : List (Nat × Nat)) (s : State) : (noteCommits q os s).pwr = s.pwr := rfl
@[simp] theorem noteCommits_smb (q : Nat) (os : List (Nat × Nat)) (s : State) : (noteCommits q os s).smb = s.smb := rfl
@[simp] theorem noteCommits_sys (q : Nat) (os : List (Nat × Nat)) (s : State) : (noteCommits q os s).sys = s.sys := rfl
@[simp] theorem noteCommits_msix (q : Nat) (os : List (Nat × Nat)) (s : State) : (noteCommits q os s).msix = s.msix := rfl
@[simp] theorem noteCommits_out (q : Nat) (os : List (Nat × Nat)) (s : State) : (noteCommits q os s).out = s.out := rfl
@[simp] theorem noteCommits_freeCtr (q : Nat) (os : List (Nat × Nat)) (s : State) : (noteCommits q os s).freeCtr = s.freeCtr := rfl
@[simp] theorem noteCommits_pending (q : Nat) (os : List (Nat × Nat)) (s : State) : (noteCommits q os s).pending = s.pending := rfl

@[simp] theorem dropHolds_time (q : Nat) (s : State) : (dropHolds q s).time = s.time := rfl
@[simp] theorem dropHolds_rings (q : Nat) (s : State) : (dropHolds q s).rings = s.rings := rfl
@[simp] theorem dropHolds_cirq (q : Nat) (s : State) : (dropHolds q s).cirq = s.cirq := rfl
@[simp] theorem dropHolds_jobs (q : Nat) (s : State) : (dropHolds q s).jobs = s.jobs := rfl
@[simp] theorem dropHolds_refused (q : Nat) (s : State) : (dropHolds q s).refused = s.refused := rfl
@[simp] theorem dropHolds_eng (q : Nat) (s : State) : (dropHolds q s).eng = s.eng := rfl
@[simp] theorem dropHolds_rng (q : Nat) (s : State) : (dropHolds q s).rng = s.rng := rfl
@[simp] theorem dropHolds_parts (q : Nat) (s : State) : (dropHolds q s).parts = s.parts := rfl
@[simp] theorem dropHolds_vault (q : Nat) (s : State) : (dropHolds q s).vault = s.vault := rfl
@[simp] theorem dropHolds_nv (q : Nat) (s : State) : (dropHolds q s).nv = s.nv := rfl
@[simp] theorem dropHolds_cust (q : Nat) (s : State) : (dropHolds q s).cust = s.cust := rfl
@[simp] theorem dropHolds_tmp (q : Nat) (s : State) : (dropHolds q s).tmp = s.tmp := rfl
@[simp] theorem dropHolds_dbg (q : Nat) (s : State) : (dropHolds q s).dbg = s.dbg := rfl
@[simp] theorem dropHolds_pair (q : Nat) (s : State) : (dropHolds q s).pair = s.pair := rfl
@[simp] theorem dropHolds_jrn (q : Nat) (s : State) : (dropHolds q s).jrn = s.jrn := rfl
@[simp] theorem dropHolds_scr (q : Nat) (s : State) : (dropHolds q s).scr = s.scr := rfl
@[simp] theorem dropHolds_tarn (q : Nat) (s : State) : (dropHolds q s).tarn = s.tarn := rfl
@[simp] theorem dropHolds_grd (q : Nat) (s : State) : (dropHolds q s).grd = s.grd := rfl
@[simp] theorem dropHolds_pmc (q : Nat) (s : State) : (dropHolds q s).pmc = s.pmc := rfl
@[simp] theorem dropHolds_pwr (q : Nat) (s : State) : (dropHolds q s).pwr = s.pwr := rfl
@[simp] theorem dropHolds_smb (q : Nat) (s : State) : (dropHolds q s).smb = s.smb := rfl
@[simp] theorem dropHolds_sys (q : Nat) (s : State) : (dropHolds q s).sys = s.sys := rfl
@[simp] theorem dropHolds_msix (q : Nat) (s : State) : (dropHolds q s).msix = s.msix := rfl
@[simp] theorem dropHolds_out (q : Nat) (s : State) : (dropHolds q s).out = s.out := rfl
@[simp] theorem dropHolds_freeCtr (q : Nat) (s : State) : (dropHolds q s).freeCtr = s.freeCtr := rfl
@[simp] theorem dropHolds_pending (q : Nat) (s : State) : (dropHolds q s).pending = s.pending := rfl

@[simp] theorem noteRead_time (issued : Nat) (s : State) : (noteRead issued s).time = s.time := rfl
@[simp] theorem noteRead_rings (issued : Nat) (s : State) : (noteRead issued s).rings = s.rings := rfl
@[simp] theorem noteRead_jobs (issued : Nat) (s : State) : (noteRead issued s).jobs = s.jobs := rfl
@[simp] theorem noteRead_refused (issued : Nat) (s : State) : (noteRead issued s).refused = s.refused := rfl
@[simp] theorem noteRead_mas (issued : Nat) (s : State) : (noteRead issued s).mas = s.mas := rfl
@[simp] theorem noteRead_eng (issued : Nat) (s : State) : (noteRead issued s).eng = s.eng := rfl
@[simp] theorem noteRead_rng (issued : Nat) (s : State) : (noteRead issued s).rng = s.rng := rfl
@[simp] theorem noteRead_parts (issued : Nat) (s : State) : (noteRead issued s).parts = s.parts := rfl
@[simp] theorem noteRead_vault (issued : Nat) (s : State) : (noteRead issued s).vault = s.vault := rfl
@[simp] theorem noteRead_nv (issued : Nat) (s : State) : (noteRead issued s).nv = s.nv := rfl
@[simp] theorem noteRead_cust (issued : Nat) (s : State) : (noteRead issued s).cust = s.cust := rfl
@[simp] theorem noteRead_tmp (issued : Nat) (s : State) : (noteRead issued s).tmp = s.tmp := rfl
@[simp] theorem noteRead_dbg (issued : Nat) (s : State) : (noteRead issued s).dbg = s.dbg := rfl
@[simp] theorem noteRead_pair (issued : Nat) (s : State) : (noteRead issued s).pair = s.pair := rfl
@[simp] theorem noteRead_jrn (issued : Nat) (s : State) : (noteRead issued s).jrn = s.jrn := rfl
@[simp] theorem noteRead_scr (issued : Nat) (s : State) : (noteRead issued s).scr = s.scr := rfl
@[simp] theorem noteRead_tarn (issued : Nat) (s : State) : (noteRead issued s).tarn = s.tarn := rfl
@[simp] theorem noteRead_grd (issued : Nat) (s : State) : (noteRead issued s).grd = s.grd := rfl
@[simp] theorem noteRead_pmc (issued : Nat) (s : State) : (noteRead issued s).pmc = s.pmc := rfl
@[simp] theorem noteRead_pwr (issued : Nat) (s : State) : (noteRead issued s).pwr = s.pwr := rfl
@[simp] theorem noteRead_smb (issued : Nat) (s : State) : (noteRead issued s).smb = s.smb := rfl
@[simp] theorem noteRead_sys (issued : Nat) (s : State) : (noteRead issued s).sys = s.sys := rfl
@[simp] theorem noteRead_msix (issued : Nat) (s : State) : (noteRead issued s).msix = s.msix := rfl
@[simp] theorem noteRead_out (issued : Nat) (s : State) : (noteRead issued s).out = s.out := rfl
@[simp] theorem noteRead_freeCtr (issued : Nat) (s : State) : (noteRead issued s).freeCtr = s.freeCtr := rfl
@[simp] theorem noteRead_pending (issued : Nat) (s : State) : (noteRead issued s).pending = s.pending := rfl

@[simp] theorem releaseLag_time (s : State) : (releaseLag s).time = s.time := rfl
@[simp] theorem releaseLag_rings (s : State) : (releaseLag s).rings = s.rings := rfl
@[simp] theorem releaseLag_cirq (s : State) : (releaseLag s).cirq = s.cirq := rfl
@[simp] theorem releaseLag_refused (s : State) : (releaseLag s).refused = s.refused := rfl
@[simp] theorem releaseLag_mas (s : State) : (releaseLag s).mas = s.mas := rfl
@[simp] theorem releaseLag_eng (s : State) : (releaseLag s).eng = s.eng := rfl
@[simp] theorem releaseLag_rng (s : State) : (releaseLag s).rng = s.rng := rfl
@[simp] theorem releaseLag_parts (s : State) : (releaseLag s).parts = s.parts := rfl
@[simp] theorem releaseLag_vault (s : State) : (releaseLag s).vault = s.vault := rfl
@[simp] theorem releaseLag_nv (s : State) : (releaseLag s).nv = s.nv := rfl
@[simp] theorem releaseLag_cust (s : State) : (releaseLag s).cust = s.cust := rfl
@[simp] theorem releaseLag_tmp (s : State) : (releaseLag s).tmp = s.tmp := rfl
@[simp] theorem releaseLag_dbg (s : State) : (releaseLag s).dbg = s.dbg := rfl
@[simp] theorem releaseLag_pair (s : State) : (releaseLag s).pair = s.pair := rfl
@[simp] theorem releaseLag_jrn (s : State) : (releaseLag s).jrn = s.jrn := rfl
@[simp] theorem releaseLag_scr (s : State) : (releaseLag s).scr = s.scr := rfl
@[simp] theorem releaseLag_tarn (s : State) : (releaseLag s).tarn = s.tarn := rfl
@[simp] theorem releaseLag_grd (s : State) : (releaseLag s).grd = s.grd := rfl
@[simp] theorem releaseLag_pmc (s : State) : (releaseLag s).pmc = s.pmc := rfl
@[simp] theorem releaseLag_pwr (s : State) : (releaseLag s).pwr = s.pwr := rfl
@[simp] theorem releaseLag_smb (s : State) : (releaseLag s).smb = s.smb := rfl
@[simp] theorem releaseLag_sys (s : State) : (releaseLag s).sys = s.sys := rfl
@[simp] theorem releaseLag_msix (s : State) : (releaseLag s).msix = s.msix := rfl
@[simp] theorem releaseLag_out (s : State) : (releaseLag s).out = s.out := rfl
@[simp] theorem releaseLag_freeCtr (s : State) : (releaseLag s).freeCtr = s.freeCtr := rfl
@[simp] theorem releaseLag_pending (s : State) : (releaseLag s).pending = s.pending := rfl

@[simp] theorem flushCache_time (p : Nat) (s : State) : (flushCache p s).time = s.time := rfl
@[simp] theorem flushCache_rings (p : Nat) (s : State) : (flushCache p s).rings = s.rings := rfl
@[simp] theorem flushCache_cirq (p : Nat) (s : State) : (flushCache p s).cirq = s.cirq := rfl
@[simp] theorem flushCache_jobs (p : Nat) (s : State) : (flushCache p s).jobs = s.jobs := rfl
@[simp] theorem flushCache_refused (p : Nat) (s : State) : (flushCache p s).refused = s.refused := rfl
@[simp] theorem flushCache_eng (p : Nat) (s : State) : (flushCache p s).eng = s.eng := rfl
@[simp] theorem flushCache_rng (p : Nat) (s : State) : (flushCache p s).rng = s.rng := rfl
@[simp] theorem flushCache_parts (p : Nat) (s : State) : (flushCache p s).parts = s.parts := rfl
@[simp] theorem flushCache_vault (p : Nat) (s : State) : (flushCache p s).vault = s.vault := rfl
@[simp] theorem flushCache_nv (p : Nat) (s : State) : (flushCache p s).nv = s.nv := rfl
@[simp] theorem flushCache_cust (p : Nat) (s : State) : (flushCache p s).cust = s.cust := rfl
@[simp] theorem flushCache_tmp (p : Nat) (s : State) : (flushCache p s).tmp = s.tmp := rfl
@[simp] theorem flushCache_dbg (p : Nat) (s : State) : (flushCache p s).dbg = s.dbg := rfl
@[simp] theorem flushCache_pair (p : Nat) (s : State) : (flushCache p s).pair = s.pair := rfl
@[simp] theorem flushCache_jrn (p : Nat) (s : State) : (flushCache p s).jrn = s.jrn := rfl
@[simp] theorem flushCache_scr (p : Nat) (s : State) : (flushCache p s).scr = s.scr := rfl
@[simp] theorem flushCache_tarn (p : Nat) (s : State) : (flushCache p s).tarn = s.tarn := rfl
@[simp] theorem flushCache_grd (p : Nat) (s : State) : (flushCache p s).grd = s.grd := rfl
@[simp] theorem flushCache_pmc (p : Nat) (s : State) : (flushCache p s).pmc = s.pmc := rfl
@[simp] theorem flushCache_pwr (p : Nat) (s : State) : (flushCache p s).pwr = s.pwr := rfl
@[simp] theorem flushCache_smb (p : Nat) (s : State) : (flushCache p s).smb = s.smb := rfl
@[simp] theorem flushCache_sys (p : Nat) (s : State) : (flushCache p s).sys = s.sys := rfl
@[simp] theorem flushCache_msix (p : Nat) (s : State) : (flushCache p s).msix = s.msix := rfl
@[simp] theorem flushCache_out (p : Nat) (s : State) : (flushCache p s).out = s.out := rfl
@[simp] theorem flushCache_freeCtr (p : Nat) (s : State) : (flushCache p s).freeCtr = s.freeCtr := rfl
@[simp] theorem flushCache_pending (p : Nat) (s : State) : (flushCache p s).pending = s.pending := rfl

@[simp] theorem sweepEntry_time (k : Nat) (s : State) : (sweepEntry k s).time = s.time := rfl
@[simp] theorem sweepEntry_rings (k : Nat) (s : State) : (sweepEntry k s).rings = s.rings := rfl
@[simp] theorem sweepEntry_cirq (k : Nat) (s : State) : (sweepEntry k s).cirq = s.cirq := rfl
@[simp] theorem sweepEntry_jobs (k : Nat) (s : State) : (sweepEntry k s).jobs = s.jobs := rfl
@[simp] theorem sweepEntry_refused (k : Nat) (s : State) : (sweepEntry k s).refused = s.refused := rfl
@[simp] theorem sweepEntry_eng (k : Nat) (s : State) : (sweepEntry k s).eng = s.eng := rfl
@[simp] theorem sweepEntry_rng (k : Nat) (s : State) : (sweepEntry k s).rng = s.rng := rfl
@[simp] theorem sweepEntry_parts (k : Nat) (s : State) : (sweepEntry k s).parts = s.parts := rfl
@[simp] theorem sweepEntry_vault (k : Nat) (s : State) : (sweepEntry k s).vault = s.vault := rfl
@[simp] theorem sweepEntry_nv (k : Nat) (s : State) : (sweepEntry k s).nv = s.nv := rfl
@[simp] theorem sweepEntry_cust (k : Nat) (s : State) : (sweepEntry k s).cust = s.cust := rfl
@[simp] theorem sweepEntry_tmp (k : Nat) (s : State) : (sweepEntry k s).tmp = s.tmp := rfl
@[simp] theorem sweepEntry_dbg (k : Nat) (s : State) : (sweepEntry k s).dbg = s.dbg := rfl
@[simp] theorem sweepEntry_pair (k : Nat) (s : State) : (sweepEntry k s).pair = s.pair := rfl
@[simp] theorem sweepEntry_jrn (k : Nat) (s : State) : (sweepEntry k s).jrn = s.jrn := rfl
@[simp] theorem sweepEntry_scr (k : Nat) (s : State) : (sweepEntry k s).scr = s.scr := rfl
@[simp] theorem sweepEntry_tarn (k : Nat) (s : State) : (sweepEntry k s).tarn = s.tarn := rfl
@[simp] theorem sweepEntry_grd (k : Nat) (s : State) : (sweepEntry k s).grd = s.grd := rfl
@[simp] theorem sweepEntry_pmc (k : Nat) (s : State) : (sweepEntry k s).pmc = s.pmc := rfl
@[simp] theorem sweepEntry_pwr (k : Nat) (s : State) : (sweepEntry k s).pwr = s.pwr := rfl
@[simp] theorem sweepEntry_smb (k : Nat) (s : State) : (sweepEntry k s).smb = s.smb := rfl
@[simp] theorem sweepEntry_sys (k : Nat) (s : State) : (sweepEntry k s).sys = s.sys := rfl
@[simp] theorem sweepEntry_msix (k : Nat) (s : State) : (sweepEntry k s).msix = s.msix := rfl
@[simp] theorem sweepEntry_out (k : Nat) (s : State) : (sweepEntry k s).out = s.out := rfl
@[simp] theorem sweepEntry_freeCtr (k : Nat) (s : State) : (sweepEntry k s).freeCtr = s.freeCtr := rfl
@[simp] theorem sweepEntry_pending (k : Nat) (s : State) : (sweepEntry k s).pending = s.pending := rfl

@[simp] theorem modRng_time (f : Rng → Rng) (s : State) : (modRng f s).time = s.time := rfl
@[simp] theorem modRng_rings (f : Rng → Rng) (s : State) : (modRng f s).rings = s.rings := rfl
@[simp] theorem modRng_cirq (f : Rng → Rng) (s : State) : (modRng f s).cirq = s.cirq := rfl
@[simp] theorem modRng_jobs (f : Rng → Rng) (s : State) : (modRng f s).jobs = s.jobs := rfl
@[simp] theorem modRng_refused (f : Rng → Rng) (s : State) : (modRng f s).refused = s.refused := rfl
@[simp] theorem modRng_mas (f : Rng → Rng) (s : State) : (modRng f s).mas = s.mas := rfl
@[simp] theorem modRng_eng (f : Rng → Rng) (s : State) : (modRng f s).eng = s.eng := rfl
@[simp] theorem modRng_parts (f : Rng → Rng) (s : State) : (modRng f s).parts = s.parts := rfl
@[simp] theorem modRng_vault (f : Rng → Rng) (s : State) : (modRng f s).vault = s.vault := rfl
@[simp] theorem modRng_nv (f : Rng → Rng) (s : State) : (modRng f s).nv = s.nv := rfl
@[simp] theorem modRng_cust (f : Rng → Rng) (s : State) : (modRng f s).cust = s.cust := rfl
@[simp] theorem modRng_tmp (f : Rng → Rng) (s : State) : (modRng f s).tmp = s.tmp := rfl
@[simp] theorem modRng_dbg (f : Rng → Rng) (s : State) : (modRng f s).dbg = s.dbg := rfl
@[simp] theorem modRng_pair (f : Rng → Rng) (s : State) : (modRng f s).pair = s.pair := rfl
@[simp] theorem modRng_jrn (f : Rng → Rng) (s : State) : (modRng f s).jrn = s.jrn := rfl
@[simp] theorem modRng_scr (f : Rng → Rng) (s : State) : (modRng f s).scr = s.scr := rfl
@[simp] theorem modRng_tarn (f : Rng → Rng) (s : State) : (modRng f s).tarn = s.tarn := rfl
@[simp] theorem modRng_grd (f : Rng → Rng) (s : State) : (modRng f s).grd = s.grd := rfl
@[simp] theorem modRng_pmc (f : Rng → Rng) (s : State) : (modRng f s).pmc = s.pmc := rfl
@[simp] theorem modRng_pwr (f : Rng → Rng) (s : State) : (modRng f s).pwr = s.pwr := rfl
@[simp] theorem modRng_smb (f : Rng → Rng) (s : State) : (modRng f s).smb = s.smb := rfl
@[simp] theorem modRng_sys (f : Rng → Rng) (s : State) : (modRng f s).sys = s.sys := rfl
@[simp] theorem modRng_msix (f : Rng → Rng) (s : State) : (modRng f s).msix = s.msix := rfl
@[simp] theorem modRng_out (f : Rng → Rng) (s : State) : (modRng f s).out = s.out := rfl
@[simp] theorem modRng_freeCtr (f : Rng → Rng) (s : State) : (modRng f s).freeCtr = s.freeCtr := rfl
@[simp] theorem modRng_pending (f : Rng → Rng) (s : State) : (modRng f s).pending = s.pending := rfl

@[simp] theorem modCust_time (f : Cust → Cust) (s : State) : (modCust f s).time = s.time := rfl
@[simp] theorem modCust_rings (f : Cust → Cust) (s : State) : (modCust f s).rings = s.rings := rfl
@[simp] theorem modCust_cirq (f : Cust → Cust) (s : State) : (modCust f s).cirq = s.cirq := rfl
@[simp] theorem modCust_jobs (f : Cust → Cust) (s : State) : (modCust f s).jobs = s.jobs := rfl
@[simp] theorem modCust_refused (f : Cust → Cust) (s : State) : (modCust f s).refused = s.refused := rfl
@[simp] theorem modCust_mas (f : Cust → Cust) (s : State) : (modCust f s).mas = s.mas := rfl
@[simp] theorem modCust_eng (f : Cust → Cust) (s : State) : (modCust f s).eng = s.eng := rfl
@[simp] theorem modCust_rng (f : Cust → Cust) (s : State) : (modCust f s).rng = s.rng := rfl
@[simp] theorem modCust_parts (f : Cust → Cust) (s : State) : (modCust f s).parts = s.parts := rfl
@[simp] theorem modCust_vault (f : Cust → Cust) (s : State) : (modCust f s).vault = s.vault := rfl
@[simp] theorem modCust_nv (f : Cust → Cust) (s : State) : (modCust f s).nv = s.nv := rfl
@[simp] theorem modCust_tmp (f : Cust → Cust) (s : State) : (modCust f s).tmp = s.tmp := rfl
@[simp] theorem modCust_dbg (f : Cust → Cust) (s : State) : (modCust f s).dbg = s.dbg := rfl
@[simp] theorem modCust_pair (f : Cust → Cust) (s : State) : (modCust f s).pair = s.pair := rfl
@[simp] theorem modCust_jrn (f : Cust → Cust) (s : State) : (modCust f s).jrn = s.jrn := rfl
@[simp] theorem modCust_scr (f : Cust → Cust) (s : State) : (modCust f s).scr = s.scr := rfl
@[simp] theorem modCust_tarn (f : Cust → Cust) (s : State) : (modCust f s).tarn = s.tarn := rfl
@[simp] theorem modCust_grd (f : Cust → Cust) (s : State) : (modCust f s).grd = s.grd := rfl
@[simp] theorem modCust_pmc (f : Cust → Cust) (s : State) : (modCust f s).pmc = s.pmc := rfl
@[simp] theorem modCust_pwr (f : Cust → Cust) (s : State) : (modCust f s).pwr = s.pwr := rfl
@[simp] theorem modCust_smb (f : Cust → Cust) (s : State) : (modCust f s).smb = s.smb := rfl
@[simp] theorem modCust_sys (f : Cust → Cust) (s : State) : (modCust f s).sys = s.sys := rfl
@[simp] theorem modCust_msix (f : Cust → Cust) (s : State) : (modCust f s).msix = s.msix := rfl
@[simp] theorem modCust_out (f : Cust → Cust) (s : State) : (modCust f s).out = s.out := rfl
@[simp] theorem modCust_freeCtr (f : Cust → Cust) (s : State) : (modCust f s).freeCtr = s.freeCtr := rfl
@[simp] theorem modCust_pending (f : Cust → Cust) (s : State) : (modCust f s).pending = s.pending := rfl

@[simp] theorem dropHalves_time (p : Nat) (s : State) : (dropHalves p s).time = s.time := rfl
@[simp] theorem dropHalves_rings (p : Nat) (s : State) : (dropHalves p s).rings = s.rings := rfl
@[simp] theorem dropHalves_cirq (p : Nat) (s : State) : (dropHalves p s).cirq = s.cirq := rfl
@[simp] theorem dropHalves_jobs (p : Nat) (s : State) : (dropHalves p s).jobs = s.jobs := rfl
@[simp] theorem dropHalves_refused (p : Nat) (s : State) : (dropHalves p s).refused = s.refused := rfl
@[simp] theorem dropHalves_mas (p : Nat) (s : State) : (dropHalves p s).mas = s.mas := rfl
@[simp] theorem dropHalves_eng (p : Nat) (s : State) : (dropHalves p s).eng = s.eng := rfl
@[simp] theorem dropHalves_rng (p : Nat) (s : State) : (dropHalves p s).rng = s.rng := rfl
@[simp] theorem dropHalves_parts (p : Nat) (s : State) : (dropHalves p s).parts = s.parts := rfl
@[simp] theorem dropHalves_vault (p : Nat) (s : State) : (dropHalves p s).vault = s.vault := rfl
@[simp] theorem dropHalves_nv (p : Nat) (s : State) : (dropHalves p s).nv = s.nv := rfl
@[simp] theorem dropHalves_cust (p : Nat) (s : State) : (dropHalves p s).cust = s.cust := rfl
@[simp] theorem dropHalves_tmp (p : Nat) (s : State) : (dropHalves p s).tmp = s.tmp := rfl
@[simp] theorem dropHalves_dbg (p : Nat) (s : State) : (dropHalves p s).dbg = s.dbg := rfl
@[simp] theorem dropHalves_pair (p : Nat) (s : State) : (dropHalves p s).pair = s.pair := rfl
@[simp] theorem dropHalves_jrn (p : Nat) (s : State) : (dropHalves p s).jrn = s.jrn := rfl
@[simp] theorem dropHalves_scr (p : Nat) (s : State) : (dropHalves p s).scr = s.scr := rfl
@[simp] theorem dropHalves_tarn (p : Nat) (s : State) : (dropHalves p s).tarn = s.tarn := rfl
@[simp] theorem dropHalves_grd (p : Nat) (s : State) : (dropHalves p s).grd = s.grd := rfl
@[simp] theorem dropHalves_pmc (p : Nat) (s : State) : (dropHalves p s).pmc = s.pmc := rfl
@[simp] theorem dropHalves_pwr (p : Nat) (s : State) : (dropHalves p s).pwr = s.pwr := rfl
@[simp] theorem dropHalves_smb (p : Nat) (s : State) : (dropHalves p s).smb = s.smb := rfl
@[simp] theorem dropHalves_msix (p : Nat) (s : State) : (dropHalves p s).msix = s.msix := rfl
@[simp] theorem dropHalves_out (p : Nat) (s : State) : (dropHalves p s).out = s.out := rfl
@[simp] theorem dropHalves_freeCtr (p : Nat) (s : State) : (dropHalves p s).freeCtr = s.freeCtr := rfl
@[simp] theorem dropHalves_pending (p : Nat) (s : State) : (dropHalves p s).pending = s.pending := rfl

@[simp] theorem modMon_time (m : Nat) (f : Monitor → Monitor) (s : State) : (modMon m f s).time = s.time := rfl
@[simp] theorem modMon_rings (m : Nat) (f : Monitor → Monitor) (s : State) : (modMon m f s).rings = s.rings := rfl
@[simp] theorem modMon_cirq (m : Nat) (f : Monitor → Monitor) (s : State) : (modMon m f s).cirq = s.cirq := rfl
@[simp] theorem modMon_jobs (m : Nat) (f : Monitor → Monitor) (s : State) : (modMon m f s).jobs = s.jobs := rfl
@[simp] theorem modMon_refused (m : Nat) (f : Monitor → Monitor) (s : State) : (modMon m f s).refused = s.refused := rfl
@[simp] theorem modMon_mas (m : Nat) (f : Monitor → Monitor) (s : State) : (modMon m f s).mas = s.mas := rfl
@[simp] theorem modMon_eng (m : Nat) (f : Monitor → Monitor) (s : State) : (modMon m f s).eng = s.eng := rfl
@[simp] theorem modMon_rng (m : Nat) (f : Monitor → Monitor) (s : State) : (modMon m f s).rng = s.rng := rfl
@[simp] theorem modMon_parts (m : Nat) (f : Monitor → Monitor) (s : State) : (modMon m f s).parts = s.parts := rfl
@[simp] theorem modMon_vault (m : Nat) (f : Monitor → Monitor) (s : State) : (modMon m f s).vault = s.vault := rfl
@[simp] theorem modMon_nv (m : Nat) (f : Monitor → Monitor) (s : State) : (modMon m f s).nv = s.nv := rfl
@[simp] theorem modMon_cust (m : Nat) (f : Monitor → Monitor) (s : State) : (modMon m f s).cust = s.cust := rfl
@[simp] theorem modMon_dbg (m : Nat) (f : Monitor → Monitor) (s : State) : (modMon m f s).dbg = s.dbg := rfl
@[simp] theorem modMon_pair (m : Nat) (f : Monitor → Monitor) (s : State) : (modMon m f s).pair = s.pair := rfl
@[simp] theorem modMon_jrn (m : Nat) (f : Monitor → Monitor) (s : State) : (modMon m f s).jrn = s.jrn := rfl
@[simp] theorem modMon_scr (m : Nat) (f : Monitor → Monitor) (s : State) : (modMon m f s).scr = s.scr := rfl
@[simp] theorem modMon_tarn (m : Nat) (f : Monitor → Monitor) (s : State) : (modMon m f s).tarn = s.tarn := rfl
@[simp] theorem modMon_grd (m : Nat) (f : Monitor → Monitor) (s : State) : (modMon m f s).grd = s.grd := rfl
@[simp] theorem modMon_pmc (m : Nat) (f : Monitor → Monitor) (s : State) : (modMon m f s).pmc = s.pmc := rfl
@[simp] theorem modMon_pwr (m : Nat) (f : Monitor → Monitor) (s : State) : (modMon m f s).pwr = s.pwr := rfl
@[simp] theorem modMon_smb (m : Nat) (f : Monitor → Monitor) (s : State) : (modMon m f s).smb = s.smb := rfl
@[simp] theorem modMon_sys (m : Nat) (f : Monitor → Monitor) (s : State) : (modMon m f s).sys = s.sys := rfl
@[simp] theorem modMon_msix (m : Nat) (f : Monitor → Monitor) (s : State) : (modMon m f s).msix = s.msix := rfl
@[simp] theorem modMon_out (m : Nat) (f : Monitor → Monitor) (s : State) : (modMon m f s).out = s.out := rfl
@[simp] theorem modMon_freeCtr (m : Nat) (f : Monitor → Monitor) (s : State) : (modMon m f s).freeCtr = s.freeCtr := rfl
@[simp] theorem modMon_pending (m : Nat) (f : Monitor → Monitor) (s : State) : (modMon m f s).pending = s.pending := rfl

@[simp] theorem setCell_time (b : Bool) (c : Cell) (s : State) : (setCell b c s).time = s.time := rfl
@[simp] theorem setCell_rings (b : Bool) (c : Cell) (s : State) : (setCell b c s).rings = s.rings := rfl
@[simp] theorem setCell_cirq (b : Bool) (c : Cell) (s : State) : (setCell b c s).cirq = s.cirq := rfl
@[simp] theorem setCell_jobs (b : Bool) (c : Cell) (s : State) : (setCell b c s).jobs = s.jobs := rfl
@[simp] theorem setCell_refused (b : Bool) (c : Cell) (s : State) : (setCell b c s).refused = s.refused := rfl
@[simp] theorem setCell_mas (b : Bool) (c : Cell) (s : State) : (setCell b c s).mas = s.mas := rfl
@[simp] theorem setCell_eng (b : Bool) (c : Cell) (s : State) : (setCell b c s).eng = s.eng := rfl
@[simp] theorem setCell_rng (b : Bool) (c : Cell) (s : State) : (setCell b c s).rng = s.rng := rfl
@[simp] theorem setCell_parts (b : Bool) (c : Cell) (s : State) : (setCell b c s).parts = s.parts := rfl
@[simp] theorem setCell_vault (b : Bool) (c : Cell) (s : State) : (setCell b c s).vault = s.vault := rfl
@[simp] theorem setCell_nv (b : Bool) (c : Cell) (s : State) : (setCell b c s).nv = s.nv := rfl
@[simp] theorem setCell_cust (b : Bool) (c : Cell) (s : State) : (setCell b c s).cust = s.cust := rfl
@[simp] theorem setCell_dbg (b : Bool) (c : Cell) (s : State) : (setCell b c s).dbg = s.dbg := rfl
@[simp] theorem setCell_pair (b : Bool) (c : Cell) (s : State) : (setCell b c s).pair = s.pair := rfl
@[simp] theorem setCell_jrn (b : Bool) (c : Cell) (s : State) : (setCell b c s).jrn = s.jrn := rfl
@[simp] theorem setCell_scr (b : Bool) (c : Cell) (s : State) : (setCell b c s).scr = s.scr := rfl
@[simp] theorem setCell_tarn (b : Bool) (c : Cell) (s : State) : (setCell b c s).tarn = s.tarn := rfl
@[simp] theorem setCell_grd (b : Bool) (c : Cell) (s : State) : (setCell b c s).grd = s.grd := rfl
@[simp] theorem setCell_pmc (b : Bool) (c : Cell) (s : State) : (setCell b c s).pmc = s.pmc := rfl
@[simp] theorem setCell_pwr (b : Bool) (c : Cell) (s : State) : (setCell b c s).pwr = s.pwr := rfl
@[simp] theorem setCell_smb (b : Bool) (c : Cell) (s : State) : (setCell b c s).smb = s.smb := rfl
@[simp] theorem setCell_sys (b : Bool) (c : Cell) (s : State) : (setCell b c s).sys = s.sys := rfl
@[simp] theorem setCell_msix (b : Bool) (c : Cell) (s : State) : (setCell b c s).msix = s.msix := rfl
@[simp] theorem setCell_out (b : Bool) (c : Cell) (s : State) : (setCell b c s).out = s.out := rfl
@[simp] theorem setCell_freeCtr (b : Bool) (c : Cell) (s : State) : (setCell b c s).freeCtr = s.freeCtr := rfl
@[simp] theorem setCell_pending (b : Bool) (c : Cell) (s : State) : (setCell b c s).pending = s.pending := rfl

@[simp] theorem modTarn_time (f : Tarn → Tarn) (s : State) : (modTarn f s).time = s.time := rfl
@[simp] theorem modTarn_rings (f : Tarn → Tarn) (s : State) : (modTarn f s).rings = s.rings := rfl
@[simp] theorem modTarn_cirq (f : Tarn → Tarn) (s : State) : (modTarn f s).cirq = s.cirq := rfl
@[simp] theorem modTarn_jobs (f : Tarn → Tarn) (s : State) : (modTarn f s).jobs = s.jobs := rfl
@[simp] theorem modTarn_refused (f : Tarn → Tarn) (s : State) : (modTarn f s).refused = s.refused := rfl
@[simp] theorem modTarn_mas (f : Tarn → Tarn) (s : State) : (modTarn f s).mas = s.mas := rfl
@[simp] theorem modTarn_eng (f : Tarn → Tarn) (s : State) : (modTarn f s).eng = s.eng := rfl
@[simp] theorem modTarn_rng (f : Tarn → Tarn) (s : State) : (modTarn f s).rng = s.rng := rfl
@[simp] theorem modTarn_parts (f : Tarn → Tarn) (s : State) : (modTarn f s).parts = s.parts := rfl
@[simp] theorem modTarn_vault (f : Tarn → Tarn) (s : State) : (modTarn f s).vault = s.vault := rfl
@[simp] theorem modTarn_nv (f : Tarn → Tarn) (s : State) : (modTarn f s).nv = s.nv := rfl
@[simp] theorem modTarn_cust (f : Tarn → Tarn) (s : State) : (modTarn f s).cust = s.cust := rfl
@[simp] theorem modTarn_tmp (f : Tarn → Tarn) (s : State) : (modTarn f s).tmp = s.tmp := rfl
@[simp] theorem modTarn_dbg (f : Tarn → Tarn) (s : State) : (modTarn f s).dbg = s.dbg := rfl
@[simp] theorem modTarn_pair (f : Tarn → Tarn) (s : State) : (modTarn f s).pair = s.pair := rfl
@[simp] theorem modTarn_jrn (f : Tarn → Tarn) (s : State) : (modTarn f s).jrn = s.jrn := rfl
@[simp] theorem modTarn_scr (f : Tarn → Tarn) (s : State) : (modTarn f s).scr = s.scr := rfl
@[simp] theorem modTarn_grd (f : Tarn → Tarn) (s : State) : (modTarn f s).grd = s.grd := rfl
@[simp] theorem modTarn_pmc (f : Tarn → Tarn) (s : State) : (modTarn f s).pmc = s.pmc := rfl
@[simp] theorem modTarn_pwr (f : Tarn → Tarn) (s : State) : (modTarn f s).pwr = s.pwr := rfl
@[simp] theorem modTarn_smb (f : Tarn → Tarn) (s : State) : (modTarn f s).smb = s.smb := rfl
@[simp] theorem modTarn_sys (f : Tarn → Tarn) (s : State) : (modTarn f s).sys = s.sys := rfl
@[simp] theorem modTarn_msix (f : Tarn → Tarn) (s : State) : (modTarn f s).msix = s.msix := rfl
@[simp] theorem modTarn_out (f : Tarn → Tarn) (s : State) : (modTarn f s).out = s.out := rfl
@[simp] theorem modTarn_freeCtr (f : Tarn → Tarn) (s : State) : (modTarn f s).freeCtr = s.freeCtr := rfl
@[simp] theorem modTarn_pending (f : Tarn → Tarn) (s : State) : (modTarn f s).pending = s.pending := rfl

@[simp] theorem modScr_time (f : Scree → Scree) (s : State) : (modScr f s).time = s.time := rfl
@[simp] theorem modScr_rings (f : Scree → Scree) (s : State) : (modScr f s).rings = s.rings := rfl
@[simp] theorem modScr_cirq (f : Scree → Scree) (s : State) : (modScr f s).cirq = s.cirq := rfl
@[simp] theorem modScr_jobs (f : Scree → Scree) (s : State) : (modScr f s).jobs = s.jobs := rfl
@[simp] theorem modScr_refused (f : Scree → Scree) (s : State) : (modScr f s).refused = s.refused := rfl
@[simp] theorem modScr_mas (f : Scree → Scree) (s : State) : (modScr f s).mas = s.mas := rfl
@[simp] theorem modScr_eng (f : Scree → Scree) (s : State) : (modScr f s).eng = s.eng := rfl
@[simp] theorem modScr_rng (f : Scree → Scree) (s : State) : (modScr f s).rng = s.rng := rfl
@[simp] theorem modScr_parts (f : Scree → Scree) (s : State) : (modScr f s).parts = s.parts := rfl
@[simp] theorem modScr_vault (f : Scree → Scree) (s : State) : (modScr f s).vault = s.vault := rfl
@[simp] theorem modScr_nv (f : Scree → Scree) (s : State) : (modScr f s).nv = s.nv := rfl
@[simp] theorem modScr_cust (f : Scree → Scree) (s : State) : (modScr f s).cust = s.cust := rfl
@[simp] theorem modScr_tmp (f : Scree → Scree) (s : State) : (modScr f s).tmp = s.tmp := rfl
@[simp] theorem modScr_dbg (f : Scree → Scree) (s : State) : (modScr f s).dbg = s.dbg := rfl
@[simp] theorem modScr_pair (f : Scree → Scree) (s : State) : (modScr f s).pair = s.pair := rfl
@[simp] theorem modScr_jrn (f : Scree → Scree) (s : State) : (modScr f s).jrn = s.jrn := rfl
@[simp] theorem modScr_tarn (f : Scree → Scree) (s : State) : (modScr f s).tarn = s.tarn := rfl
@[simp] theorem modScr_grd (f : Scree → Scree) (s : State) : (modScr f s).grd = s.grd := rfl
@[simp] theorem modScr_pmc (f : Scree → Scree) (s : State) : (modScr f s).pmc = s.pmc := rfl
@[simp] theorem modScr_pwr (f : Scree → Scree) (s : State) : (modScr f s).pwr = s.pwr := rfl
@[simp] theorem modScr_smb (f : Scree → Scree) (s : State) : (modScr f s).smb = s.smb := rfl
@[simp] theorem modScr_sys (f : Scree → Scree) (s : State) : (modScr f s).sys = s.sys := rfl
@[simp] theorem modScr_msix (f : Scree → Scree) (s : State) : (modScr f s).msix = s.msix := rfl
@[simp] theorem modScr_out (f : Scree → Scree) (s : State) : (modScr f s).out = s.out := rfl
@[simp] theorem modScr_freeCtr (f : Scree → Scree) (s : State) : (modScr f s).freeCtr = s.freeCtr := rfl
@[simp] theorem modScr_pending (f : Scree → Scree) (s : State) : (modScr f s).pending = s.pending := rfl

@[simp] theorem setTransition_time (t : Option Nat) (s : State) : (setTransition t s).time = s.time := rfl
@[simp] theorem setTransition_rings (t : Option Nat) (s : State) : (setTransition t s).rings = s.rings := rfl
@[simp] theorem setTransition_cirq (t : Option Nat) (s : State) : (setTransition t s).cirq = s.cirq := rfl
@[simp] theorem setTransition_jobs (t : Option Nat) (s : State) : (setTransition t s).jobs = s.jobs := rfl
@[simp] theorem setTransition_refused (t : Option Nat) (s : State) : (setTransition t s).refused = s.refused := rfl
@[simp] theorem setTransition_mas (t : Option Nat) (s : State) : (setTransition t s).mas = s.mas := rfl
@[simp] theorem setTransition_eng (t : Option Nat) (s : State) : (setTransition t s).eng = s.eng := rfl
@[simp] theorem setTransition_rng (t : Option Nat) (s : State) : (setTransition t s).rng = s.rng := rfl
@[simp] theorem setTransition_parts (t : Option Nat) (s : State) : (setTransition t s).parts = s.parts := rfl
@[simp] theorem setTransition_vault (t : Option Nat) (s : State) : (setTransition t s).vault = s.vault := rfl
@[simp] theorem setTransition_cust (t : Option Nat) (s : State) : (setTransition t s).cust = s.cust := rfl
@[simp] theorem setTransition_tmp (t : Option Nat) (s : State) : (setTransition t s).tmp = s.tmp := rfl
@[simp] theorem setTransition_dbg (t : Option Nat) (s : State) : (setTransition t s).dbg = s.dbg := rfl
@[simp] theorem setTransition_pair (t : Option Nat) (s : State) : (setTransition t s).pair = s.pair := rfl
@[simp] theorem setTransition_jrn (t : Option Nat) (s : State) : (setTransition t s).jrn = s.jrn := rfl
@[simp] theorem setTransition_scr (t : Option Nat) (s : State) : (setTransition t s).scr = s.scr := rfl
@[simp] theorem setTransition_tarn (t : Option Nat) (s : State) : (setTransition t s).tarn = s.tarn := rfl
@[simp] theorem setTransition_grd (t : Option Nat) (s : State) : (setTransition t s).grd = s.grd := rfl
@[simp] theorem setTransition_pmc (t : Option Nat) (s : State) : (setTransition t s).pmc = s.pmc := rfl
@[simp] theorem setTransition_pwr (t : Option Nat) (s : State) : (setTransition t s).pwr = s.pwr := rfl
@[simp] theorem setTransition_smb (t : Option Nat) (s : State) : (setTransition t s).smb = s.smb := rfl
@[simp] theorem setTransition_sys (t : Option Nat) (s : State) : (setTransition t s).sys = s.sys := rfl
@[simp] theorem setTransition_msix (t : Option Nat) (s : State) : (setTransition t s).msix = s.msix := rfl
@[simp] theorem setTransition_out (t : Option Nat) (s : State) : (setTransition t s).out = s.out := rfl
@[simp] theorem setTransition_freeCtr (t : Option Nat) (s : State) : (setTransition t s).freeCtr = s.freeCtr := rfl
@[simp] theorem setTransition_pending (t : Option Nat) (s : State) : (setTransition t s).pending = s.pending := rfl

@[simp] theorem modPwr_time (f : Power → Power) (s : State) : (modPwr f s).time = s.time := rfl
@[simp] theorem modPwr_rings (f : Power → Power) (s : State) : (modPwr f s).rings = s.rings := rfl
@[simp] theorem modPwr_cirq (f : Power → Power) (s : State) : (modPwr f s).cirq = s.cirq := rfl
@[simp] theorem modPwr_jobs (f : Power → Power) (s : State) : (modPwr f s).jobs = s.jobs := rfl
@[simp] theorem modPwr_refused (f : Power → Power) (s : State) : (modPwr f s).refused = s.refused := rfl
@[simp] theorem modPwr_mas (f : Power → Power) (s : State) : (modPwr f s).mas = s.mas := rfl
@[simp] theorem modPwr_eng (f : Power → Power) (s : State) : (modPwr f s).eng = s.eng := rfl
@[simp] theorem modPwr_rng (f : Power → Power) (s : State) : (modPwr f s).rng = s.rng := rfl
@[simp] theorem modPwr_parts (f : Power → Power) (s : State) : (modPwr f s).parts = s.parts := rfl
@[simp] theorem modPwr_vault (f : Power → Power) (s : State) : (modPwr f s).vault = s.vault := rfl
@[simp] theorem modPwr_nv (f : Power → Power) (s : State) : (modPwr f s).nv = s.nv := rfl
@[simp] theorem modPwr_cust (f : Power → Power) (s : State) : (modPwr f s).cust = s.cust := rfl
@[simp] theorem modPwr_tmp (f : Power → Power) (s : State) : (modPwr f s).tmp = s.tmp := rfl
@[simp] theorem modPwr_dbg (f : Power → Power) (s : State) : (modPwr f s).dbg = s.dbg := rfl
@[simp] theorem modPwr_pair (f : Power → Power) (s : State) : (modPwr f s).pair = s.pair := rfl
@[simp] theorem modPwr_jrn (f : Power → Power) (s : State) : (modPwr f s).jrn = s.jrn := rfl
@[simp] theorem modPwr_scr (f : Power → Power) (s : State) : (modPwr f s).scr = s.scr := rfl
@[simp] theorem modPwr_tarn (f : Power → Power) (s : State) : (modPwr f s).tarn = s.tarn := rfl
@[simp] theorem modPwr_grd (f : Power → Power) (s : State) : (modPwr f s).grd = s.grd := rfl
@[simp] theorem modPwr_pmc (f : Power → Power) (s : State) : (modPwr f s).pmc = s.pmc := rfl
@[simp] theorem modPwr_smb (f : Power → Power) (s : State) : (modPwr f s).smb = s.smb := rfl
@[simp] theorem modPwr_sys (f : Power → Power) (s : State) : (modPwr f s).sys = s.sys := rfl
@[simp] theorem modPwr_msix (f : Power → Power) (s : State) : (modPwr f s).msix = s.msix := rfl
@[simp] theorem modPwr_out (f : Power → Power) (s : State) : (modPwr f s).out = s.out := rfl
@[simp] theorem modPwr_freeCtr (f : Power → Power) (s : State) : (modPwr f s).freeCtr = s.freeCtr := rfl
@[simp] theorem modPwr_pending (f : Power → Power) (s : State) : (modPwr f s).pending = s.pending := rfl

@[simp] theorem noteLoss_time (cause : Nat) (s : State) : (noteLoss cause s).time = s.time := rfl
@[simp] theorem noteLoss_rings (cause : Nat) (s : State) : (noteLoss cause s).rings = s.rings := rfl
@[simp] theorem noteLoss_cirq (cause : Nat) (s : State) : (noteLoss cause s).cirq = s.cirq := rfl
@[simp] theorem noteLoss_jobs (cause : Nat) (s : State) : (noteLoss cause s).jobs = s.jobs := rfl
@[simp] theorem noteLoss_refused (cause : Nat) (s : State) : (noteLoss cause s).refused = s.refused := rfl
@[simp] theorem noteLoss_mas (cause : Nat) (s : State) : (noteLoss cause s).mas = s.mas := rfl
@[simp] theorem noteLoss_eng (cause : Nat) (s : State) : (noteLoss cause s).eng = s.eng := rfl
@[simp] theorem noteLoss_rng (cause : Nat) (s : State) : (noteLoss cause s).rng = s.rng := rfl
@[simp] theorem noteLoss_parts (cause : Nat) (s : State) : (noteLoss cause s).parts = s.parts := rfl
@[simp] theorem noteLoss_nv (cause : Nat) (s : State) : (noteLoss cause s).nv = s.nv := rfl
@[simp] theorem noteLoss_cust (cause : Nat) (s : State) : (noteLoss cause s).cust = s.cust := rfl
@[simp] theorem noteLoss_tmp (cause : Nat) (s : State) : (noteLoss cause s).tmp = s.tmp := rfl
@[simp] theorem noteLoss_dbg (cause : Nat) (s : State) : (noteLoss cause s).dbg = s.dbg := rfl
@[simp] theorem noteLoss_pair (cause : Nat) (s : State) : (noteLoss cause s).pair = s.pair := rfl
@[simp] theorem noteLoss_jrn (cause : Nat) (s : State) : (noteLoss cause s).jrn = s.jrn := rfl
@[simp] theorem noteLoss_scr (cause : Nat) (s : State) : (noteLoss cause s).scr = s.scr := rfl
@[simp] theorem noteLoss_tarn (cause : Nat) (s : State) : (noteLoss cause s).tarn = s.tarn := rfl
@[simp] theorem noteLoss_grd (cause : Nat) (s : State) : (noteLoss cause s).grd = s.grd := rfl
@[simp] theorem noteLoss_pmc (cause : Nat) (s : State) : (noteLoss cause s).pmc = s.pmc := rfl
@[simp] theorem noteLoss_pwr (cause : Nat) (s : State) : (noteLoss cause s).pwr = s.pwr := rfl
@[simp] theorem noteLoss_smb (cause : Nat) (s : State) : (noteLoss cause s).smb = s.smb := rfl
@[simp] theorem noteLoss_sys (cause : Nat) (s : State) : (noteLoss cause s).sys = s.sys := rfl
@[simp] theorem noteLoss_msix (cause : Nat) (s : State) : (noteLoss cause s).msix = s.msix := rfl
@[simp] theorem noteLoss_out (cause : Nat) (s : State) : (noteLoss cause s).out = s.out := rfl
@[simp] theorem noteLoss_freeCtr (cause : Nat) (s : State) : (noteLoss cause s).freeCtr = s.freeCtr := rfl
@[simp] theorem noteLoss_pending (cause : Nat) (s : State) : (noteLoss cause s).pending = s.pending := rfl

@[simp] theorem modPair_time (f : Pair → Pair) (s : State) : (modPair f s).time = s.time := rfl
@[simp] theorem modPair_rings (f : Pair → Pair) (s : State) : (modPair f s).rings = s.rings := rfl
@[simp] theorem modPair_cirq (f : Pair → Pair) (s : State) : (modPair f s).cirq = s.cirq := rfl
@[simp] theorem modPair_jobs (f : Pair → Pair) (s : State) : (modPair f s).jobs = s.jobs := rfl
@[simp] theorem modPair_refused (f : Pair → Pair) (s : State) : (modPair f s).refused = s.refused := rfl
@[simp] theorem modPair_mas (f : Pair → Pair) (s : State) : (modPair f s).mas = s.mas := rfl
@[simp] theorem modPair_eng (f : Pair → Pair) (s : State) : (modPair f s).eng = s.eng := rfl
@[simp] theorem modPair_rng (f : Pair → Pair) (s : State) : (modPair f s).rng = s.rng := rfl
@[simp] theorem modPair_parts (f : Pair → Pair) (s : State) : (modPair f s).parts = s.parts := rfl
@[simp] theorem modPair_vault (f : Pair → Pair) (s : State) : (modPair f s).vault = s.vault := rfl
@[simp] theorem modPair_nv (f : Pair → Pair) (s : State) : (modPair f s).nv = s.nv := rfl
@[simp] theorem modPair_cust (f : Pair → Pair) (s : State) : (modPair f s).cust = s.cust := rfl
@[simp] theorem modPair_tmp (f : Pair → Pair) (s : State) : (modPair f s).tmp = s.tmp := rfl
@[simp] theorem modPair_dbg (f : Pair → Pair) (s : State) : (modPair f s).dbg = s.dbg := rfl
@[simp] theorem modPair_jrn (f : Pair → Pair) (s : State) : (modPair f s).jrn = s.jrn := rfl
@[simp] theorem modPair_scr (f : Pair → Pair) (s : State) : (modPair f s).scr = s.scr := rfl
@[simp] theorem modPair_tarn (f : Pair → Pair) (s : State) : (modPair f s).tarn = s.tarn := rfl
@[simp] theorem modPair_grd (f : Pair → Pair) (s : State) : (modPair f s).grd = s.grd := rfl
@[simp] theorem modPair_pmc (f : Pair → Pair) (s : State) : (modPair f s).pmc = s.pmc := rfl
@[simp] theorem modPair_pwr (f : Pair → Pair) (s : State) : (modPair f s).pwr = s.pwr := rfl
@[simp] theorem modPair_smb (f : Pair → Pair) (s : State) : (modPair f s).smb = s.smb := rfl
@[simp] theorem modPair_sys (f : Pair → Pair) (s : State) : (modPair f s).sys = s.sys := rfl
@[simp] theorem modPair_msix (f : Pair → Pair) (s : State) : (modPair f s).msix = s.msix := rfl
@[simp] theorem modPair_out (f : Pair → Pair) (s : State) : (modPair f s).out = s.out := rfl
@[simp] theorem modPair_freeCtr (f : Pair → Pair) (s : State) : (modPair f s).freeCtr = s.freeCtr := rfl
@[simp] theorem modPair_pending (f : Pair → Pair) (s : State) : (modPair f s).pending = s.pending := rfl

@[simp] theorem setLatch_time (p : Nat) (off : Nat) (w : W32) (s : State) : (setLatch p off w s).time = s.time := rfl
@[simp] theorem setLatch_rings (p : Nat) (off : Nat) (w : W32) (s : State) : (setLatch p off w s).rings = s.rings := rfl
@[simp] theorem setLatch_cirq (p : Nat) (off : Nat) (w : W32) (s : State) : (setLatch p off w s).cirq = s.cirq := rfl
@[simp] theorem setLatch_jobs (p : Nat) (off : Nat) (w : W32) (s : State) : (setLatch p off w s).jobs = s.jobs := rfl
@[simp] theorem setLatch_refused (p : Nat) (off : Nat) (w : W32) (s : State) : (setLatch p off w s).refused = s.refused := rfl
@[simp] theorem setLatch_mas (p : Nat) (off : Nat) (w : W32) (s : State) : (setLatch p off w s).mas = s.mas := rfl
@[simp] theorem setLatch_eng (p : Nat) (off : Nat) (w : W32) (s : State) : (setLatch p off w s).eng = s.eng := rfl
@[simp] theorem setLatch_rng (p : Nat) (off : Nat) (w : W32) (s : State) : (setLatch p off w s).rng = s.rng := rfl
@[simp] theorem setLatch_parts (p : Nat) (off : Nat) (w : W32) (s : State) : (setLatch p off w s).parts = s.parts := rfl
@[simp] theorem setLatch_vault (p : Nat) (off : Nat) (w : W32) (s : State) : (setLatch p off w s).vault = s.vault := rfl
@[simp] theorem setLatch_nv (p : Nat) (off : Nat) (w : W32) (s : State) : (setLatch p off w s).nv = s.nv := rfl
@[simp] theorem setLatch_cust (p : Nat) (off : Nat) (w : W32) (s : State) : (setLatch p off w s).cust = s.cust := rfl
@[simp] theorem setLatch_tmp (p : Nat) (off : Nat) (w : W32) (s : State) : (setLatch p off w s).tmp = s.tmp := rfl
@[simp] theorem setLatch_dbg (p : Nat) (off : Nat) (w : W32) (s : State) : (setLatch p off w s).dbg = s.dbg := rfl
@[simp] theorem setLatch_pair (p : Nat) (off : Nat) (w : W32) (s : State) : (setLatch p off w s).pair = s.pair := rfl
@[simp] theorem setLatch_jrn (p : Nat) (off : Nat) (w : W32) (s : State) : (setLatch p off w s).jrn = s.jrn := rfl
@[simp] theorem setLatch_scr (p : Nat) (off : Nat) (w : W32) (s : State) : (setLatch p off w s).scr = s.scr := rfl
@[simp] theorem setLatch_tarn (p : Nat) (off : Nat) (w : W32) (s : State) : (setLatch p off w s).tarn = s.tarn := rfl
@[simp] theorem setLatch_grd (p : Nat) (off : Nat) (w : W32) (s : State) : (setLatch p off w s).grd = s.grd := rfl
@[simp] theorem setLatch_pmc (p : Nat) (off : Nat) (w : W32) (s : State) : (setLatch p off w s).pmc = s.pmc := rfl
@[simp] theorem setLatch_pwr (p : Nat) (off : Nat) (w : W32) (s : State) : (setLatch p off w s).pwr = s.pwr := rfl
@[simp] theorem setLatch_smb (p : Nat) (off : Nat) (w : W32) (s : State) : (setLatch p off w s).smb = s.smb := rfl
@[simp] theorem setLatch_msix (p : Nat) (off : Nat) (w : W32) (s : State) : (setLatch p off w s).msix = s.msix := rfl
@[simp] theorem setLatch_out (p : Nat) (off : Nat) (w : W32) (s : State) : (setLatch p off w s).out = s.out := rfl
@[simp] theorem setLatch_freeCtr (p : Nat) (off : Nat) (w : W32) (s : State) : (setLatch p off w s).freeCtr = s.freeCtr := rfl
@[simp] theorem setLatch_pending (p : Nat) (off : Nat) (w : W32) (s : State) : (setLatch p off w s).pending = s.pending := rfl

end Sys2Proof.Machine
end

