-- ==== Sys2Proof/Safety.lean ====
section
/-!
DEFINITION. What counts as a safe state and a safe change of state, and the words the statements use: a job that is due, and the state in
which a command has ended it.
-/
namespace Sys2Proof.Machine

/-- The byte memories are in their canonical form: Scree's ring (16 R458) and the firmware slots (14 R406). -/
def State.memWf (s : State) : Prop :=
  Memory.wf 0 s.scr.ring = true ∧ Memory.wf 0xFF s.nv.slotA = true ∧ Memory.wf 0xFF s.nv.slotB = true

/-- Nothing that is to last is lost from `a` to `b`: evidence bits stay burnt in both copies (13 R381), the anti-rollback count does
not fall (14 R408), a module whose scrapping has begun stays so (14 R398). -/
structure State.Kept (a b : State) : Prop where
  /-- Bits of copy A of the evidence counter. -/
  copyA : ∀ i, a.nv.otpA.getLsbD i = true → b.nv.otpA.getLsbD i = true
  /-- Bits of copy B. -/
  copyB : ∀ i, a.nv.otpB.getLsbD i = true → b.nv.otpB.getLsbD i = true
  /-- The anti-rollback count. -/
  rollback : a.nv.rollback ≤ b.nv.rollback
  /-- The mark of a scrapped module. -/
  scrapped : a.nv.scrapped = true → b.nv.scrapped = true

/-- Job `j` of sequence `q` is this module's own and is due for the command of opcode `op`: it holds what it needs, no earlier
command is one it must follow (07 R207, 09 R269, 11 R314, 12 R350), no reset holds the partition it names (11 R309), and no
other end is set for it. -/
structure Due (s : State) (op : W16) (q : Nat) (j : Job) : Prop where
  /-- It is the job of the sequence. -/
  found : findJob s q = some j
  /-- Its opcode. -/
  opcode : j.desc.opcode = op
  /-- It holds what it needs. -/
  phase : j.phase = .running ∨ j.phase = .waitRandom ∨ j.phase = .waiting
  /-- Its turn has come. -/
  serial : serialFree s j = true
  /-- The partition it names is not being reset. -/
  place : ∀ p, namesPart j.desc = some p → (partAt s p).resetting = none
  /-- It is not to end otherwise. -/
  doom : j.doom = none
  /-- It is no standby copy. -/
  own : j.fwd = false

/-- The state in which the command of job `j` has ended with status `st` and output `out` and nothing else: the job waits to be retired,
and the unit it held is released (04 R78, R89). -/
def endedWith (j : Job) (st : W16) (out : Bytes) (s : State) : State :=
  modJob j.seq (fun x => { x with phase := .ended, ending := .ran, events := [] })
    (releaseHeld j (modJob j.seq (fun x => { x with
      status := st, output := out, commits := [], change := none, drain := .none, events := [], cancel := false }) s))

/-- The state in which the command of job `j` has failed with status `st`: the job waits to be retired without output. -/
def failedWith (j : Job) (st : W16) (s : State) : State := endJob j.seq st .ran s

/-- What follows when a part of a run succeeds, from the state it leaves; when it stops, the end of the run of job `j` in the state `s`. -/
def orEnd {α : Type} (j : Job) (s : State) (r : Except Stop (α × State)) (k : α → State → State) : State :=
  match r with
  | .ok (a, t) => k a t
  | .error e => finish j (.error e) s

/-- The registers of the BAR take writes: the start has not stopped (19 R519), and the module is not SCRAPPED (14 R399). -/
def State.takesWrites (s : State) : Prop := s.pwr.fault = 0 ∧ lcCode s ≠ 5

/-- What a received frame of a type brings; a frame that is discarded (15 R420) changes nothing. -/
def onFrame (type : Nat) (f : Bytes) (s : State) (k : Bytes → State → State) : State :=
  match receive type f s with
  | none => s
  | some (b, t) => k b t

/-- The opcode a command of the opcode map runs, the jobs it is for, and the sequence it names. -/
def jobOf : Instr → Option (W16 × (Job → Bool) × Nat)
  | .partCreate q => some (0x0101, anyJob, q)
  | .partDestroy q => some (0x0102, anyJob, q)
  | .partConfigure q => some (0x0103, anyJob, q)
  | .partFreeze q => some (0x0104, anyJob, q)
  | .partThaw q => some (0x0105, anyJob, q)
  | .partSaveReissue q => some (0x0106, stepIs 3, q)
  | .partSaveRelease q => some (0x0106, stepIs 2, q)
  | .partSaveSave q => some (0x0106, fun j => !stepIs 2 j && !stepIs 3 j, q)
  | .partRestoreAbort q => some (0x0107, stepIs 4, q)
  | .partRestoreActivate q => some (0x0107, stepIs 3, q)
  | .partRestoreOffer q => some (0x0107, fun j => !stepIs 2 j && !stepIs 3 j && !stepIs 4 j, q)
  | .partRestoreRestore q => some (0x0107, stepIs 2, q)
  | .tdesSetDisable q => some (0x0108, fun j => j.desc.par 57 == 0, q)
  | .tdesSetEnable q => some (0x0108, fun j => j.desc.par 57 == 1, q)
  | .authChallenge q => some (0x0109, anyJob, q)
  | .custodianSessionClose q => some (0x010A, fun j => j.desc.par 57 == 3, q)
  | .custodianSessionExchange q => some (0x010A, fun j => j.desc.par 57 == 2, q)
  | .custodianSessionOpen q => some (0x010A, fun j => j.desc.par 57 == 1, q)
  | .custodianEnrol q => some (0x010B, anyJob, q)
  | .masterLoad q => some (0x010C, anyJob, q)
  | .policySetCellWindow q => some (0x010D, fun j => j.desc.par 56 == 3, q)
  | .policySetRules q => some (0x010D, fun j => j.desc.par 56 == 2, q)
  | .policySetTamper q => some (0x010D, fun j => j.desc.par 56 == 1, q)
  | .lcTransition q => some (0x010E, anyJob, q)
  | .fwUpdateActivate q => some (0x010F, fun j => j.desc.par 56 == 2, q)
  | .fwUpdateLoad q => some (0x010F, fun j => j.desc.par 56 == 1, q)
  | .debugCertAccept q => some (0x0110, anyJob, q)
  | .attest q => some (0x0111, anyJob, q)
  | .pairStatusHandover q => some (0x0112, fun j => j.desc.par 56 == 2, q)
  | .pairStatusRead q => some (0x0112, fun j => j.desc.par 56 == 0, q)
  | .pairStatusRepair q => some (0x0112, fun j => j.desc.par 56 == 1, q)
  | .keyImport q => some (0x0201, fun j => j.desc.keyA != 0, q)
  | .keyImportRestore q => some (0x0201, fun j => j.desc.keyA == 0, q)
  | .keyExport q => some (0x0202, anyJob, q)
  | .keyGenerate q => some (0x0203, anyJob, q)
  | .keyReplace q => some (0x0204, anyJob, q)
  | .keyErase q => some (0x0205, anyJob, q)
  | .keyInvalidate q => some (0x0206, anyJob, q)
  | .keyAttrRead q => some (0x0207, anyJob, q)
  | .keyCheckValue q => some (0x0208, anyJob, q)
  | .keyTranslate q => some (0x0209, anyJob, q)
  | .blobTableSet q => some (0x020A, anyJob, q)
  | .blobEvict q => some (0x020B, anyJob, q)
  | .derivContextSet q => some (0x020C, anyJob, q)
  | .keystoreRingSet q => some (0x020D, anyJob, q)
  | .derivedCacheFlush q => some (0x020E, anyJob, q)
  | .tr34Import q => some (0x020F, anyJob, q)
  | .pinTranslate q => some (0x0301, anyJob, q)
  | .pinVerifyOffset q => some (0x0302, anyJob, q)
  | .pinVerifyPvv q => some (0x0303, anyJob, q)
  | .pinOffsetGen q => some (0x0304, anyJob, q)
  | .pvvGen q => some (0x0305, anyJob, q)
  | .pinGenerate q => some (0x0306, anyJob, q)
  | .dectabLoad q => some (0x0307, anyJob, q)
  | .arqcVerify q => some (0x0401, anyJob, q)
  | .arpcGenerate q => some (0x0402, anyJob, q)
  | .smMac q => some (0x0403, anyJob, q)
  | .smEncrypt q => some (0x0404, anyJob, q)
  | .smPinChange q => some (0x0405, anyJob, q)
  | .cvvGenerate q => some (0x0406, anyJob, q)
  | .cvvVerify q => some (0x0407, anyJob, q)
  | .dukptInitExport q => some (0x0501, anyJob, q)
  | .dukptDecrypt q => some (0x0502, anyJob, q)
  | .dukptEncrypt q => some (0x0503, anyJob, q)
  | .dukptMacGenerate q => some (0x0504, anyJob, q)
  | .dukptMacVerify q => some (0x0505, anyJob, q)
  | .encrypt q => some (0x0601, anyJob, q)
  | .decrypt q => some (0x0602, anyJob, q)
  | .macGenerate q => some (0x0603, anyJob, q)
  | .macVerify q => some (0x0604, anyJob, q)
  | .ff1Tokenise q => some (0x0605, anyJob, q)
  | .ff1Detokenise q => some (0x0606, anyJob, q)
  | .pkSign q => some (0x0701, anyJob, q)
  | .pkVerify q => some (0x0702, anyJob, q)
  | .pkKeypair q => some (0x0703, anyJob, q)
  | .pkAgree q => some (0x0704, anyJob, q)
  | .kemEncaps q => some (0x0705, anyJob, q)
  | .kemDecaps q => some (0x0706, anyJob, q)
  | .rsaDecrypt q => some (0x0707, anyJob, q)
  | .rsaEncrypt q => some (0x0708, anyJob, q)
  | .curveLoad q => some (0x0709, anyJob, q)
  | .random q => some (0x0801, anyJob, q)
  | .hash q => some (0x0901, anyJob, q)
  | .hmac q => some (0x0902, anyJob, q)
  | .nop q => some (0x0A01, anyJob, q)
  | .fence q => some (0x0A02, anyJob, q)
  | .cancel q => some (0x0A03, anyJob, q)
  | .timeRead q => some (0x0A04, anyJob, q)
  | .journalMark q => some (0x0A05, anyJob, q)
  | _ => none

end Sys2Proof.Machine
end

