-- ==== Sys2Proof/Laws/Run.lean ====
section
/-!
SUPPORT. How a run of a command of the opcode map ends: one lemma for each way, for commands to cite.
-/
namespace Sys2Proof.Machine

/-- A due job is the one its command runs. -/
theorem Due.runs {s : State} {op : W16} {q : Nat} {j : Job} (h : Due s op q j) (sel : Job → Bool) (hs : sel j = true) :
    due s op sel q = some j := by
  unfold due
  rw [h.found]
  have hh : (match namesPart j.desc with | some p => (partAt s p).resetting.isSome && !j.fwd | none => false) = false := by
    cases hp : namesPart j.desc with
    | none => rfl
    | some p => simp [h.place p hp]
  have hp : (j.phase == .running || j.phase == .waitRandom || j.phase == .waiting) = true := by
    rcases h.phase with e | e | e <;> simp [e]
  simp only [h.opcode, hs, hp, h.serial]
  simp at hh ⊢
  exact hh

/-- The job's sequence is the one named. -/
theorem Due.seq {s : State} {op : W16} {q : Nat} {j : Job} (h : Due s op q j) : j.seq = q := by
  have := List.find?_some h.found
  simpa using this

/-- A due job runs on the state itself. -/
theorem Due.view {s : State} {op : W16} {q : Nat} {j : Job} (h : Due s op q j) (f : Cmd Run) : runView j f s = f s := by
  unfold runView viewOf unview
  simp only [h.own]
  simp
  rcases f s with e | ⟨r, t⟩
  · cases e <;> rfl
  · rfl

/-- What a due command does is what its run gives. -/
theorem Due.runOp {s : State} {op : W16} {q : Nat} {j : Job} (h : Due s op q j) (sel : Job → Bool) (hs : sel j = true) (f : Job → Cmd Run) :
    runOp op sel f q s = finish j (f j s) s := by
  unfold Machine.runOp
  rw [h.runs sel hs]
  simp only [h.doom, h.view]

/-- What a due command that neither draws nor waits does is what its run gives. -/
theorem Due.runPure {s : State} {op : W16} {q : Nat} {j : Job} (h : Due s op q j) (f : State → Job → Except W16 Run) :
    runPure op f q s = finish j (match f s j with | .ok r => .ok (r, s) | .error st => .error (.fail st s)) s := by
  unfold Machine.runPure
  rw [h.runOp _ rfl]
  congr 1
  simp only [Bind.bind, StateT.bind, Except.bind, get, getThe, MonadStateOf.get, StateT.get, Pure.pure, Except.pure, Cmd.of]
  rcases f s j with e | r <;> rfl

/-- A run that changes nothing lasting ends its job with what it gave. -/
theorem complete_plain {j : Job} {r : Run} {s : State} (hd : j.doom = none) (hl : r.out.length ≤ j.desc.outCap) (hc : r.commits = [])
    (hg : r.change = none) (hr : r.drain = .none) (he : r.events = []) : complete j r s = endedWith j r.st r.out s := by
  unfold complete endedWith
  simp only [hd, hc, hg, hr, he, if_neg (Nat.not_lt.2 hl), and_self, if_true, noteAll, List.foldl_nil]

/-- An output alone. -/
theorem complete_output {j : Job} {b : Bytes} {s : State} (hd : j.doom = none) (hl : b.length ≤ j.desc.outCap) :
    complete j (Run.output b) s = endedWith j stOk b s := complete_plain hd hl rfl rfl rfl rfl

/-! ## Running a command step by step -/

/-- Sequencing of runs. -/
@[simp] theorem Cmd.bind_apply {α β : Type} (x : Cmd α) (f : α → Cmd β) (s : State) :
    (x >>= f) s = match x s with | .ok (a, t) => f a t | .error e => .error e := by
  show StateT.bind x f s = _
  unfold StateT.bind
  show Except.bind (x s) _ = _
  cases x s <;> rfl

theorem Cmd.bind_ok {α β : Type} {x : Cmd α} {f : α → Cmd β} {s t : State} {a : α} (h : x s = .ok (a, t)) : (x >>= f) s = f a t := by
  rw [Cmd.bind_apply, h]

@[simp] theorem Cmd.pure_apply {α : Type} (a : α) (s : State) : (pure a : Cmd α) s = .ok (a, s) := rfl
/-- A run carried on by a function. -/
@[simp] theorem Cmd.map_apply {α β : Type} (f : α → β) (x : Cmd α) (s : State) :
    (f <$> x) s = match x s with | .ok (a, t) => .ok (f a, t) | .error e => .error e := by
  show StateT.map f x s = _
  unfold StateT.map
  show Except.bind (x s) _ = _
  cases x s <;> rfl

@[simp] theorem Cmd.get_apply (s : State) : (get : Cmd State) s = .ok (s, s) := rfl
@[simp] theorem Cmd.set_apply (t s : State) : (set t : Cmd PUnit) s = .ok (⟨⟩, t) := rfl
@[simp] theorem Cmd.modify_apply (f : State → State) (s : State) : (modify f : Cmd PUnit) s = .ok (⟨⟩, f s) := rfl
@[simp] theorem Cmd.need_true (st : W16) (s : State) : Cmd.need true st s = .ok ((), s) := rfl
@[simp] theorem Cmd.need_false (st : W16) (s : State) : Cmd.need false st s = .error (.fail st s) := rfl
@[simp] theorem Cmd.some?_some {α : Type} (a : α) (st : W16) (s : State) : Cmd.some? (some a) st s = .ok (a, s) := rfl
@[simp] theorem Cmd.of_ok {α : Type} (a : α) (s : State) : Cmd.of (.ok a) s = .ok (a, s) := rfl
@[simp] theorem Cmd.of_error {α : Type} (e : W16) (s : State) : (Cmd.of (.error e) : Cmd α) s = .error (.fail e s) := rfl
@[simp] theorem Cmd.fail_apply {α : Type} (e : W16) (s : State) : (Cmd.fail e : Cmd α) s = .error (.fail e s) := rfl
@[simp] theorem Cmd.hold_apply {α : Type} (s : State) : (Cmd.hold : Cmd α) s = .error (.hold s) := rfl
@[simp] theorem need_true (st : W16) : Machine.need true st = .ok () := rfl
@[simp] theorem need_false (st : W16) : Machine.need false st = .error st := rfl
@[simp] theorem finish_ok (j : Job) (r : Run) (t s : State) : finish j (.ok (r, t)) s = complete j r t := rfl
@[simp] theorem orEnd_ok {α : Type} (j : Job) (s t : State) (a : α) (k : α → State → State) : orEnd j s (.ok (a, t)) k = k a t := rfl
@[simp] theorem orEnd_error {α : Type} (j : Job) (s : State) (e : Stop) (k : α → State → State) :
    orEnd j s (.error e) k = finish j (.error e) s := rfl
/-- A run that fails ends its job with the status it gives. -/
theorem failed_eq {j : Job} {st : W16} {t s : State} (hd : j.doom = none) : finish j (.error (.fail st t)) s = failedWith j st t := by
  simp [finish, hd, failedWith]
theorem noInput_ok {j : Job} (h : j.desc.inLen = 0) : noInput j = .ok () := by simp [noInput, h, need_true]

end Sys2Proof.Machine
end

