-- ==== Sys2Proof/Certificates/Slice0/Obligations.lean ====
section
/-!
DEFINITION. The statements for the provers.

How to read them. `Due s op q j` says that `j` is the module's own job of sequence `q`, of opcode `op`, whose turn it is (Safety.lean): a command
of the opcode map has no effect on any other job (log entry 2). `complete j r s` carries the result `r` of the run of job `j` into the state
`s`: its output if it fits, its commits through their gates, its events; `failedWith j st s` ends it with the status `st` and no output. A
statement that gives the whole next state says with it that everything else stays as it was.
-/
section
open Sys2Proof Sys2Proof.Machine

/-- Every step takes the command at the front of the queue and runs it on the state with the queue's rest (the model's choice of what a step
is: log entry 1). -/
def Obligations.StepRunsFrontCommand : Prop :=
  ∀ (c : Instr) (rest : List Instr) (s : State), s.pending = c :: rest → step s = exec c { s with pending := rest }

/-- With no command waiting, a step is one tick of 8 ns (02 R20, R23): the monotonic count goes on by 8, and NTB, with no slew in progress, by
8 ns exactly while main power is on and PERST# released; otherwise NTB stands. The tick on an empty queue is log entry 1. -/
def Obligations.IdleStepIsOneTick : Prop :=
  ∀ s : State, s.pending = [] → ∃ t, step s = .next t ∧ t.pending = [] ∧ t.time.mono = s.time.mono + 8 ∧
    (s.pwr.main = true → s.pwr.perst = false → s.time.slew = none →
      t.time.ntb = s.time.ntb + 8 ∧ t.time.frac = s.time.frac ∧ t.time.slew = none) ∧
    ((s.pwr.main = false ∨ s.pwr.perst = true) → t.time.ntb = s.time.ntb ∧ t.time.frac = s.time.frac ∧ t.time.state = s.time.state)

/-- No table row has bits, so no word spells a command, and nothing is put into the queue. -/
def Obligations.NoWordSpellsACommand : Prop :=
  ∀ nbits w : Nat, decodeTableWord nbits w = none ∧ ∀ s : State, s.withFetchWord nbits w = s

/-- The machine after reset: PERST# asserted and no start begun (19 R510), NTB at 0 in UNSET (02 R21), TIME_CFG, RING and RNG registers at the
values of their tables (02 R38, 03 R49, 10 R303), partition 0 alone existing (11 R309), no job, frame, sample or completion anywhere. The
life-cycle state PROVISIONED and the empty flash and OTP are those of a module as delivered (log entry 7). -/
def Obligations.ResetStateIsAsStated : Prop :=
  let s := State.reset
  s.pending = [] ∧ s.jobs = [] ∧ s.refused = [] ∧ s.out = [] ∧ s.pwr.perst = true ∧ s.pwr.ready = false ∧ s.pwr.fault = 0 ∧ s.pwr.quiesce = 0 ∧
  s.time.ntb = 0 ∧ s.time.state = .unset ∧ s.time.lock = false ∧ s.time.src = 0 ∧ s.time.ptmPeriod = 7 ∧ s.time.todTx = false ∧ s.time.frameErr = 0 ∧
  lcCode s = 2 ∧ s.nv.otpA = 0 ∧ s.nv.otpB = 0 ∧ s.rng.state = 0 ∧ s.rng.reserve = 4 ∧ s.pair.actOut = false ∧ s.pair.effective = false ∧
  s.tmp.suspended = false ∧ s.dbg.open_ = false ∧ fatalBits s = 0 ∧ s.scr.wrPos = 0 ∧
  (∀ p r : Nat, (ringAt s p r).en = false ∧ (ringAt s p r).log2 = 6 ∧ (ringAt s p r).sqTail = 0 ∧ (ringAt s p r).cqHead = 0) ∧
  partState s 0 = 1 ∧ (∀ p : Nat, p ≠ 0 → partState s p = 0) ∧ (∀ n : Nat, (srcAt s n).set = false)

/-- The byte memories are canonical at reset. -/
def Obligations.ResetMemoryCanonical : Prop :=
  State.reset.memWf

/-- Every step, from every state, keeps the byte memories in their canonical form: commands, ticks, resets, starts, snapshots. -/
def Obligations.StepKeepsMemoryCanonical : Prop :=
  ∀ s t : State, s.memWf → step s = .next t → t.memWf

/-- Every step, from every state, keeps what is to last: the evidence bits of both copies (13 R381), the anti-rollback count (14 R408), the
mark of a scrapped module (14 R398). -/
def Obligations.StepKeepsEvidence : Prop :=
  ∀ s t : State, step s = .next t → s.Kept t

/-- A command touches neither the queue nor the monotonic count, only adds to what has left the module, and takes free values in order. -/
def Obligations.CommandsOnlyAddOutputs : Prop :=
  ∀ (c : Instr) (s t : State), exec c s = .next t →
    t.pending = s.pending ∧ t.time.mono = s.time.mono ∧ s.out <+: t.out ∧ s.freeCtr ≤ t.freeCtr

/-- No command stops the block: each answers a next state from every state, whatever its operands. -/
def Obligations.EveryCommandAnswersNext : Prop :=
  ∀ (c : Instr) (s : State), ∃ t, exec c s = .next t

/-- Corrections of NTB (02 R22). The first setting after UNSET is a step to the source's value; then an offset of at most 1 ms is slewed in
whatever state holds, a forward one above 1 ms is stepped, a backward one above 1 ms is slewed in HOLDOVER; a measurement during a slew sets the
remaining offset, and one that finds it zero or of the other sign ends the slew. A slew moves NTB by 500 ppm: 17179869 / 2^32 ns in each 8 ns. -/
def Obligations.NtbCorrectionsFollowTheTable : Prop :=
  (∀ (s : State) (off : Int),
    let t := sourceLocked off s
    let same := match s.time.slew with
      | none => false
      | some r => decide ((0 < r ∧ 0 < off) ∨ (r < 0 ∧ off < 0))
    (s.time.state = .unset → t.time.ntb = BitVec.ofInt 64 (s.time.ntb.toNat + off) ∧ t.time.slew = none ∧ t.time.state = .locked) ∧
    (s.time.state ≠ .unset →
      (same = true ∨ off.natAbs ≤ 1000000 ∨ off < 0 → t.time.ntb = s.time.ntb) ∧
      (same = false → off = 0 → t.time.slew = none) ∧
      (off ≠ 0 → (same = true ∨ off ≤ 1000000) → t.time.slew = some (off * 2 ^ 32)) ∧
      (same = false → 1000000 < off → t.time.ntb = BitVec.ofInt 64 (s.time.ntb.toNat + off) ∧ t.time.slew = none) ∧
      (off < -1000000 → t.time.state = .holdover) ∧
      (same = false → -1000000 ≤ off → s.time.state = .locked → t.time.state = .locked))) ∧
  (∀ (s t : State) (r : Int), s.pending = [] → s.pwr.main = true → s.pwr.perst = false → s.time.slew = some r → 17179869 ≤ r.natAbs →
    s.time.ntb.toNat < 2 ^ 64 - 16 → step s = .next t →
    let d : Int := if 0 ≤ r then 17179869 else -17179869
    (2 ^ 32 * t.time.ntb.toNat + t.time.frac.toNat : Int) = 2 ^ 32 * s.time.ntb.toNat + s.time.frac.toNat + 8 * 2 ^ 32 + d ∧
    t.time.slew = some (r - d))

/-- Check values (05 R117): of an AES key the first 5 bytes of the CMAC of 16 zero bytes, of a TDES key the first 3 bytes of 8 zero bytes
enciphered, of an HMAC key the first 5 bytes of HMAC-SHA-256 over 32 zero bytes, of a public-key pair the first 5 bytes of SHA-256 over its
public key encoding. KEY_CHECK_VALUE answers what a key was given so. -/
def Obligations.CheckValuesByAlgorithm : Prop :=
  ∀ (a : Attrs) (m : Bytes),
    (a.alg = chr 'A' → checkValue a m = (cmac false m (zeros 16)).take 5) ∧
    (a.alg = chr 'T' → checkValue a m = (blockEnc true m (zeros 8)).take 3) ∧
    (a.alg = chr 'H' → checkValue a m = (hmac 0x02 m (zeros 32)).take 5) ∧
    (a.alg ≠ chr 'A' → a.alg ≠ chr 'T' → a.alg ≠ chr 'H' → checkValue a m = (sha256B (publicKey a.code m)).take 5)

/-- The PVV (06 R169), as PVV_GEN gives it: the 11 rightmost digits of the PAN without its check digit, the key index and the first 4 PIN digits,
enciphered by TDES under key B; of the result the decimal digits from the left, then the digits a to f less 10; the first 4 of them. -/
def Obligations.PvvFollowsItsMethod : Prop :=
  ∀ (s : State) (q : Nat) (j : Job) (a b : Binding) (pan : List Nat), Due s 0x0305 q j → j.keyA = some a → j.keyB = some b →
    let inp := j.input
    let fin := pinFormat (j.desc.par 56) (isTdes a.attrs)
    headerOk inp 40 0 (some fin) 40 40 = true → account (slice inp 28 12) true = .ok pan →
    exec (.pvvGen q) s = .next (match pinOf fin (pinDec fin a.material (slice inp 0 16) pan) with
      | some pin =>
        let body := pan.take (pan.length - 1)
        let tsp := body.drop (body.length - 11) ++ [j.desc.par 57] ++ pin.take 4
        let v := nibbles (blockEnc true b.material (packNibbles tsp))
        complete j (Run.output (packDigits 2 ((v.filter (· ≤ 9) ++ (v.filter (10 ≤ ·)).map (· - 10)).take 4))) s
      | none => failedWith j stFormat (note 0x141 5 [j.part, 0x0305] s))

/-- The card verification value (06 R175), as CVV_GENERATE gives it: PAN, expiry and service code, filled with zeros to 32 digits; under a
two-key TDES key the first half enciphered by DES under the first key, the second half added and the sum enciphered by TDES; under an AES key the
whole enciphered; the first 3 digits of the decimal scan. The service code is the input's for kind 0, 000 for kind 1, 999 for kind 2. -/
def Obligations.CardValueFollowsItsMethod : Prop :=
  ∀ (s : State) (q : Nat) (j : Job) (a : Binding) (pan svc : List Nat), Due s 0x0406 q j → j.keyA = some a → j.input.length = 16 →
    account (slice j.input 0 12) true = .ok pan →
    let ex := nibbles (slice j.input 12 2)
    let month := 10 * ex.getD 2 0 + ex.getD 3 0
    (∀ d ∈ ex, d ≤ 9) → 1 ≤ month → month ≤ 12 →
    (j.desc.par 56 = 0 → cvvField (slice j.input 14 2) = some svc) →
    (j.desc.par 56 ≠ 0 → zeroAt j.input 14 16 = true ∧ svc = if j.desc.par 56 = 1 then [0, 0, 0] else [9, 9, 9]) →
    let ds := (pan ++ ex ++ svc ++ List.replicate 32 0).take 32
    let r := if isTdes a.attrs then
        blockEnc true a.material (xorBytes (desEnc (slice a.material 0 8) (packNibbles (ds.take 16))) (packNibbles (ds.drop 16)))
      else blockEnc false a.material (packNibbles ds)
    let v := nibbles r
    exec (.cvvGenerate q) s = .next (complete j
      (Run.output (packDigits 2 ((v.filter (· ≤ 9) ++ (v.filter (10 ≤ ·)).map (· - 10)).take 3))) s)

/-- The 11 rules (12 R344): POLICY_SET area 2, with authorisations judged under the rules in force, commits all 11 at once, or ends with
ST_FORMAT and no change when a value is out of its range (M 2 to 8, D 1 to M, a mask that is not zero, a zero byte) or a rule cannot be met by the
custodians enrolled; the commit makes each class's rule the input's. No accepted rule lets one custodian authorise. -/
def Obligations.RulesAreReplaced : Prop :=
  ∀ (s : State) (q : Nat) (j : Job), Due s 0x010D q j → j.desc.par 56 = 2 → 44 ≤ j.input.length →
    let rule (i : Nat) : Rule := { m := (byteAt j.input (4 * i)).toNat, d := (byteAt j.input (4 * i + 1)).toNat, mask := byteAt j.input (4 * i + 2) }
    let inRange (i : Nat) : Prop := 2 ≤ (rule i).m ∧ (rule i).m ≤ 8 ∧ 1 ≤ (rule i).d ∧ (rule i).d ≤ (rule i).m ∧ (rule i).mask ≠ 0 ∧
      byteAt j.input (4 * i + 3) = 0
    let rs := (List.range 11).map rule
    let met (t : State) : Bool := (List.range 11).all fun i => meets (rule i) ((enrolledAll t).map fun e => e.2.group)
    ((∀ i < 11, inRange i) → exec (.policySetRules q) s = .next (orEnd j s (judge j 2 44 (actionDigest j 44) none s) fun _ t =>
      if met t then
        complete j { Run.output [] with commits := [.rules rs], events := [⟨0x209, 18, [leField (setDigest (custTable t) rs) 0 4]⟩] } t
      else failedWith j stFormat t)) ∧
    ((∃ i < 11, ¬ inRange i) → exec (.policySetRules q) s =
      .next (orEnd j s (judge j 2 44 (actionDigest j 44) none s) fun _ t => failedWith j stFormat t)) ∧
    (∀ (t : State) (i : Nat), i < 11 → ruleAt (applyCommit q t (.rules rs)) (i + 1) = rule i)

/-- The tamper policy (13 R386): POLICY_SET area 1, with authorisations of the class TAMPER over the 56 entry bytes and 8 zero bytes, commits all
seven entries, or ends with ST_FORMAT and no change when a value is outside its permitted or certified range (13 R371); the commit writes the
policy to the vault and clears every excursion count. -/
def Obligations.TamperPolicyIsReplaced : Prop :=
  ∀ (s : State) (q : Nat) (j : Job), Due s 0x010D q j → j.desc.par 56 = 1 → 64 ≤ j.input.length →
    let entry (i : Nat) : Policy :=
      { response := (byteAt j.input (8 * i)).toNat, n := (byteAt j.input (8 * i + 1)).toNat, w := leField j.input (8 * i + 4) 4 }
    let good : Prop := (∀ i < 7, policyOk i (entry i) = true ∧ byteAt j.input (8 * i + 2) = 0 ∧ byteAt j.input (8 * i + 3) = 0) ∧
      zeroAt j.input 56 64 = true
    let ps := (List.range 7).map entry
    (good → exec (.policySetTamper q) s = .next (orEnd j s (judge j 6 64 (actionDigest j 64) none s) fun _ t => complete j { Run.output [] with
      commits := [.policy ps], events := [⟨0x226, 19, [leField (sha256Head 4 (j.input.take 56)) 0 4]⟩] } t)) ∧
    (¬ good → exec (.policySetTamper q) s =
      .next (orEnd j s (judge j 6 64 (actionDigest j 64) none s) fun _ t => failedWith j stFormat t)) ∧
    (∀ (t : State) (i : Nat), i < 7 → policyAt (applyCommit q t (.policy ps)) i = entry i ∧ (monAt (applyCommit q t (.policy ps)) i).times = [])

/-- What the other commits of the commands do to what is read: contexts, curves, tables, custodians, windows, the pending load. -/
def Obligations.CommitsTakeEffect : Prop :=
  ∀ (s : State) (q p i : Nat),
    (∀ c, (Tab.get none (partAt (applyCommit q s (.ctx p i c)) p).ctxs i) = some c) ∧
    (∀ c, (Tab.get none (partAt (applyCommit q s (.curve p i (some c))) p).curves i) = some c) ∧
    (∀ d, (Tab.get none (partAt (applyCommit q s (.dectab p i d)) p).dectabs i) = some d) ∧
    (∀ c pub, sha384B pub = c.digest → pub ≠ [] → enrolled (applyCommit q s (.custodian i (some c) pub)) i = some c) ∧
    (∀ n, (applyCommit q s (.window i n)).vault.window = some { cells := i, until_ := s.time.mono + 1000000000 * n, secs := n }) ∧
    (∀ l, (applyCommit q s (.pendingLoad l)).vault.load = l) ∧
    (∀ g o, (nodeAt (applyCommit q s (.freeNode i g o)) i).state = .free ∧ (nodeAt (applyCommit q s (.freeNode i g o)) i).gen = g ∧
      (nodeAt (applyCommit q s (.freeNode i g o)) i).material = [])

/-- An authorisation list that is accepted comes from a quorum (12 R341 to R343, R349): distinct enrolled custodians, each with a statement for the
class and the action digest that verifies under its own key, meet the class's rule; only an enrolment while fewer custodians than the ENROL
rule asks for are enrolled may do with all of those there are. -/
def Obligations.AcceptedListsComeFromAQuorum : Prop :=
  ∀ (s : State) (j : Job) (cls off : Nat) (dig : Bytes) (new : Option (Nat × Byte × Bytes)),
    match judge j cls off dig new s with
    | .error _ => True
    | .ok (_, t) => t.vault = s.vault ∧ ∃ l : List Nat, l.Nodup ∧
        (∀ c ∈ l, new.map (·.1) ≠ some c ∧ ∃ e b, enrolled s c = some e ∧ (byteAt b 3).toNat = c ∧ (byteAt b 2).toNat = cls ∧
          slice b 52 48 = dig ∧ custVerify e.alg (custPub s c) (b.take 128) (b.drop 128) = true) ∧
        (meets (ruleAt s cls) (l.filterMap fun c => (custEntry s c).map (·.group)) = true ∨
          cls = 1 ∧ bootstrap s = true ∧ ∀ c e, enrolled s c = some e → c < 32 → new.map (·.1) ≠ some c → c ∈ l)

/-- NOP, JOURNAL_MARK and FENCE (03 R63, R64, R73; 07 R207): with no input they end with ST_OK and no output; a FENCE first waits until no
earlier job of its partition is left.

How a command's result ends it (04 R77): its output if it fits in the output buffer, ST_FORMAT without output if not. -/
def Obligations.EmptyCommandsEnd : Prop :=
  (∀ (s : State) (q : Nat) (j : Job), j.desc.inLen = 0 →
     (Due s 0x0A01 q j → exec (.nop q) s = .next (endedWith j stOk [] s)) ∧
     (Due s 0x0A05 q j → exec (.journalMark q) s = .next (endedWith j stOk [] s)) ∧
     (Due s 0x0A02 q j → earlierJobs s j = [] → exec (.fence q) s = .next (endedWith j stOk [] s)) ∧
     (Due s 0x0A02 q j → earlierJobs s j ≠ [] → exec (.fence q) s = .next (modJob q (fun x => { x with phase := .waiting }) s))) ∧
  (∀ (s : State) (j : Job) (b : Bytes), j.doom = none →
     complete j (Run.output b) s = if b.length ≤ j.desc.outCap then endedWith j stOk b s else failedWith j stFormat s)

/-- KEY_IMPORT (05 R111, R123, R148): the block's key takes the lowest free slots as a node under key A, whose handle and check value are the
output; a block that does not unwrap, or that breaks the rules on attributes, ends it with the status of R129.

KEY_GENERATE (05 R148, 10 R296): bytes of the key-generation DRBG become the material of a node under the vault master; with parameter
byte 56 bit 1 set the output goes on with the key's block under the KEK.

KEY_IMPORT with handle A zero (05 R139, R147): the node of a keystore record that unwraps returns to its own slot with its handle, or is
found there already; a slot with anything else in it is ST_KEY_VERIFY_FAIL. -/
def Obligations.KeysBecomeNodes : Prop :=
  (∀ (s : State) (q : Nat) (j : Job) (k : Binding), Due s 0x0201 q j → j.desc.keyA ≠ 0 → j.keyA = some k →
     parentDepth s (.node k.node k.gen) < 8 →
     exec (.keyImport q) s = .next (match takeBlock s j.part k.material j.input with
       | .error st => failedWith j st s
       | .ok (kb, a) => match placeNode s j.part kb.key.length with
         | .error st => failedWith j st s
         | .ok (i, e, c) => complete j (Run.creates i (nodeFor s j.part ⟨i, slotGen s i, e, c⟩ (bitOf (j.desc.par 56) 0) a
             (.node k.node k.gen) ((kb.z.map (·.gcm)).getD 0) kb.key) []) s)) ∧
  (∀ (s s₁ s₂ : State) (q : Nat) (j : Job) (a : Attrs) (kek m block : Bytes) (i e c : Nat),
     Due s 0x0203 q j → genTemplate j.input = .ok a → (vaultAt s j.part).master.isSome →
     (j.keyB = none → kek = if bitOf (j.desc.par 56) 1 then kbpk s j.part else []) → (∀ b, j.keyB = some b → kek = b.material) →
     (bitOf (j.desc.par 56) 1 = true → 16 + blockLen (byteAt j.input 5).toNat ≤ j.desc.outCap ∧
       (j.keyB.isSome → exportable a = true ∧ mayWrap kek a (byteAt j.input 5).toNat = true)) →
     placeNode s j.part (byteAt j.input 5).toNat = .ok (i, e, c) → draw j.seq 256 (byteAt j.input 5).toNat s = .ok (m, s₁) →
     let n := nodeFor s₁ j.part ⟨i, slotGen s i, e, c⟩ (bitOf (j.desc.par 56) 0) a (.master (vaultAt s j.part).gen) 0 m
     (if bitOf (j.desc.par 56) 1 then wrapOut j.seq j.part kek a 0 (.master (vaultAt s j.part).gen) n.persistent (nodeHandle i n.gen) n.check m
       else pure []) s₁ = .ok (block, s₂) →
     exec (.keyGenerate q) s = .next (complete j (Run.creates i n block) s₂)) ∧
  (∀ (s : State) (q : Nat) (j : Job), Due s 0x0201 q j → j.desc.keyA = 0 → (vaultAt s j.part).master.isSome →
     exec (.keyImportRestore q) s = .next (match takeBlock s j.part (kbpk s j.part) j.input with
       | .error st => failedWith j st s
       | .ok (kb, a) => match kb.z with
         | none => failedWith j stFormat s
         | some z =>
           let i := hNode z.handle
           let g := hGen z.handle
           let check := checkValue a kb.key
           let o := nodeAt s i
           if ¬ (hType z.handle = 0 ∧ 1 ≤ i ∧ i < 0x1C000 ∧ 1 ≤ g ∧ g ≤ 8191) then failedWith j stFormat s
           else if chainOk s j.part 9 z.parent = false then failedWith j stKeyGone s
           else if o.state ≠ .free then
             (if o.state = .current ∧ o.gen = g ∧ o.owner = j.part ∧ o.check = check then complete j (Run.output (keyResult z.handle check)) s
               else failedWith j stKeyVerifyFail s)
           else if foreignSlot s j.part i = true ∨ (∃ r ∈ pendingSlots s, r.1 ≤ i ∧ i < r.1 + r.2) then failedWith j stKeyVerifyFail s
           else if 8 ≤ parentDepth s z.parent then failedWith j stKeyUsage s
           else finish j ((do
             let f ← placeExt j 1 (extSlots kb.key.length) [(i, 1)]
             return Run.creates i {
               state := .current, gen := g, owner := j.part, persistent := z.persistent, attrs := a, depth := parentDepth s z.parent + 1,
               parent := z.parent, gcm := z.gcm, gcmRes := z.gcm, extFirst := f, extCount := extSlots kb.key.length, check := check,
               material := kb.key, exhausted := false, changedAt := none } [] : Cmd Run) s) s))

/-- KEY_EXPORT and KEY_TRANSLATE (05 R120, R130, R148): the output is the key as a block under key B.

KEY_ATTR_READ and KEY_CHECK_VALUE (05 R117, R148). -/
def Obligations.KeysComeOut : Prop :=
  (∀ (s s₁ : State) (q : Nat) (j : Job) (a b : Binding) (out : Bytes), j.keyA = some a → j.keyB = some b →
     (Due s 0x0202 q j → j.desc.inLen = 0 → mayWrap b.material a.attrs a.material.length = true →
       wrapOut j.seq j.part b.material a.attrs a.count a.parent a.persistent a.named a.check a.material s = .ok (out, s₁) →
       exec (.keyExport q) s = .next (complete j (Run.output out) s₁)) ∧
     (Due s 0x0209 q j → exec (.keyTranslate q) s = .next (match readBlock s j.part a.material j.input with
       | .error st => failedWith j st s
       | .ok (kb, t) =>
         if ¬ (exportable t = true ∧ hasBit t mExport = true ∧ mayWrap b.material t kb.key.length = true) then failedWith j stKeyUsage s
         else finish j ((do
           let out ← wrapOut j.seq j.part b.material t ((kb.z.map (·.gcm)).getD 0) ((kb.z.map (·.parent)).getD (.node a.node a.gen)) false 0
             (checkValue t kb.key) kb.key
           return Run.output out : Cmd Run) s) s))) ∧
  (∀ (s : State) (q : Nat) (j : Job) (b : Binding), j.keyA = some b → j.desc.inLen = 0 →
     (Due s 0x0207 q j → b.image.length ≤ j.desc.outCap → exec (.keyAttrRead q) s = .next (endedWith j stOk b.image s)) ∧
     (Due s 0x0208 q j → 8 ≤ j.desc.outCap →
       exec (.keyCheckValue q) s = .next (endedWith j stOk (BitVec.ofNat 8 b.check.length :: fit 7 b.check) s)))

/-- KEY_REPLACE, KEY_ERASE and KEY_INVALIDATE (05 R141 to R143): each commits the node of key A with its generation one on; the first with the
new material, the second freed, the third with everything else as it is.

BLOB_TABLE_SET, BLOB_EVICT, KEYSTORE_RING_SET, DERIVED_CACHE_FLUSH and DERIV_CONTEXT_SET (05 R128, R131 to R133, R135, R148). -/
def Obligations.KeysChange : Prop :=
  (∀ (s : State) (q : Nat) (j : Job) (b : Binding), j.keyA = some b → (nodeAt s b.node).state = .current → (nodeAt s b.node).gen = b.gen →
     let n := nodeAt s b.node
     (Due s 0x0205 q j → j.desc.inLen = 0 → exec (.keyErase q) s = .next (complete j
       { Run.output [] with commits := [.freeNode b.node (nextGen n.gen) n.owner], change := some b.node, drain := .bound } s)) ∧
     (Due s 0x0206 q j → j.desc.inLen = 0 → exec (.keyInvalidate q) s = .next (complete j
       { Run.output (leBytes 4 (nodeHandle b.node (nextGen n.gen)).toNat) with
         commits := [.node b.node { n with gen := nextGen n.gen }], change := some b.node, drain := .bound } s)) ∧
     (∀ (kek : Bytes) (parent : ParentRef), Due s 0x0204 q j →
       9 ≤ j.input.length → ((byteAt j.input 0).toNat = 3 ∨ (byteAt j.input 0).toNat = 5) → zeroAt j.input (1 + (byteAt j.input 0).toNat) 8 = true →
       (∀ k, j.keyB = some k → kek = k.material ∧ parent = .node k.node k.gen) →
       (j.keyB = none → (vaultAt s j.part).master.isSome ∧ kek = kbpk s j.part ∧ parent = .master (vaultAt s j.part).gen) →
       parentDepth s parent < 8 →
       exec (.keyReplace q) s = .next (match takeBlock s j.part kek (j.input.drop 8) with
         | .error st => failedWith j st s
         | .ok (kb, a) =>
           if ¬ (a.usage = n.attrs.usage ∧ a.alg = n.attrs.alg ∧ a.mode = n.attrs.mode ∧ a.exp = n.attrs.exp) then failedWith j stKeyUsage s
           else if checkValue a kb.key ≠ slice j.input 1 (byteAt j.input 0).toNat then failedWith j stKeyVerifyFail s
           else finish j ((do
             let f ← placeExt j 0 (extSlots kb.key.length) []
             return { Run.output (keyResult (nodeHandle b.node (nextGen n.gen)) (checkValue a kb.key)) with
               commits := [.node b.node { n with
                 gen := nextGen n.gen, attrs := { n.attrs with code := a.code }, depth := parentDepth s parent + 1,
                 parent := parent, extFirst := f, extCount := extSlots kb.key.length, check := checkValue a kb.key, material := kb.key }],
               change := some b.node, drain := .node b.node n.gen } : Cmd Run) s) s))) ∧
  (∀ (s : State) (q : Nat) (j : Job),
     (Due s 0x020A q j → j.input.length = 16 → zeroAt j.input 12 16 = true → leField j.input 8 4 ≤ (partAt s j.part).cfg.blobs →
       exec (.blobTableSet q) s = .next (endedWith j stOk []
         (modPart j.part (fun x => { x with blobTable := some (leField j.input 0 8, leField j.input 8 4) }) (evictAll j.part s)))) ∧
     (∀ t n, Due s 0x020B q j → j.desc.inLen = 0 → hType j.desc.keyA = 1 → (partAt s j.part).blobTable = some (t, n) →
       hIndex j.desc.keyA < n →
       exec (.blobEvict q) s = .next (endedWith j stOk []
         ((s.mas.blobs.filter fun b => b.part == j.part && b.blob == hIndex j.desc.keyA).foldl (fun s b => evictBlob b s) s))) ∧
     (Due s 0x020D q j → j.input.length = 24 → zeroAt j.input 9 16 = true →
       let base := leField j.input 0 8
       let k := (byteAt j.input 8).toNat
       (base = 0 ∨ 16 ≤ k ∧ k ≤ 30 ∧ base % 4096 = 0 ∧ inWindow (partAt s j.part).cfg j.part base (2 ^ k) = true) →
       exec (.keystoreRingSet q) s = .next (endedWith j stOk [] (modPart j.part (fun x => { x with
         ks := { en := base != 0, base := base, log2 := if base = 0 then 0 else k, seq := leField j.input 16 8, head := 0, tail := 0 } }) s))) ∧
     (Due s 0x020E q j → j.desc.inLen = 0 → exec (.derivedCacheFlush q) s = .next (endedWith j stOk [] (flushCache j.part s))) ∧
     (∀ (p : Binding) (a : Attrs), Due s 0x020C q j → j.keyA = some p → j.input.length = 48 → byteAt j.input 5 = 0 →
       let l := (byteAt j.input 8).toNat
       let n := (byteAt j.input 4).toNat
       l ≤ 32 → zeroAt j.input 9 16 = true → zeroAt j.input (16 + l) 48 = true →
       symAttrs (BitVec.ofNat 16 (beField j.input 0 2)) (byteAt j.input 2) (byteAt j.input 3) (chr 'N') n (leField j.input 6 2) 0 0
         (chars2 '0' '0') = .ok a →
       modeWithin a.mode p.attrs.mode = true → n ≤ p.material.length → hasBit p.attrs a.mask.toNat = true →
       exec (.derivContextSet q) s = .next (complete j
         { Run.output (leBytes 4 (2 ^ 31 + leField j.desc.params 0 4)) with
           commits := [.ctx j.part (leField j.desc.params 0 4) { parent := p.handle, attrs := a, length := n, label := slice j.input 16 l }] } s)))

/-- ENCRYPT and DECRYPT (08 R217 to R229): with a well-formed input the output is that of the mode, under key A; an authentication tag or a
padding that does not check ends the command with its status.

MAC_GENERATE, MAC_VERIFY (07 R199, R200), FF1_TOKENISE and FF1_DETOKENISE (07 R201, R202). -/
def Obligations.DataCommandsAnswer : Prop :=
  (∀ (s : State) (q : Nat) (j : Job) (a : Binding) (enc : Bool), j.keyA = some a →
     let inp := j.input
     let mode := j.desc.par 56
     let padding := j.desc.par 57
     let tag := j.desc.par 58
     let n := leField inp 16 4
     let data := inp.drop (48 + n)
     dataHeadOk mode tag enc inp = true → ivFieldOk mode (isTdes a.attrs) enc inp = true →
     dataLenOk mode padding (blockSize (isTdes a.attrs)) (byteAt inp 15).toNat data.length enc = true →
     dataOutLen mode padding (blockSize (isTdes a.attrs)) tag data.length enc ≤ j.desc.outCap →
     (enc = true → Due s 0x0601 q j →
       exec (.encrypt q) s = .next (match encryptOut mode padding tag (isTdes a.attrs) a inp (slice inp 48 n) data with
         | .ok out => complete j (Run.output out) s
         | .error st => failedWith j st s)) ∧
     (enc = false → Due s 0x0602 q j →
       exec (.decrypt q) s = .next (match decryptOut mode padding tag (isTdes a.attrs) a inp (slice inp 48 n) data with
         | .ok out => complete j (Run.output out) s
         | .error st => failedWith j st s))) ∧
  (∀ (s : State) (q : Nat) (j : Job) (a : Binding), j.keyA = some a →
     (∀ m, macOf (j.desc.par 56) (j.desc.par 57) (isTdes a.attrs) a.material j.input = some m →
       Due s 0x0603 q j → exec (.macGenerate q) s = .next (complete j (Run.output (m.take (j.desc.par 58))) s)) ∧
     (∀ m, macOf (j.desc.par 56) (j.desc.par 57) (isTdes a.attrs) a.material (j.input.drop 16) = some m → 16 ≤ j.input.length →
       zeroAt j.input (j.desc.par 58) 16 = true → Due s 0x0604 q j →
       exec (.macVerify q) s = .next (if m.take (j.desc.par 58) = j.input.take (j.desc.par 58) then complete j (Run.output []) s
         else failedWith j stVerifyFail s)) ∧
     (∀ x, (j.input.drop (j.desc.par 57)).mapM (numeral (radixOf (j.desc.par 56))) = some x →
       let y (enc : Bool) : Bytes := (ff1 enc a.material (j.input.take (j.desc.par 57)) (radixOf (j.desc.par 56)) x).map numChar
       (Due s 0x0605 q j → exec (.ff1Tokenise q) s = .next (complete j (Run.output (y true)) s)) ∧
       (Due s 0x0606 q j → exec (.ff1Detokenise q) s = .next (complete j (Run.output (y false)) s))))

/-- Detokenisation gives back what was tokenised, for every key, tweak and numeral string (07 R201). -/
def Obligations.Ff1RoundTrip : Prop :=
  ∀ (key tweak : Bytes) (r : Nat) (x : List Nat), 2 ≤ r → 2 ≤ x.length → (∀ d ∈ x, d < r) →
    ff1 false key tweak r (ff1 true key tweak r x) = x

/-- A PIN field of any format reads back as the PIN it was made of (06 R156, R158). -/
def Obligations.PinFieldsReadBack : Prop :=
  ∀ (fmt : Nat) (pin fill : List Nat), fmt ≤ 4 → 4 ≤ pin.length → pin.length ≤ 12 → (∀ d ∈ pin, d ≤ 9) → 16 ≤ fill.length →
    (∀ d ∈ fill, d < 16) → (fmt = 3 → ∀ d ∈ fill, 10 ≤ d) → pinOf fmt (pinField fmt pin fill) = some pin

/-- PIN_TRANSLATE (06 R165, R166) and PIN_GENERATE (06 R171): the output block is the PIN's, in the output format under key B.

PIN_VERIFY_OFFSET, PIN_OFFSET_GEN (06 R167, R168), PIN_VERIFY_PVV and PVV_GEN (06 R169, R170): the deciphered PIN is compared with, or
turned into, what the card or the host holds; a block that holds no PIN is ST_FORMAT with event 0x141 (06 R158). -/
def Obligations.PinCommandsAnswer : Prop :=
  (∀ (s s₁ s₂ : State) (q : Nat) (j : Job) (b : Binding) (pan fill : List Nat), j.keyB = some b →
     (∀ (a : Binding) (ka : Bytes), Due s 0x0301 q j → j.keyA = some a →
       let inp := j.input
       let tdes := isTdes a.attrs
       let b0 := a.attrs.usage == chars2 'B' '0'
       let fin := pinFormat (j.desc.par 56) tdes
       let fout := pinFormat (j.desc.par 57) (isTdes b.attrs)
       let ksn := slice inp 16 12
       headerOk inp 40 (if b0 then (if tdes then 10 else 12) else 0) (some fin) 40 40 = true →
       (b0 = false → ka = a.material ∧ s₁ = s) →
       (b0 = true → counterOk tdes (ksnCounter tdes ksn) = true ∧
         ∃ k, transactionKey j a ksn (ksnCounter tdes ksn) s = .ok (k, s₁) ∧ ka = pinWorking a k ksn (ksnCounter tdes ksn)) →
       (fout = 1 → fin = 1) → account (slice inp 28 12) (fin != 1 || fout != 1) = .ok pan → pinSize fout ≤ j.desc.outCap →
       drawFill j fout 10 s₁ = .ok (fill, s₂) →
       exec (.pinTranslate q) s = .next (match pinOf fin (pinDec fin ka (slice inp 0 16) pan) with
         | some pin => complete j (Run.output (pinEnc fout b.material (pinField fout pin fill) pan)) s₂
         | none => failedWith j stFormat (note 0x141 5 [j.part, 0x0301] s₂))) ∧
     (Due s 0x0306 q j →
       let fout := pinFormat (j.desc.par 56) (isTdes b.attrs)
       let l := j.desc.par 57
       j.input.length = 40 → zeroAt j.input 0 28 = true → account (slice j.input 28 12) (fout != 1) = .ok pan →
       pinSize fout ≤ j.desc.outCap →
       exec (.pinGenerate q) s = .next (finish j ((do
         let ds ← drawKept j.seq j.part 250 64 l
         let fill ← drawFill j fout (14 - l)
         return Run.output (pinEnc fout b.material (pinField fout ((ds.take l).map (· % 10)) fill) pan) : Cmd Run) s) s))) ∧
  (∀ (s : State) (q : Nat) (j : Job) (a b : Binding) (pan : List Nat), j.keyA = some a → j.keyB = some b →
     let inp := j.input
     let fin := pinFormat (j.desc.par 56) (isTdes a.attrs)
     let l := j.desc.par 57
     let nat := naturalPin b.material (slice inp 40 8) ((Tab.get none (partAt s j.part).dectabs (j.desc.par 58)).getD []) l
     let off := nibbles (slice inp 48 6)
     let want := nibbles (slice inp 40 2)
     let bad := failedWith j stFormat (note 0x141 5 [j.part, j.desc.opcode.toNat] s)
     (Due s 0x0302 q j → headerOk inp 56 0 (some fin) 54 56 = true → account (slice inp 28 12) (fin != 1) = .ok pan →
       (∀ d ∈ off.take l, d ≤ 9) → (∀ d ∈ off.drop l, d = 15) →
       exec (.pinVerifyOffset q) s = .next (match pinOf fin (pinDec fin a.material (slice inp 0 16) pan) with
         | some pin => if pin.length = l ∧ addDigits nat (off.take l) = pin then complete j (Run.output []) s else failedWith j stVerifyFail s
         | none => bad)) ∧
     (Due s 0x0304 q j → headerOk inp 48 0 (some fin) 48 48 = true → account (slice inp 28 12) (fin != 1) = .ok pan →
       exec (.pinOffsetGen q) s = .next (match pinOf fin (pinDec fin a.material (slice inp 0 16) pan) with
         | some pin => if pin.length = l then complete j (Run.output (packDigits 6 (subDigits pin nat))) s else failedWith j stFormat s
         | none => bad)) ∧
     (Due s 0x0303 q j → headerOk inp 48 0 (some fin) 42 48 = true → account (slice inp 28 12) true = .ok pan → (∀ d ∈ want, d ≤ 9) →
       exec (.pinVerifyPvv q) s = .next (match pinOf fin (pinDec fin a.material (slice inp 0 16) pan) with
         | some pin => if pvvOf b.material pan l pin = want then complete j (Run.output []) s else failedWith j stVerifyFail s
         | none => bad)) ∧
     (Due s 0x0305 q j → headerOk inp 40 0 (some fin) 40 40 = true → account (slice inp 28 12) true = .ok pan →
       exec (.pvvGen q) s = .next (match pinOf fin (pinDec fin a.material (slice inp 0 16) pan) with
         | some pin => complete j (Run.output (packDigits 2 (pvvOf b.material pan l pin))) s
         | none => bad)))

/-- DECTAB_LOAD (06 R172, R173), CVV_GENERATE and CVV_VERIFY (06 R175, R176).

ARQC_VERIFY and ARPC_GENERATE (07 R187 to R189), SM_MAC, SM_ENCRYPT and SM_PIN_CHANGE (07 R190, R191): under the card's session key. -/
def Obligations.CardCommandsAnswer : Prop :=
  (∀ (s : State) (q : Nat) (j : Job),
     (∀ b : Binding, Due s 0x0307 q j → j.keyB = some b → j.input.length = 40 → zeroAt j.input 4 8 = true →
       (isTdes b.attrs = true → zeroAt j.input 32 40 = true) →
       let t := j.desc.par 56
       let table := slice j.input 8 16
       exec (.dectabLoad q) s = .next (
         if cmac (isTdes b.attrs) b.material ([BitVec.ofNat 8 j.part, BitVec.ofNat 8 t] ++ table) ≠ slice j.input 24 (blockSize (isTdes b.attrs)) then
           failedWith j stVerifyFail (note 0x143 5 [j.part, t, 1] s)
         else if tableOk table then complete j { Run.output [] with commits := [.dectab j.part t table], events := [⟨0x142, 5, [j.part, t, sha256Word table]⟩] } s
         else failedWith j stFormat (note 0x143 5 [j.part, t, 2] s))) ∧
     (∀ (a : Binding) (pan svc want : List Nat), j.keyA = some a → account (slice j.input 0 12) true = .ok pan →
       let ex := nibbles (slice j.input 12 2)
       let month := 10 * ex.getD 2 0 + ex.getD 3 0
       let v := cvvOf (isTdes a.attrs) a.material (pan ++ ex ++ svc)
       (∀ d ∈ ex, d ≤ 9) → 1 ≤ month → month ≤ 12 →
       (if j.desc.par 56 = 0 then cvvField (slice j.input 14 2) = some svc
         else zeroAt j.input 14 16 = true ∧ svc = if j.desc.par 56 = 1 then [0, 0, 0] else [9, 9, 9]) →
       (Due s 0x0406 q j → j.input.length = 16 → exec (.cvvGenerate q) s = .next (complete j (Run.output (packDigits 2 v)) s)) ∧
       (Due s 0x0407 q j → j.input.length = 18 → cvvField (slice j.input 16 2) = some want →
         exec (.cvvVerify q) s = .next (if v = want then complete j (Run.output []) s else failedWith j stVerifyFail s)))) ∧
  (∀ (s s₁ : State) (q : Nat) (j : Job) (a : Binding) (pan psn : List Nat) (atc mk : Bytes), j.keyA = some a →
     let inp := j.input
     let tdes := isTdes a.attrs
     cardMaster j a pan psn s = .ok (mk, s₁) →
     (let sk := if j.desc.par 56 = 1 then mk else sessionKey tdes mk atc
      let ac := (cardMac tdes sk (inp.drop 40) (if bitOf (byteAt inp 13).toNat 0 then 1 else 2)).take 8
      emvHeader inp = .ok (pan, psn, atc) →
      (Due s 0x0401 q j → arqcForm inp true (j.desc.par 57) = true →
        exec (.arqcVerify q) s = .next (if ac = slice inp 16 8 then complete j (Run.output (arpcOf tdes sk inp (j.desc.par 57))) s₁
          else failedWith j stVerifyFail s₁)) ∧
      (Due s 0x0402 q j → arqcForm inp false (j.desc.par 57) = true →
        exec (.arpcGenerate q) s = .next (complete j (Run.output (arpcOf tdes sk inp (j.desc.par 57))) s₁))) ∧
     (let sk := sessionKey tdes mk atc
      emvHeader inp = .ok (pan, psn, atc) →
      (let l := (byteAt inp 16).toNat
       let m := (cardMac tdes sk (inp.drop 32) 2).take l
       Due s 0x0403 q j → 33 ≤ inp.length → inp.length ≤ 4128 → zeroAt inp 17 24 = true → 4 ≤ l → l ≤ 8 → zeroAt inp (24 + l) 32 = true →
       exec (.smMac q) s = .next (
         if j.desc.par 56 = 1 then (if m = slice inp 24 l then complete j (Run.output []) s₁ else failedWith j stVerifyFail s₁)
         else if zeroAt inp 24 32 = true ∧ l ≤ j.desc.outCap then complete j (Run.output m) s₁ else failedWith j stFormat s)) ∧
      (let data := padTo (blockSize tdes) (inp.drop 16 ++ [0x80])
       Due s 0x0404 q j → 17 ≤ inp.length → inp.length ≤ 4096 → data.length ≤ j.desc.outCap →
       exec (.smEncrypt q) s = .next (complete j (Run.output (cbcEnc tdes sk (zeros (blockSize tdes)) data)) s₁))) ∧
     (∀ b : Binding, j.keyB = some b →
       let fin := pinFormat (j.desc.par 56) (isTdes b.attrs)
       let sk := sessionKey tdes mk (slice inp 42 2)
       let d (pin : List Nat) : Bytes := xorBytes (pinField 2 pin []) (zeros 4 ++ slice mk 4 4) ++ [0x80] ++ zeros 7
       Due s 0x0405 q j → headerOk inp 48 0 (some fin) 44 48 = true → byteAt inp 41 = 0 → account (slice inp 28 12) true = .ok pan →
       psnOf (byteAt inp 40) = .ok psn →
       exec (.smPinChange q) s = .next (match pinOf fin (pinDec fin b.material (slice inp 0 16) pan) with
         | some pin => complete j (Run.output (if tdes then cbcEnc true sk (zeros 8) (d pin) else blockEnc false sk (d pin))) s₁
         | none => failedWith j stFormat (note 0x141 5 [j.part, 0x0405] s₁))))

/-- The DUKPT commands (07 R193 to R198) and DUKPT_INIT_EXPORT (07 R198): under the working key of the key serial number.

A transaction counter outside its limits ends a DUKPT command with ST_COUNTER_LIMIT and event 0x163 (07 R193). -/
def Obligations.DukptCommandsAnswer : Prop :=
  (∀ (s s₁ s₂ : State) (q : Nat) (j : Job) (a : Binding) (t : Bool) (k : Bytes), j.keyA = some a →
     let inp := j.input
     let n := blockSize (workTdes a inp)
     let cbc := j.desc.par 56 == 2
     let iv := slice inp 16 n
     let data := inp.drop 32
     let form := decide (32 ≤ inp.length) && (if cbc then zeroAt inp (16 + n) 32 else zeroAt inp 16 32)
     let l := j.desc.par 57
     let wlen := if isTdes a.attrs then 16 else workLen (byteAt inp 13).toNat
     let fits := dukptMacFits (workTdes a inp) (j.desc.par 56) l wlen
     (Due s 0x0503 q j → dukptKey j ⟨false, true⟩ form true s = .ok ((t, k), s₁) → data.length % n = 0 →
       exec (.dukptEncrypt q) s = .next (complete j (Run.output (if cbc then cbcEnc t k iv data else ecbEnc t k data)) s₁)) ∧
     (Due s 0x0502 q j → dukptKey j ⟨false, false⟩ form true s = .ok ((t, k), s₁) → data.length % n = 0 →
       exec (.dukptDecrypt q) s = .next (complete j (Run.output (if cbc then cbcDec t k iv data else ecbDec t k data)) s₁)) ∧
     (∀ m, Due s 0x0504 q j → dukptKey j ⟨true, true⟩ (decide (32 ≤ inp.length) && zeroAt inp 16 32) fits s = .ok ((t, k), s₁) →
       dukptMac t k data (byteAt inp 14).toNat l = some m →
       exec (.dukptMacGenerate q) s = .next (complete j (Run.output m) s₁)) ∧
     (∀ m, Due s 0x0505 q j → dukptKey j ⟨true, false⟩ (decide (48 ≤ inp.length) && zeroAt inp 16 32) fits s = .ok ((t, k), s₁) →
       zeroAt inp (32 + l) 48 = true → dukptMac t k (inp.drop 48) (byteAt inp 14).toNat l = some m →
       exec (.dukptMacVerify q) s = .next (if m = slice inp 32 l then complete j (Run.output []) s₁ else failedWith j stVerifyFail s₁)) ∧
     (∀ (b : Binding) (ik out : Bytes), Due s 0x0501 q j → j.keyB = some b → inp.length = 16 →
       let tdes := isTdes a.attrs
       (if tdes then zeroAt inp 10 16 = true ∧ ksnCounter true inp = 0 else zeroAt inp 8 16 = true) →
       let at_ : Attrs := { Attrs.none with
         usage := chars2 'B' '1', alg := a.attrs.alg, mode := chr 'X', exp := chr 'N', mask := BitVec.ofNat 16 mKdf, version := chars2 '0' '0' }
       mayWrap b.material at_ a.material.length = true → blockLen a.material.length ≤ j.desc.outCap →
       (if tdes then derived j a 0x21 (ksnBase inp) (tdesInitial a.material inp)
         else derived j a 0x11 (slice inp 0 8) (aesInitial a.material (slice inp 0 8))) s = .ok (ik, s₁) →
       wrapOut j.seq j.part b.material at_ 0 (.node a.node a.gen) false 0 (checkValue at_ ik) ik s₁ = .ok (out, s₂) →
       exec (.dukptInitExport q) s = .next (complete j (Run.output out) s₂))) ∧
  (∀ (s : State) (q : Nat) (j : Job) (a : Binding), Due s 0x0503 q j → j.keyA = some a →
     let inp := j.input
     let n := blockSize (workTdes a inp)
     let cbc := j.desc.par 56 == 2
     let tdes := isTdes a.attrs
     let ksn := slice inp 0 12
     32 ≤ inp.length → (if cbc then zeroAt inp (16 + n) 32 else zeroAt inp 16 32) = true → byteAt inp 15 = 0 →
     (if tdes then zeroAt inp 10 12 = true else (byteAt inp 13).toNat ≤ 4 ∧
       (if workTdes a inp then (vaultAt s j.part).tdes = true else workLen (byteAt inp 13).toNat ≤ a.material.length)) →
     counterOk tdes (ksnCounter tdes ksn) = false →
     exec (.dukptEncrypt q) s = .next (failedWith j stCounterLimit
       (note 0x163 j.cluster [j.part, 0x0503, beField ksn 0 4, ksnCounter tdes ksn] s)))

/-- TIME_READ (03 R73): the stamp of T, then TIME_ERR_BOUND, of the clock as the command reads it. RANDOM (10 R296, R299): bytes of the
partition's DRBG; with parameter byte 56 bit 0 it first waits for a reseed.

HASH and HMAC (09 R263). -/
def Obligations.TimeRandomAndHashesAnswer : Prop :=
  (∀ (s s₁ : State) (q : Nat) (j : Job), j.desc.inLen = 0 →
     (∀ c : Clock, Due s 0x0A04 q j → readClock j.seq s = .ok (c, s₁) →
       exec (.timeRead q) s = .next (complete j (Run.output (leBytes 8 c.stamp ++ leBytes 8 c.bound)) s₁)) ∧
     (∀ b : Bytes, Due s 0x0801 q j →
       (bitOf (j.desc.par 56) 0 = false ∨ instServes s j.part = true ∧ j.seq ∉ s.rng.explicit ∧ j.phase ≠ .running) →
       draw j.seq j.part j.desc.outCap s = .ok (b, s₁) → exec (.random q) s = .next (complete j (Run.output b) s₁)) ∧
     (Due s 0x0801 q j → bitOf (j.desc.par 56) 0 = true → instServes s j.part = true → j.seq ∉ s.rng.explicit → j.phase = .running →
       exec (.random q) s = .next (modJob q (fun x => { x with phase := .waiting }) (modRng (fun r => { r with explicit := r.explicit ++ [q] }) s)))) ∧
  (∀ (s : State) (q : Nat) (j : Job),
     let c := j.desc.par 56
     (Due s 0x0901 q j → exec (.hash q) s = .next (complete j (Run.output
       (if c = 0x0C ∨ c = 0x0D then (List.range j.desc.outCap).map (Config.shake (c == 0x0D) j.input) else digest c j.input)) s)) ∧
     (∀ a : Binding, Due s 0x0902 q j → j.keyA = some a → exec (.hmac q) s = .next (complete j (Run.output
       ((hmac c a.material j.input).take (if j.desc.par 57 = 0 then digestLen c else j.desc.par 57))) s)))

/-- PK_SIGN (09 R256, R257, R274): the signature of the message, or of its digest, under key A, with what the scheme draws.

PK_VERIFY (09 R258, R264, R265): an input outside its range is ST_INPUT_REJECTED with event 0x1A5, a signature that does not verify
ST_VERIFY_FAIL. -/
def Obligations.SignaturesAreMadeAndVerified : Prop :=
  (∀ (s s₁ s₂ : State) (q : Nat) (j : Job) (a : Binding) (ctx m : Bytes), Due s 0x0701 q j → j.keyA = some a →
     let scheme := j.desc.par 56
     let hash := j.desc.par 57
     let k := a.pub
     sigLen scheme k ≤ j.desc.outCap → headOk j.input (usesContext k.alg) (usesPrehash scheme) false = true →
     signedPart scheme hash j.input (j.input.drop 8) = some (ctx, m) →
     (scheme = 1 → exec (.pkSign q) s = .next (finish j ((do
       let sig ← ecdsaSign j.seq j.part k.weier (beNat (slice a.material 0 (weierLen a.material))) m 8
       drawBlind j.seq (weierLen a.material)
       return Run.output sig : Cmd Run) s) s)) ∧
     (scheme = 2 → drawBlind j.seq (pubLen k.alg) s = .ok ((), s₁) → exec (.pkSign q) s = .next (complete j
       (Run.output (fit (sigLen 2 k) (Config.pkSign 2 0 k.alg a.material ctx m []))) s₁)) ∧
     (scheme = 3 → drawRsaBlind j.seq (rsaLen k.alg) s = .ok ((), s₁) → exec (.pkSign q) s = .next (complete j
       (Run.output (fit (sigLen 3 k) (Config.pkSign 3 hash k.alg a.material [] m []))) s₁)) ∧
     (∀ salt, scheme = 4 → draw j.seq j.part (digestLen hash) s = .ok (salt, s₁) → drawRsaBlind j.seq (rsaLen k.alg) s₁ = .ok ((), s₂) →
       exec (.pkSign q) s = .next (complete j (Run.output (fit (sigLen 4 k) (Config.pkSign 4 hash k.alg a.material [] m salt))) s₂)) ∧
     (∀ rnd, scheme = 5 → draw j.seq j.part 32 s = .ok (rnd, s₁) → exec (.pkSign q) s = .next (complete j
       (Run.output (fit (sigLen 5 k) (Config.pkSign 5 0 k.alg a.material ctx m rnd))) s₁))) ∧
  (∀ (s : State) (q : Nat) (j : Job) (k : PubKey) (ctx m : Bytes), Due s 0x0702 q j →
     let scheme := j.desc.par 56
     let hash := j.desc.par 57
     let rest := afterKey j
     let sig := rest.take (sigLen scheme k)
     headOk j.input (usesContext k.alg) (usesPrehash scheme) j.keyA.isNone = true → keyOf j (schemeFits scheme) = .ok k →
     sigLen scheme k ≤ rest.length → signedPart scheme hash j.input (rest.drop (sigLen scheme k)) = some (ctx, m) →
     exec (.pkVerify q) s = .next (if verifyValid scheme k sig then
         (if sigOk scheme hash k ctx m sig then complete j (Run.output []) s else failedWith j stVerifyFail s)
       else failedWith j stInputRejected (note 0x1A5 j.iguCluster [j.part, 0x0702] s)))

/-- PK_KEYPAIR and PK_AGREE (09 R259, R260).

KEM_ENCAPS, KEM_DECAPS (09 R261), RSA_ENCRYPT, RSA_DECRYPT (09 R262) and CURVE_LOAD (09 R267 to R269). -/
def Obligations.PublicKeyCommandsAnswer : Prop :=
  (∀ (s s₁ s₂ : State) (q : Nat) (j : Job),
     (∀ (a : Attrs) (i e c : Nat) (m block : Bytes), Due s 0x0703 q j →
       let alg := j.desc.par 56
       let curve := curveRaw j.curves alg
       pairTemplate alg j.input = .ok a → (0x10 ≤ alg → alg ≤ 0x13 → curve ≠ []) → (j.keyB.isSome → exportable a = true) →
       (vaultAt s j.part).master.isSome →
       16 + pubLenOf alg curve + (if j.keyB.isSome then blockLen (materialLen alg curve) else 0) ≤ j.desc.outCap →
       placeNode s j.part (materialLen alg curve) = .ok (i, e, c) → drawMaterial j alg curve s = .ok (m, s₁) →
       let n := nodeFor s₁ j.part ⟨i, slotGen s i, e, c⟩ (bitOf (j.desc.par 57) 0) a (.master (vaultAt s j.part).gen) 0 m
       (∀ b, j.keyB = some b → wrapOut j.seq j.part b.material a 0 (.master (vaultAt s j.part).gen) n.persistent (nodeHandle i n.gen) n.check m s₁
         = .ok (block, s₂)) → (j.keyB = none → block = [] ∧ s₂ = s₁) →
       exec (.pkKeypair q) s = .next (complete j (Run.creates i n (publicKey alg m ++ block)) s₂)) ∧
     (∀ a : Binding, Due s 0x0704 q j → j.keyA = some a →
       let n := pubLenOf a.pub.alg a.pub.curve
       let kdf1 := j.desc.par 56 == 1
       let zlen := if a.pub.alg = 8 then 32 else fieldBytes a.pub.alg a.pub.curve
       let rejected (s : State) : State := failedWith j stInputRejected (note 0x1A5 j.iguCluster [j.part, 0x0704] s)
       agreeHead j.input a.pub.alg n = true →
       (if kdf1 then 8 + n ≤ j.input.length ∧ j.input.length ≤ 8 + n + 256 else j.input.length = 8 + n ∧ zlen ≤ j.desc.outCap) →
       drawBlind j.seq zlen s = .ok ((), s₁) →
       exec (.pkAgree q) s = .next (
         if peerValid a.pub (slice j.input 8 n) = false then rejected s
         else match sharedSecret a (slice j.input 8 n) with
           | none => rejected s₁
           | some z => complete j (Run.output (if kdf1 then oneStepKdf z (j.input.drop (8 + n)) j.desc.outCap else z)) s₁))) ∧
  (∀ (s s₁ : State) (q : Nat) (j : Job),
     (∀ m : Bytes, Due s 0x0705 q j →
       let set := j.desc.par 56
       let n := pubLen set
       let ek := fit n (match j.keyA with | some b => publicKey set b.material | none => j.input.drop 8)
       headOk j.input false false true = true → byteAt j.input 2 = 0 →
       (if j.keyA.isSome then leField j.input 4 4 = 0 ∧ j.input.length = 8 else leField j.input 4 4 = n ∧ j.input.length = 8 + n) →
       kemKeyOk ek = true → draw j.seq j.part 32 s = .ok (m, s₁) →
       exec (.kemEncaps q) s = .next (complete j
         (Run.output (fit (kemLen set) (Config.kemEncaps set ek m).1 ++ fit 32 (Config.kemEncaps set ek m).2)) s₁)) ∧
     (∀ a : Binding, Due s 0x0706 q j → j.keyA = some a → j.desc.inLen = kemLen (j.desc.par 56) →
       exec (.kemDecaps q) s = .next (complete j (Run.output (fit 32 (Config.kemDecaps (j.desc.par 56) a.material j.input))) s)) ∧
     (∀ (k : PubKey) (seed : Bytes), Due s 0x0708 q j →
       let rest := afterKey j
       let l := (byteAt j.input 0).toNat
       let h := digestLen (oaepHash j.desc)
       headOk j.input true false j.keyA.isNone = true → keyOf j isRsa = .ok k → l ≤ rest.length →
       rest.length - l + 2 * h + 2 ≤ rsaLen k.alg → rsaLen k.alg ≤ j.desc.outCap →
       draw j.seq j.part h s = .ok (seed, s₁) →
       exec (.rsaEncrypt q) s = .next (
         if rsaKeyOk k = false then failedWith j stInputRejected (note 0x1A5 j.iguCluster [j.part, 0x0708] s)
         else complete j
           (Run.output (fit (rsaLen k.alg) (Config.oaepEncrypt (oaepHash j.desc) k.pub (rest.take l) (rest.drop l) seed))) s₁)) ∧
     (∀ a : Binding, Due s 0x0707 q j → j.keyA = some a →
       let n := rsaLen a.pub.alg
       let l := (byteAt j.input 0).toNat
       let ct := j.input.drop (8 + l)
       let room := n - 2 * digestLen (oaepHash j.desc) - 2
       room ≤ j.desc.outCap → headOk j.input true false false = true → j.input.length = 8 + l + n →
       drawRsaBlind j.seq n s = .ok ((), s₁) →
       exec (.rsaDecrypt q) s = .next (
         if (rsaKeyOk a.pub && rsaRange a.pub ct) = false then failedWith j stInputRejected (note 0x1A5 j.iguCluster [j.part, 0x0707] s)
         else match Config.oaepDecrypt (oaepHash j.desc) a.material (slice j.input 8 l) ct with
         | some m => complete j (Run.output (m.take room)) s₁
         | none => failedWith j stInputRejected (note 0x1A5 j.iguCluster [j.part, 0x0707] s₁))) ∧
     (Due s 0x0709 q j →
       let raw := j.input
       let slot := j.desc.par 56
       let bits := leField raw 0 2
       let h := (byteAt raw 2).toNat
       (bits = 0 → raw.length = 8 → zeroAt raw 3 8 = true → exec (.curveLoad q) s = .next (complete j
         { Run.output (sha256Head 8 (raw.drop 8)) with commits := [.curve j.part slot none], events := [⟨0x1A6, j.iguCluster, [j.part, slot]⟩] } s)) ∧
       (224 ≤ bits → bits ≤ 521 → 1 ≤ h → h ≤ 8 → raw.length = 9 + 7 * ceilDiv bits 8 → zeroAt raw 3 8 = true →
         exec (.curveLoad q) s = .next (match curveCause raw with
           | some cause => failedWith j stInputRejected (note 0x1A4 j.iguCluster [j.part, slot, cause] s)
           | none => complete j { Run.output (curveOf raw).digest with
               commits := [.curve j.part slot (some (curveOf raw))],
               events := [⟨0x1A3, j.iguCluster, [j.part, slot, leNat (curveOf raw).digest]⟩] } s))))

/-- TR34_IMPORT (07 R204 to R206): a message that parses, is for key A and verifies under key B is judged for freshness; a stale one is
ST_VERIFY_FAIL with event 0x162.

What a fresh TR-34 message commits (07 R205, R206): the node of its key under the vault master, and its entry in the partition's table. -/
def Obligations.Tr34Imports : Prop :=
  (∀ (s s₁ : State) (q : Nat) (j : Job) (a b : Binding) (clk : Clock), Due s 0x020F q j → j.keyA = some a → j.keyB = some b →
     readClock j.seq s = .ok (clk, s₁) →
     exec (.tr34Import q) s = .next (match trParse j.input with
       | none => failedWith j stFormat s
       | some c =>
         if ¬ ((c.scheme = 3 ∨ c.scheme = 4) ∧ c.recipient = (sha256B (publicKey a.attrs.code a.material)).take 20) then failedWith j stFormat s
         else if ¬ (c.digestOk = true ∧
             Config.pkVerify c.scheme 2 b.attrs.code (publicKey b.attrs.code b.material) [] c.signedBytes c.signature = true) then
           failedWith j stVerifyFail s
         else match staleCause clk (partAt s₁ j.part) c.signingTime (sha256Head 16 j.input) with
           | some cause => failedWith j stVerifyFail (note 0x162 j.cluster [j.part, c.signingTime, cause] s₁)
           | none => finish j (trTake j a c s₁) s)) ∧
  (∀ (s : State) (j : Job) (a : Binding) (c : Config.Cms), match trTake j a c s with
     | .ok (r, _) => ∃ i n, r.st = stOk ∧ r.commits = [.node i n, .tr34 j.part { time := c.signingTime, digest := sha256Head 16 j.input }] ∧
         r.out = keyResult (nodeHandle i n.gen) n.check ∧ n.parent = .master (vaultAt s j.part).gen ∧ n.depth = 1 ∧
         n.persistent = bitOf (j.desc.par 56) 0 ∧
         r.events = [⟨0x161, j.cluster, [j.part, (nodeHandle i n.gen).toNat, leNat n.check]⟩]
     | .error _ => True)

/-- PART_CREATE (11 R315; 12 R347): with authorisations of class 4 over the record, a record that keeps the rules makes the partition, its
master drawn from instance 256. PART_CONFIGURE (11 R313, R314): it commits the record and completes after the jobs before it.

PART_DESTROY (11 R316, R322): once authorised the partition's work is stopped; it ends, with the vault record gone, when no job of the
partition is left, and waits until then. -/
def Obligations.PartitionsAreMadeAndDestroyed : Prop :=
  (∀ (s : State) (q : Nat) (j : Job),
     let p := j.desc.par 56
     (Due s 0x0101 q j → existsPart s p = false → 64 ≤ j.input.length →
       exec (.partCreate q) s = .next (orEnd j s (judge j 4 64 (actionDigest j 64) none s) fun _ t =>
         match judgeCfg t p (j.input.take 64) with
         | .error st => failedWith j st t
         | .ok c => orEnd j s (draw j.seq 256 32 t) fun m u => complete j { Run.output [] with
               commits := [.vault p { VaultPart.absent with exists_ := true, master := some m, gen := 1 }, .config p c]
               events := [⟨0x1E1, 17, [p, j.seq]⟩] } u)) ∧
     (Due s 0x0103 q j → partState s p = 1 → j.input.length = 64 →
       exec (.partConfigure q) s = .next (match judgeCfg s p j.input with
         | .error st => failedWith j st s
         | .ok c => complete j { Run.output [] with
             commits := [.config p c], drain := .all, events := [⟨0x1E3, 17, [p, leField (sha256Head 4 j.input) 0 4]⟩] } s))) ∧
  (∀ (s : State) (q : Nat) (j : Job), Due s 0x0102 q j →
     let p := j.desc.par 56
     let gone (t : State) : State := if partStopped t p then complete j (destroyed t p VaultPart.absent []) t
       else modJob q (fun x => { x with phase := .waiting }) t
     (j.phase = .waiting → (partAt s p).destroying = true → exec (.partDestroy q) s = .next (gone s)) ∧
     (j.phase ≠ .waiting → partState s p = 1 → p ≠ 0 →
       exec (.partDestroy q) s = .next (orEnd j s (judge j 4 0 (actionDigest j 0) none s) fun _ t => gone (beginDestroy p t))))

/-- PART_FREEZE (11 R323): it stops fetching, cancels background work and waits until the partition is quiet; then it commits FROZEN.
PART_THAW (11 R324): the partition runs on, any copy made of it being void.

TDES_SET (08 R230, R231): enabling needs authorisations of class 5 and takes effect with its commit; disabling needs none and completes
once no job bound to a TDES key of the partition is left. -/
def Obligations.PartitionsFreezeThawAndSetTdes : Prop :=
  (∀ (s : State) (q : Nat) (j : Job), j.desc.inLen = 0 →
     let p := j.desc.par 56
     (Due s 0x0104 q j → (j.phase = .waiting ∨ partState s p = 1 ∧ p ≠ 0) →
       exec (.partFreeze q) s = .next (
         let t := beginFreeze p s
         if partQuiet t p then complete j { Run.output [] with
             commits := [.vault p { vaultAt t p with frozen := true }], events := [⟨0x1E5, 17, [p]⟩] } t
           else modJob q (fun x => { x with phase := .waiting }) t)) ∧
     (Due s 0x0105 q j → partState s p = 3 → (vaultAt s p).mig ≠ 3 →
       exec (.partThaw q) s = .next (complete j { Run.output [] with
         commits := [.vault p { vaultAt s p with frozen := false, mig := 0, lost := false }]
         events := [⟨0x1E6, 17, [p, (vaultAt s p).mig]⟩] } s))) ∧
  (∀ (s : State) (q : Nat) (j : Job),
     let p := j.desc.par 56
     (Due s 0x0108 q j → j.desc.par 57 = 1 →
       exec (.tdesSetEnable q) s = .next (orEnd j s (judge j 5 0 (actionDigest j 0) none s) fun _ t =>
         if partState t p = 1 ∨ partState t p = 3 then complete j { Run.output [] with
           commits := [.vault p { vaultAt t p with tdes := true }], events := [⟨0x183, 6, [p, 1, j.seq]⟩] } t
         else failedWith j stStateReject t)) ∧
     (Due s 0x0108 q j → j.desc.par 57 = 0 → j.desc.inLen = 0 → (partState s p = 1 ∨ partState s p = 3) →
       exec (.tdesSetDisable q) s = .next (complete j { Run.output [] with
         commits := [.vault p { vaultAt s p with tdes := false }], drain := .tdes, events := [⟨0x183, 6, [p, 0, j.seq]⟩] } s)))

/-- PART_SAVE (11 R328 to R333): saving leaves the partition frozen in sub-state 2 with the image as output, its serial, nonce and digest kept
for the release, and events naming them; a release destroys the partition and issues the slip; a stored release is issued anew.

PART_RESTORE (11 R327, R331 to R334): an offer leaves sub-state 1 with the offered keys kept; a restored image needs sub-state 1 and
authorisations, and leaves sub-state 3 with the master and everything of the image, the addresses of the window staying the partition's own;
an activation needs sub-state 3 and ends ACTIVE; an abort returns to sub-state 0 and takes the master of a restored partition away. -/
def Obligations.PartitionsMigrate : Prop :=
  (∀ (s : State) (q : Nat) (j : Job), Due s 0x0106 q j →
     let p := j.desc.par 56
     (stepIs 2 j = false → stepIs 3 j = false → exec (.partSaveSave q) s = .next (finish j (partSaveRun j s) s) ∧
       (match partSaveRun j s with
        | .ok (r, t) => partState s p = 3 ∧ (vaultAt s p).mig ≠ 3 ∧ r.st = stOk ∧
           r.commits = [.vault p { vaultAt s p with mig := 2 }] ∧ r.drain = .none ∧
           ∃ serial, (partAt t p).migr.images.getLast? = some (serial, slice j.input (16 + 24) 32, imageDigest r.out) ∧
             r.events = [⟨0x1E7, 17, [p, leNat serial, leNat (imageDigest r.out)]⟩]
        | .error _ => True)) ∧
     (stepIs 2 j = true → exec (.partSaveRelease q) s = .next (finish j (partReleaseRun j s) s) ∧
       (match partReleaseRun j s with
        | .ok (r, t) => partState s p = 3 ∧ (vaultAt s p).mig = 2 ∧ r.st = stOk ∧ r.drain = .none ∧
           (∃ x ∈ (partAt s p).migr.images, receiptNames s j (slice j.input 16 3517) x.1 x.2.1 x.2.2 = true) ∧
           r.commits = [.vault p { VaultPart.absent with release := some (slice j.input (16 + 36) 32, slice j.input (16 + 68) 32) }] ∧
           r.events = [⟨0x1E2, 17, [p, nodeCount t p]⟩, ⟨0x1E9, 17, [p, leNat (slice j.input (16 + 4) 16), leNat (slice j.input (16 + 36) 32)]⟩]
        | .error _ => True)) ∧
     (∀ r : Bytes, stepIs 3 j = true → itemsOf j.input 3 1 = some [r] → r.length = 3517 → 3517 ≤ j.desc.outCap →
       (vaultAt s p).release = some (slice r 36 32, slice r 68 32) → slice r 20 16 = jobSerial s j → byteAt r 1 = 3 → (byteAt r 2).toNat = p →
       exec (.partSaveReissue q) s = .next (orEnd j s (signSlip 4 j (slice r 4 16) (slice r 36 32) (slice r 68 32) s)
         fun b t => complete j (Run.output b) t))) ∧
  (∀ (s : State) (q : Nat) (j : Job), Due s 0x0107 q j →
     let p := j.desc.par 56
     let v := vaultAt s p
     (stepIs 2 j = false → stepIs 3 j = false → stepIs 4 j = false → exec (.partRestoreOffer q) s = .next (finish j (partOfferRun j s) s) ∧
       (match partOfferRun j s with
        | .ok (r, t) => partState s p = 3 ∧ v.mig ≤ 1 ∧ r.st = stOk ∧ r.commits = [.vault p { v with mig := 1 }] ∧ r.drain = .none ∧ r.events = [] ∧
           ∃ head kem ec sig, (partAt t p).migr.offer = some (head, kem, ec) ∧ r.out = head ++ sig ∧ (head.take 3) = [1, 1, BitVec.ofNat 8 p]
        | .error _ => True)) ∧
     (stepIs 2 j = true → exec (.partRestoreRestore q) s = .next (finish j (partRestoreRun j s) s) ∧
       (match partRestoreRun j s with
        | .ok (r, _) => partState s p = 3 ∧ v.mig = 1 ∧ r.st = stOk ∧ r.drain = .none ∧
           ∃ master gen tdes c rest, r.commits = .vault p { v with master := some master, gen := gen, tdes := tdes, mig := 3 } :: .config p c :: rest ∧
             master.length = 32
        | .error _ => True)) ∧
     (stepIs 3 j = true → exec (.partRestoreActivate q) s = .next (finish j (partActivateRun j s) s) ∧
       (match partActivateRun j s with
        | .ok (r, t) => partState s p = 3 ∧ v.mig = 3 ∧ t = s ∧ r = { Run.output [] with
            commits := [.vault p { v with mig := 0, frozen := false }], events := [⟨0x1EA, 17, [p, leNat (slice j.input (16 + 4) 16)]⟩] }
        | .error _ => True)) ∧
     (stepIs 4 j = true → partState s p = 3 → (itemsOf j.input 4 1).isSome = true → exec (.partRestoreAbort q) s = .next (
       orEnd j s (judge j 8 16 (actionDigest j 16) none s) fun _ t =>
         if v.mig = 2 then failedWith j stStateReject t
         else if v.mig = 0 then complete j (Run.output []) t
         else complete j { Run.output [] with
           commits := [.vault p { v with mig := 0, master := if v.mig = 3 then none else v.master }], events := [⟨0x1EB, 17, [p, v.mig]⟩] } t)))

/-- AUTH_CHALLENGE (12 R345): a fresh challenge and the stamp of its issue; of 16 outstanding the oldest goes.

CUSTODIAN_SESSION (12 R352 to R356): opening needs an enrolled custodian and leaves the signed offer as the session; an exchange needs the
session, closes it whatever it finds, and puts the component it brings into its slot, from a custodian that has none there yet; closing ends
the session. -/
def Obligations.SessionsBringComponents : Prop :=
  (∀ (s s₁ s₂ : State) (q : Nat) (j : Job) (c : Bytes) (clk : Clock), Due s 0x0109 q j → j.desc.inLen = 0 →
     draw j.seq 0 32 s = .ok (c, s₁) → readClock j.seq s₁ = .ok (clk, s₂) →
     exec (.authChallenge q) s = .next (complete j (Run.output (c ++ leBytes 8 clk.stamp))
       { s₂ with cust := { s₂.cust with challenges :=
         (s₂.cust.challenges.drop (s₂.cust.challenges.length - 15)) ++ [(c, s₂.time.mono)] } })) ∧
  (∀ (s : State) (q : Nat) (j : Job), Due s 0x010A q j →
     let c := j.desc.par 56
     (j.desc.par 57 = 1 → exec (.custodianSessionOpen q) s = .next (finish j (sessionOpenRun j s) s) ∧
       (match sessionOpenRun j s with
        | .ok (r, t) => (enrolled s c).isSome = true ∧ r.st = stOk ∧ r.commits = [] ∧ r.drain = .none ∧ r.events = [⟨0x205, 18, [c]⟩] ∧
           ∃ x sig, sessionAt t c = some x ∧ r.out = x.offer ++ sig ∧ x.offer.take 4 = [1, 0x20, BitVec.ofNat 8 c, 0] ∧ x.opened = t.time.mono
        | .error _ => True)) ∧
     (j.desc.par 57 = 2 → exec (.custodianSessionExchange q) s = .next (finish j (sessionExchangeRun j s) s) ∧
       (match sessionExchangeRun j s with
        | .ok (r, t) => (sessionAt s c).isSome = true ∧ t = setSession c none s ∧ r.st = stOk ∧ r.drain = .none ∧
           ∃ comp load, let target := (byteAt j.input 3).toNat
             let slot := (byteAt j.input 4).toNat
             1 ≤ slot ∧ slot ≤ 8 ∧ load.master = target ∧ (∀ x ∈ load.slots, x.1 ≠ slot ∧ x.2.2 ≠ c) ∧
             (load.slots ≠ [] → s.vault.load = some load) ∧
             r.commits = [.pendingLoad (some { load with slots := load.slots ++ [(slot, comp, c)] })] ∧
             r.out = [BitVec.ofNat 8 slot, 5] ++ (cmac false comp (zeros 16)).take 5 ++ [0]
        | .error (.fail _ t) => t = s ∨ t = setSession c none s
        | .error _ => False)) ∧
     (j.desc.par 57 = 3 → j.desc.inLen = 0 → (sessionAt s c).isSome = true →
       exec (.custodianSessionClose q) s = .next (complete j (Run.output []) (setSession c none s))))

/-- CUSTODIAN_ENROL (12 R341, R342): with authorisations of class 1, and the proof of possession of a new key, the entry is written or
removed, unless another custodian has the key or a rule that could be met no longer could.

MASTER_LOAD (12 R357): with authorisations of class 3, the components of slots 1 to n, XORed, are the master if their check value is the
one named; the generation moves on and the pending load ends.

POLICY_SET (12 R344, R358; 13 R371): the tamper policy, the 11 rules and the cell-service window, each with authorisations of its class,
and each judged after them. -/
def Obligations.CustodianCommandsCommit : Prop :=
  (∀ (s : State) (q : Nat) (j : Job), Due s 0x010B q j →
     let c := j.desc.par 56
     let g := j.desc.par 57
     let alg := byteAt j.input 0
     let n := leField j.input 4 4
     let pub := slice j.input 8 n
     8 + n ≤ j.input.length → zeroAt j.input 1 4 = true →
     (alg = 0 → n = 0 → exec (.custodianEnrol q) s = .next (orEnd j s (judge j 1 8 (actionDigest j 8) none s) fun _ t =>
       if rulesKept t c none = false then failedWith j stFormat t
       else complete j { Run.output [] with
         commits := [.custodian c none []], events := (custEntry t c).toList.map fun e => ⟨0x202, 18, [c, e.group]⟩ } t)) ∧
     ((alg = 0x02 ∧ n = 97 ∨ alg = 0x39 ∧ n = 1952) →
       exec (.custodianEnrol q) s = .next (orEnd j s (judge j 1 (8 + n) (actionDigest j (8 + n)) (some (c, alg, pub)) s) fun _ t =>
         if ((List.range 32).any fun k => k != c && (enrolled t k).isSome && custPub t k == pub) = true ∨ rulesKept t c (some g) = false then
           failedWith j stFormat t
         else complete j { Run.output [] with
           commits := [.custodian c (some { alg := alg, group := g, digest := sha384B pub }) pub]
           events := [⟨0x201, 18, [c, g, alg.toNat, leField (sha384B pub) 0 2]⟩] } t))) ∧
  (∀ (s : State) (q : Nat) (j : Job), Due s 0x010C q j →
     let m := j.desc.par 56
     let n := j.desc.par 57
     8 ≤ j.input.length → byteAt j.input 0 = 5 → zeroAt j.input 6 8 = true →
     exec (.masterLoad q) s = .next (orEnd j s (judge j 3 8 (actionDigest j 8) none s) fun _ t =>
       if ¬ (m = 0 ∨ partState t m = 1 ∨ partState t m = 3) then failedWith j stStateReject t
       else match t.vault.load with
         | none => failedWith j stFormat t
         | some l =>
           if ¬ (2 ≤ n ∧ l.master = m ∧ slotsFilled l n = true) then failedWith j stFormat t
           else if (cmac false (masterOf l n) (zeros 16)).take 5 ≠ slice j.input 1 5 then failedWith j stKeyVerifyFail t
           else
             let v := vaultAt t m
             complete j { Run.output [] with
               commits := [.vault m { v with master := some (masterOf l n), gen := nextGen v.gen }, .pendingLoad none]
               change := some (0x20000 + m), drain := .bound
               events := [⟨0x103, 4, [m, v.gen, nextGen v.gen]⟩,
                 ⟨0x208, 18, [m, n, (l.slots.map fun x => 2 ^ x.2.2).sum, leNat (slice j.input 1 5)]⟩] } t)) ∧
  (∀ (s : State) (q : Nat) (j : Job), Due s 0x010D q j →
     let inp := j.input
     let es := (List.range 7).map fun i => slice inp (8 * i) 8
     (j.desc.par 56 = 1 → 64 ≤ inp.length → exec (.policySetTamper q) s = .next (orEnd j s (judge j 6 64 (actionDigest j 64) none s) fun _ t =>
       if zeroAt inp 56 64 && es.all (fun e => zeroAt e 2 4) && (List.range 7).all fun i => policyOk i ((es.map policyEntry).getD i (policyDefault 5)) then
         complete j { Run.output [] with
           commits := [.policy (es.map policyEntry)], events := [⟨0x226, 19, [leField (sha256Head 4 (inp.take 56)) 0 4]⟩] } t
       else failedWith j stFormat t)) ∧
     (j.desc.par 56 = 2 → 44 ≤ inp.length → exec (.policySetRules q) s = .next (orEnd j s (judge j 2 44 (actionDigest j 44) none s) fun _ t =>
       match rulesOf (inp.take 44) with
       | none => failedWith j stFormat t
       | some rs => if rs.all fun r => meets r ((enrolledAll t).map fun e => e.2.group) then
           complete j { Run.output [] with commits := [.rules rs], events := [⟨0x209, 18, [leField (setDigest (custTable t) rs) 0 4]⟩] } t
         else failedWith j stFormat t)) ∧
     (j.desc.par 56 = 3 → 8 ≤ inp.length → exec (.policySetCellWindow q) s = .next (orEnd j s (judge j 7 8 (actionDigest j 8) none s) fun _ t =>
       let secs := leField inp 0 2
       let cells := (byteAt inp 2).toNat
       if 60 ≤ secs ∧ secs ≤ 3600 ∧ 1 ≤ cells ∧ cells ≤ 3 ∧ zeroAt inp 3 8 = true then
         complete j { Run.output [] with commits := [.window cells secs], events := [⟨0x20A, 18, [1, cells, secs]⟩] } t
       else failedWith j stFormat t)))

/-- LC_TRANSITION (14 R394 to R398): the state it leaves and its authority are judged first; the move is recorded and its erase begun; it
waits for the read-back; then the stage word is written, which takes 160 µs, and the command ends with event 0x241. -/
def Obligations.TransitionsGoByStages : Prop :=
  ∀ (s s₁ : State) (q : Nat) (j : Job) (own : Bytes), Due s 0x010E q j →
    let dst := j.desc.par 56
    let auth := (byteAt j.input 0).toNat
    let src := (byteAt own 0).toNat
    let waits (t : State) : State := modJob q (fun x => { x with phase := .waiting }) t
    let ends (u : State) : State := if erasing u then waits u else match u.nv.writing with
      | none => waits { lcAfterErase dst u with nv := { (lcAfterErase dst u).nv with writing := some (dst - 1, (lcAfterErase dst u).time.mono) } }
      | some (_, t) => if u.time.mono < 160000 + t then waits u
        else complete j { Run.output [] with events := [⟨0x241, 20, [lcCode u, dst, j.seq]⟩] } (lcWrite dst u)
    let starts (t : State) : State := if dst = 3 ∧ deployable t = false then failedWith j stStateReject t
      else
        let u := lcErase dst j.seq (setTransition (some dst) t)
        if dst = 2 ∨ dst = 4 ∨ dst = 5 then waits u else ends u
    (j.phase ≠ .waiting → share j.seq 2 (fun s => ([BitVec.ofNat 8 (lcCode s), BitVec.ofNat 8 (b2n (bootstrap s))], s)) s = .ok (own, s₁) →
      8 ≤ j.input.length → zeroAt j.input 1 8 = true → lcAuthority src dst auth (byteAt own 1 == 1) = true →
      (auth = 1 → exec (.lcTransition q) s = .next (orEnd j s (judge j 0x0A 8 (actionDigest j 8) none s₁) fun _ t => starts t)) ∧
      (auth = 2 → exec (.lcTransition q) s = .next 
        (orEnd j s (certCheck j (j.input.drop 8) (if src = 4 ∨ src = 0xFF then 0x31 else 0x30) dst s₁) fun _ t => starts t))) ∧
    (j.phase = .waiting → exec (.lcTransition q) s = .next (ends s))

/-- FW_UPDATE (14 R407): loading writes the input into the slot that does not run, offset 0 erasing it first, and clears the mark; an
activation with authorisations of class 9 marks a slot whose image verifies.

DEBUG_CERT_ACCEPT (14 R402, R403): an authorisation list where the state asks for one, a certificate of type 0x32, and rights of the table
open the session; a right of the secret-adjacent class first brings response 4 and waits for its read-back.

ATTEST (12 R359, R361): the statement and the identity signature over it. -/
def Obligations.FirmwareDebugAndAttestation : Prop :=
  (∀ (s : State) (q : Nat) (j : Job), Due s 0x010F q j →
     let b := !s.pwr.running
     let off := leField j.desc.params 4 4
     (j.desc.par 56 = 1 → exec (.fwUpdateLoad q) s = .next (
       if off + j.input.length ≤ slotSize then
         let t := { s with nv := { s.nv with pending := false } }
         complete j (Run.output []) (slotWrite b off j.input (if off = 0 then slotErase b t else t))
       else failedWith j stFormat s)) ∧
     (j.desc.par 56 = 2 → exec (.fwUpdateActivate q) s = .next (orEnd j s (judge j 9 0 (actionDigest j 0) none s) fun _ t =>
       let b := !t.pwr.running
       if slotVerifies t b = false then failedWith j stVerifyFail t
       else complete j { Run.output [] with events := [⟨0x247, 20, [b2n b, slotVersion t b, leField (slotHeader t b) 16 4]⟩] }
         { t with nv := { t.nv with pending := true } }))) ∧
  (∀ (s s₁ : State) (q : Nat) (j : Job) (own : Bytes), Due s 0x0110 q j →
     let rights := leField j.input 68 4
     let secret := secretRights (BitVec.ofNat 11 rights)
     let waits (t : State) : State := modJob q (fun x => { x with phase := .waiting }) t
     let opens (t : State) : State := complete j { Run.output [] with events := [⟨0x244, 20, [rights, leField j.input 60 8, b2n secret]⟩] }
       (openDebug rights (leField j.input 60 8) t)
     let checks (t : State) : State := orEnd j s (certCheck j (j.input.take certLen) 0x32 0 t) fun _ t =>
       if rightsKnown rights = false then failedWith j stFormat t
         else if secret then waits (applyResponse 4 t) else opens t
     (j.phase = .waiting → exec (.debugCertAccept q) s = .next (if secret && erasing s then waits s else opens s)) ∧
     (j.phase ≠ .waiting → share j.seq 1 (fun s => ([BitVec.ofNat 8 (lcCode s)], s)) s = .ok (own, s₁) →
       ((byteAt own 0 = 2 ∨ byteAt own 0 = 3) → certLen < j.input.length →
         exec (.debugCertAccept q) s = .next (orEnd j s (judge j 0x0B certLen (actionDigest j certLen) none s₁) fun _ t => checks t)) ∧
       (byteAt own 0 ≠ 2 → byteAt own 0 ≠ 3 → j.input.length = certLen → exec (.debugCertAccept q) s = .next (checks s₁)))) ∧
  (∀ (s s₁ : State) (q : Nat) (j : Job) (b : Bytes), Due s 0x0111 q j → j.input.length = 32 →
     share j.seq 256 (fun s => (attestation s j j.input, s)) s = .ok (b, s₁) →
     exec (.attest q) s = .next (orEnd j s (hybridSign j b s₁) fun sig t => complete j (Run.output (b ++ sig)) t))

/-- PAIR_STATUS (15 R438, R439, R442): the read; a hand-over, which an active in step begins and which ends once HANDOVER has gone; a repair,
which begins a catch-up, with the vault copied only under authorisations of class 8, and ends in step. -/
def Obligations.PairStatusAnswers : Prop :=
  ∀ (s s₁ : State) (q : Nat) (j : Job) (b : Bytes), Due s 0x0112 q j →
    let waits (t : State) : State := modJob q (fun x => { x with phase := .waiting }) t
    (j.desc.par 56 = 0 → j.desc.inLen = 0 → share j.seq 64 (fun s => (pairStatusBytes s, s)) s = .ok (b, s₁) →
      exec (.pairStatusRead q) s = .next (complete j { Run.output b with st := if byteAt b 0 = 5 then stDiverged else stOk } s₁)) ∧
    (j.desc.par 56 = 2 → j.desc.inLen = 0 → exec (.pairStatusHandover q) s = .next (
      if j.phase = .waiting then
        (if s.pair.handing = some q ∧ s.pair.handover = true then complete j (Run.output []) s else waits s)
      else if s.pair.role = 1 ∧ s.pair.state = .inStep ∧ s.pair.handing = none then
        waits (modPair (fun p => { p with handing := some q, handover := false }) s)
      else failedWith j stStateReject s)) ∧
    (j.desc.par 56 = 1 → exec (.pairStatusRepair q) s = .next (
      if j.phase = .waiting then (if s.pair.state = .inStep then complete j (Run.output []) s else waits s)
      else if mayRepair s = false ∨ repairOk s = false then failedWith j stStateReject s
      else
        let (same, s₁) := freeBelow 2 s
        if same ≠ 1 then failedWith j stStateReject s₁
        else
          let (matching, s₂) := freeBelow 2 s₁
          if matching = 1 then (if j.desc.inLen = 0 then waits (startCatchup (some q) false s₂) else failedWith j stFormat s₂)
          else
            let (boot, s₃) := freeBelow 2 s₂
            if boot ≠ 1 then failedWith j stAuthRequired s₃
            else orEnd j s (judge j 8 0 (actionDigest j 0) none s₃) fun _ t => waits (startCatchup (some q) true t)))

/-- CANCEL (03 R66, R67): as it first runs, its targets not dispatched end with ST_CANCELLED and dispatched ones are marked, those that
already stand at a yield point ending at once; it waits while one of them is live; then its status tells whether there were none, whether one was cancelled, or all had gone too far. -/
def Obligations.CancelsMarkAndWait : Prop :=
  ∀ (s s₁ : State) (q : Nat) (j : Job) (b : Bytes), Due s 0x0A03 q j → j.desc.inLen = 0 →
    let waits (t : State) : State := modJob q (fun x => { x with phase := .waiting }) t
    let ts := ((earlierJobs s j).filter (cancelScope j.desc)).map (·.seq)
    let marked := modJob q (fun x => { x with afterDone := ts }) (ts.foldl cancelTarget s)
    let live (t : State) (l : List Nat) : Bool := t.jobs.any fun k => l.contains k.seq && k.live
    (j.phase ≠ .waiting → live marked ts = true → exec (.cancel q) s = .next (waits marked)) ∧
    (j.phase ≠ .waiting → live marked ts = false →
      share q 2 (fun s => (leBytes 2 (cancelStatus s ts).toNat, s)) marked = .ok (b, s₁) →
      exec (.cancel q) s = .next (complete j { Run.output [] with st := BitVec.ofNat 16 (leNat b) } s₁)) ∧
    (j.phase = .waiting → live s j.afterDone = true → exec (.cancel q) s = .next (waits s)) ∧
    (j.phase = .waiting → live s j.afterDone = false →
      share q 2 (fun s => (leBytes 2 (cancelStatus s j.afterDone).toNat, s)) s = .ok (b, s₁) →
      exec (.cancel q) s = .next (complete j { Run.output [] with st := BitVec.ofNat 16 (leNat b) } s₁))

/-- What an own job tells of its own module is what the module has, and the module stays as it is but for its frames to the standby (log entry
32); the clock a command reads is the module's own: T, the state of NTB, TIME_ERR_BOUND (02 R34 to R36). -/
def Obligations.CommandsTellTheirOwn : Prop :=
  ∀ (s : State) (op : W16) (q : Nat) (j : Job), Due s op q j →
    let kept (t : State) : Prop := t.time = s.time ∧ t.rng = s.rng ∧ t.parts = s.parts ∧ t.mas = s.mas ∧ t.vault = s.vault ∧ t.nv = s.nv ∧
      t.rings = s.rings ∧ t.eng = s.eng
    (∀ (n : Nat) (f : State → Bytes), 0 < n → ∃ t, share j.seq n (fun s => (f s, s)) s = .ok (fit n (f s), t) ∧ kept t) ∧
    ∃ c t, readClock j.seq s = .ok (c, t) ∧ kept t ∧ c.t = ntbNow s ∧ c.state = s.time.state.code ∧ c.bound = errBound s ∧
      c.stamp = (stamp s).toNat

/-- The rings' registers (03 R50 to R61): a doorbell write in range at an enabled ring is the new index, any other sets DB_ERR; a ring that
may run is enabled with its indices at 0 and CFG_ERR is set for one that may not; disabling only clears EN; a moderation period that has run
out sends the message; an unmasked vector sends what is pending. -/
def Obligations.RingRegistersAct : Prop :=
  ∀ (s : State) (p : Fin 256) (r : Fin 16) (word : Bool) (v : W32), s.takesWrites →
    let g := ringAt s p r
    let good := word = true ∧ v.toNat < g.size ∧ g.en = true
    let mods (f : Ring → Ring) : Host.Outcome State Fault Refusal := .next (modRing p r f s)
    (good → exec (.sqTail p r word v) s = mods fun g => { g with sqTail := v.toNat }) ∧
    (¬ good → exec (.sqTail p r word v) s = mods fun g => { g with dbErr := true }) ∧
    (good → exec (.cqHead p r word v) s = mods fun g => { g with cqHead := v.toNat }) ∧
    (¬ good → exec (.cqHead p r word v) s = mods fun g => { g with dbErr := true }) ∧
    (g.en = true → exec (.ringEnable p r) s = .next s) ∧
    (g.en = false → 6 ≤ g.log2 → g.log2 ≤ 16 → existsPart s p = true → s.pwr.ready = true → ringIdle s p r = true →
      exec (.ringEnable p r) s = mods fun g =>
        { g with en := true, sqHead := 0, sqTail := 0, cqTail := 0, cqHead := 0, phase := true, reserved := 0 }) ∧
    (g.en = false → ¬ (6 ≤ g.log2 ∧ g.log2 ≤ 16 ∧ existsPart s p = true ∧ s.pwr.ready = true ∧ ringIdle s p r = true) →
      exec (.ringEnable p r) s = mods fun g => { g with cfgErr := true }) ∧
    (exec (.ringDisable p r) s = mods fun g => { g with en := false }) ∧
    (g.modCount ≠ 0 → g.modFirst + 1000 * g.timer ≤ s.time.mono →
      exec (.intModerationTimer p r) s = .next (sendMsix p g.vector (modRing p r (fun g => { g with modCount := 0, modFirst := 0 }) s))) ∧
    (∀ v : Fin 64, p.val = 0 ∨ v.val < 8 → exec (.msixVectorUnmask p v) s = .next (
      let t := { s with msix := Tab.modify Vector_.reset s.msix (64 * p.val + v.val) fun x => { x with mask := false, pend := false } }
      if (vectorAt s p v).mask = true ∧ (vectorAt s p v).pend = true then emit (.msix p v) t else t))

/-- DESCRIPTOR_FETCH, DESCRIPTOR_ARRIVAL and FENCE_RELEASE (03 R51 to R55; 04 R94): one read of up to 8 descriptors of the partition and ring
in turn, for which slots are reserved; each descriptor waits on its ring until its checks may be made; a failed read disables the ring. -/
def Obligations.DescriptorsAreFetched : Prop :=
  (∀ (s : State) (p r : Nat), decide (s.cirq.fetchLast ∈ fetchParts s ∧ 0 < (partAt s s.cirq.fetchLast).deficit) = false →
    nextAfter 256 s.cirq.fetchLast (fetchParts s) = some p →
    let t := modPart p (fun x => { x with deficit := x.deficit + x.cfg.weight }) s
    let t := { t with cirq := { t.cirq with fetchLast := p } }
    nextAfter 16 (partAt t p).ringLast (fetchRings t p) = some r →
    let u := modPart p (fun x => { x with ringLast := r }) t
    let g := ringAt u p r
    let n := fetchCount u p r
    ringsInside u p r = true → exec .descriptorFetch s = .next (
      modRing p r (fun g => { g with
        reads := g.reads ++ [{ first := g.sqHead, count := n, discard := false, issued := s.time.mono }]
        sqHead := (g.sqHead + n) % g.size, reserved := g.reserved + n })
      (modPart p (fun x => { x with deficit := x.deficit - n }) (emit (.hostRead p (g.sqBase.toNat + 64 * g.sqHead) (64 * n)) u)))) ∧
  (∀ s : State, fetchParts s = [] → exec .descriptorFetch s = .next s) ∧
  (∀ (s : State) (p : Fin 256) (r : Fin 16) (f : FetchRead) (rest : List FetchRead), (ringAt s p r).reads = f :: rest →
    (f.discard = true → ∀ x, exec (.descriptorArrival p r x) s =
      .next (modRing p r (fun x => { x with reads := rest, reserved := x.reserved - f.count }) s)) ∧
    (f.discard = false → ∀ c, exec (.descriptorArrival p r (.failed c)) s = .next (failRead p r (ringAt s p r) f.count s)) ∧
    (∀ bs : Bytes, f.discard = false → bs.length = 64 → 1 < f.count → exec (.descriptorArrival p r (.data bs)) s = .next (
      let t := modRing p r (fun x => { x with
        reads := { f with first := f.first + 1, count := f.count - 1 } :: rest, held := x.held ++ [(f.first, bs)] }) (countRead 64 0x20 0 s)
      releaseHeldDescs p r (ringAt t p r).held.length t)) ∧
    (∀ bs : Bytes, f.discard = false → bs.length = 64 → f.count = 1 → exec (.descriptorArrival p r (.data bs)) s = .next (
      let t := modRing p r (fun x => { x with reads := rest, held := x.held ++ [(f.first, bs)] }) (noteRead f.issued (countRead 64 0x20 0 s))
      releaseHeldDescs p r (ringAt t p r).held.length t))) ∧
  (∀ (s : State) (p : Fin 256) (r : Fin 16) (i : Nat) (b : Bytes), (ringAt s p r).held = [(i, b)] → mayTake s p r b = true →
    exec (.fenceRelease p r) s = .next (takeIn p r i b (modRing p r (fun g => { g with held := [] }) s)))

/-- JOB_DISPATCH, JOB_INPUT_ARRIVAL, BLOB_LOAD and HOST_READ_TIMEOUT (04 R95, R97; 03 R569; 05 R131, R132; 20 R568). -/
def Obligations.JobsGetTheirInput : Prop :=
  (∀ (s : State) (j : Job) (round : Bool) (e : Nat), s.jobs ≠ [] → nextDispatch s = some (j, false, round) → missesAtDispatch s j = false →
    freeEngine s = some e → round = false → exec .jobDispatch s = .next (progress j.seq (modJob j.seq (fun x =>
      { x with phase := .reading, ran := true, thread := some e })
      (if j.desc.cls = 0 then s else modPart j.part (fun x => { x with bgSpent := x.bgSpent + 1 }) s)))) ∧
  (∀ (s : State) (q off a n t : Nat) (j : Job), findJob s q = some j → j.phase = .reading → off < 2 ^ 40 → j.readAt off = some (a, n, t) →
    (∀ c, exec (.jobInputArrival q off (.failed c)) s = .next (inputFailed j off s)) ∧
    (∀ bs : Bytes, bs.length = n → j.doomed = false → exec (.jobInputArrival q off (.data bs)) s = .next (progress q (modJob q
      (fun x => { x with pieces := Tab.put x.pieces off bs })
      (sendData q (j.blobBytes + off) bs (noteRead t (countRead n (jobMaster j) j.desc.opcls (dropRead q off s))))))) ∧
    (timeoutNs s + t ≤ s.time.mono → exec (.hostReadTimeout (.input q off)) s = .next (inputFailed j off s))) ∧
  (∀ (s : State) (q : Nat) (second : Bool) (j : Job) (x : Nat × Nat × Nat) (c : ReadFail) (b : ReadResult), findJob s q = some j →
    j.readAt (blobOff second) = some x → j.doomed = false →
    let base := match (partAt s j.part).blobTable with | some (b, _) => b | none => 0
    let failed (s : State) : State := blobFailed j second 0 stKeyGone
      (partError j.part true (base + 16 * hIndex (j.desc.handle second)) 1 j.ring j.desc.opcode (dropRead q (blobOff second) s))
    exec (.blobLoad q second (.failed c) b) s = .next (failed s) ∧
    (timeoutNs s + x.2.2 ≤ s.time.mono → exec (.hostReadTimeout (.blob q second)) s = .next (failed s))) ∧
  (∀ (s : State) (p : Fin 256) (r : Fin 16) (f : FetchRead) (rest : List FetchRead), (ringAt s p r).reads = f :: rest → f.discard = false →
    timeoutNs s + f.issued ≤ s.time.mono →
    exec (.hostReadTimeout (.descriptor p r)) s = .next (failRead p r (ringAt s p r) f.count s))

/-- NEWT_GRANT, IGUANA_GRANT, PINV_GRANT and UNIT_GRANT (04 R96; 06 R150; 08 R213; 09 R250, R271): a free unit in service takes the request
the order of ranks puts first. -/
def Obligations.UnitsAreGranted : Prop :=
  ∀ (s : State) (j : Job) (f : Bool),
    (∀ c : Fin 16, (newtAt s c).up = true → (newtAt s c).owner = .free → domainOn s (21 + c) = true →
      nextFor s 1 (newtEligible s c) = some (j, f) →
      exec (.newtGrant c) s = .next (takeUnit j f (.newt c) (modNewt c (fun c => { c with owner := .job j.seq }) s))) ∧
    (∀ (c : Fin 16) (b : Bool), (bigAt s c).up = true → domainOn s (37 + c) = true → (bigAt s c).window = false → testWaits s c = false →
      (bigAt s c).bank0 = .free → (bigAt s c).bank1 = .free → nextFor s 3 (waitingFor s 3) = some (j, f) →
      exec (.iguanaGrant c b) s = .next (takeUnit j f (.iguana c b)
        (modBig c (fun c => { BigCore.setBank b (.running j.seq) c with active := b }) s))) ∧
    (∀ u : Fin 4, (pinvAt s u).up = true → (pinvAt s u).owner = .free → domainOn s (17 + u) = true →
      nextFor s 2 (waitingFor s 2) = some (j, f) →
      exec (.pinvGrant u) s = .next (pmcJob 0x0C 1 5 j (takeUnit j f (.pinv u) (modPinv u (fun e => { e with owner := .job j.seq }) s)))) ∧
    (∀ u : Fin 12, u.val < 4 → (latAt s u).up = true → (latAt s u).owner = .free → domainOn s (53 + u) = true → testWaits s (16 + u) = false →
      nextFor s 4 (waitingFor s 4) = some (j, f) →
      exec (.unitGrant u) s = .next (takeUnit j f (.lattice u) (modLat u (fun e => { e with owner := .job j.seq }) s))) ∧
    (∀ u : Fin 12, 4 ≤ u.val → (hashAt s (u - 4)).up = true → (hashAt s (u - 4)).owner = .free → domainOn s (57 + (u - 4) / 4) = true →
      testWaits s (16 + u) = false → nextFor s 5 (waitingFor s 5) = some (j, f) →
      exec (.unitGrant u) s = .next (takeUnit j f (.hash (u - 4)) (modHash (u - 4) (fun e => { e with owner := .job j.seq }) s)))

/-- YIELD_POINT, BANK_ZEROISE_DONE, JOB_RETIRE and COMPLETION_WRITE (03 R58, R60, R62; 04 R78, R89, R96; 09 R271; 16 R449).

CURSOR_ADVANCE and SERVICE_WINDOW (04 R84 to R87, R98): crossing a bucket, jobs whose deadline is past leave it, dropped or overdue by
their partition's policy, and far jobs within the horizon enter; a window's end clears what was received and takes the weights anew. -/
def Obligations.JobsYieldEndAndAge : Prop :=
  (∀ (s : State) (q : Nat) (j : Job), findJob s q = some j →
     (∀ u, j.mayYield = true → j.doomed = false → j.phase = .running → j.unit = some u →
       exec (.yieldPoint q) s = .next (yieldSwitch j u (modJob q (fun x => { x with yields := x.yields + 1 }) s))) ∧
     (j.mayYield = true → j.doomed = true → (∀ n b, j.unit ≠ some (.iguana n b)) →
       exec (.yieldPoint q) s = .next (endIfDoomed q (modJob q (fun x => { x with yields := x.yields + 1 }) s))) ∧
     (∀ (c : Fin 16) (b : Bool), (bigAt s c).bank b = .zeroising → exec (.bankZeroiseDone c b) s = .next (
       let t := modBig c (BigCore.setBank b .free) s
       if (bigAt t c).bank0 = .free ∧ (bigAt t c).bank1 = .free then iguWindowTake c t else settleCore c t)) ∧
     (j.phase = .ended → j.doom = none → j.copied = false → j.suppressed = false → j.inherited = false →
       exec (.jobRetire q) s = .next (
         let k := { j with phase := .retired, thread := none, keyA := none, keyB := none, pieces := [], cancel := false, doom := none }
         let t := freeHeld ((List.range 16).foldl (fun s n => settleCore n s) (dropHolds q (modJob q (fun _ => k) s)))
         let t := jrnFinal q j.status j.desc.noJournal (sendDone k (modRng (fun r => { r with explicit := r.explicit.filter (· != q) }) t))
         progressAll (fun k => k.reads.isEmpty) (flowAdvance j.part j.desc.flow t.jobs.length t))) ∧
     ((∀ k ∈ s.refused, k.seq ≠ q) → mayComplete s j = true → forwardsJob s q = false →
       exec (.completionWrite q) s = .next (
         let t := writeCompletion j (needsJack (noteAll j.events s) j) (noteAll j.events s)
         if forwardsJob t q && !j.resulted then flowAdvance j.part j.desc.flow t.jobs.length
             (completed j.part j.ring q (modJob q (fun x => { x with phase := .lag, events := [] }) t))
         else jobGone j t))) ∧
  (∀ s : State,
     (s.cirq.cursor < bucketOf (ntbNow s) → exec .cursorAdvance s =
       .next (moveFar 32 (leaveBuckets { s with cirq := { s.cirq with cursor := s.cirq.cursor + 256 } }))) ∧
     (bucketOf (ntbNow s) ≤ s.cirq.cursor → exec .cursorAdvance s = .next s) ∧
     (s.cirq.window + 1000000 ≤ s.time.mono → exec .serviceWindow s = .next { s with
       cirq := { s.cirq with window := s.time.mono / 1000000 * 1000000 }
       parts := s.parts.map fun x => (x.1, { x.2 with entitled := [], received := [], weightWin := x.2.cfg.weight }) }) ∧
     (s.time.mono < s.cirq.window + 1000000 → exec .serviceWindow s = .next s))

/-- The time sources (02 R24 to R32, R38): a host pair, a third named edge in a row and a fourth agreeing PTM exchange meet the lock
condition; earlier ones only measure; the loss of the source takes LOCKED to HOLDOVER; ACCEPT_FREE takes HOLDOVER to FREE.

Time-of-day frames, edges and their reports (02 R27 to R29), and TIME_CFG (02 R38). -/
def Obligations.TimeSourcesAct : Prop :=
  (∀ s : State,
     (∀ v : W32, s.takesWrites → s.time.src = 0 → exec (.timePair v) s = .next (sourceLocked
       (Int.ofNat (commitValue s 0 0x10028 0 v) - Int.ofNat s.time.ntb.toNat) (modTime (fun t => { t with lastPair := some t.mono }) s))) ∧
     (∀ v : W32, s.takesWrites → s.time.src ≠ 0 → exec (.timePair v) s = .next s) ∧
     (s.takesWrites → s.time.state = .holdover → exec .acceptFree s = .next (setTimeState .free (note 0x0C4 1 [0, ntbNow s] s))) ∧
     (s.takesWrites → s.time.state ≠ .holdover → exec .acceptFree s = .next s) ∧
     (∀ m : W64, s.time.ptmOpen = true → s.time.src = 2 → 3 ≤ s.time.ptmGood → (∃ l, s.time.ptmLast = some l ∧
         ((m.toNat : Int) + s.time.ptmOffset.toInt - s.time.ntb.toNat - l).natAbs ≤ 1000) →
       exec (.ptmExchangeDone (some m)) s = .next (
         let off : Int := (m.toNat : Int) + s.time.ptmOffset.toInt - s.time.ntb.toNat
         sourceLocked off (modTime (fun t => { t with
           ptmOpen := false, ptmOk := true, ptmFail := 0, ptmGood := s.time.ptmGood + 1, ptmLast := some off }) s))) ∧
     (s.time.ptmOpen = true → exec (.ptmExchangeDone none) s = .next (modTime (fun t => { t with
       ptmOpen := false, ptmOk := false, ptmFail := t.ptmFail + 1, ptmGood := 0, ptmLast := none }) s)) ∧
     (s.time.src = 2 → s.time.ptmSent + 2 ^ Nat.min 10 s.time.ptmPeriod * oneMs ≤ s.time.mono →
       exec .ptmRequest s = .next (emit .ptm (modTime (fun t => { t with ptmSent := t.mono, ptmOpen := true }) s))) ∧
     (lossDue s.time = true → s.time.lost = false → s.time.state = .locked → exec .sourceLoss s = .next (setTimeState .holdover
       (modTime (fun t => { t with lost := true, lostAt := t.mono, e0 := errBound (note 0x0C3 1 [s.time.src, s.time.src] s) })
         (note 0x0C3 1 [s.time.src, s.time.src] s)))) ∧
     (s.time.slew = some 0 → s.time.slewBack = false → exec .slewDone s = .next (modTime (fun t => { t with slew := none, slewBack := false }) s))) ∧
  (∀ s : State,
     (∀ b : Bytes, frameStale s.time = false → exec (.timeOfDayFrame b) s = .next (
       if todForm b then modTime (fun t => { t with
         todValid := true
         frame := some { edge := leField b 4 8, holdover := bitOf (byteAt b 3).toNat 1, error := leField b 12 2, at_ := t.mono } }) s
       else frameRejected s)) ∧
     (s.time.src = 1 → s.time.frame = none → exec .timePpsEdge s = .next (modTime (fun t => { t with
       lastEdge := some t.mono, frame := none, report := if t.todTx then some (t.ntb.toNat, t.mono) else none
       bareEdges := t.bareEdges + 1, goodEdges := 0, lastNamed := none }) s)) ∧
     (∀ (f : TodFrame) (e : Nat), s.time.src = 1 → s.time.frame = some f → edgeFrame s.time = some f → s.time.lastEdge = some e →
       e + 999990000 ≤ s.time.mono → s.time.mono ≤ e + 1000010000 → 1000000000 ≤ f.edge → s.time.lastNamed = some (f.edge - 1000000000) →
       2 ≤ s.time.goodEdges → exec .timePpsEdge s = .next (sourceLocked ((f.edge : Int) - s.time.ntb.toNat) (modTime (fun t => { t with
         lastEdge := some t.mono, frame := none, report := if t.todTx then some (t.ntb.toNat, t.mono) else none
         bareEdges := 0, goodEdges := t.goodEdges + 1, lastNamed := some f.edge, frameError := if f.holdover then f.error else 0 }) s))) ∧
     (∀ l t, s.time.report = some (l, t) → 99 * oneMs + t ≤ s.time.mono → s.time.todTx = true → s.time.src = 1 →
       exec .edgeReport s = .next (emit (.tod (reportBytes s l)) (modTime (fun t => { t with report := none }) s))) ∧
     (∀ v : W32, s.takesWrites → s.time.lock = false → bitsOf v.toNat 1 0 = s.time.src → bitOf v.toNat 31 = false →
       exec (.timeCfgWrite v) s = .next (modTime (fun t => { t with ptmPeriod := bitsOf v.toNat 11 8, todTx := bitOf v.toNat 12 }) s)) ∧
     (∀ v : W32, s.takesWrites → s.time.lock = true → bitsOf v.toNat 11 8 ≠ s.time.ptmPeriod →
       exec (.timeCfgWrite v) s = .next (accError 2 0x10000 s)))

/-- SWEEP_VISIT, GENERATION_CHANGE_COMMIT, MAS_KS_HEAD_WRITE and KEYSTORE_RECORD_WRITE (05 R135, R137, R144): the sweep goes over every node and
cache entry in turn and counts its passes; jobs that wait for a pass or for keystore space go on through the gates. -/
def Obligations.SweepAndKeystoreAct : Prop :=
  (∀ s : State, s.pwr.ready = true → ∃ t, exec .sweepVisit s = .next t ∧
    (let u := if s.mas.sweep < 131072 then sweepNode s.mas.sweep s else sweepEntry (s.mas.sweep - 131072) s
     if s.mas.sweep + 1 < sweepVisits then t = { u with mas := { u.mas with sweep := s.mas.sweep + 1 } }
     else t = { u with mas := { u.mas with sweep := 0, passes := u.mas.passes + 1 } })) ∧
  (∀ (s : State) (q : Nat) (j : Job), findJob s q = some j →
    (j.phase = .waitSweep → targetGone s j = false → changeWaits s j.change = false → ksReady s j.subject (ksChanges s j) = true →
      forwardsJob s q = false → streaming s = false → exec (.generationChangeCommit q) s = .next (commitJob q s)) ∧
    (j.phase = .waitSweep → targetGone s j = false → changeWaits s j.change = true →
      exec (.generationChangeCommit q) s = .next (modJob q (fun x => { x with phase := .waitSweep }) s)) ∧
    (j.phase = .waitKeystore → targetGone s j = false → changeWaits s j.change = false → ksReady s j.subject (ksChanges s j) = true →
      forwardsJob s q = false → streaming s = false → exec (.keystoreRecordWrite q) s = .next (commitJob q s)) ∧
    (j.phase = .reading → exec (.keystoreRecordWrite q) s = .next (progress q s))) ∧
  (∀ (s : State) (p : Fin 256) (v : W32), s.takesWrites →
    let k := (partAt s p).ks
    let off := bitsOf v.toNat 29 0
    exec (.masKsHeadWrite p v) s = .next (if k.en = true ∧ off % 64 = 0 ∧ off < 2 ^ k.log2 then
      modPart p (fun x => { x with ks := { x.ks with head := off } }) s else s))

/-- Faults of units, known-answer tests and their windows (06 R154; 08 R236, R237; 09 R284, R285; 17 R477, R480).

The random service (10 R287, R289 to R293, R300, R301): tests of sources at start and after a restart, sources lost, blocks closed into the
pool, the service started, instances reseeded. -/
def Obligations.UnitsAndRandomServiceAct : Prop :=
  (∀ s : State,
     (∀ (u : Fin 4) (d : Bool) (i : W32) (q : Nat), (pinvAt s u).owner = .job q → exec (.pinvUnitFault u d i) s =
       .next (note 0x144 5 [u, i.toNat] (tarnRaise 19 (if d then 2 else 1) u i false (endJob q stEngineFault .yielded s)))) ∧
     (∀ (c : Fin 16) (d : Bool) (i : W32), exec (.newtCoreFault c d i) s = .next (
       let t := unitFault (.newt c) (fun _ => true) d i s
       note 0x181 (6 + c.val / 4) ([c.val, i.toNat] ++ endedNow (s.jobs.filter fun j => j.holds (.newt c)) t) t)) ∧
     (∀ (c : Fin 28) (d : Bool) (i : W32), c.val < 16 → exec (.iguUnitFault c d i) s = .next (settleCore c (
       let t := unitFault (.igu c) (fun j => !j.parked) d i s
       note 0x1A1 (10 + c.val / 4) ([c.val, i.toNat] ++ endedNow (s.jobs.filter fun j => j.holds (.igu c)) t) t))) ∧
     (∀ c : Fin 16, (newtAt s c).up = true → s.eng.newtNext = c.val → s.eng.newtLast + stPeriod s.eng.newtPeriod ≤ s.time.mono →
       s.eng.newtWin.busy = false → exec .newtPeriodicTest s = .next (newtWindowAsk c 3
         { s with eng := { s.eng with newtNext := (c.val + 1) % 16, newtLast := s.time.mono } })) ∧
     (∀ c : Fin 28, unitUp s (.igu c) = true → s.eng.iguNext = c.val → s.eng.iguLast + stPeriod s.eng.iguPeriod ≤ s.time.mono →
       s.eng.iguWin.busy = false → exec .iguPeriodicTest s = .next (iguWindowAsk c
         { s with eng := { s.eng with iguNext := (c.val + 1) % 28, iguLast := s.time.mono } })) ∧
     (∀ v : W32, s.takesWrites → s.eng.newtWin.busy = false → bitOf v.toNat 0 = true →
       exec (.newtWinStart v) s = .next (newtWindowAsk (bitsOf v.toNat 11 8) (bitsOf v.toNat 2 1) s)) ∧
     (∀ v : W32, s.takesWrites → s.eng.iguWin.busy = false → bitsOf v.toNat 12 8 ≤ 27 → bitOf v.toNat 0 = true →
       exec (.iguWinStart v) s = .next (iguWindowAsk (bitsOf v.toNat 12 8) s)) ∧
     (∀ c : Fin 16, s.eng.newtWin.unit = c.val → s.eng.newtWin.state = 2 → 4000 + s.eng.newtWin.since ≤ s.time.mono →
       exec .newtWinTimeout s = .next (newtWindowEnd c false 2 (Nat.min 16383 ((s.time.mono - s.eng.newtWin.since) * 10 / 8)) s)) ∧
     (∀ (c : Fin 16) (pass : Bool) (n : BitVec 14), s.eng.newtWin.state = 2 → s.eng.newtWin.unit = c.val →
       exec (.windowTestDone (.newt c) pass n) s = .next (newtWindowEnd c pass 1 n.toNat s)) ∧
     (∀ (u : TestUnit) (pass : Bool) (n : BitVec 14), s.eng.newtWin.state ≠ 2 → s.eng.iguWin.state ≠ 2 → u ∈ s.eng.tests →
       exec (.windowTestDone u pass n) s = .next (
         let t := { s with eng := { s.eng with tests := s.eng.tests.filter (· != u) } }
         if pass then testPassed u t else testFailed u 3 1 t))) ∧
  (∀ s : State,
     (∀ i : Fin 3, (sourceAt s i).state = 0 → (sourceAt s i).again = false → domainOn s 6 = true →
       (s.rng.state = 0 → exec (.rngStartupTestDone i true) s = .next (modSource i (fun x => { x with state := 1, since := s.time.mono }) s)) ∧
       ((sourceAt s i).tries < 2 → exec (.rngStartupTestDone i false) s = .next (note 0x1C2 16 [i, 3, (sourceAt s i).tries + 1]
         (modSource i (fun x => { x with tries := x.tries + 1, cause := 3 }) s))) ∧
       ((sourceAt s i).tries = 2 → exec (.rngStartupTestDone i false) s =
         .next (startStop 2 30 (sourceOut i 3 3 (modSource i (fun x => { x with tries := 3 }) s))))) ∧
     (∀ (i : Fin 3) (apt : Bool), (sourceAt s i).state = 1 → domainOn s 6 = true → exec (.rngSourceFail i apt) s = .next (
       sourceOut i (if apt then 2 else 1) 0 (modSource i (fun x => { x with
         rctFails := if apt then x.rctFails else satAdd 0xFFFF x.rctFails 1, aptFails := if apt then satAdd 0xFFF x.aptFails 1 else x.aptFails }) s))) ∧
     (∀ raw : Bytes, (s.rng.state = 1 ∨ s.rng.state = 2) → 512 * 2000 ≤ ((List.range 3).map fun i => credit s i s.rng.blockAt s.time.mono).sum →
       s.rng.heldBlock = none → exec (.rngBlockClose raw) s = .next (if s.rng.pool.length < 16 then poolIn raw s
         else modRng (fun r => { r with heldBlock := some raw }) s)) ∧
     (∀ raw : Bytes, s.rng.state = 0 → pairsReady s = true → (instAt s 260).up = false → s.pwr.ready = true → exec (.rngReady raw) s = .next (
       let t := (List.range 260).foldl seedInst (setInst 260 (Drbg.instantiate (conditioned raw s.rng.counter) [])
         (modRng (fun r => { r with state := 1, counter := r.counter + 1, blockAt := s.time.mono }) s))
       note 0x1C1 16 [(t.time.mono - t.rng.began) / 1000, sourceBits t] t)) ∧
     (∀ i, rngServing s = true → s.rng.pool ≠ [] → reseedNext s = some i →
       exec .rngReseed s = .next (setInst i ((instAt (poolOut s).2 i).reseed (poolOut s).1) (poolOut s).2)) ∧
     (∀ i : Fin 3, s.takesWrites → s.rng.state ≠ 3 → (sourceAt s i).state = 2 →
       (∀ k < 3, k ≠ i.val → (sourceAt s k).state ≠ 2) → exec (.rngCtrlRestart (BitVec.ofNat 32 (2 ^ i.val))) s =
         .next (modSource i (fun x => { x with state := 0, again := true }) s)))

/-- Partition resets, function resets and the stop of a function's DMA (11 R308, R319, R320; 20 R539), and the expiries of challenges, sessions
and cell windows (12 R345, R352, R358). -/
def Obligations.PartitionsResetAndThingsExpire : Prop :=
  ∀ s : State,
    (∀ p : Fin 256, p.val ≠ 0 → exec (.vfFlr p) s = .next (startReset p 1 (resetFunction p s))) ∧
    (exec .pfFlr s = .next (startReset 0 3 (resetFunction 0 (resetSelectors (resetVfs s))))) ∧
    (exec .vfEnableClear s = .next (resetVfs s)) ∧
    (∀ (p : Fin 256) (v : W32), s.takesWrites → v.getLsbD 0 = true → exec (.partVfCtrlReset p v) s = .next (startReset p 2 s)) ∧
    (∀ v : W32, s.takesWrites → v.getLsbD 0 = true → s.sys.partSel ≠ 0 → exec (.partCtrlReset v) s = .next (startReset s.sys.partSel 2 s)) ∧
    (∀ (p : Fin 256) (r : ResetRun), (partAt s p).resetting = some r → partStopped s p = true → r.cause ≠ 2 → exec (.partResetDone p) s = .next (
      let t := dropHalves p (owedDump p (resetRings p { s with mas := { s.mas with cache := s.mas.cache.filter fun e => e.part != p.val } }))
      let t := modPart p (fun x => { x.regsReset with resetting := none, errResetDone := false }) t
      note 0x1E4 17 [p, r.cause, r.ended, (t.time.mono - r.t0) / 1000] t)) ∧
    (∀ p : Fin 256, exec (.busMasterEnableClear p) s = .next (modPart p (fun x => { x with bme := false }) s)) ∧
    (∀ p : Fin 256, exec (.busMasterEnableSet p) s = .next (dmaOn p (modPart p (fun x => { x with bme := true }) s))) ∧
    (∀ p : Fin 256, exec (.d3hotEntry p) s = .next (modPart p (fun x => { x with d3hot := true }) s)) ∧
    (∀ p : Fin 256, exec (.d3hotExit p) s = .next (dmaOn p (modPart p (fun x => { x with d3hot := false }) s))) ∧
    (exec .challengeExpiry s = .next { s with cust := { s.cust with
      challenges := s.cust.challenges.filter fun c => decide (s.time.mono < 600 * 10 ^ 9 + c.2) } }) ∧
    (∀ (c : Fin 32) (x : Session), sessionAt s c = some x → 300 * 10 ^ 9 + x.opened ≤ s.time.mono →
      exec (.sessionExpiry c) s = .next (setSession c none s)) ∧
    (∀ w : CellWindow, s.vault.window = some w → w.until_ ≤ s.time.mono → s.pwr.main = true → exec .cellWindowExpiry s = .next (
      let t := note 0x20A 18 [2, w.cells, w.secs] { s with vault := { s.vault with window := none } }
      let away (t : State) (b : Bool) : Bool := w.cells.testBit (b2n b) && !(cellAt t b).present
      let u := if away t false then oneAbsent t else t
      if away t true then oneAbsent u else u)) ∧
    (s.nv.keyStoreErase = true → s.pwr.main = true → exec .custodianKeyStoreErase s =
      .next { s with nv := { s.nv with keyStore := [], keyStoreErase := false } })

/-- Tamper monitors (13 R367 to R371): a trip that makes N within W is an event with the policy's response; fewer are counted. A detector
tripped alone too long, a lost clock, and the read-back of a zeroisation.

The backup cells (13 R384 to R386; 12 R358): the last cell removed, one removed inside and outside a service window, insertion, settling and
low voltage; the vault die loses power 90 s after its last supply. -/
def Obligations.TamperIsAnswered : Prop :=
  (∀ s : State,
     (∀ (m : Fin 5) (a b : Bool), monWatched s m = true → (a || b) = true →
       let p := policyAt s m
       let times := ((monAt s m).times.filter fun t => decide (s.time.mono < t + 1000 * p.w)) ++ [s.time.mono]
       (p.n ≤ times.length → exec (.monitorExcursion m a b) s = .next (tamperEvent m p.response (tamperEv m a b p.response)
         (modMon m (fun _ => { a := a, b := b, times := [] }) s))) ∧
       (times.length < p.n → exec (.monitorExcursion m a b) s = .next (modMon m (fun _ => { a := a, b := b, times := times }) s))) ∧
     (∀ m : Fin 5, monWatched s m = true → exec (.monitorExcursion m false false) s = .next (modMon m (fun x => { x with a := false, b := false }) s)) ∧
     (∀ (m : Fin 6) (a : Bool), monWatched s m = true → exec (.detectorDisagreement m a) s = .next
       (monitorFault m (if a then 0 else 1) (agreeMs m) (modMon m (fun x => { x with a := a, b := !a }) s))) ∧
     (vaultAlive s = true → s.tmp.clockA = true → exec (.tamperClockFault false) s =
       .next (monitorFault 6 0 0 { s with tmp := { s.tmp with clockA := false } })) ∧
     (vaultAlive s = true → s.tmp.clockB = true → exec (.tamperClockFault true) s =
       .next (monitorFault 6 1 0 { s with tmp := { s.tmp with clockB := false } })) ∧
     (∀ (k t c : Nat) (ok : Bool), domainOn s 4 = true → s.tmp.zeroising = some (k, t, c) → exec (.zeroiseReadbackDone ok) s = .next (
       let u := note 0x223 19 [k, (s.time.mono - t) / 1000, b2n ok, c]
         { s with tmp := { s.tmp with zeroising := none }, vault := { s.vault with zeroisePending := false } }
       if ok then u else tarnOpen 37 1 0 false u)) ∧
     (lcCode s ≠ 5 → anyTripped s = false → pendingBurns s = 0 → s.tmp.zeroising = none → (s.dbg.open_ && s.dbg.restart) = false →
       exec .tmpCtrlResume s = .next (note 0x227 19 [s.tmp.level] { s with tmp := { s.tmp with
         suspended := false, alarm := false, refused := false, level := 0, monFault := false } })) ∧
     (lcCode s ≠ 5 → anyTripped s = true → exec .tmpCtrlResume s = .next { s with tmp := { s.tmp with refused := true } }) ∧
     (lcCode s ≠ 5 → exec .tmpCtrlEvregClear s = .next { s with nv := { s.nv with evreg := s.nv.evreg.filter (·.unread), evOvf := 0 } }) ∧
     (∀ (w : Fin 4) (e : Evidence), lcCode s ≠ 5 → s.nv.evreg[s.tmp.evSel]? = some e → exec (.tmpEvregDataRead w) s = .next
       { emit (.read 0 (0xA0030 + 4 * w.val) (leField (evBytes e) (4 * w.val) 4)) s with
         nv := { s.nv with evreg := s.nv.evreg.modify s.tmp.evSel fun e => { e with unread := false } } })) ∧
  (∀ (s : State) (b : Bool),
     ((cellAt s b).state ≠ 1 → vaultAlive s = true → exec (.cellRemoval b) s = .next (
       let t := noteCell b 1 (bayTrips (setCell b { state := 1, volts := 0, since := s.time.mono } s))
       if (cellAt t (!b)).present = false then bothAbsent t
       else if windowCovers t b then tamperEvent 8 0 (tamperEv 8 true true 0) t else oneAbsent t)) ∧
     (∀ v : Byte, (cellAt s b).state = 1 → 75 < v.toNat → exec (.cellInsertion b v) s = .next (noteCell b 2 (bayTrips (
       let t := setCell b { state := 3, volts := v, since := s.time.mono } s
       { t with tmp := { t.tmp with holdup := none } })))) ∧
     ((cellAt s b).state = 3 → (cellAt s b).since + 10 ^ 9 ≤ s.time.mono → exec (.cellSettled b) s = .next (judgeCell b s)) ∧
     (∀ v : Byte, (cellAt s b).present = true → 75 < v.toNat → exec (.cellLow b v) s =
       .next (judgeCell b (setCell b { cellAt s b with volts := v } s))) ∧
     (∀ t, s.tmp.holdup = some t → s.pwr.main = false → 90 * 10 ^ 9 + t ≤ s.time.mono → exec .holdupExpiry s =
       .next { s with vault := Vault.factory, tmp := { Tamper.reset with cellA := s.tmp.cellA, cellB := s.tmp.cellB } }))

/-- Debug sessions and accesses (14 R404, R405; 17 R488, R491): an access through the port is admitted by the Guard map or is a violation; map
commits; the image's boot time-out. -/
def Obligations.DebugAndGuardAct : Prop :=
  ∀ s : State,
    (s.takesWrites → exec .dbgCtrlClose s = .next (closeDebug 2 s)) ∧
    (s.dbg.open_ = true → s.dbg.notAfter ≤ ntbNow s → exec .debugSessionExpiry s = .next (closeDebug 1 s)) ∧
    (∀ b : Bytes, s.dbg.open_ = true → s.dbg.rights.getLsbD 0 = true → 100000 + s.dbg.refreshed ≤ s.time.mono →
      exec (.debugPageRefresh b) s = .next { s with dbg := { s.dbg with
        page := (statusRegs.flatMap fun x => blockPage s x.1 x.2) ++ fit 16384 (b.drop (b.length - 16384)), refreshed := s.time.mono } }) ∧
    (∀ (k : AccessKind) (a : W32), (s.pwr.main = false ∨ debugPortOpen s = false ∨ debugFabric s = false) →
      exec (.debugAccess k a) s = .next s) ∧
    (∀ (k : AccessKind) (a : W32), s.pwr.main = true → debugPortOpen s = true → debugFabric s = true →
      let u := (Config.fabricUnit a).val
      let w := debugWorld s
      let t := pmc { code := 0x12, n := 1, cls := 0, master := 0x30, world := w, addr := a.toNat, stage := 0, job := none } s
      let reply (b : Bytes) (t : State) : State := if k = .write then t else emit (.debug b) t
      exec (.debugAccess k a) s = .next (
        if guardAdmits t u w a.toNat then (if k = .write then t else emit (.debug (debugRead a t).1) (debugRead a t).2)
        else
          let v := violation u 0x30 w (accessCode k) a true t
          let v := note 0x246 20 [a.toNat, accessCode k, u, match decidingNow t u a.toNat with | some (r, _) => r | none => 32] v
          reply (zeros 4) { v with dbg := if v.dbg.open_ then { v.dbg with marked := true } else v.dbg })) ∧
    (∀ m, s.grd.staged = none → exec (.grdCommit m) s = .next { s with grd := { s.grd with staged := some m, since := s.time.mono } }) ∧
    (s.grd.staged.isSome = true → exec .grdCommitApply s = .next (note 0x2B2 24
      [s.grd.epoch.toNat, (s.grd.epoch + 1).toNat, s.time.mono - s.grd.since]
      { s with grd := { s.grd with regions := stagedMap s, boot := false, staged := none, epoch := s.grd.epoch + 1 } })) ∧
    (starting s = true → lcCode s ≠ 5 → s.pwr.bootAt + 10 ^ 9 ≤ s.time.mono →
      exec .fwBootTimeout s = .next (if s.pwr.pendingRun then fallback 3 s else startStop 7 63 s))

/-- The journal (16 R446, R451 to R455): the mark; the host ring's switch; searches through the window.

The performance counters (18 R494, R500, R503, R505). -/
def Obligations.JournalAndCountersAreServed : Prop :=
  (∀ s : State,
     (s.nv.mark.toNat ≤ 2 ^ 31 + s.jrn.next → exec .markRaise s = .next { s with nv := { s.nv with mark := s.nv.mark + 0x100000000 } }) ∧
     (2 ^ 31 + s.jrn.next < s.nv.mark.toNat → exec .markRaise s = .next s) ∧
     (∀ (p : Fin 256) (v : W32), s.takesWrites → (partAt s p).jrn.en = true → v.getLsbD 8 = false →
       exec (.jrnHrCfgWrite p v) s = .next (
         let x := partAt s p
         let all := p.val == 0 && v.getLsbD 9
         let k := bitsOf v.toNat 4 0
         let h := ringCfg (hostRingOk x.cfg p 10 24 k x.jrn.base.toNat 32) (all == x.jrnAll) k false x.jrn
         let t := modPart p (fun y => { y with jrn := h }) s
         if h.en = true then t else note 0x282 22 [p, 2, h.log2, b2n x.jrnAll] t)) ∧
     (∀ (p : Fin 256) (v : W32), s.takesWrites → exec (.jrnWinSeqWrite p v) s = .next
       (startSearch p (commitValue s p (jrnSet p + 0x18) (partAt s p).winSeq.toNat v) (setStage p (jrnSet p + 0x18) none s))) ∧
     (∀ (p : Fin 256) (e : Entry), (partAt s p).winBusy = true →
       s.jrn.entries.find? (fun e => decide ((partAt s p).winSeq.toNat ≤ e.seq) && readable s p e) = some e →
       exec (.jrnSearchDone p) s = .next (modPart p (fun x => { x with
         winBusy := false, winEntry := entryBytes e
         winResult := if (match s.jrn.entries with | e :: _ => decide ((partAt s p).winSeq.toNat < e.seq) | [] => false) then 1 else 0 }) s)) ∧
     (∀ p : Fin 256, (partAt s p).winBusy = true →
       s.jrn.entries.find? (fun e => decide ((partAt s p).winSeq.toNat ≤ e.seq) && readable s p e) = none →
       exec (.jrnSearchDone p) s = .next (modPart p (fun x => { x with winBusy := false, winResult := 2, winEntry := [] }) s)) ∧
     (∀ p : Fin 256, s.takesWrites → exec (.jrnWinEntryRead p) s = .next (startSearch p (leField (partAt s p).winEntry 0 8 + 1)
       (emit (.read p (jrnSet p + 0x58) (leField (partAt s p).winEntry 24 8)) s)))) ∧
  (∀ s : State,
     (s.takesWrites → ∃ t, exec .pmcClearAll s = .next t ∧ (∀ x ∈ t.pmc.counters, x.2.value = 0) ∧
       t = { s with pmc := { s.pmc with counters := t.pmc.counters } }) ∧
     (∀ v : W32, s.takesWrites → exec (.pmcSrCfgWrite v) s = .next { s with pmc := { s.pmc with ring :=
       { ringCfg (hostRingOk (partAt s 0).cfg 0 4 16 (bitsOf v.toNat 4 0) s.pmc.ring.base.toNat 32) true (bitsOf v.toNat 4 0) (v.getLsbD 8)
           s.pmc.ring with cfgErr := false } } }) ∧
     (∀ (p : Fin 256) (v : W32), s.takesWrites → (partAt s p).dump.en = false → exec (.pmcPDumpCfgWrite p v) s = .next (
       let x := partAt s p
       let h := ringCfg (hostRingOk x.cfg p 4 16 (bitsOf v.toNat 4 0) x.dump.base.toNat 128) (bitsOf v.toNat 31 20 == x.dumpPeriod)
         (bitsOf v.toNat 4 0) (v.getLsbD 8) x.dump
       modPart p (fun y => { y with dump := h, dumpPeriod := bitsOf v.toNat 31 20, dumpLast := if h.en then s.time.mono else y.dumpLast }) s)) ∧
     (∀ p : Fin 256, (partAt s p).dump.en = true → s.pwr.quiesce ≠ 3 → (partAt s p).dumpLast + dumpNs (partAt s p) ≤ s.time.mono →
       exec (.pmcDump p) s = .next (
         let t := modPart p (fun y => { y with dumpLast := y.dumpLast + dumpNs (partAt s p) }) s
         if (partAt s p).resetting.isSome then modPart p (fun y => { y with dumpOwed := some (partAt s p).dump }) t
         else modPart p (fun y => { y with dump := (dumpInto p (partAt s p).dump t).1 }) (dumpInto p (partAt s p).dump t).2)))

/-- Scree (16 R458 to R472): records are closed in turn, rate limits and their summaries, freeze and thaw, acknowledgement. -/
def Obligations.ScreeIsServed : Prop :=
  ∀ s : State,
    (s.scr.frozen.isSome = true → exec .screeRecordClose s = .next s) ∧
    (∀ x, s.scr.frozen = none → s.scr.thawRecord = some x →
      exec .screeRecordClose s = .next (closeRecord x (modScr (fun c => { c with thawRecord := none }) s))) ∧
    (∀ (c : Nat) (x : ScreeItem) (r : List ScreeItem), s.scr.frozen = none → s.scr.thawRecord = none → nextFifo s = some c →
      (fifoAt s c).items = x :: r → exec .screeRecordClose s = .next (closeRecord x
        (modScr (fun y => { y with fifos := Tab.modify Fifo.empty y.fifos c (fifoTake c), last := c }) s))) ∧
    (∀ k : BitVec 12, (codeAt s k.toNat).spent ≠ 0 → (codeAt s k.toNat).refilled + tokenNs (codeAt s k.toNat) ≤ s.time.mono →
      exec (.tokenRefill k) s = .next (modCode k.toNat (fun c => { c with spent := c.spent - 1, refilled := c.refilled + tokenNs c }) s)) ∧
    (∀ (k : BitVec 12) (t n cl : Nat) (a b : W64), (codeAt s k.toNat).episode = some (t, n, a, b, cl) → 10000000 + t ≤ s.time.mono →
      (fifoAt s cl).items.length < 16 → (fifoAt s cl).lost = 0 → exec (.suppressed k) s = .next (screePut cl
        { code := 2, stamp := a, cluster := 0xFF, payload := leBytes 2 k.toNat ++ zeros 2 ++ leBytes 4 n ++ leBytes 8 b.toNat }
        (modCode k.toNat (fun c => { c with episode := none }) s))) ∧
    (lcCode s ≠ 5 → s.scr.frozen = none → exec .scrCtrlFreeze s =
      .next (modScr (fun c => { c with frozen := some (s.time.mono, stamp s) }) s)) ∧
    (lcCode s ≠ 5 → exec .scrCtrlThaw s = .next (endFreeze 1 s)) ∧
    (∀ t x, s.scr.frozen = some (t, x) → t + 1000000 * clampTo 1 1000 s.scr.freezeMax ≤ s.time.mono →
      exec .freezeMaxExpiry s = .next (endFreeze 2 s)) ∧
    (∀ v : W32, lcCode s ≠ 5 → exec (.scrAckWrite v) s = .next (screeFill (setStage 0 0xE0030 none (modScr (fun c => { c with
      ack := BitVec.ofNat 64 (Nat.min (commitValue s 0 0xE0030 s.scr.ack.toNat v) s.scr.wrPos.toNat), armed := true }) s))))

/-- Tarn (17 R476 to R490): errors are raised by their kind, a Guard unit's report is a violation unless the map admits the access, set bits
escalate when their timer has run out, and are cleared by writing 1; severities, injection and the pins' read-back. -/
def Obligations.TarnActs : Prop :=
  ∀ s : State,
    (∀ (n : Fin 60) (k : BitVec 6) (u : Byte) (i : W32), s.pwr.main = true → s.pwr.perst = false →
      (n.val < 48 ∨ 55 < n.val → exec (.tarnErrorEvent n k u i) s = .next (
        if srcKindC n then raiseC n k.toNat u.toNat i s else tarnRaise n k.toNat u.toNat i false s)) ∧
      (48 ≤ n.val → n.val ≤ 55 → exec (.tarnErrorEvent n k u i) s = .next (
        if guardAdmits s (n - 48) (masterWorld u.toNat) i.toNat then s
        else violation (n - 48) u.toNat (masterWorld u.toNat) k.toNat i false s))) ∧
    (∀ (n : Fin 60) (t : Nat), (srcAt s n).timer = some t → (srcAt s n).set = true → t + escNs s ≤ s.time.mono →
      exec (.tarnEscalation n) s = .next (
        let l := nextSeverity n (srcAt s n).eff
        raiseTo n l (modSrc n (fun y => { y with timer := some (sendMsix 0 48 (note 0x2A2 23 [n, (srcAt s n).eff, l] s)).time.mono })
          (sendMsix 0 48 (note 0x2A2 23 [n, (srcAt s n).eff, l] s))))) ∧
    (∀ m g : W64, lcCode s ≠ 5 → exec (.tarnStatusClear m g) s = .next (
      let t := modTarn (fun t => { t with live := t.live.filter fun x => !g.getLsbD x.1 }) s
      let u := (tarnNos.filter fun n => m.getLsbD n).foldl clearSrc t
      if fatalBits t ≠ 0 ∧ fatalBits u = 0 then note 0x2A4 23 [fatalBits t] (errNormal u) else u)) ∧
    (∀ v : W64, lcCode s ≠ 5 → sevMerge s.tarn.sev1 v 32 28 ≠ s.tarn.sev1 → s.tarn.lock = true →
      exec (.tarnSevWrite true v) s = .next (accError 2 0xF0030 s)) ∧
    (∀ v : W64, lcCode s ≠ 5 → sevMerge s.tarn.sev0 v 0 32 ≠ s.tarn.sev0 → s.tarn.lock = false → (∀ n ∈ tarnNos, (srcAt s n).set = false) →
      exec (.tarnSevWrite false v) s = .next (
        let t := modTarn (fun t => { t with sev0 := sevMerge s.tarn.sev0 v 0 32 }) s
        note 0x2A5 23 [leField (sha256Head 4 (leBytes 8 t.tarn.sev0.toNat ++ leBytes 8 t.tarn.sev1.toNat)) 0 4] t)) ∧
    (∀ v : W32, lcCode s ≠ 5 → v.getLsbD 8 = true → bitsOf v.toNat 5 0 < 60 →
      exec (.tarnInject v) s = .next (tarnOpen (bitsOf v.toNat 5 0) 63 0 true (note 0x2A6 23 [bitsOf v.toNat 5 0] s))) ∧
    (∀ p n a b, s.tarn.errPair = some (p, n) → (a, b) ≠ (p, n) → exec (.errReadbackMismatch a b) s =
      .next (raiseC 57 (if a = p then 2 else 1) 0 (Config.freeWord s.freeCtr) { s with freeCtr := s.freeCtr + 1 }))

/-- The start and the loss of power (19 R509 to R520): a released PERST# with 12 V begins a start; an asserted one and the loss of 12 V clear
the main domain, the loss being noted where work was in flight; slots switch on domains in order; a start ends ready or stops with a code.

Domains switched off when idle and on again (19 R511, R512), and the quiesce (19 R521 to R523). -/
def Obligations.PowerActs : Prop :=
  (∀ s : State,
     (∀ a b c : Bool, s.pwr.perst = true → s.pwr.main = true → exec (.perstNRelease a b c) s = .next (beginStart a b c s)) ∧
     (∀ a b c : Bool, s.pwr.perst = true → s.pwr.main = false → exec (.perstNRelease a b c) s = .next (modPwr (fun p => { p with perst := false }) s)) ∧
     (s.pwr.perst = false → s.pwr.main = true → exec .perstNAssert s = .next (modPwr (fun p => { p with perst := true })
       (coldMain (if inFlightWork s then noteLoss 2 s else s)))) ∧
     (starting s = true → s.pwr.slot < 58 → s.pwr.t0 + 25000 * s.pwr.slot ≤ s.time.mono → (s.pwr.slot < 2 ∨ 8 < s.pwr.slot) →
       exec .powerDomainSlot s = .next (switchOn (s.pwr.slot + 2) (modPwr (fun p => { p with slot := s.pwr.slot + 1 }) s))) ∧
     (∀ d : Fin 60, s.pwr.main = true → s.pwr.perst = false → domainOn s d = true → 2 ≤ d.val → starting s = false →
       exec (.domainRegulationTimeout d) s = .next (tarnOpen 42 1 d false s)) ∧
     (starting s = true → 58 ≤ s.pwr.slot → 7 ≤ s.pwr.phase → rngServing s = true → lcCode s ≠ 5 → exec .startUpComplete s = .next (
       if slotVerifies s s.pwr.running = false then imageFails s else bootReady (bootRestore s))) ∧
     (starting s = true → exec (.startFault 2) s = .next (startStop 2 30 s)) ∧
     (starting s = true → exec (.startFault 1) s = .next (startStop 1 9 (note 0x102 4 [3] s))) ∧
     (s.pwr.main = true → s.pwr.perst = false → exec .mainPowerLoss s = .next (
       let t := modPwr (fun p => { p with main := false }) (coldMain (noteLoss 1 s))
       if t.tmp.cellA.state = 1 ∧ t.tmp.cellB.state = 1 then { t with tmp := { t.tmp with holdup := some t.time.mono } } else t)) ∧
     (∀ a b c : Bool, s.pwr.main = false → exec (.mainPowerGood a b c) s = .next (
       let t := modPwr (fun p => { p with main := true }) { s with tmp := { s.tmp with holdup := none } }
       if s.pwr.perst then t else beginStart a b c t)) ∧
     (∀ g : Bool, s.pwr.aux ≠ g → exec (.auxChange g) s = .next (
       let t := modPwr (fun p => { p with aux := g }) s
       if (t.pwr.main && domainOn t 4) = true then note 0x2E5 33 [if g then 2 else 1] t else t))) ∧
  (∀ s : State,
     (∀ (d : Fin 60) (c : Nat), domainClass d = some c → c ≠ 6 → s.pwr.ready = true → s.pwr.autoOff = true → domainOn s d = true →
       Tab.get 0 s.pwr.idleSince d + 100000 * Nat.max 1 s.pwr.idle ≤ s.time.mono → (domainUnits d).any (unitBusy s) = false →
       classStaysOn s c d = true → exec (.autoOffIdle d) s =
         .next (modPwr (fun p => { p with domains := p.domains &&& ~~~(BitVec.ofNat 64 (2 ^ d.val)) }) s)) ∧
     (∀ (d : Fin 60) (c : Nat), domainClass d = some c → c ≠ 6 → s.pwr.ready = true → domainOn s d = false →
       s.pwr.queue.any (fun x => x.1 == d.val) = false → workWaits s c d = true → exec (.domainWake d) s =
         .next (modPwr (fun p => { p with queue := (p.queue.filter (!·.2)) ++ [(d.val, false)] ++ p.queue.filter (·.2) }) s)) ∧
     (∀ (d : Nat) (x : Bool) (r : List (Nat × Bool)), s.pwr.queue = (d, x) :: r → s.pwr.ready = true →
       let recent := s.pwr.switched.filter fun t => decide (s.time.mono < 25000 + t)
       recent.length < 2 → exec .domainSwitchOn s = .next (
         let t := switchOn d s
         modPwr (fun p => { p with queue := r, switched := recent ++ [t.time.mono], idleSince := Tab.set 0 p.idleSince d t.time.mono }) t)) ∧
     (exec .quiesceReqNAssert s = .next (beginQuiesce (modPwr (fun p => { p with qPin := true }) s))) ∧
     (s.pwr.qPin = true → exec .quiesceReqNRelease s = .next (
       let t := modPwr (fun p => { p with qPin := false }) s
       if s.pwr.qReg then t else endQuiesce 1 t)) ∧
     (lcCode s ≠ 5 → domainOn s 4 = true → exec .pwrCtrlQuiesce s = .next (beginQuiesce (modPwr (fun p => { p with qReg := true }) s))) ∧
     (lcCode s ≠ 5 → s.pwr.qReg = true → exec .pwrCtrlUnquiesce s = .next (
       let t := modPwr (fun p => { p with qReg := false }) s
       if s.pwr.qPin then t else endQuiesce 2 t)) ∧
     ((s.pwr.quiesce = 1 ∨ s.pwr.quiesce = 2) → inFlightWork s = false → s.pair.role = 1 → s.pair.state = .inStep → s.pair.handing = none →
       exec .quiesceDrained s = .next (modPwr (fun p => { p with quiesce := 2 }) { s with pair := { s.pair with handing := some 0 } })) ∧
     ((s.pwr.quiesce = 1 ∨ s.pwr.quiesce = 2) → inFlightWork s = false → s.pair.role ≠ 1 →
       exec .quiesceDrained s = .next (quiesceComplete (detach 4 s))) ∧
     (s.pwr.quiesce = 1 → s.pwr.qSince + quiesceNs s ≤ s.time.mono → (∀ j ∈ s.jobs, j.ran = true) → exec .quiesceMaxExpiry s = .next (
       let left := s.jobs.filter fun j => !j.ended && !j.copied && !j.cancel && !j.pastStop
       { modPwr (fun p => { p with qEnded := p.qEnded + left.length }) s with
         jobs := s.jobs.map fun j => if left.any (fun k => k.seq == j.seq) then { j with cancel := true } else j })))

/-- SMBus (20 R540 to R546): a right PEC brings the answer, a wrong one a NACK and Tarn source SMBUS; no rail, no answer; an alert is answered
with the address and released.

Registers (21 R555 to R566): a four-byte read gives the register's value; of a 64-bit register's lower word it latches the upper one, which
the read of the upper word then gives; a write of a 32-bit register acts as the register says, the upper half of a 64-bit one commits; any
access of another form is an error and changes nothing else. -/
def Obligations.SmbusAndRegistersAnswer : Prop :=
  (∀ s : State, alwaysOn s = true →
     let nack (t : State) : State :=
       if t.pwr.main && !t.pwr.perst then tarnOpen 47 2 0 false (emit .smbusNack t) else emit .smbusNack t
     (alwaysOn (judgeAlert s) = true →
       exec (.smbStatus true) s = .next (emit (.smbus [BitVec.ofNat 8 (smbStatusByte (judgeAlert s))]) (judgeAlert s))) ∧
     (exec (.smbHealth true) s = .next (emit (.smbus (healthBytes s)) s)) ∧
     (s.pwr.main = true → exec (.smbTemperature true) s = .next (emit (.smbus (freeBytes 6 s).1) (freeBytes 6 s).2)) ∧
     (s.pwr.main = false → exec (.smbTemperature true) s = .next (emit (.smbus [0x00, 0x80, 0x00, 0x80, 0x00, 0x80]) s)) ∧
     (exec (.smbEvidence true) s = .next (emit (.smbus (if s.pwr.main then leBytes 2 (evCount s) else [0xFF, 0xFF])) s)) ∧
     (exec (.smbInventory true) s = .next (emit (.smbus (inventoryBytes s)) s)) ∧
     (exec (.smbQuiesceState true) s = .next (emit (.smbus
       [BitVec.ofNat 8 (s.pwr.quiesce + flagAt (safeRemove s) 2 + flagAt s.pwr.qPin 3)]) s)) ∧
     (∀ c ∈ [Instr.smbHealth false, .smbTemperature false, .smbEvidence false, .smbInventory false, .smbQuiesceState false],
       exec c s = .next (nack s)) ∧
     (∀ t, t = judgeAlert s → alwaysOn t = true → t.smb.alert = true → exec .alertResponseRead s = .next
       (emit (.smbus [BitVec.ofNat 8 (2 * (0x60 + t.smb.straps.toNat))]) { t with smb := { t.smb with alert := false } }))) ∧
  (∀ (s : State) (p : Fin 256) (off : Nat), off < barSize p → off < doorbells p →
     (∀ v, off % 4 = 0 → regAt s p off = some (true, v) → winTail p off = false → exec (.lowerWordRead p off) s =
       .next (emit (.read p off (v % 2 ^ 32)) (setLatch p off (BitVec.ofNat 32 (v / 2 ^ 32)) s))) ∧
     (∀ v, off % 4 = 0 → regAt s p off = some (false, v) → p.val ≠ 0 → exec (.lowerWordRead p off) s = .next (emit (.read p off v) s)) ∧
     (∀ v w, off % 4 = 0 → 4 ≤ off → regAt s p off = none → regAt s p (off - 4) = some (true, v) → latchAt s p (off - 4) = some w →
       shows s p off = true → exec (.lowerWordRead p off) s = .next (emit (.read p off w.toNat) s)) ∧
     (off % 4 ≠ 0 → inWin p off = false → exec (.lowerWordRead p off) s = .next (emit (.read p off 0) (pfError p 0 off s))) ∧
     (∀ (v : W64) (x : Nat), off % 4 = 0 → inWin p off = false → regAt s p off = some (false, x) →
       exec (.registerWrite p off 4 v) s = write32 p off (v.toNat % 2 ^ 32) s) ∧
     (∀ (v : W64) (x : Nat), off % 8 = 0 → inWin p off = false → regAt s p off = some (true, x) →
       exec (.registerWrite p off 8 v) s = write64 p off v.toNat s) ∧
     (∀ (n : Nat) (v : W64), inWin p off = false → ¬ (n = 4 ∧ off % 4 = 0) → ¬ (n = 8 ∧ off % 8 = 0) →
       exec (.registerWrite p off n v) s = .next (pfError p 0 off s)) ∧
     (∀ v : W64, inWin p off = false → off = 0x10020 → p.val = 0 → s.takesWrites → (∃ x, regAt s p off = some (true, x)) →
       exec (.registerWrite p off 8 v) s = .next (setStage p off none { s with time := { s.time with ptmOffset := v } })) ∧
     (∀ v : W32, s.takesWrites → exec (.sysLockWrite v) s = .next ((List.range 10).foldl (fun s b => if v.getLsbD b then setLock b s else s) s)) ∧
     (∀ v : W32, s.takesWrites → exec (.custCertSelWrite v) s = .next
       { s with cust := { s.cust with certChain := v.getLsbD 2, certLevel := Nat.min 2 (bitsOf v.toNat 1 0), certPos := 0 } }) ∧
     (shows s 0 0x90048 = true → exec .custCertDataRead s = .next (emit (.read 0 0x90048 (leField (certShown s) s.cust.certPos 4))
       { s with cust := { s.cust with certPos := s.cust.certPos + 4 } })))

/-- The role (15 R412 to R416, R433, R438, R440): a claim raises PAIR_ACT_OUT, and 2 µs later the level of PAIR_INHIBIT_IN decides; the level's
rise closes the gate at once; DETACH and HANDOVER; the hand-over once everything has drained; the catch-up's end.

The link (15 R417 to R421): training, the handshake's four frames, heartbeats on both paths, paths lost and frames resent. -/
def Obligations.PairRoleAndLinkAct : Prop :=
  (∀ s : State,
     (s.pair.actOut = false → mayClaim s = true → exec .pairClaim s = .next (modPair (fun p => { p with
       actOut := true, claimedAt := s.time.mono, claims := p.claims + 1
       claimCause := if s.pair.handover then 2 else if s.pair.role = 0 ∨ s.pair.claims ≠ 0 then 1 else 3 }) s)) ∧
     (s.pair.actOut = true → s.pair.effective = false → s.pair.claimedAt + 2000 ≤ s.time.mono →
       (s.pair.inhibit = true → s.pair.posB = true → exec .claimCheck s = .next (note 0x262 21 [if s.pair.role = 1 then 2 else s.pair.role, 4]
         (modPair (fun p => { p with actOut := false, role := if p.role = 1 then 2 else p.role }) s))) ∧
       (s.pair.inhibit = true → s.pair.posB = false → exec .claimCheck s = .next s) ∧
       (s.pair.inhibit = false → s.pair.inhibitAt + 2000 ≤ s.time.mono → exec .claimCheck s = .next (becomeActive s))) ∧
     (∀ h : Bool, s.pair.inhibit ≠ h → exec (.pairInhibitChange h) s = .next (modPair (fun p => { p with
       inhibit := h, inhibitAt := s.time.mono, effective := p.effective && !h }) s)) ∧
     (exec .livenessTimeout s = .next (releaseActive s)) ∧
     (∀ f : Bytes, exec (.handover f) s = .next (onFrame 0x40 f s fun b t =>
       if t.pair.role = 0 ∧ t.pair.state = .inStep then
         modPair (fun p => { p with handover := true, highest := Nat.max p.highest (leField b 0 8) })
           { t with jrn := { t.jrn with next := Nat.max t.jrn.next (leField b 0 8 + 1) } }
       else t)) ∧
     (∀ q, s.pair.handing = some q → s.refused = [] → (∀ j ∈ s.jobs, j.seq = q ∨ j.copied = true) →
       (q = 0 → exec .handoverDrained s = .next (letGo (sendHandover s))) ∧
       (q ≠ 0 → s.pair.handover = false → exec .handoverDrained s = .next (modPair (fun p => { p with handover := true }) (sendHandover s))) ∧
       (q ≠ 0 → s.pair.handover = true → (∀ j ∈ s.jobs, j.seq = q → j.live = false) → exec .handoverDrained s = .next (letGo s))) ∧
     (∀ f : Bytes, exec (.detach f) s = .next (onFrame 0x44 f s fun b t =>
       if t.pair.state = .solo ∨ t.pair.state = .alone ∨ t.pair.state = .diverged then t
       else if byteAt b 0 = 2 then diverge 0 0 0 (zeros 16) (zeros 16) t else becomeAlone (byteAt b 0).toNat t)) ∧
     (s.takesWrites → s.pair.state = .inStep → exec .pairCtrlDetach s = .next (if s.pair.role = 0 then clearMain (detach 1 s) else detach 1 s)) ∧
     (s.takesWrites → (s.pair.state = .solo ∨ s.pair.state = .alone) → exec .pairCtrlDetach s = .next s) ∧
     (∀ c, s.pair.cut = some c → s.pair.role = 1 → s.pair.state = .catchingUp →
       (∀ j ∈ s.jobs, j.seq ≤ c → s.pair.catchJob = some j.seq ∨ j.phase = .retired ∨ j.phase = .lag ∨ j.copied = true) →
       exec .catchupInStep s = .next (
         let t := modPair (fun p => { p with
           cut := none, catchJob := none, divSeq := 0, divPart := 0, divOpcode := 0, inStepSeq := s.jrn.next - 1 }) s
         note 0x267 21 [2, b2n t.pair.vaultCopy] (pairTo .inStep 0 t)))) ∧
  (∀ s : State,
     (∀ n : BitVec 4, s.pair.paired = true → domainOn s 59 = true → exec (.linkTraining n) s = .next (
       let t := setLanes (usableLanes n) s
       let t := modPair (fun p => { p with
         trained := p.lanes != 0, retrains := if s.pair.lanes != 0 then satAdd 0xFFFF p.retrains 1 else p.retrains }) t
       let t := if n = 15 then t else tarnOpen 36 1 0 false t
       startHandshake (if s.pair.lanes != 0 then tarnOpen 36 2 0 false t else t))) ∧
     (s.pair.paired = true → exec .linkTrainingLost s =
       .next (endSession (tarnOpen 36 1 0 false (modPair (fun p => { p with trained := false }) (setLanes 0 s))))) ∧
     (∀ t, s.pair.retryAt = some t → t + 10 ^ 9 ≤ s.time.mono → exec .handshakeRetry s = .next (startHandshake s)) ∧
     (∀ f : Bytes, ¬ (s.pair.txSeq = 1 ∧ s.pair.rxSeq = 0 ∧ s.pair.failed = false) → exec (.cert f) s = .next (onFrame 0x04 f s fun b t =>
       let off := leField b 0 4
       let total := leField b 4 4
       let n := Nat.min 4096 (total - off)
       if t.pair.paired = true ∧ t.pair.peerSerial = [] ∧ off = t.pair.chain.length ∧ (off = 0 ∨ total = t.pair.chainLen) ∧ 8 + n ≤ b.length then
         let u := modPair (fun p => { p with chain := p.chain ++ slice b 8 n, chainLen := total }) t
         if off + n = total then chainArrived (byteAt f 3 == 1) u else u
       else t)) ∧
     (∀ f : Bytes, exec (.hello f) s = .next (onFrame 0x01 f s fun b t =>
       match peerKeys t with
       | none => t
       | some k => if t.pair.posB = false ∨ t.pair.keys.isSome = true then t
         else if offerOk t b k = false then failHandshake 3 t else orStand (answerHello b) t)) ∧
     (∀ f : Bytes, exec (.keyx f) s = .next (onFrame 0x02 f s fun b t =>
       match peerKeys t, t.pair.offer with
       | some k, some (o, seed, ec) =>
         if t.pair.keys.isSome then t
         else if ¬ (byteAt b 0 = 1 ∧ byteAt b 1 = 0x23 ∧ zeroAt b 2 8 = true ∧ slice b 8 32 = slice o 20 32 ∧ zeroAt b 1225 1280 = true ∧
             hybridVerify k.1 k.2 (b.take 1280) (slice b 1280 3405) = true) then failHandshake 3 t
         else match p384Agree (beNat ec) (slice b 1128 97) with
           | none => failHandshake 3 t
           | some z =>
             let x := sha384B (o ++ b.take 1232)
             sendFrame 0x03 x (modPair (fun p => { p with
               keys := some (directionKeys (fit 32 (Config.kemDecaps 0x31 seed (slice b 40 1088))) z x), transcript := some x }) t)
       | _, _ => t)) ∧
     (∀ f : Bytes, exec (.confirm f) s = .next (onFrame 0x03 f s fun b t =>
       match t.pair.transcript with
       | none => t
       | some x => if b.take 48 ≠ x then failHandshake 3 t
         else autoJoin (modPair (fun p => { p with session := true, offer := none, chain := [], chainLen := 0, retryAt := none }) t))) ∧
     (∀ f : Bytes, exec (.heartbeat f) s = .next (onFrame 0x10 f s fun b t =>
       let role := (byteAt b 0).toNat
       let u := noteActive role (modPair (fun p => { p with
         peerRole := role, peerLevel := leField b 1 3, highest := if p.role = 1 ∧ role = 0 then leField b 8 8 else p.highest }) t)
       if u.pair.role = 1 ∧ u.pair.state = .catchingUp ∧ (byteAt b 1).toNat = 2 ∧ u.pair.replay = [] then
         streamAll (note 0x267 21 [3, b2n u.pair.vaultCopy] u)
       else peerState (byteAt b 1).toNat u)) ∧
     (s.pair.paired = true → domainOn s 4 = true → s.pair.hbSent + 19000 ≤ s.time.mono → exec .heartbeatSend s = .next (
       let r := reportedRole s
       let t := emit (.sideband s.pair.hbCounter r) (modPair (fun p => { p with hbSent := s.time.mono, hbCounter := (p.hbCounter + 1) % 64 }) s)
       sendFrame 0x10 ([BitVec.ofNat 8 r, BitVec.ofNat 8 t.pair.state.code, BitVec.ofNat 8 t.time.state.code, BitVec.ofNat 8 t.tmp.level] ++
         zeros 4 ++ leBytes 8 (t.jrn.next - 1) ++ leBytes 8 (stamp t).toNat ++ zeros 8) t)) ∧
     (∀ (c : BitVec 6) (r : BitVec 2) (k : Nat), s.pair.paired = true → s.pair.sidebandOk = true → s.pair.sideCounter = some k →
       (c.toNat = (k + 1) % 64 → exec (.sidebandCharacter c r) s = .next (noteActive r.toNat (modPair (fun p => { p with
         sideCounter := some c.toNat, sidebandAt := some s.time.mono, sideRole := r.toNat }) s))) ∧
       (c.toNat ≠ (k + 1) % 64 → exec (.sidebandCharacter c r) s = .next s)) ∧
     (s.pair.sidebandOk = true → s.pair.sidebandAt.getD 0 + 100000 ≤ s.time.mono → exec (.pathLost true) s = .next (losePath true s)) ∧
     (s.pair.inbandOk = true → s.pair.inbandAt.getD 0 + 100000 ≤ s.time.mono → exec (.pathLost false) s = .next (losePath false s)) ∧
     (s.pair.replay ≠ [] → s.pair.ackAt + 4000 ≤ s.time.mono → s.time.mono < s.pair.ackAt + 100000 → s.pair.trained = true →
       exec .linkAckTimeout s = .next (s.pair.replay.foldl (fun s x => emit (.frame x.2) s) s)))

/-- What a standby does with the frames of its active, and the active with those of its standby (15 R422 to R431, R440): jobs are journalled as
they are admitted, run as copies on the active's data and random bytes, and compared; snapshots rebuild what a joining module lacks. -/
def Obligations.StandbyFollows : Prop :=
  ∀ (s : State) (f : Bytes),
    (exec (.admitFrame f) s = .next (onFrame 0x20 f s fun b t =>
      if standsBy t = false then t
      else
        let q := leField b 0 8
        let st := BitVec.ofNat 16 (leField b 18 2)
        let d := slice b 32 64
        let p := (byteAt b 16).toNat
        let r := (byteAt b 17).toNat
        let u := jrnAdd
          { seq := q, stamp := BitVec.ofNat 64 (leField b 8 8), part := p, ring := r, index := leField b 20 4
            opcode := BitVec.ofNat 16 (leField d 0 2), status := st, digest := sha256Head 6 d } (descOf 0 d).noJournal
          { t with jrn := { t.jrn with next := Nat.max t.jrn.next (q + 1) }, pair := { t.pair with highest := Nat.max t.pair.highest q } }
        if st = stRunning then modPair (fun x => { x with fwd := x.fwd ++ [
            { seq := q, stamp := BitVec.ofNat 64 (leField b 8 8), part := p, ring := r, status := st, index := leField b 20 4, desc := d
              dispatched := none, keyA := none, keyB := none, data := [], random := [], commits := [], before := none, done := none
              result := none }] }) u
        else sendJack p q u)) ∧
    (exec (.dispatchFrame f) s = .next (onFrame 0x21 f s fun b t =>
      let q := leField b 0 8
      match (if standsBy t then fwdOf t q else none) with
      | none => t
      | some x => if x.dispatched.isSome then t
        else
          let u := modFwd q (fun x => { x with dispatched := some (leField b 8 8, (byteAt b 16).toNat, leField b 28 4, leField b 36 4) }) t
          let a := x.stamp.toNat / 4 * 4
          copyProgress q { u with jobs := u.jobs ++ [{ newJob u x.part x.ring x.index (descOf a x.desc) stOk with
            seq := q, admitted := a, phase := .reading, ran := true, fwd := true }] })) ∧
    (exec (.dataFrame f) s = .next (onFrame 0x22 f s fun b t =>
      if standsBy t = false then t else copyProgress (leField b 0 8)
        (modFwd (leField b 0 8) (fun x => { x with data := Tab.put x.data (leField b 8 4) (slice b 16 (Nat.min 4096 (leField b 12 4))) }) t))) ∧
    (exec (.randomFrame f) s = .next (onFrame 0x23 f s fun b t =>
      if standsBy t = false then t else
        modFwd (leField b 0 8) (fun x => { x with random := Tab.put x.random (leField b 12 4) (slice b 16 (Nat.min 4096 (leField b 10 2))) }) t)) ∧
    (exec (.commitFrame f) s = .next (onFrame 0x24 f s fun b t =>
      let q := leField b 0 8
      let kind := (byteAt b 8).toNat
      let index := leField b 12 4
      let c := b.drop 24
      if t.pair.role ≠ 0 then t
      else match fwdOf t q with
        | some x =>
          let ended := match findJob t q with | some j => j.ended | none => false
          if conflicts t x kind index c then diverge q x.part (descOf 0 x.desc).opcode (zeros 16) (zeros 16) (sendResult q stOk 1 (zeros 16) t)
          else
            let kept := if x.before.isNone && !ended then some (t.mas, t.parts, t.vault) else x.before
            putRecord q kind index c (modFwd q (fun y => { y with before := kept, commits := y.commits ++ [(kind, index, c)] }) t)
        | none => if (t.pair.state = .joining ∨ t.pair.state = .catchingUp) ∧ (kind = 8 ∨ newer t q kind index) then putRecord q kind index c t
          else t)) ∧
    (exec (.doneFrame f) s = .next (onFrame 0x25 f s fun b t =>
      let q := leField b 0 8
      match (if standsBy t then fwdOf t q else none) with
      | none => t
      | some x =>
        let st := BitVec.ofNat 16 (leField b 8 2)
        let u := modFwd q (fun x => { x with done := some (st, (byteAt b 10).toNat, leField b 24 4, slice b 32 16) }) t
        copiesAll (fwdSettle q (sendJack x.part q (jrnFinal q st (descOf 0 x.desc).noJournal u))))) ∧
    (exec (.resultFrame f) s = .next (onFrame 0x30 f s fun b t =>
      let q := leField b 0 8
      match findJob t q with
      | none => t
      | some j => if forwardsJob t q = false ∨ j.copied = true then t
        else if byteAt b 10 = 1 then diverge q j.part j.desc.opcode
          (match t.pair.digests.find? (fun x => x.1 == q) with | some (_, _, d) => d | none => zeros 16) (slice b 16 16) t
        else if j.phase = .lag then dropJob q t
        else modJob q (fun x => { x with resulted := true }) t)) ∧
    (exec (.jack f) s = .next (onFrame 0x31 f s fun b t =>
      let qs := (List.range (Nat.min 8 (byteAt b 0).toNat)).map fun i => leField b (8 + 8 * i) 8
      let mark (j : Job) : Job := if qs.contains j.seq && !j.fwd then { j with jacked := true } else j
      { t with
        jobs := t.jobs.map mark, refused := t.refused.map mark
        cirq := { t.cirq with mirrors := (t.cirq.mirrors.filter fun x => decide (t.time.mono ≤ 1000000 + x.1)) ++
          (t.pair.digests.filter fun x => qs.contains x.1).map fun x => (t.time.mono, t.time.mono - x.2.1) } })) ∧
    (exec (.snapshot f) s = .next (onFrame 0x41 f s fun b t =>
      if t.pair.actOut = true ∨ t.pair.paired = false then t
      else
        let u := if t.pair.state = .joining then t else join t
        let q := leField b 0 8
        let kind := (byteAt b 8).toNat
        let index := leField b 12 4
        let v := modPair (fun p => { p with snapCount := p.snapCount + 1, snapBytes := p.snapBytes ++ b }) u
        if kind = 7 then modPair (fun p => { p with snapVault := p.snapVault ++ [(index, b.drop 16)], vaultCopy := true }) v
        else if kind = 8 ∨ newer v q kind index then putRecord q kind index (b.drop 16) v else v)) ∧
    (exec (.snapshotEnd f) s = .next (onFrame 0x42 f s fun b t =>
      if t.pair.state ≠ .joining ∨ t.pair.role ≠ 0 then t
      else if leField b 8 8 = t.pair.snapCount ∧ slice b 16 48 = sha384B t.pair.snapBytes then
        let u := takeVault t
        pairTo .catchingUp 0 (modPair (fun p => { p with snapCount := 0, snapBytes := [], snapVault := [], highest := leField b 0 8 })
          { u with jrn := { u.jrn with next := leField b 0 8 + 1 } })
      else clearMain (note 0x267 21 [3, b2n t.pair.vaultCopy] t)))

end
end

