-- ==== Sys2Proof/Laws/Tab.lean ====
section
/-!
SUPPORT. Sparse tables and byte memories: every operation keeps the canonical form, a read after a write at the same index gives the value
written, and a write leaves every other index alone.
-/
namespace Sys2Proof

variable {α : Type} [DecidableEq α] {dflt : α}

/-- A canonical table has a canonical tail, its head is not what an unlisted index reads as, and the tail lies above it. -/
theorem Tab.wf_cons {i : Nat} {v : α} {r : Tab α} :
    Tab.wf dflt ((i, v) :: r) = true ↔ v ≠ dflt ∧ Tab.above i r = true ∧ Tab.wf dflt r = true := by
  simp only [Tab.wf, Bool.and_eq_true, decide_eq_true_eq, and_assoc]

omit [DecidableEq α] in
/-- Above a higher index, a canonical table is above a lower one. -/
theorem Tab.above_mono {k i : Nat} {t : Tab α} (h : k < i) (hi : Tab.above i t = true) : Tab.above k t = true := by
  cases t with
  | nil => rfl
  | cons x r => simp only [Tab.above, decide_eq_true_eq] at hi ⊢; omega

/-- A canonical table above `k` reads as an unlisted index there. -/
theorem Tab.get_above {t : Tab α} : ∀ {k : Nat}, Tab.wf dflt t = true → Tab.above k t = true → Tab.get dflt t k = dflt := by
  induction t with
  | nil => intros; rfl
  | cons x r ih =>
    obtain ⟨i, v⟩ := x
    intro k hw ha
    have hw' := Tab.wf_cons.1 hw
    simp only [Tab.above, decide_eq_true_eq] at ha
    unfold Tab.get
    rw [if_neg (by omega)]
    exact ih hw'.2.2 (Tab.above_mono ha hw'.2.1)

theorem Tab.above_drop {t : Tab α} {i k : Nat} (hw : Tab.wf dflt t = true) (ha : Tab.above i t = true) :
    Tab.above i (Tab.drop t k) = true := by
  cases t with
  | nil => rfl
  | cons x r =>
    obtain ⟨j, v⟩ := x
    simp only [Tab.above, decide_eq_true_eq] at ha
    unfold Tab.drop
    split
    · exact Tab.above_mono ha (Tab.wf_cons.1 hw).2.1
    · simpa [Tab.above] using ha

theorem Tab.wf_drop {t : Tab α} {k : Nat} (hw : Tab.wf dflt t = true) : Tab.wf dflt (Tab.drop t k) = true := by
  induction t with
  | nil => rfl
  | cons x r ih =>
    obtain ⟨i, v⟩ := x
    have hw' := Tab.wf_cons.1 hw
    unfold Tab.drop
    split
    · exact hw'.2.2
    · exact Tab.wf_cons.2 ⟨hw'.1, Tab.above_drop hw'.2.2 hw'.2.1, ih hw'.2.2⟩

omit [DecidableEq α] in
theorem Tab.above_put {t : Tab α} {i k : Nat} {v : α} (ha : Tab.above i t = true) (hk : i < k) : Tab.above i (Tab.put t k v) = true := by
  cases t with
  | nil => simpa [Tab.put, Tab.above] using hk
  | cons x r =>
    obtain ⟨j, w⟩ := x
    unfold Tab.put
    split
    · simpa [Tab.above] using hk
    · split
      · simpa [Tab.above] using hk
      · exact ha

theorem Tab.wf_put {t : Tab α} {k : Nat} {v : α} (hv : v ≠ dflt) (hw : Tab.wf dflt t = true) : Tab.wf dflt (Tab.put t k v) = true := by
  induction t with
  | nil => exact Tab.wf_cons.2 ⟨hv, rfl, rfl⟩
  | cons x r ih =>
    obtain ⟨i, w⟩ := x
    have hw' := Tab.wf_cons.1 hw
    unfold Tab.put
    split
    · exact Tab.wf_cons.2 ⟨hv, by simpa [Tab.above] using ‹k < i›, hw⟩
    · split
      · subst k; exact Tab.wf_cons.2 ⟨hv, hw'.2.1, hw'.2.2⟩
      · exact Tab.wf_cons.2 ⟨hw'.1, Tab.above_put hw'.2.1 (by omega), ih hw'.2.2⟩

/-- A write keeps the canonical form. -/
theorem Tab.wf_set {t : Tab α} {k : Nat} {v : α} (hw : Tab.wf dflt t = true) : Tab.wf dflt (Tab.set dflt t k v) = true := by
  unfold Tab.set
  split
  · exact Tab.wf_drop hw
  · exact Tab.wf_put ‹_› hw

/-- A change keeps the canonical form. -/
theorem Tab.wf_modify {t : Tab α} {k : Nat} {f : α → α} (hw : Tab.wf dflt t = true) : Tab.wf dflt (Tab.modify dflt t k f) = true :=
  Tab.wf_set hw

theorem Tab.get_put {t : Tab α} {k i : Nat} {v : α} : Tab.get dflt (Tab.put t k v) i = if i = k then v else Tab.get dflt t i := by
  induction t with
  | nil => simp only [Tab.put, Tab.get]; split <;> split <;> first | rfl | omega
  | cons x r ih =>
    obtain ⟨j, w⟩ := x
    unfold Tab.put
    split
    · by_cases h : i = k
      · subst h; simp [Tab.get]
      · rw [if_neg h]; conv_lhs => unfold Tab.get
        rw [if_neg (fun e => h e.symm)]
    · split
      · subst k
        by_cases h : i = j
        · subst h; simp [Tab.get]
        · rw [if_neg h]; simp only [Tab.get]; rw [if_neg (fun e => h e.symm), if_neg (fun e => h e.symm)]
      · simp only [Tab.get]
        rw [ih]
        by_cases h : j = i
        · subst h; simp; omega
        · simp [h]

theorem Tab.get_drop {t : Tab α} {k i : Nat} (hw : Tab.wf dflt t = true) :
    Tab.get dflt (Tab.drop t k) i = if i = k then dflt else Tab.get dflt t i := by
  induction t with
  | nil => simp [Tab.drop, Tab.get]
  | cons x r ih =>
    obtain ⟨j, w⟩ := x
    have hw' := Tab.wf_cons.1 hw
    unfold Tab.drop
    split
    · subst k
      by_cases h : i = j
      · subst h; rw [if_pos rfl]; exact Tab.get_above hw'.2.2 hw'.2.1
      · rw [if_neg h]; conv_rhs => unfold Tab.get
        rw [if_neg (fun e => h e.symm)]
    · simp only [Tab.get]
      rw [ih hw'.2.2]
      by_cases h : j = i
      · subst h; simp_all
      · simp [h]

/-- A read after a write gives the value written, and every other index as before. -/
theorem Tab.get_set {t : Tab α} {k i : Nat} {v : α} (hw : Tab.wf dflt t = true) :
    Tab.get dflt (Tab.set dflt t k v) i = if i = k then v else Tab.get dflt t i := by
  unfold Tab.set
  split
  · rw [Tab.get_drop hw]; simp_all
  · exact Tab.get_put

/-- A read of another index needs no canonical form when a value is put. -/
theorem Tab.get_set_self {t : Tab α} {k : Nat} {v : α} (hv : v ≠ dflt) : Tab.get dflt (Tab.set dflt t k v) k = v := by
  unfold Tab.set; rw [if_neg hv, Tab.get_put, if_pos rfl]

/-- A run of bytes keeps the canonical form. -/
theorem Tab.wf_writeBytes {d : Byte} {size : Nat} (bs : Bytes) : ∀ {t : Tab Byte} {k : Nat},
    Tab.wf d t = true → Tab.wf d (Tab.writeBytes d size t k bs) = true := by
  induction bs with
  | nil => exact fun h => h
  | cons b r ih => exact fun h => ih (Tab.wf_set h)

/-- A run of bytes leaves every address outside it alone. -/
theorem Tab.get_writeBytes_other {d : Byte} {size x : Nat} (bs : Bytes) : ∀ {t : Tab Byte} {k : Nat},
    Tab.wf d t = true → (∀ i < bs.length, x ≠ (k + i) % size) → Tab.get d (Tab.writeBytes d size t k bs) x = Tab.get d t x := by
  induction bs with
  | nil => intros; rfl
  | cons b r ih =>
    intro t k hw hx
    unfold Tab.writeBytes
    rw [ih (Tab.wf_set hw), Tab.get_set hw, if_neg]
    · simpa using hx 0 (by simp)
    · intro i hi
      have := hx (i + 1) (by simpa using hi)
      rwa [show k + (i + 1) = k + 1 + i by omega] at this

end Sys2Proof
end

