-- ==== Sys2Proof/Laws/Lasting.lean ====
section
/-!
SUPPORT. What every command leaves: the relation `Lasting a s` says what a state `s` keeps of the state `a` a command started from. The
queue and the model's monotonic count are the same; outputs and free values are only used up in order; the evidence counter never loses a bit
(13 R381), the anti-rollback count never falls (14 R408), a scrapped module stays scrapped (14 R398); the byte memories keep their canonical form.
One lemma per operation, `<operation>_lasting`, carries the relation through it.
-/
namespace Sys2Proof.Machine

/-- What `s` keeps of `a`. -/
structure Lasting (a s : State) : Prop where
  /-- No command touches the queue. -/
  queue : s.pending = a.pending
  /-- Nor the monotonic count. -/
  mono : s.time.mono = a.time.mono
  /-- Outputs are appended. -/
  out : a.out <+: s.out
  /-- Free values are taken in order. -/
  free : a.freeCtr ≤ s.freeCtr
  /-- Evidence bits of copy A stay set. -/
  otpA : ∀ i, a.nv.otpA.getLsbD i = true → s.nv.otpA.getLsbD i = true
  /-- And of copy B. -/
  otpB : ∀ i, a.nv.otpB.getLsbD i = true → s.nv.otpB.getLsbD i = true
  /-- The anti-rollback count does not fall. -/
  rollback : a.nv.rollback ≤ s.nv.rollback
  /-- A scrapped module stays scrapped. -/
  scrapped : a.nv.scrapped = true → s.nv.scrapped = true
  /-- Scree's ring stays canonical. -/
  ring : Memory.wf 0 a.scr.ring = true → Memory.wf 0 s.scr.ring = true
  /-- Firmware slot A stays canonical. -/
  slotA : Memory.wf 0xFF a.nv.slotA = true → Memory.wf 0xFF s.nv.slotA = true
  /-- Firmware slot B stays canonical. -/
  slotB : Memory.wf 0xFF a.nv.slotB = true → Memory.wf 0xFF s.nv.slotB = true

/-- Every state keeps itself. -/
theorem Lasting.rfl' (a : State) : Lasting a a :=
  ⟨rfl, rfl, List.prefix_refl _, Nat.le_refl _, fun _ => id, fun _ => id, Nat.le_refl _, id, id, id, id⟩

/-- A change of anything else. -/
theorem Lasting.upd {a s t : State} (h : Lasting a s) (hq : t.pending = s.pending) (hm : t.time.mono = s.time.mono) (ho : t.out = s.out)
    (hf : t.freeCtr = s.freeCtr) (hn : t.nv.otpA = s.nv.otpA) (hn' : t.nv.otpB = s.nv.otpB) (hr : t.nv.rollback = s.nv.rollback)
    (hs : t.nv.scrapped = s.nv.scrapped) (hg : t.scr.ring = s.scr.ring) (ha : t.nv.slotA = s.nv.slotA) (hb : t.nv.slotB = s.nv.slotB) :
    Lasting a t where
  queue := hq.trans h.queue
  mono := hm.trans h.mono
  out := ho ▸ h.out
  free := hf ▸ h.free
  otpA := hn ▸ h.otpA
  otpB := hn' ▸ h.otpB
  rollback := hr ▸ h.rollback
  scrapped := hs ▸ h.scrapped
  ring := hg ▸ h.ring
  slotA := ha ▸ h.slotA
  slotB := hb ▸ h.slotB

/-- A change of anything else, written as a record. -/
theorem Lasting.lit
    {a s : State} {time_ : TimeBlk} {rings_ : Tab Ring} {cirq_ : Cirque} {jobs_ : List Job} {refused_ : List Job} {mas_ : Massif} {eng_ :
    Engines} {rng_ : Rng} {parts_ : Tab Part} {vault_ : Vault} {nv_ : Nv} {cust_ : Cust} {tmp_ : Tamper} {dbg_ : Debug} {pair_ : Pair} {jrn_
    : Journal} {scr_ : Scree} {tarn_ : Tarn} {grd_ : Guard} {pmc_ : Pmc} {pwr_ : Power} {smb_ : Smb} {sys_ : Sys} {msix_ : Tab Vector_}
    {out_ : List Output} {freeCtr_ : Nat} {pending_ : List Instr}
    (hq : pending_ = s.pending) (h : Lasting a s) (hm : time_.mono = s.time.mono) (ho : out_ = s.out) (hf : freeCtr_ = s.freeCtr) (h1 :
    nv_.otpA = s.nv.otpA) (h2 : nv_.otpB = s.nv.otpB) (h3 : nv_.rollback = s.nv.rollback) (h4 : nv_.scrapped = s.nv.scrapped) (h5 :
    scr_.ring = s.scr.ring) (h6 : nv_.slotA = s.nv.slotA) (h7 : nv_.slotB = s.nv.slotB) :
    Lasting a ⟨time_, rings_, cirq_, jobs_, refused_, mas_, eng_, rng_, parts_, vault_, nv_, cust_, tmp_, dbg_, pair_, jrn_, scr_, tarn_, grd_, pmc_,
      pwr_, smb_, sys_, msix_, out_, freeCtr_, pending_⟩ :=
  h.upd hq hm ho hf h1 h2 h3 h4 h5 h6 h7

/-- A value on the way to a result keeps: the result may use it. -/
theorem Lasting.cut {Q : Prop} (a x : State) (p : Lasting a x) (q : Lasting a x → Q) : Q := q p

/-- The state of a pair. -/
theorem Lasting.ofPair {α : Type} {a t : State} {b : α} {p : α × State} (h : Lasting a p.2) (e : p = (b, t)) : Lasting a t := by
  subst e; exact h

/-- The anti-rollback count may rise. -/
theorem Lasting.raise {a s : State} (h : Lasting a s) : Lasting a { s with nv := { s.nv with rollback := s.nv.rollback + 1 } } :=
  { h with rollback := Nat.le_succ_of_le h.rollback }

/-- A fold of operations that keep. -/
theorem Lasting.foldl {α : Type} {a : State} {f : State → α → State} (hf : ∀ s x, Lasting a s → Lasting a (f s x)) (l : List α) :
    ∀ {s : State}, Lasting a s → Lasting a (l.foldl f s) := by
  induction l with
  | nil => exact fun h => h
  | cons x xs ih => exact fun h => ih (hf _ x h)

/-- A next state keeps. -/
structure Lasts (a : State) (n : Next) : Prop where
  /-- The next state keeps. -/
  keep : ∀ t, n = .next t → Lasting a t

/-- The next state given. -/
theorem Lasts.done {a s : State} (h : Lasting a s) : Lasts a (done s) := ⟨fun t e => by cases e; exact h⟩

/-- The next state given. -/
theorem Lasts.next {a s : State} (h : Lasting a s) : Lasts a (.next s) := ⟨fun t e => by cases e; exact h⟩

/-- What a run of a command leaves, however it ends. -/
def RunLasts {α : Type} (a : State) : Except Stop (α × State) → Prop
  | .ok (_, s) => Lasting a s
  | .error (.fail _ s) => Lasting a s
  | .error (.wait _) => True
  | .error (.hold s) => Lasting a s

/-- A command's run keeps. -/
structure CmdLasts {α : Type} (a : State) (m : Cmd α) : Prop where
  /-- From every state that keeps. -/
  run : ∀ s, Lasting a s → RunLasts a (m s)

/-- One run after another. -/
theorem CmdLasts.bind {α β : Type} {a : State} {m : Cmd α} {f : α → Cmd β} (hm : CmdLasts a m) (hf : ∀ x, CmdLasts a (f x)) :
    CmdLasts a (m >>= f) := by
  constructor
  intro s h
  have h1 := hm.run s h
  simp only [Bind.bind, StateT.bind, Except.bind]
  revert h1
  cases m s with
  | ok p => obtain ⟨x, s'⟩ := p; exact fun h1 => (hf x).run s' h1
  | error e => cases e <;> exact fun h1 => h1

/-- Reading the state. -/
theorem CmdLasts.bindGet {β : Type} {a : State} {f : State → Cmd β} (hf : ∀ s, Lasting a s → CmdLasts a (f s)) :
    CmdLasts a (get >>= f) := ⟨fun s h => (hf s h).run s h⟩

/-- A value. -/
theorem CmdLasts.pure {α : Type} {a : State} (x : α) : CmdLasts a (pure x : Cmd α) := ⟨fun _ h => h⟩

/-- A change of the state. -/
theorem CmdLasts.modify {a : State} {f : State → State} (hf : ∀ s, Lasting a s → Lasting a (f s)) :
    CmdLasts a (modify f : Cmd PUnit) := ⟨fun s h => hf s h⟩

/-- A new state. -/
theorem CmdLasts.set {a t : State} (ht : Lasting a t) : CmdLasts a (set t : Cmd PUnit) := ⟨fun _ _ => ht⟩

/-- A run that ends at once. -/
theorem CmdLasts.fail {α : Type} {a : State} (st : W16) : CmdLasts a (Cmd.fail st : Cmd α) := ⟨fun _ h => h⟩

theorem CmdLasts.need {a : State} (b : Bool) (st : W16) : CmdLasts a (Cmd.need b st) := by
  constructor; intro s h; unfold Cmd.need; split <;> exact h

theorem CmdLasts.some {α : Type} {a : State} (o : Option α) (st : W16) : CmdLasts a (Cmd.some? o st) := by
  constructor; intro s h; unfold Cmd.some?; split <;> exact h

theorem CmdLasts.of {α : Type} {a : State} (e : Except W16 α) : CmdLasts a (Cmd.of e) := by
  constructor; intro s h; unfold Cmd.of; split <;> exact h

theorem CmdLasts.hold {α : Type} {a : State} : CmdLasts a (Cmd.hold : Cmd α) := ⟨fun _ h => h⟩

/-- A run written out. -/
theorem CmdLasts.mk' {α : Type} {a : State} {m : State → Except Stop (α × State)} (h : ∀ s, Lasting a s → RunLasts a (m s)) :
    CmdLasts a (m : Cmd α) := ⟨h⟩

theorem RunLasts.ok {α : Type} {a s : State} (x : α) (h : Lasting a s) : RunLasts a (.ok (x, s)) := h

theorem RunLasts.fail {α : Type} {a s : State} (st : W16) (h : Lasting a s) : RunLasts a (.error (.fail st s) : Except Stop (α × State)) := h

theorem RunLasts.wait {α : Type} {a : State} (i : Option Nat) : RunLasts a (.error (.wait i) : Except Stop (α × State)) := trivial

theorem RunLasts.hold {α : Type} {a s : State} (h : Lasting a s) : RunLasts a (.error (.hold s) : Except Stop (α × State)) := h

/-- An operation that may find nothing to do, with a result. -/
structure OptLasts {α : Type} (a : State) (o : Option (α × State)) : Prop where
  /-- What it leaves when it finds something. -/
  keep : ∀ x t, o = some (x, t) → Lasting a t

theorem OptLasts.none {α : Type} {a : State} : OptLasts a (none : Option (α × State)) := ⟨fun _ _ e => by cases e⟩

theorem OptLasts.some {α : Type} {a s : State} (x : α) (h : Lasting a s) : OptLasts a (some (x, s)) := ⟨fun _ _ e => by cases e; exact h⟩

theorem OptLasts.of {α : Type} {a t : State} {x : α} {o : Option (α × State)} (h : OptLasts a o) (e : o = Option.some (x, t)) : Lasting a t :=
  h.keep x t e

theorem OptLasts.map {α β : Type} {a : State} {o : Option (α × State)} {f : α × State → β × State} (h : OptLasts a o)
    (hf : ∀ p, Lasting a p.2 → Lasting a (f p).2) : OptLasts a (o.map f) := by
  constructor
  intro x t e
  cases o with
  | none => cases e
  | some p =>
    have e' : f p = (x, t) := Option.some.inj e
    have := hf p (h.keep p.1 p.2 rfl)
    rwa [e'] at this

theorem OptLasts.mapTo {α β : Type} {a s : State} (o : Option α) (f : α → β) (h : Lasting a s) : OptLasts a (o.map fun b => (f b, s)) := by
  constructor
  intro x t e
  cases o with
  | none => cases e
  | some p => cases e; exact h

/-- An operation that may find nothing to do. -/
structure MayLasts (a : State) (o : Option State) : Prop where
  /-- What it leaves when it finds something. -/
  keep : ∀ t, o = some t → Lasting a t

theorem MayLasts.none {a : State} : MayLasts a none := ⟨fun _ e => by cases e⟩

theorem MayLasts.some {a s : State} (h : Lasting a s) : MayLasts a (some s) := ⟨fun _ e => by cases e; exact h⟩

theorem MayLasts.bind {α : Type} {a : State} {o : Option (α × State)} {f : α × State → Option State} (h : OptLasts a o)
    (hf : ∀ x s, Lasting a s → MayLasts a (f (x, s))) : MayLasts a (o.bind f) := by
  cases o with
  | none => exact MayLasts.none
  | some p => exact hf p.1 p.2 (h.keep p.1 p.2 rfl)

theorem MayLasts.of {a t : State} {o : Option State} (h : MayLasts a o) (e : o = Option.some t) : Lasting a t := h.keep t e

end Sys2Proof.Machine
end

