-- ==== Sys2Proof/Laws/LastOps.lean ====
section
/-!
SUPPORT. What the operations of Machine/Ops.lean keep (Lasting.lean), one lemma each.
-/
set_option linter.all false
namespace Sys2Proof.Machine

theorem modRing_lasting {a s : State} (p : Nat) (r : Nat) (f : Ring → Ring) (ha : Lasting a s) : Lasting a (modRing p r f s) := by
  unfold modRing
  repeat' (first
    | with_reducible assumption
    | fail_if_no_progress with_reducible refine Lasting.lit rfl ?_ rfl rfl rfl rfl rfl rfl rfl rfl rfl rfl)

theorem modPart_lasting {a s : State} (p : Nat) (f : Part → Part) (ha : Lasting a s) : Lasting a (modPart p f s) := by
  unfold modPart
  repeat' (first
    | with_reducible assumption
    | fail_if_no_progress with_reducible refine Lasting.lit rfl ?_ rfl rfl rfl rfl rfl rfl rfl rfl rfl rfl)

theorem modVault_lasting {a s : State} (p : Nat) (f : VaultPart → VaultPart) (ha : Lasting a s) : Lasting a (modVault p f s) := by
  unfold modVault
  repeat' (first
    | with_reducible assumption
    | fail_if_no_progress with_reducible refine Lasting.lit rfl ?_ rfl rfl rfl rfl rfl rfl rfl rfl rfl rfl)

theorem setNode_lasting {a s : State} (i : Nat) (n : Node) (ha : Lasting a s) : Lasting a (setNode i n s) := by
  unfold setNode
  repeat' (first
    | with_reducible assumption
    | fail_if_no_progress with_reducible refine Lasting.lit rfl ?_ rfl rfl rfl rfl rfl rfl rfl rfl rfl rfl)

theorem emit_lasting {a s : State} (o : Output) (h : Lasting a s) : Lasting a (emit o s) :=
  { h with out := h.out.trans (List.prefix_append _ _) }

theorem sendMsix_lasting {a s : State} (p : Nat) (v : Nat) (ha : Lasting a s) : Lasting a (sendMsix p v s) := by
  unfold sendMsix
  repeat' (first
    | with_reducible assumption
    | with_reducible apply emit_lasting
    | split
    | fail_if_no_progress with_reducible refine Lasting.lit rfl ?_ rfl rfl rfl rfl rfl rfl rfl rfl rfl rfl)

theorem screePut_lasting {a s : State} (cluster : Nat) (x : ScreeItem) (ha : Lasting a s) : Lasting a (screePut cluster x s) := by
  unfold screePut
  repeat' (first
    | with_reducible assumption
    | (extract_lets +onlyGivenNames x; (have : Scree := x; clear this; unfold x; clear x))
    | fail_if_no_progress with_reducible refine Lasting.lit rfl ?_ rfl rfl rfl rfl rfl rfl rfl rfl rfl rfl)

theorem scree_lasting {a s : State} (e : Ev) (ha : Lasting a s) : Lasting a (scree e s) := by
  unfold scree
  repeat' (first
    | with_reducible assumption
    | (extract_lets +onlyGivenNames x; (first | (have : Scree := x; clear this; unfold x; clear x) | (unfold x; clear x)))
    | with_reducible apply screePut_lasting
    | split
    | fail_if_no_progress with_reducible refine Lasting.lit rfl ?_ rfl rfl rfl rfl rfl rfl rfl rfl rfl rfl)

theorem note_lasting {a s : State} (code : Nat) (cluster : Nat) (fields : List Nat) (ha : Lasting a s) : Lasting a (note code cluster fields s) := by
  unfold note
  repeat' (first
    | with_reducible assumption
    | with_reducible apply scree_lasting)

theorem noteAll_lasting {a s : State} (es : List Ev) (ha : Lasting a s) : Lasting a (noteAll es s) := by
  unfold noteAll
  repeat' (first
    | with_reducible assumption
    | with_reducible apply scree_lasting
    | with_reducible apply Lasting.foldl)

theorem putHost_lasting {a s : State} (p : Nat) (iova : Nat) (bs : Bytes) (ha : Lasting a s) : Lasting a (putHost p iova bs s) := by
  unfold putHost
  repeat' (first
    | with_reducible assumption
    | with_reducible apply modPart_lasting
    | with_reducible apply emit_lasting
    | split)

theorem freeBelow_lasting {a s : State} (n : Nat) (h : Lasting a s) : Lasting a (freeBelow n s).2 :=
  { h with free := Nat.le_trans h.free (Nat.le_succ _) }

theorem freeBytes_lasting {a s : State} (n : Nat) (h : Lasting a s) : Lasting a (freeBytes n s).2 :=
  { h with free := Nat.le_trans h.free (Nat.le_add_right _ _) }

theorem pmcSample_lasting {a s : State} (i : Nat) (h : Hit) (ha : Lasting a s) : Lasting a (pmcSample i h s) := by
  unfold pmcSample
  repeat' (first
    | with_reducible assumption
    | (extract_lets +onlyGivenNames x; (first | (refine Lasting.cut a x ?_ ?_; (on_goal 1 => (unfold x; clear x)); (on_goal 2 => (intro _; clear_value x))) | (unfold x; clear x)))
    | with_reducible apply freeBelow_lasting
    | with_reducible apply putHost_lasting
    | with_reducible apply sendMsix_lasting
    | with_reducible apply note_lasting
    | split
    | (with_reducible refine Lasting.ofPair ?_ ‹_ = (_, _)›)
    | fail_if_no_progress with_reducible refine Lasting.lit rfl ?_ rfl rfl rfl rfl rfl rfl rfl rfl rfl rfl)

theorem pmcCount_lasting {a s : State} (h : Hit) (i : Nat) (ha : Lasting a s) : Lasting a (pmcCount h s i) := by
  unfold pmcCount
  repeat' (first
    | with_reducible assumption
    | (extract_lets +onlyGivenNames x; (first | (refine Lasting.cut a x ?_ ?_; (on_goal 1 => (unfold x; clear x)); (on_goal 2 => (intro _; clear_value x))) | (unfold x; clear x)))
    | with_reducible apply pmcSample_lasting
    | split
    | fail_if_no_progress with_reducible refine Lasting.lit rfl ?_ rfl rfl rfl rfl rfl rfl rfl rfl rfl rfl)

theorem pmc_lasting {a s : State} (h : Hit) (ha : Lasting a s) : Lasting a (pmc h s) := by
  unfold pmc
  repeat' (first
    | with_reducible assumption
    | (intro _)
    | with_reducible apply pmcCount_lasting
    | with_reducible apply Lasting.foldl
    | split)

theorem pmcHit_lasting {a s : State} (code : Nat) (n : Nat) (cls : Nat) (ha : Lasting a s) : Lasting a (pmcHit code n cls s) := by
  unfold pmcHit
  repeat' (first
    | with_reducible assumption
    | with_reducible apply pmc_lasting)

theorem pmcJob_lasting {a s : State} (code : Nat) (n : Nat) (stage : Nat) (j : Job) (ha : Lasting a s) : Lasting a (pmcJob code n stage j s) := by
  unfold pmcJob
  repeat' (first
    | with_reducible assumption
    | with_reducible apply pmc_lasting)

theorem partCount_lasting {a s : State} (p : Nat) (i : Nat) (ha : Lasting a s) : Lasting a (partCount p i s) := by
  unfold partCount
  repeat' (first
    | with_reducible assumption
    | with_reducible apply modPart_lasting)

theorem hostWrite_lasting {a s : State} (p : Nat) (iova : Nat) (bs : Bytes) (master : Nat) (cls : Nat) (ha : Lasting a s) : Lasting a (hostWrite p iova bs master cls s) := by
  unfold hostWrite
  repeat' (first
    | with_reducible assumption
    | with_reducible apply pmc_lasting
    | with_reducible apply putHost_lasting
    | split)

theorem flushHeld_lasting {a s : State} (p : Nat) (ha : Lasting a s) : Lasting a (flushHeld p s) := by
  unfold flushHeld
  repeat' (first
    | with_reducible assumption
    | (intro _)
    | with_reducible apply emit_lasting
    | with_reducible apply modPart_lasting
    | with_reducible apply Lasting.foldl
    | split)

theorem modJob_lasting {a s : State} (q : Nat) (f : Job → Job) (ha : Lasting a s) : Lasting a (modJob q f s) := by
  unfold modJob
  repeat' (first
    | with_reducible assumption
    | fail_if_no_progress with_reducible refine Lasting.lit rfl ?_ rfl rfl rfl rfl rfl rfl rfl rfl rfl rfl)

theorem dropJob_lasting {a s : State} (q : Nat) (ha : Lasting a s) : Lasting a (dropJob q s) := by
  unfold dropJob
  repeat' (first
    | with_reducible assumption
    | fail_if_no_progress with_reducible refine Lasting.lit rfl ?_ rfl rfl rfl rfl rfl rfl rfl rfl rfl rfl)

theorem modPinv_lasting {a s : State} (n : Nat) (f : Engine → Engine) (ha : Lasting a s) : Lasting a (modPinv n f s) := by
  unfold modPinv
  repeat' (first
    | with_reducible assumption
    | fail_if_no_progress with_reducible refine Lasting.lit rfl ?_ rfl rfl rfl rfl rfl rfl rfl rfl rfl rfl)

theorem modNewt_lasting {a s : State} (n : Nat) (f : Core → Core) (ha : Lasting a s) : Lasting a (modNewt n f s) := by
  unfold modNewt
  repeat' (first
    | with_reducible assumption
    | fail_if_no_progress with_reducible refine Lasting.lit rfl ?_ rfl rfl rfl rfl rfl rfl rfl rfl rfl rfl)

theorem modBig_lasting {a s : State} (n : Nat) (f : BigCore → BigCore) (ha : Lasting a s) : Lasting a (modBig n f s) := by
  unfold modBig
  repeat' (first
    | with_reducible assumption
    | fail_if_no_progress with_reducible refine Lasting.lit rfl ?_ rfl rfl rfl rfl rfl rfl rfl rfl rfl rfl)

theorem modLat_lasting {a s : State} (n : Nat) (f : Engine → Engine) (ha : Lasting a s) : Lasting a (modLat n f s) := by
  unfold modLat
  repeat' (first
    | with_reducible assumption
    | fail_if_no_progress with_reducible refine Lasting.lit rfl ?_ rfl rfl rfl rfl rfl rfl rfl rfl rfl rfl)

theorem modHash_lasting {a s : State} (n : Nat) (f : Engine → Engine) (ha : Lasting a s) : Lasting a (modHash n f s) := by
  unfold modHash
  repeat' (first
    | with_reducible assumption
    | fail_if_no_progress with_reducible refine Lasting.lit rfl ?_ rfl rfl rfl rfl rfl rfl rfl rfl rfl rfl)

theorem newtWindowTake_lasting {a s : State} (n : Nat) (ha : Lasting a s) : Lasting a (newtWindowTake n s) := by
  unfold newtWindowTake
  repeat' (first
    | with_reducible assumption
    | (extract_lets +onlyGivenNames x; (refine Lasting.cut a x ?_ ?_; (on_goal 1 => (unfold x; clear x)); (on_goal 2 => (intro _; clear_value x))))
    | with_reducible apply modNewt_lasting
    | split
    | fail_if_no_progress with_reducible refine Lasting.lit rfl ?_ rfl rfl rfl rfl rfl rfl rfl rfl rfl rfl)

theorem releaseNewt_lasting {a s : State} (n : Nat) (ha : Lasting a s) : Lasting a (releaseNewt n s) := by
  unfold releaseNewt
  repeat' (first
    | with_reducible assumption
    | with_reducible apply newtWindowTake_lasting
    | with_reducible apply modNewt_lasting)

theorem iguWindowTake_lasting {a s : State} (u : Nat) (ha : Lasting a s) : Lasting a (iguWindowTake u s) := by
  unfold iguWindowTake
  repeat' (first
    | with_reducible assumption
    | (extract_lets +onlyGivenNames x; (refine Lasting.cut a x ?_ ?_; (on_goal 1 => (unfold x; clear x)); (on_goal 2 => (intro _; clear_value x))))
    | with_reducible apply modBig_lasting
    | with_reducible apply modLat_lasting
    | with_reducible apply modHash_lasting
    | split
    | fail_if_no_progress with_reducible refine Lasting.lit rfl ?_ rfl rfl rfl rfl rfl rfl rfl rfl rfl rfl)

theorem releaseUnit_lasting {a s : State} (u : UnitRef) (ha : Lasting a s) : Lasting a (releaseUnit u s) := by
  unfold releaseUnit
  repeat' (first
    | with_reducible assumption
    | with_reducible apply releaseNewt_lasting
    | with_reducible apply modPinv_lasting
    | with_reducible apply modBig_lasting
    | with_reducible apply iguWindowTake_lasting
    | with_reducible apply modLat_lasting
    | with_reducible apply modHash_lasting
    | split)

theorem releaseHeld_lasting {a s : State} (j : Job) (ha : Lasting a s) : Lasting a (releaseHeld j s) := by
  unfold releaseHeld
  repeat' (first
    | with_reducible assumption
    | with_reducible apply modJob_lasting
    | with_reducible apply releaseUnit_lasting
    | split)

theorem unfreeze_lasting {a s : State} (j : Job) (ha : Lasting a s) : Lasting a (unfreeze j s) := by
  unfold unfreeze
  repeat' (first
    | with_reducible assumption
    | with_reducible apply modPart_lasting
    | split)

theorem endJob_lasting {a s : State} (q : Nat) (st : W16) (e : Ending) (ha : Lasting a s) : Lasting a (endJob q st e s) := by
  unfold endJob
  repeat' (first
    | with_reducible assumption
    | (extract_lets +onlyGivenNames x; (refine Lasting.cut a x ?_ ?_; (on_goal 1 => (unfold x; clear x)); (on_goal 2 => (intro _; clear_value x))))
    | with_reducible apply unfreeze_lasting
    | with_reducible apply modJob_lasting
    | with_reducible apply releaseHeld_lasting
    | split)

theorem endJobs_lasting {a s : State} (qs : List Nat) (st : W16) (e : Ending) (ha : Lasting a s) : Lasting a (endJobs qs st e s) := by
  unfold endJobs
  repeat' (first
    | with_reducible assumption
    | (intro _)
    | with_reducible apply endJob_lasting
    | with_reducible apply Lasting.foldl)

theorem startStop_lasting {a s : State} (code : Nat) (src : Nat) (ha : Lasting a s) : Lasting a (startStop code src s) := by
  unfold startStop
  repeat' (first
    | with_reducible assumption
    | with_reducible apply note_lasting
    | split
    | fail_if_no_progress with_reducible refine Lasting.lit rfl ?_ rfl rfl rfl rfl rfl rfl rfl rfl rfl rfl)

theorem modSrc_lasting {a s : State} (n : Nat) (f : TarnSrc → TarnSrc) (ha : Lasting a s) : Lasting a (modSrc n f s) := by
  unfold modSrc
  repeat' (first
    | with_reducible assumption
    | fail_if_no_progress with_reducible refine Lasting.lit rfl ?_ rfl rfl rfl rfl rfl rfl rfl rfl rfl rfl)

theorem suspendJobs_lasting {a s : State} (ha : Lasting a s) : Lasting a (suspendJobs s) := by
  unfold suspendJobs
  repeat' (first
    | with_reducible assumption
    | (extract_lets +onlyGivenNames x; (refine Lasting.cut a x ?_ ?_; (on_goal 1 => (unfold x; clear x)); (on_goal 2 => (intro _; clear_value x))))
    | with_reducible apply endJobs_lasting
    | fail_if_no_progress with_reducible refine Lasting.lit rfl ?_ rfl rfl rfl rfl rfl rfl rfl rfl rfl rfl)

theorem releaseActive_lasting {a s : State} (ha : Lasting a s) : Lasting a (releaseActive s) := by
  unfold releaseActive
  repeat' (first
    | with_reducible assumption
    | fail_if_no_progress with_reducible refine Lasting.lit rfl ?_ rfl rfl rfl rfl rfl rfl rfl rfl rfl rfl)

theorem giveUpRole_lasting {a s : State} (ha : Lasting a s) : Lasting a (giveUpRole s) := by
  unfold giveUpRole
  repeat' (first
    | with_reducible assumption
    | with_reducible apply releaseActive_lasting
    | split)

theorem setUp_lasting {a s : State} (u : TestUnit) (v : Bool) (ha : Lasting a s) : Lasting a (setUp u v s) := by
  unfold setUp
  repeat' (first
    | with_reducible assumption
    | with_reducible apply modPinv_lasting
    | with_reducible apply modNewt_lasting
    | with_reducible apply modBig_lasting
    | with_reducible apply modLat_lasting
    | with_reducible apply modHash_lasting
    | split
    | fail_if_no_progress with_reducible refine Lasting.lit rfl ?_ rfl rfl rfl rfl rfl rfl rfl rfl rfl rfl)

theorem emptyClass_lasting {a s : State} (c : Nat) (ha : Lasting a s) : Lasting a (emptyClass c s) := by
  unfold emptyClass
  repeat' (first
    | with_reducible assumption
    | with_reducible apply endJobs_lasting)

theorem takeOut_lasting {a s : State} (u : TestUnit) (ha : Lasting a s) : Lasting a (takeOut u s) := by
  unfold takeOut
  repeat' (first
    | with_reducible assumption
    | (extract_lets +onlyGivenNames x; (first | (refine Lasting.cut a x ?_ ?_; (on_goal 1 => (unfold x; clear x)); (on_goal 2 => (intro _; clear_value x))) | (unfold x; clear x)))
    | with_reducible apply endJobs_lasting
    | with_reducible apply setUp_lasting
    | with_reducible apply emptyClass_lasting
    | with_reducible apply iguWindowTake_lasting
    | with_reducible apply newtWindowTake_lasting
    | with_reducible apply note_lasting
    | split)

theorem severityEffects_lasting {a s : State} (n : Nat) (unit : Nat) (lvl : Nat) (degrade : Bool) (ha : Lasting a s) : Lasting a (severityEffects n unit lvl degrade s) := by
  unfold severityEffects
  repeat' (first
    | with_reducible assumption
    | (extract_lets +onlyGivenNames x; (refine Lasting.cut a x ?_ ?_; (on_goal 1 => (unfold x; clear x)); (on_goal 2 => (intro _; clear_value x))))
    | with_reducible apply takeOut_lasting
    | with_reducible apply suspendJobs_lasting
    | with_reducible apply giveUpRole_lasting
    | split
    | fail_if_no_progress with_reducible refine Lasting.lit rfl ?_ rfl rfl rfl rfl rfl rfl rfl rfl rfl rfl)

theorem tarnRaise_lasting {a s : State} (n : Nat) (kind : Nat) (unit : Nat) (info : W32) (injected : Bool) (ha : Lasting a s) : Lasting a (tarnRaise n kind unit info injected s) := by
  unfold tarnRaise
  repeat' (first
    | with_reducible assumption
    | (extract_lets +onlyGivenNames x; (first | (refine Lasting.cut a x ?_ ?_; (on_goal 1 => (unfold x; clear x)); (on_goal 2 => (intro _; clear_value x))) | (unfold x; clear x)))
    | with_reducible apply modSrc_lasting
    | with_reducible apply takeOut_lasting
    | with_reducible apply sendMsix_lasting
    | with_reducible apply note_lasting
    | with_reducible apply severityEffects_lasting
    | split)

theorem tarnOpen_lasting {a s : State} (n : Nat) (kind : Nat) (unit : Nat) (injected : Bool) (ha : Lasting a s) : Lasting a (tarnOpen n kind unit injected s) := by
  unfold tarnOpen
  repeat' (first
    | exact { ha with free := Nat.le_trans ha.free (Nat.le_succ _) }
    | with_reducible apply tarnRaise_lasting)

theorem accError_lasting {a s : State} (bit : Nat) (off : Nat) (ha : Lasting a s) : Lasting a (accError bit off s) := by
  unfold accError
  repeat' (first
    | with_reducible assumption
    | fail_if_no_progress with_reducible refine Lasting.lit rfl ?_ rfl rfl rfl rfl rfl rfl rfl rfl rfl rfl)

theorem served_lasting {a s : State} {n : Next} (h : Lasting a s) (hn : Lasts a n) : Lasts a (served s n) := by
  unfold served; split
  · exact hn
  · exact Lasts.done h

theorem openTo_lasting {a s : State} {n : Next} (h : Lasting a s) (hn : Lasts a n) : Lasts a (openTo s n) := by
  unfold openTo; split
  · exact Lasts.done h
  · exact hn

theorem setStage_lasting {a s : State} (p : Nat) (off : Nat) (w : Option W32) (ha : Lasting a s) : Lasting a (setStage p off w s) := by
  unfold setStage
  repeat' (first
    | with_reducible assumption
    | fail_if_no_progress with_reducible refine Lasting.lit rfl ?_ rfl rfl rfl rfl rfl rfl rfl rfl rfl rfl)

theorem leaveBuckets_lasting {a s : State} (ha : Lasting a s) : Lasting a (leaveBuckets s) := by
  unfold leaveBuckets
  repeat' (first
    | with_reducible assumption
    | (extract_lets +onlyGivenNames x; (refine Lasting.cut a x ?_ ?_; (on_goal 1 => (unfold x; clear x)); (on_goal 2 => (intro _; clear_value x))))
    | with_reducible apply endJobs_lasting
    | fail_if_no_progress with_reducible refine Lasting.lit rfl ?_ rfl rfl rfl rfl rfl rfl rfl rfl rfl rfl)

theorem moveCursor_lasting {a s : State} (ha : Lasting a s) : Lasting a (moveCursor s) := by
  unfold moveCursor
  repeat' (first
    | with_reducible assumption
    | with_reducible apply leaveBuckets_lasting
    | fail_if_no_progress with_reducible refine Lasting.lit rfl ?_ rfl rfl rfl rfl rfl rfl rfl rfl rfl rfl)

theorem partErrMsix_lasting {a s : State} (p : Nat) (ha : Lasting a s) : Lasting a (partErrMsix p s) := by
  unfold partErrMsix
  repeat' (first
    | with_reducible assumption
    | with_reducible apply sendMsix_lasting
    | split)

theorem partError_lasting {a s : State} (p : Nat) (read : Bool) (addr : Nat) (kind : Nat) (ring : Nat) (op : W16) (ha : Lasting a s) : Lasting a (partError p read addr kind ring op s) := by
  unfold partError
  repeat' (first
    | with_reducible assumption
    | (extract_lets +onlyGivenNames x; (first | (refine Lasting.cut a x ?_ ?_; (on_goal 1 => (unfold x; clear x)); (on_goal 2 => (intro _; clear_value x))) | (unfold x; clear x)))
    | with_reducible apply modPart_lasting
    | with_reducible apply partErrMsix_lasting
    | with_reducible apply note_lasting
    | split)

theorem fetchError_lasting {a s : State} (p : Nat) (r : Nat) (ha : Lasting a s) : Lasting a (fetchError p r s) := by
  unfold fetchError
  repeat' (first
    | with_reducible assumption
    | (extract_lets +onlyGivenNames x; (refine Lasting.cut a x ?_ ?_; (on_goal 1 => (unfold x; clear x)); (on_goal 2 => (intro _; clear_value x))))
    | with_reducible apply modRing_lasting
    | with_reducible apply partErrMsix_lasting
    | with_reducible apply modPart_lasting)

theorem streamTo_lasting {a s : State} (q : Nat) (e : Entry) (ha : Lasting a s) : Lasting a (streamTo q e s) := by
  unfold streamTo
  repeat' (first
    | with_reducible assumption
    | (extract_lets +onlyGivenNames x; (first | (refine Lasting.cut a x ?_ ?_; (on_goal 1 => (unfold x; clear x)); (on_goal 2 => (intro _; clear_value x))) | (unfold x; clear x)))
    | with_reducible apply modPart_lasting
    | with_reducible apply hostWrite_lasting
    | with_reducible apply note_lasting
    | with_reducible apply sendMsix_lasting
    | split)

theorem stream_lasting {a s : State} (e : Entry) (noJournal : Bool) (ha : Lasting a s) : Lasting a (stream e noJournal s) := by
  unfold stream
  repeat' (first
    | with_reducible assumption
    | (extract_lets +onlyGivenNames x; (refine Lasting.cut a x ?_ ?_; (on_goal 1 => (unfold x; clear x)); (on_goal 2 => (intro _; clear_value x))))
    | with_reducible apply streamTo_lasting
    | split)

theorem jrnAdd_lasting {a s : State} (e : Entry) (noJournal : Bool) (ha : Lasting a s) : Lasting a (jrnAdd e noJournal s) := by
  unfold jrnAdd
  repeat' (first
    | with_reducible assumption
    | with_reducible apply stream_lasting
    | fail_if_no_progress with_reducible refine Lasting.lit rfl ?_ rfl rfl rfl rfl rfl rfl rfl rfl rfl rfl)

theorem jrnFinal_lasting {a s : State} (q : Nat) (st : W16) (noJournal : Bool) (ha : Lasting a s) : Lasting a (jrnFinal q st noJournal s) := by
  unfold jrnFinal
  repeat' (first
    | with_reducible assumption
    | (extract_lets +onlyGivenNames x; (first | (refine Lasting.cut a x ?_ ?_; (on_goal 1 => (unfold x; clear x)); (on_goal 2 => (intro _; clear_value x))) | (unfold x; clear x)))
    | with_reducible apply stream_lasting
    | split
    | fail_if_no_progress with_reducible refine Lasting.lit rfl ?_ rfl rfl rfl rfl rfl rfl rfl rfl rfl rfl)

theorem sendFrame_lasting {a s : State} (type : Nat) (payload : Bytes) (ha : Lasting a s) : Lasting a (sendFrame type payload s) := by
  unfold sendFrame
  repeat' (first
    | with_reducible assumption
    | (extract_lets +onlyGivenNames x; (first | (have : ∃ y : State → State, y = x := ⟨x, rfl⟩; clear this; unfold x; clear x; beta_reduce) | (unfold x; clear x)))
    | with_reducible apply emit_lasting
    | split
    | fail_if_no_progress with_reducible refine Lasting.lit rfl ?_ rfl rfl rfl rfl rfl rfl rfl rfl rfl rfl)

theorem forward_lasting {a s : State} (q : Nat) (type : Nat) (payload : Bytes) (ha : Lasting a s) : Lasting a (forward q type payload s) := by
  unfold forward
  repeat' (first
    | with_reducible assumption
    | with_reducible apply sendFrame_lasting
    | split)

end Sys2Proof.Machine
end

