-- ==== Sys2Proof/Laws/LastTime.lean ====
section
/-!
SUPPORT. What the operations of Machine/Time.lean keep (Lasting.lean), one lemma each.
-/
set_option linter.all false
namespace Sys2Proof.Machine

theorem modTime_lasting {a s : State} (f : TimeBlk → TimeBlk) (ha : Lasting a s) (hf : ∀ t, (f t).mono = t.mono) :
    Lasting a (modTime f s) := ha.upd rfl (hf _) rfl rfl rfl rfl rfl rfl rfl rfl rfl

theorem setTimeState_lasting {a s : State} (n : NtbState) (ha : Lasting a s) : Lasting a (setTimeState n s) := by
  unfold setTimeState
  repeat' (first
    | with_reducible assumption
    | (intro _)
    | (extract_lets +onlyGivenNames x; (refine Lasting.cut a x ?_ ?_; (on_goal 1 => (unfold x; clear x)); (on_goal 2 => (intro _; clear_value x))))
    | with_reducible apply modTime_lasting
    | with_reducible apply sendMsix_lasting
    | with_reducible apply note_lasting
    | split
    | exact rfl)

theorem stepNtb_lasting {a s : State} (off : Int) (ha : Lasting a s) : Lasting a (stepNtb off s) := by
  unfold stepNtb
  repeat' (first
    | with_reducible assumption
    | (intro _)
    | (extract_lets +onlyGivenNames x; (refine Lasting.cut a x ?_ ?_; (on_goal 1 => (unfold x; clear x)); (on_goal 2 => (intro _; clear_value x))))
    | with_reducible apply modTime_lasting
    | with_reducible apply moveCursor_lasting
    | with_reducible apply note_lasting
    | exact rfl)

theorem correct_lasting {a s : State} (off : Int) (ha : Lasting a s) : Lasting a (correct off s) := by
  unfold correct
  repeat' (first
    | with_reducible assumption
    | (intro _)
    | with_reducible apply modTime_lasting
    | with_reducible apply stepNtb_lasting
    | split
    | exact rfl)

theorem measure_lasting {a s : State} (off : Int) (ha : Lasting a s) : Lasting a (measure off s) := by
  unfold measure
  repeat' (first
    | with_reducible assumption
    | (intro _)
    | with_reducible apply correct_lasting
    | with_reducible apply modTime_lasting
    | split
    | exact rfl)

theorem sourceLocked_lasting {a s : State} (off : Int) (ha : Lasting a s) : Lasting a (sourceLocked off s) := by
  unfold sourceLocked
  repeat' (first
    | with_reducible assumption
    | (intro _)
    | (extract_lets +onlyGivenNames x; (refine Lasting.cut a x ?_ ?_; (on_goal 1 => (unfold x; clear x)); (on_goal 2 => (intro _; clear_value x))))
    | with_reducible apply setTimeState_lasting
    | with_reducible apply stepNtb_lasting
    | with_reducible apply modTime_lasting
    | with_reducible apply measure_lasting
    | with_reducible apply note_lasting
    | split
    | exact rfl)

theorem sourceMeasured_lasting {a s : State} (off : Int) (ha : Lasting a s) : Lasting a (sourceMeasured off s) := by
  unfold sourceMeasured
  repeat' (first
    | with_reducible assumption
    | (intro _)
    | (extract_lets +onlyGivenNames x; (refine Lasting.cut a x ?_ ?_; (on_goal 1 => (unfold x; clear x)); (on_goal 2 => (intro _; clear_value x))))
    | with_reducible apply measure_lasting
    | with_reducible apply setTimeState_lasting
    | with_reducible apply modTime_lasting
    | split
    | exact rfl)

theorem execTimePair_lasting {a s : State} (upper : W32) (ha : Lasting a s) : Lasts a (execTimePair upper s) := by
  unfold execTimePair
  repeat' (first
    | with_reducible assumption
    | (intro _)
    | with_reducible apply served_lasting
    | with_reducible apply sourceLocked_lasting
    | with_reducible apply modTime_lasting
    | with_reducible apply Lasts.done
    | split
    | exact rfl)

theorem execAcceptFree_lasting {a s : State} (ha : Lasting a s) : Lasts a (execAcceptFree s) := by
  unfold execAcceptFree
  repeat' (first
    | with_reducible assumption
    | with_reducible apply served_lasting
    | with_reducible apply setTimeState_lasting
    | with_reducible apply note_lasting
    | with_reducible apply Lasts.done
    | split)

theorem noteTimeCfg_lasting {a s : State} (cause : Nat) (ha : Lasting a s) : Lasting a (noteTimeCfg cause s) := by
  unfold noteTimeCfg
  repeat' (first
    | with_reducible assumption
    | with_reducible apply note_lasting)

theorem writeTimeCfg_lasting {a s : State} (value : W32) (ha : Lasting a s) : Lasting a (writeTimeCfg value s) := by
  unfold writeTimeCfg
  repeat' (first
    | with_reducible assumption
    | (intro _)
    | (extract_lets +onlyGivenNames x; (first | (refine Lasting.cut a x ?_ ?_; (on_goal 1 => (unfold x; clear x)); (on_goal 2 => (intro _; clear_value x))) | (unfold x; clear x)))
    | with_reducible apply accError_lasting
    | with_reducible apply modTime_lasting
    | with_reducible apply noteTimeCfg_lasting
    | split
    | exact rfl)

theorem execTimeCfgWrite_lasting {a s : State} (value : W32) (ha : Lasting a s) : Lasts a (execTimeCfgWrite value s) := by
  unfold execTimeCfgWrite
  repeat' (first
    | with_reducible assumption
    | with_reducible apply served_lasting
    | with_reducible apply writeTimeCfg_lasting
    | with_reducible apply Lasts.done)

theorem frameRejected_lasting {a s : State} (ha : Lasting a s) : Lasting a (frameRejected s) := by
  unfold frameRejected
  repeat' (first
    | with_reducible assumption
    | (intro _)
    | with_reducible apply modTime_lasting
    | exact rfl)

theorem execTimeOfDayFrame_lasting {a s : State} (frame : Bytes) (ha : Lasting a s) : Lasts a (execTimeOfDayFrame frame s) := by
  unfold execTimeOfDayFrame
  repeat' (first
    | with_reducible assumption
    | (intro _)
    | (extract_lets +onlyGivenNames x; (refine Lasting.cut a x ?_ ?_; (on_goal 1 => (unfold x; clear x)); (on_goal 2 => (intro _; clear_value x))))
    | with_reducible apply frameRejected_lasting
    | with_reducible apply modTime_lasting
    | with_reducible apply Lasts.done
    | split
    | exact rfl)

theorem execTimePpsEdge_lasting {a s : State} (ha : Lasting a s) : Lasts a (execTimePpsEdge s) := by
  unfold execTimePpsEdge
  repeat' (first
    | with_reducible assumption
    | (intro _)
    | (extract_lets +onlyGivenNames x; (first | (refine Lasting.cut a x ?_ ?_; (on_goal 1 => (unfold x; clear x)); (on_goal 2 => (intro _; clear_value x))) | (unfold x; clear x)))
    | with_reducible apply frameRejected_lasting
    | with_reducible apply modTime_lasting
    | with_reducible apply sourceLocked_lasting
    | with_reducible apply sourceMeasured_lasting
    | with_reducible apply Lasts.done
    | split
    | exact rfl)

theorem execEdgeReport_lasting {a s : State} (ha : Lasting a s) : Lasts a (execEdgeReport s) := by
  unfold execEdgeReport
  repeat' (first
    | with_reducible assumption
    | (intro _)
    | with_reducible apply emit_lasting
    | with_reducible apply modTime_lasting
    | with_reducible apply Lasts.done
    | split
    | exact rfl)

theorem execPtmRequest_lasting {a s : State} (ha : Lasting a s) : Lasts a (execPtmRequest s) := by
  unfold execPtmRequest
  repeat' (first
    | with_reducible assumption
    | (intro _)
    | with_reducible apply emit_lasting
    | with_reducible apply modTime_lasting
    | with_reducible apply Lasts.done
    | split
    | exact rfl)

theorem execPtmExchangeDone_lasting {a s : State} (master : Option W64) (ha : Lasting a s) : Lasts a (execPtmExchangeDone master s) := by
  unfold execPtmExchangeDone
  repeat' (first
    | with_reducible assumption
    | (intro _)
    | (extract_lets +onlyGivenNames x; (first | (refine Lasting.cut a x ?_ ?_; (on_goal 1 => (unfold x; clear x)); (on_goal 2 => (intro _; clear_value x))) | (unfold x; clear x)))
    | with_reducible apply modTime_lasting
    | with_reducible apply sourceLocked_lasting
    | with_reducible apply sourceMeasured_lasting
    | with_reducible apply Lasts.done
    | split
    | exact rfl)

theorem execSourceLoss_lasting {a s : State} (ha : Lasting a s) : Lasts a (execSourceLoss s) := by
  unfold execSourceLoss
  repeat' (first
    | with_reducible assumption
    | (intro _)
    | (extract_lets +onlyGivenNames x; (first | (refine Lasting.cut a x ?_ ?_; (on_goal 1 => (unfold x; clear x)); (on_goal 2 => (intro _; clear_value x))) | (unfold x; clear x)))
    | with_reducible apply note_lasting
    | with_reducible apply modTime_lasting
    | with_reducible apply setTimeState_lasting
    | with_reducible apply Lasts.done
    | split
    | exact rfl)

theorem execSlewDone_lasting {a s : State} (ha : Lasting a s) : Lasts a (execSlewDone s) := by
  unfold execSlewDone
  repeat' (first
    | with_reducible assumption
    | (intro _)
    | (extract_lets +onlyGivenNames x; (first | (refine Lasting.cut a x ?_ ?_; (on_goal 1 => (unfold x; clear x)); (on_goal 2 => (intro _; clear_value x))) | (unfold x; clear x)))
    | with_reducible apply modTime_lasting
    | with_reducible apply setTimeState_lasting
    | with_reducible apply Lasts.done
    | split
    | exact rfl)

end Sys2Proof.Machine
end

