-- ==== Sys2Proof/Laws/LastFlags.lean ====
section
/-!
SUPPORT. What the operations of Machine/Flags.lean keep (Lasting.lean), one lemma each.
-/
set_option linter.all false
namespace Sys2Proof.Machine

theorem judgeAlert_lasting {a s : State} (ha : Lasting a s) : Lasting a (judgeAlert s) := by
  unfold judgeAlert
  repeat' (first
    | with_reducible assumption
    | (extract_lets +onlyGivenNames x; (unfold x; clear x))
    | split
    | fail_if_no_progress with_reducible refine Lasting.lit rfl ?_ rfl rfl rfl rfl rfl rfl rfl rfl rfl rfl)

end Sys2Proof.Machine
end

