-- ==== Sys2Proof/Laws/LastClock.lean ====
section
/-!
SUPPORT. What the operations of Machine/Clock.lean keep (Lasting.lean), one lemma each.
-/
set_option linter.all false
namespace Sys2Proof.Machine

theorem tickEntitled_lasting {a s : State} (ha : Lasting a s) : Lasting a (tickEntitled s) := by
  unfold tickEntitled
  repeat' (first
    | with_reducible assumption
    | (intro _)
    | with_reducible apply modPart_lasting
    | with_reducible apply Lasting.foldl)

theorem tickReceived_lasting {a s : State} (ha : Lasting a s) : Lasting a (tickReceived s) := by
  unfold tickReceived
  repeat' (first
    | with_reducible assumption
    | (intro _)
    | with_reducible apply modPart_lasting
    | with_reducible apply Lasting.foldl
    | split)

theorem tickIssue_lasting {a s : State} (ha : Lasting a s) : Lasting a (tickIssue s) := by
  unfold tickIssue
  repeat' (first
    | with_reducible assumption
    | (intro _)
    | with_reducible apply freeBelow_lasting
    | with_reducible apply pmcJob_lasting
    | with_reducible apply modPart_lasting
    | with_reducible apply Lasting.foldl
    | split)

theorem tickPmc_lasting {a s : State} (ha : Lasting a s) : Lasting a (tickPmc s) := by
  unfold tickPmc
  repeat' (first
    | with_reducible assumption
    | (intro _)
    | (extract_lets +onlyGivenNames x; (refine Lasting.cut a x ?_ ?_; (on_goal 1 => (unfold x; clear x)); (on_goal 2 => (intro _; clear_value x))))
    | with_reducible apply pmcHit_lasting
    | with_reducible apply pmcJob_lasting
    | with_reducible apply Lasting.foldl
    | split)

theorem tickPressure_lasting {a s : State} (ha : Lasting a s) : Lasting a (tickPressure s) := by
  unfold tickPressure
  repeat' (first
    | with_reducible assumption
    | (intro _)
    | (extract_lets +onlyGivenNames x; (unfold x; clear x))
    | with_reducible apply partCount_lasting
    | with_reducible apply modPart_lasting
    | with_reducible apply Lasting.foldl
    | split)

theorem tickIdle_lasting {a s : State} (ha : Lasting a s) : Lasting a (tickIdle s) := by
  unfold tickIdle
  repeat' (first
    | with_reducible assumption
    | (intro _)
    | with_reducible apply Lasting.foldl
    | split
    | fail_if_no_progress with_reducible refine Lasting.lit rfl ?_ rfl rfl rfl rfl rfl rfl rfl rfl rfl rfl)

theorem tickVault_lasting {a s : State} (ha : Lasting a s) : Lasting a (tickVault s) := by
  unfold tickVault
  repeat' (first
    | with_reducible assumption
    | (extract_lets +onlyGivenNames x; (first | (refine Lasting.cut a x ?_ ?_; (on_goal 1 => (unfold x; clear x)); (on_goal 2 => (intro _; clear_value x))) | (have : Nv := x; clear this; unfold x; clear x)))
    | split
    | fail_if_no_progress with_reducible refine Lasting.lit rfl ?_ rfl rfl rfl rfl rfl rfl rfl rfl rfl rfl)

theorem tickRest_lasting {a s : State} (ha : Lasting a s) : Lasting a (tickRest s) := by
  unfold tickRest
  repeat' (first
    | with_reducible assumption
    | (extract_lets +onlyGivenNames x; (refine Lasting.cut a x ?_ ?_; (on_goal 1 => (unfold x; clear x)); (on_goal 2 => (intro _; clear_value x))))
    | with_reducible apply tickIdle_lasting
    | with_reducible apply tickIssue_lasting
    | with_reducible apply tickReceived_lasting
    | with_reducible apply tickEntitled_lasting
    | with_reducible apply judgeAlert_lasting
    | with_reducible apply tickVault_lasting
    | with_reducible apply tickPmc_lasting
    | with_reducible apply tickPressure_lasting
    | split)

end Sys2Proof.Machine
end

