-- ==== Sys2Proof/Laws/LastDrbg.lean ====
section
/-!
SUPPORT. What the operations of Machine/Drbg.lean keep (Lasting.lean), one lemma each.
-/
set_option linter.all false
namespace Sys2Proof.Machine

theorem setInst_lasting {a s : State} (i : Nat) (d : Drbg) (ha : Lasting a s) : Lasting a (setInst i d s) := by
  unfold setInst
  repeat' (first
    | with_reducible assumption
    | fail_if_no_progress with_reducible refine Lasting.lit rfl ?_ rfl rfl rfl rfl rfl rfl rfl rfl rfl rfl)

theorem drawInst_lasting {a s : State} (i : Nat) (n : Nat) (ha : Lasting a s) : Lasting a (drawInst i n s).2 := by
  unfold drawInst
  repeat' (first
    | with_reducible assumption
    | with_reducible apply setInst_lasting)

theorem instantiateInst_lasting {a s : State} (i : Nat) (ha : Lasting a s) : Lasting a (instantiateInst i s) := by
  unfold instantiateInst
  repeat' (first
    | with_reducible assumption
    | with_reducible apply drawInst_lasting
    | with_reducible apply setInst_lasting)

end Sys2Proof.Machine
end

