-- ==== Sys2Proof/Laws/LastRun.lean ====
section
/-!
SUPPORT. What the operations of Machine/Run.lean keep (Lasting.lean), one lemma each.
-/
set_option linter.all false
namespace Sys2Proof.Machine

theorem sendRandom_lasting {a s : State} (q : Nat) (inst : Nat) (off : Nat) (bs : Bytes) (ha : Lasting a s) : Lasting a (sendRandom q inst off bs s) := by
  unfold sendRandom
  repeat' (first
    | with_reducible assumption
    | (intro _)
    | with_reducible apply sendFrame_lasting
    | with_reducible apply Lasting.foldl
    | split)

theorem draw_lasting {a : State} (q : Nat) (inst : Nat) (n : Nat) : CmdLasts a ((draw q inst n) : Cmd Bytes) := by
  unfold draw
  repeat' (first
    | with_reducible assumption
    | with_reducible apply CmdLasts.mk'
    | with_reducible apply RunLasts.ok
    | with_reducible apply RunLasts.fail
    | with_reducible apply RunLasts.wait
    | (intro _)
    | with_reducible apply modJob_lasting
    | with_reducible apply drawInst_lasting
    | with_reducible apply sendRandom_lasting
    | split)

theorem share_lasting {a : State} (q n : Nat) (f : State → Bytes × State) (hf : ∀ s, Lasting a s → Lasting a (f s).2) : CmdLasts a (share q n f) := by
  constructor
  intro s h
  unfold share
  have h1 := hf s h
  repeat' (first
    | split
    | with_reducible apply RunLasts.ok
    | with_reducible apply modJob_lasting
    | with_reducible apply sendRandom_lasting
    | exact Lasting.ofPair h1 ‹_›
    | trivial)

theorem drawFree_lasting {a : State} (q n : Nat) : CmdLasts a (drawFree q n) := share_lasting q n _ fun _ h => freeBytes_lasting n h

theorem readClock_lasting {a : State} (q : Nat) : CmdLasts a (readClock q) :=
  CmdLasts.bind (share_lasting q 21 _ fun _ h => h) fun _ => CmdLasts.pure _

theorem ksWrite_lasting {a s : State} (p : Nat) (c : KsChange) (ha : Lasting a s) : Lasting a (ksWrite p c s) := by
  unfold ksWrite
  repeat' (first
    | with_reducible assumption
    | (extract_lets +onlyGivenNames x; (refine Lasting.cut a x ?_ ?_; (on_goal 1 => (unfold x; clear x)); (on_goal 2 => (intro _; clear_value x))))
    | with_reducible apply hostWrite_lasting
    | with_reducible apply freeBytes_lasting
    | with_reducible apply modPart_lasting
    | split)

theorem freeHeld_lasting {a s : State} (ha : Lasting a s) : Lasting a (freeHeld s) := by
  unfold freeHeld
  repeat' (first
    | with_reducible assumption
    | fail_if_no_progress with_reducible refine Lasting.lit rfl ?_ rfl rfl rfl rfl rfl rfl rfl rfl rfl rfl)

theorem holdExt_lasting {a s : State} (i : Nat) (ha : Lasting a s) : Lasting a (holdExt i s) := by
  unfold holdExt
  repeat' (first
    | with_reducible assumption
    | (intro _)
    | with_reducible apply setNode_lasting
    | with_reducible apply Lasting.foldl)

theorem writeNode_lasting {a s : State} (i : Nat) (n : Node) (ha : Lasting a s) : Lasting a (writeNode i n s) := by
  unfold writeNode
  repeat' (first
    | with_reducible assumption
    | (intro _)
    | (extract_lets +onlyGivenNames x; (first | (refine Lasting.cut a x ?_ ?_; (on_goal 1 => (unfold x; clear x)); (on_goal 2 => (intro _; clear_value x))) | (unfold x; clear x)))
    | with_reducible apply holdExt_lasting
    | with_reducible apply setNode_lasting
    | with_reducible apply Lasting.foldl
    | split)

theorem eraseNode_lasting {a s : State} (i : Nat) (g : Nat) (owner : Nat) (ha : Lasting a s) : Lasting a (eraseNode i g owner s) := by
  unfold eraseNode
  repeat' (first
    | with_reducible assumption
    | (extract_lets +onlyGivenNames x; (refine Lasting.cut a x ?_ ?_; (on_goal 1 => (unfold x; clear x)); (on_goal 2 => (intro _; clear_value x))))
    | with_reducible apply holdExt_lasting
    | with_reducible apply setNode_lasting)

theorem setPinning_lasting {a s : State} (c : Nat) (v : Option Nat) (ha : Lasting a s) : Lasting a (setPinning c v s) := by
  unfold setPinning
  repeat' (first
    | with_reducible assumption
    | (intro _)
    | (extract_lets +onlyGivenNames x; (refine Lasting.cut a x ?_ ?_; (on_goal 1 => (unfold x; clear x)); (on_goal 2 => (intro _; clear_value x))))
    | with_reducible apply modNewt_lasting
    | with_reducible apply Lasting.foldl
    | fail_if_no_progress with_reducible refine Lasting.lit rfl ?_ rfl rfl rfl rfl rfl rfl rfl rfl rfl rfl)

theorem applyConfig_lasting {a s : State} (p : Nat) (c : PartCfg) (ha : Lasting a s) : Lasting a (applyConfig p c s) := by
  unfold applyConfig
  repeat' (first
    | with_reducible assumption
    | (extract_lets +onlyGivenNames x; (first | (refine Lasting.cut a x ?_ ?_; (on_goal 1 => (unfold x; clear x)); (on_goal 2 => (intro _; clear_value x))) | (unfold x; clear x)))
    | with_reducible apply modPart_lasting
    | with_reducible apply note_lasting
    | with_reducible apply setPinning_lasting
    | split
    | fail_if_no_progress with_reducible refine Lasting.lit rfl ?_ rfl rfl rfl rfl rfl rfl rfl rfl rfl rfl)

theorem bringUp_lasting {a s : State} (p : Nat) (q : Nat) (ha : Lasting a s) : Lasting a (bringUp p q s) := by
  unfold bringUp
  repeat' (first
    | with_reducible assumption
    | (extract_lets +onlyGivenNames x; (refine Lasting.cut a x ?_ ?_; (on_goal 1 => (unfold x; clear x)); (on_goal 2 => (intro _; clear_value x))))
    | with_reducible apply instantiateInst_lasting
    | with_reducible apply modPart_lasting
    | split)

theorem resetRings_lasting {a s : State} (p : Nat) (ha : Lasting a s) : Lasting a (resetRings p s) := by
  unfold resetRings
  repeat' (first
    | with_reducible assumption
    | fail_if_no_progress with_reducible refine Lasting.lit rfl ?_ rfl rfl rfl rfl rfl rfl rfl rfl rfl rfl)

theorem wipeNodes_lasting {a s : State} (p : Nat) (ha : Lasting a s) : Lasting a (wipeNodes p s) := by
  unfold wipeNodes
  repeat' (first
    | with_reducible assumption
    | fail_if_no_progress with_reducible refine Lasting.lit rfl ?_ rfl rfl rfl rfl rfl rfl rfl rfl rfl rfl)

theorem wipePart_lasting {a s : State} (p : Nat) (ha : Lasting a s) : Lasting a (wipePart p s) := by
  unfold wipePart
  repeat' (first
    | with_reducible assumption
    | (extract_lets +onlyGivenNames x; (refine Lasting.cut a x ?_ ?_; (on_goal 1 => (unfold x; clear x)); (on_goal 2 => (intro _; clear_value x))))
    | with_reducible apply setInst_lasting
    | with_reducible apply wipeNodes_lasting
    | with_reducible apply setPinning_lasting
    | with_reducible apply modPart_lasting
    | with_reducible apply resetRings_lasting
    | split)

theorem wipeContents_lasting {a s : State} (p : Nat) (ha : Lasting a s) : Lasting a (wipeContents p s) := by
  unfold wipeContents
  repeat' (first
    | with_reducible assumption
    | with_reducible apply modPart_lasting
    | with_reducible apply wipeNodes_lasting)

theorem afterVault_lasting {a s : State} (p : Nat) (old : VaultPart) (v : VaultPart) (ha : Lasting a s) : Lasting a (afterVault p old v s) := by
  unfold afterVault
  repeat' (first
    | with_reducible assumption
    | (extract_lets +onlyGivenNames x; (refine Lasting.cut a x ?_ ?_; (on_goal 1 => (unfold x; clear x)); (on_goal 2 => (intro _; clear_value x))))
    | with_reducible apply modPart_lasting
    | with_reducible apply wipeContents_lasting
    | with_reducible apply instantiateInst_lasting
    | split)

theorem applyVault_lasting {a s : State} (p : Nat) (v : VaultPart) (q : Nat) (ha : Lasting a s) : Lasting a (applyVault p v q s) := by
  unfold applyVault
  repeat' (first
    | with_reducible assumption
    | (extract_lets +onlyGivenNames x; (first | (refine Lasting.cut a x ?_ ?_; (on_goal 1 => (unfold x; clear x)); (on_goal 2 => (intro _; clear_value x))) | (unfold x; clear x)))
    | with_reducible apply modVault_lasting
    | with_reducible apply bringUp_lasting
    | with_reducible apply wipePart_lasting
    | with_reducible apply afterVault_lasting
    | split)

theorem setVault_lasting {a s : State} (v : Vault) (ha : Lasting a s) : Lasting a (setVault v s) := by
  unfold setVault
  repeat' (first
    | with_reducible assumption
    | fail_if_no_progress with_reducible refine Lasting.lit rfl ?_ rfl rfl rfl rfl rfl rfl rfl rfl rfl rfl)

theorem applyCommit_lasting {a s : State} (q : Nat) (c : Commit) (ha : Lasting a s) : Lasting a (applyCommit q s c) := by
  unfold applyCommit
  repeat' (first
    | with_reducible assumption
    | (extract_lets +onlyGivenNames x; (have : Nv := x; clear this; unfold x; clear x))
    | with_reducible apply writeNode_lasting
    | with_reducible apply eraseNode_lasting
    | with_reducible apply modPart_lasting
    | with_reducible apply applyConfig_lasting
    | with_reducible apply applyVault_lasting
    | with_reducible apply setVault_lasting
    | split
    | fail_if_no_progress with_reducible refine Lasting.lit rfl ?_ rfl rfl rfl rfl rfl rfl rfl rfl rfl rfl)

theorem sendCommits_lasting {a s : State} (j : Job) (ha : Lasting a s) : Lasting a (sendCommits j s) := by
  unfold sendCommits
  repeat' (first
    | with_reducible assumption
    | (intro _)
    | with_reducible apply sendFrame_lasting
    | with_reducible apply Lasting.foldl)

theorem noteCommits_lasting {a s : State} (q : Nat) (os : List (Nat × Nat)) (ha : Lasting a s) : Lasting a (noteCommits q os s) := by
  unfold noteCommits
  repeat' (first
    | with_reducible assumption
    | fail_if_no_progress with_reducible refine Lasting.lit rfl ?_ rfl rfl rfl rfl rfl rfl rfl rfl rfl rfl)

theorem commitJob_lasting {a s : State} (q : Nat) (ha : Lasting a s) : Lasting a (commitJob q s) := by
  unfold commitJob
  repeat' (first
    | with_reducible assumption
    | (intro _)
    | (extract_lets +onlyGivenNames x; (refine Lasting.cut a x ?_ ?_; (on_goal 1 => (unfold x; clear x)); (on_goal 2 => (intro _; clear_value x))))
    | with_reducible apply applyCommit_lasting
    | with_reducible apply ksWrite_lasting
    | with_reducible apply noteAll_lasting
    | with_reducible apply noteCommits_lasting
    | with_reducible apply modJob_lasting
    | with_reducible apply releaseHeld_lasting
    | with_reducible apply Lasting.foldl
    | split
    | fail_if_no_progress with_reducible refine Lasting.lit rfl ?_ rfl rfl rfl rfl rfl rfl rfl rfl rfl rfl)

theorem gates_lasting {a s : State} (q : Nat) (ha : Lasting a s) : Lasting a (gates q s) := by
  unfold gates
  repeat' (first
    | with_reducible assumption
    | (extract_lets +onlyGivenNames x; (first | (refine Lasting.cut a x ?_ ?_; (on_goal 1 => (unfold x; clear x)); (on_goal 2 => (intro _; clear_value x))) | (unfold x; clear x)))
    | with_reducible apply endJob_lasting
    | with_reducible apply modJob_lasting
    | with_reducible apply note_lasting
    | with_reducible apply partError_lasting
    | with_reducible apply sendCommits_lasting
    | with_reducible apply commitJob_lasting
    | split)

theorem inheritCommits_lasting {a s : State} (j : Job) (ha : Lasting a s) : Lasting a (inheritCommits j s) := by
  unfold inheritCommits
  repeat' (first
    | with_reducible assumption
    | with_reducible apply modJob_lasting
    | split)

theorem complete_lasting {a s : State} (j : Job) (r : Run) (ha : Lasting a s) : Lasting a (complete j r s) := by
  unfold complete
  repeat' (first
    | with_reducible assumption
    | (extract_lets +onlyGivenNames x; (refine Lasting.cut a x ?_ ?_; (on_goal 1 => (unfold x; clear x)); (on_goal 2 => (intro _; clear_value x))))
    | with_reducible apply endJob_lasting
    | with_reducible apply modJob_lasting
    | with_reducible apply releaseHeld_lasting
    | with_reducible apply noteAll_lasting
    | with_reducible apply gates_lasting
    | with_reducible apply inheritCommits_lasting
    | split)

theorem noteBlocked_lasting {a s : State} (i : Nat) (ha : Lasting a s) : Lasting a (noteBlocked i s) := by
  unfold noteBlocked
  repeat' (first
    | with_reducible assumption
    | with_reducible apply note_lasting
    | with_reducible apply setInst_lasting
    | split)

theorem viewOf_lasting {a s : State} (j : Job) (ha : Lasting a s) : Lasting a (viewOf s j) := by
  unfold viewOf
  repeat' (first
    | with_reducible assumption
    | split
    | fail_if_no_progress with_reducible refine Lasting.lit rfl ?_ rfl rfl rfl rfl rfl rfl rfl rfl rfl rfl)

theorem unview_lasting {a s : State} (j : Job) {s' : State} (ha : Lasting a s) (ha1 : Lasting a s') : Lasting a (unview s j s') := by
  unfold unview
  repeat' (first
    | with_reducible assumption
    | split
    | fail_if_no_progress with_reducible refine Lasting.lit rfl ?_ rfl rfl rfl rfl rfl rfl rfl rfl rfl rfl)

theorem runView_lasting {a s : State} (j : Job) (f : Cmd Run) (ha : Lasting a s) (hf : CmdLasts a f) : RunLasts a (runView j f s) := by
  unfold runView
  have h1 := hf.run _ (viewOf_lasting j ha)
  revert h1
  cases f (viewOf s j) with
  | ok p => obtain ⟨r, s'⟩ := p; exact fun h1 => unview_lasting j ha h1
  | error e => cases e with
    | fail st s' => exact fun h1 => unview_lasting j ha h1
    | wait i => exact fun _ => trivial
    | hold s' => exact fun h1 => unview_lasting j ha h1

theorem finish_lasting {a s : State} (j : Job) (r : Except Stop (Run × State)) (ha : Lasting a s) (hr : RunLasts a r) : Lasting a (finish j r s) := by
  unfold finish
  match r, hr with
  | .ok (r, s'), hr => exact complete_lasting j r hr
  | .error (.fail st s'), hr => exact endJob_lasting _ _ _ hr
  | .error (.hold s'), hr => exact modJob_lasting _ _ hr
  | .error (.wait i), _ =>
    cases i with
    | none => exact modJob_lasting _ _ ha
    | some i => exact noteBlocked_lasting i (modJob_lasting _ _ ha)

theorem runOp_lasting {a s : State} (op : W16) (sel : Job → Bool) (f : Job → Cmd Run) (q : Nat) (ha : Lasting a s) (hf : ∀ j, CmdLasts a (f j)) :
    Lasting a (runOp op sel f q s) := by
  unfold runOp
  cases due s op sel q with
  | none => exact ha
  | some j =>
    dsimp only
    cases j.doom with
    | some st => exact endJob_lasting _ _ _ ha
    | none => exact finish_lasting j _ ha (runView_lasting j (f j) ha (hf j))

theorem runPure_lasting {a s : State} (op : W16) (f : State → Job → Except W16 Run) (q : Nat) (ha : Lasting a s) : Lasting a (runPure op f q s) :=
  runOp_lasting _ _ _ _ ha fun _ => CmdLasts.bindGet fun _ _ => CmdLasts.of _

end Sys2Proof.Machine
end

