-- ==== Sys2Proof/Laws/LastBind.lean ====
section
/-!
SUPPORT. What the operations of Machine/Bind.lean keep (Lasting.lean), one lemma each.
-/
set_option linter.all false
namespace Sys2Proof.Machine

theorem derive_lasting {a s : State} (q : Nat) (p : Nat) (node : Nat) (gen : Nat) (kind : Nat) (label : Bytes) (key : Bytes) (ha : Lasting a s) : Lasting a (derive q p node gen kind label key s).2 := by
  unfold derive
  repeat' (first
    | with_reducible assumption
    | exact fun _ => rfl
    | (intro _)
    | (extract_lets +onlyGivenNames x; (first | (refine Lasting.cut a x ?_ ?_; (on_goal 1 => (unfold x; clear x)); (on_goal 2 => (intro _; clear_value x))) | (refine Lasting.cut a x.2 ?_ ?_; (on_goal 1 => (unfold x; clear x)); (on_goal 2 => (intro _; clear_value x))) | (have : ∃ y : State → State, y = x := ⟨x, rfl⟩; clear this; unfold x; clear x; beta_reduce) | (have : Nat → State → State := x; clear this; unfold x; clear x; beta_reduce) | (have : Nat → W16 → State → State := x; clear this; unfold x; clear x; beta_reduce) | (have : Nat → W16 → Cmd Run := x; clear this; unfold x; clear x; beta_reduce) | (have : (Vector_ → Vector_) → Next := x; clear this; unfold x; clear x; beta_reduce) | (have : (State → State) → Next := x; clear this; unfold x; clear x; beta_reduce) | (have : ∀ y, (x y : Cmd _) = x y := fun _ => rfl; clear this; unfold x; clear x; beta_reduce) | (have : Nv := x; clear this; unfold x; clear x) | (have : Scree := x; clear this; unfold x; clear x) | (have : TimeBlk := x; clear this; unfold x; clear x) | clear_value x | (unfold x; clear x)))
    | with_reducible apply pmcHit_lasting
    | with_reducible apply Lasting.foldl
    | split
    | exact rfl
    | (with_reducible refine Lasting.ofPair ?_ ‹_ = (_, _)›)
    | fail_if_no_progress with_reducible refine Lasting.lit rfl ?_ rfl rfl rfl rfl rfl rfl rfl rfl rfl rfl)

theorem dropHolds_lasting {a s : State} (q : Nat) (ha : Lasting a s) : Lasting a (dropHolds q s) := by
  unfold dropHolds
  repeat' (first
    | with_reducible assumption
    | exact fun _ => rfl
    | (intro _)
    | (extract_lets +onlyGivenNames x; (first | (refine Lasting.cut a x ?_ ?_; (on_goal 1 => (unfold x; clear x)); (on_goal 2 => (intro _; clear_value x))) | (refine Lasting.cut a x.2 ?_ ?_; (on_goal 1 => (unfold x; clear x)); (on_goal 2 => (intro _; clear_value x))) | (have : ∃ y : State → State, y = x := ⟨x, rfl⟩; clear this; unfold x; clear x; beta_reduce) | (have : Nat → State → State := x; clear this; unfold x; clear x; beta_reduce) | (have : Nat → W16 → State → State := x; clear this; unfold x; clear x; beta_reduce) | (have : Nat → W16 → Cmd Run := x; clear this; unfold x; clear x; beta_reduce) | (have : (Vector_ → Vector_) → Next := x; clear this; unfold x; clear x; beta_reduce) | (have : (State → State) → Next := x; clear this; unfold x; clear x; beta_reduce) | (have : ∀ y, (x y : Cmd _) = x y := fun _ => rfl; clear this; unfold x; clear x; beta_reduce) | (have : Nv := x; clear this; unfold x; clear x) | (have : Scree := x; clear this; unfold x; clear x) | (have : TimeBlk := x; clear this; unfold x; clear x) | clear_value x | (unfold x; clear x)))
    | with_reducible apply Lasting.foldl
    | split
    | exact rfl
    | (with_reducible refine Lasting.ofPair ?_ ‹_ = (_, _)›)
    | fail_if_no_progress with_reducible refine Lasting.lit rfl ?_ rfl rfl rfl rfl rfl rfl rfl rfl rfl rfl)

/-- A binding keeps. -/
inductive BoundLasts (a : State) : Bound → Prop where
  | got {s : State} (b : Option Binding) (h : Lasting a s) : BoundLasts a (.got b s)
  | load (i : Nat) : BoundLasts a (.load i)
  | wait : BoundLasts a .wait
  | err {s : State} (st : W16) (h : Lasting a s) : BoundLasts a (.err st s)

theorem BoundLasts.ofGot {a t : State} {b : Option Binding} {x : Bound} (h : BoundLasts a x) (e : x = Bound.got b t) : Lasting a t := by
  subst e; cases h; assumption

theorem BoundLasts.ofErr {a t : State} {st : W16} {x : Bound} (h : BoundLasts a x) (e : x = Bound.err st t) : Lasting a t := by
  subst e; cases h; assumption

theorem bindNode_lasting {a s : State} (j : Job) (second : Bool) (r : Role) (per : Attrs → Bool) (given : Option Nat) (h : W32) (i gen : Nat)
    (ha : Lasting a s) : BoundLasts a (bindNode s j second r per given h i gen) := by
  unfold bindNode
  repeat' (first
    | with_reducible assumption
    | (extract_lets +onlyGivenNames x; (first | (refine Lasting.cut a x ?_ ?_; (on_goal 1 => (unfold x; clear x)); (on_goal 2 => (intro _; clear_value x))) | clear_value x))
    | with_reducible apply BoundLasts.got
    | exact BoundLasts.wait
    | with_reducible apply BoundLasts.err
    | with_reducible apply setNode_lasting
    | with_reducible apply note_lasting
    | with_reducible apply ksWrite_lasting
    | split)

theorem bindCtx_lasting {a s : State} (j : Job) (second : Bool) (r : Role) (per : Attrs → Bool) (h : W32) (ha : Lasting a s) : BoundLasts a (bindCtx s j second r per h) := by
  unfold bindCtx
  repeat' (first
    | with_reducible assumption
    | exact fun _ => rfl
    | (intro _)
    | (extract_lets +onlyGivenNames x; (first | (refine Lasting.cut a x ?_ ?_; (on_goal 1 => (unfold x; clear x)); (on_goal 2 => (intro _; clear_value x))) | (refine Lasting.cut a x.2 ?_ ?_; (on_goal 1 => (unfold x; clear x)); (on_goal 2 => (intro _; clear_value x))) | (have : ∃ y : State → State, y = x := ⟨x, rfl⟩; clear this; unfold x; clear x; beta_reduce) | (have : Nat → State → State := x; clear this; unfold x; clear x; beta_reduce) | (have : Nat → W16 → State → State := x; clear this; unfold x; clear x; beta_reduce) | (have : Nat → W16 → Cmd Run := x; clear this; unfold x; clear x; beta_reduce) | (have : (Vector_ → Vector_) → Next := x; clear this; unfold x; clear x; beta_reduce) | (have : (State → State) → Next := x; clear this; unfold x; clear x; beta_reduce) | (have : ∀ y, (x y : Cmd _) = x y := fun _ => rfl; clear this; unfold x; clear x; beta_reduce) | (have : Nv := x; clear this; unfold x; clear x) | (have : Scree := x; clear this; unfold x; clear x) | (have : TimeBlk := x; clear this; unfold x; clear x) | clear_value x | (unfold x; clear x)))
    | with_reducible apply derive_lasting
    | with_reducible apply Lasting.foldl
    | split
    | exact rfl
    | (with_reducible refine Lasting.ofPair ?_ ‹_ = (_, _)›)
    | fail_if_no_progress with_reducible refine Lasting.lit rfl ?_ rfl rfl rfl rfl rfl rfl rfl rfl rfl rfl
    | with_reducible apply BoundLasts.got
    | exact BoundLasts.wait
    | exact BoundLasts.load _
    | with_reducible apply BoundLasts.err
    | (with_reducible refine BoundLasts.ofGot ?_ ‹_ = Bound.got _ _›)
    | (with_reducible refine BoundLasts.ofErr ?_ ‹_ = Bound.err _ _›))

theorem bindRole_lasting {a s : State} (j : Job) (second : Bool) (per : Attrs → Bool) (given : Option Nat) (ha : Lasting a s) : BoundLasts a (bindRole s j second per given) := by
  unfold bindRole
  repeat' (first
    | with_reducible assumption
    | exact fun _ => rfl
    | (intro _)
    | (extract_lets +onlyGivenNames x; (first | (refine Lasting.cut a x ?_ ?_; (on_goal 1 => (unfold x; clear x)); (on_goal 2 => (intro _; clear_value x))) | (refine Lasting.cut a x.2 ?_ ?_; (on_goal 1 => (unfold x; clear x)); (on_goal 2 => (intro _; clear_value x))) | (have : ∃ y : State → State, y = x := ⟨x, rfl⟩; clear this; unfold x; clear x; beta_reduce) | (have : Nat → State → State := x; clear this; unfold x; clear x; beta_reduce) | (have : Nat → W16 → State → State := x; clear this; unfold x; clear x; beta_reduce) | (have : Nat → W16 → Cmd Run := x; clear this; unfold x; clear x; beta_reduce) | (have : (Vector_ → Vector_) → Next := x; clear this; unfold x; clear x; beta_reduce) | (have : (State → State) → Next := x; clear this; unfold x; clear x; beta_reduce) | (have : ∀ y, (x y : Cmd _) = x y := fun _ => rfl; clear this; unfold x; clear x; beta_reduce) | (have : Nv := x; clear this; unfold x; clear x) | (have : Scree := x; clear this; unfold x; clear x) | (have : TimeBlk := x; clear this; unfold x; clear x) | clear_value x | (unfold x; clear x)))
    | with_reducible apply bindNode_lasting
    | with_reducible apply bindCtx_lasting
    | with_reducible apply Lasting.foldl
    | split
    | exact rfl
    | (with_reducible refine Lasting.ofPair ?_ ‹_ = (_, _)›)
    | fail_if_no_progress with_reducible refine Lasting.lit rfl ?_ rfl rfl rfl rfl rfl rfl rfl rfl rfl rfl
    | with_reducible apply BoundLasts.got
    | exact BoundLasts.wait
    | exact BoundLasts.load _
    | with_reducible apply BoundLasts.err
    | (with_reducible refine BoundLasts.ofGot ?_ ‹_ = Bound.got _ _›)
    | (with_reducible refine BoundLasts.ofErr ?_ ‹_ = Bound.err _ _›))

theorem evictBlob_lasting {a s : State} (b : LoadedBlob) (ha : Lasting a s) : Lasting a (evictBlob b s) := by
  unfold evictBlob
  repeat' (first
    | with_reducible assumption
    | exact fun _ => rfl
    | (intro _)
    | (extract_lets +onlyGivenNames x; (first | (refine Lasting.cut a x ?_ ?_; (on_goal 1 => (unfold x; clear x)); (on_goal 2 => (intro _; clear_value x))) | (refine Lasting.cut a x.2 ?_ ?_; (on_goal 1 => (unfold x; clear x)); (on_goal 2 => (intro _; clear_value x))) | (have : ∃ y : State → State, y = x := ⟨x, rfl⟩; clear this; unfold x; clear x; beta_reduce) | (have : Nat → State → State := x; clear this; unfold x; clear x; beta_reduce) | (have : Nat → W16 → State → State := x; clear this; unfold x; clear x; beta_reduce) | (have : Nat → W16 → Cmd Run := x; clear this; unfold x; clear x; beta_reduce) | (have : (Vector_ → Vector_) → Next := x; clear this; unfold x; clear x; beta_reduce) | (have : (State → State) → Next := x; clear this; unfold x; clear x; beta_reduce) | (have : ∀ y, (x y : Cmd _) = x y := fun _ => rfl; clear this; unfold x; clear x; beta_reduce) | (have : Nv := x; clear this; unfold x; clear x) | (have : Scree := x; clear this; unfold x; clear x) | (have : TimeBlk := x; clear this; unfold x; clear x) | clear_value x | (unfold x; clear x)))
    | with_reducible apply eraseNode_lasting
    | with_reducible apply freeHeld_lasting
    | with_reducible apply Lasting.foldl
    | split
    | exact rfl
    | (with_reducible refine Lasting.ofPair ?_ ‹_ = (_, _)›)
    | fail_if_no_progress with_reducible refine Lasting.lit rfl ?_ rfl rfl rfl rfl rfl rfl rfl rfl rfl rfl)

theorem blobRoom_lasting {a : State} (k n : Nat) : ∀ {s t : State} {i e : Nat}, Lasting a s → blobRoom k n s = some (i, e, t) → Lasting a t := by
  induction n with
  | zero =>
    intro s t i e ha h
    unfold blobRoom at h
    revert h
    dsimp only
    split
    · intro h; cases h; exact ha
    · intro h; cases h
    · intro h; simp_all
  | succ n ih =>
    intro s t i e ha h
    unfold blobRoom at h
    revert h
    dsimp only
    split
    · intro h; cases h; exact ha
    · intro h; cases h
    · split
      · intro h; cases h
      · rename_i e1 e2 _ _ _; cases e2; exact ih (evictBlob_lasting _ ha)

theorem loadBlob_lasting {a s t : State} (p index : Nat) (bytes : Bytes) (ha : Lasting a s) (e : loadBlob p index bytes s = some (.ok t)) : Lasting a t := by
  unfold loadBlob at e
  dsimp only at e
  revert e
  repeat' (first
    | split
    | (intro e; cases e; done))
  all_goals intro e
  all_goals cases e
  all_goals
    apply pmcHit_lasting
    with_reducible refine Lasting.lit rfl ?_ rfl rfl rfl rfl rfl rfl rfl rfl rfl rfl
    with_reducible apply setNode_lasting
    refine Lasting.foldl ?_ _ (blobRoom_lasting _ _ ha ‹blobRoom _ _ s = some (_, _, _)›)
    intro s x h
    exact setNode_lasting _ _ h

theorem addRead_lasting {a s : State} (q : Nat) (off : Nat) (len : Nat) (ha : Lasting a s) : Lasting a (addRead q off len s) := by
  unfold addRead
  repeat' (first
    | with_reducible assumption
    | exact fun _ => rfl
    | (intro _)
    | (extract_lets +onlyGivenNames x; (first | (refine Lasting.cut a x ?_ ?_; (on_goal 1 => (unfold x; clear x)); (on_goal 2 => (intro _; clear_value x))) | (refine Lasting.cut a x.2 ?_ ?_; (on_goal 1 => (unfold x; clear x)); (on_goal 2 => (intro _; clear_value x))) | (have : ∃ y : State → State, y = x := ⟨x, rfl⟩; clear this; unfold x; clear x; beta_reduce) | (have : Nat → State → State := x; clear this; unfold x; clear x; beta_reduce) | (have : Nat → W16 → State → State := x; clear this; unfold x; clear x; beta_reduce) | (have : Nat → W16 → Cmd Run := x; clear this; unfold x; clear x; beta_reduce) | (have : (Vector_ → Vector_) → Next := x; clear this; unfold x; clear x; beta_reduce) | (have : (State → State) → Next := x; clear this; unfold x; clear x; beta_reduce) | (have : ∀ y, (x y : Cmd _) = x y := fun _ => rfl; clear this; unfold x; clear x; beta_reduce) | (have : Nv := x; clear this; unfold x; clear x) | (have : Scree := x; clear this; unfold x; clear x) | (have : TimeBlk := x; clear this; unfold x; clear x) | clear_value x | (unfold x; clear x)))
    | with_reducible apply modJob_lasting
    | with_reducible apply Lasting.foldl
    | split
    | exact rfl
    | (with_reducible refine Lasting.ofPair ?_ ‹_ = (_, _)›)
    | fail_if_no_progress with_reducible refine Lasting.lit rfl ?_ rfl rfl rfl rfl rfl rfl rfl rfl rfl rfl)

theorem issueReads_lasting {a s : State} (q n : Nat) (ha : Lasting a s) : Lasting a (issueReads q n s) := by
  induction n generalizing s with
  | zero => exact ha
  | succ n ih =>
  unfold issueReads
  repeat' (first
    | with_reducible apply ih
    | with_reducible assumption
    | exact fun _ => rfl
    | (intro _)
    | (extract_lets +onlyGivenNames x; (first | (refine Lasting.cut a x ?_ ?_; (on_goal 1 => (unfold x; clear x)); (on_goal 2 => (intro _; clear_value x))) | (refine Lasting.cut a x.2 ?_ ?_; (on_goal 1 => (unfold x; clear x)); (on_goal 2 => (intro _; clear_value x))) | (have : ∃ y : State → State, y = x := ⟨x, rfl⟩; clear this; unfold x; clear x; beta_reduce) | (have : Nat → State → State := x; clear this; unfold x; clear x; beta_reduce) | (have : Nat → W16 → State → State := x; clear this; unfold x; clear x; beta_reduce) | (have : Nat → W16 → Cmd Run := x; clear this; unfold x; clear x; beta_reduce) | (have : (Vector_ → Vector_) → Next := x; clear this; unfold x; clear x; beta_reduce) | (have : (State → State) → Next := x; clear this; unfold x; clear x; beta_reduce) | (have : ∀ y, (x y : Cmd _) = x y := fun _ => rfl; clear this; unfold x; clear x; beta_reduce) | (have : Nv := x; clear this; unfold x; clear x) | (have : Scree := x; clear this; unfold x; clear x) | (have : TimeBlk := x; clear this; unfold x; clear x) | clear_value x | (unfold x; clear x)))
    | with_reducible apply emit_lasting
    | with_reducible apply addRead_lasting
    | with_reducible apply modJob_lasting
    | with_reducible apply Lasting.foldl
    | split
    | exact rfl
    | (with_reducible refine Lasting.ofPair ?_ ‹_ = (_, _)›)
    | fail_if_no_progress with_reducible refine Lasting.lit rfl ?_ rfl rfl rfl rfl rfl rfl rfl rfl rfl rfl)

theorem toUnit_lasting {a s : State} (j : Job) (ha : Lasting a s) : Lasting a (toUnit j s) := by
  unfold toUnit
  repeat' (first
    | with_reducible assumption
    | exact fun _ => rfl
    | (intro _)
    | (extract_lets +onlyGivenNames x; (first | (refine Lasting.cut a x ?_ ?_; (on_goal 1 => (unfold x; clear x)); (on_goal 2 => (intro _; clear_value x))) | (refine Lasting.cut a x.2 ?_ ?_; (on_goal 1 => (unfold x; clear x)); (on_goal 2 => (intro _; clear_value x))) | (have : ∃ y : State → State, y = x := ⟨x, rfl⟩; clear this; unfold x; clear x; beta_reduce) | (have : Nat → State → State := x; clear this; unfold x; clear x; beta_reduce) | (have : Nat → W16 → State → State := x; clear this; unfold x; clear x; beta_reduce) | (have : Nat → W16 → Cmd Run := x; clear this; unfold x; clear x; beta_reduce) | (have : (Vector_ → Vector_) → Next := x; clear this; unfold x; clear x; beta_reduce) | (have : (State → State) → Next := x; clear this; unfold x; clear x; beta_reduce) | (have : ∀ y, (x y : Cmd _) = x y := fun _ => rfl; clear this; unfold x; clear x; beta_reduce) | (have : Nv := x; clear this; unfold x; clear x) | (have : Scree := x; clear this; unfold x; clear x) | (have : TimeBlk := x; clear this; unfold x; clear x) | clear_value x | (unfold x; clear x)))
    | with_reducible apply modJob_lasting
    | with_reducible apply emptyClass_lasting
    | with_reducible apply Lasting.foldl
    | split
    | exact rfl
    | (with_reducible refine Lasting.ofPair ?_ ‹_ = (_, _)›)
    | fail_if_no_progress with_reducible refine Lasting.lit rfl ?_ rfl rfl rfl rfl rfl rfl rfl rfl rfl rfl)

theorem sendData_lasting {a s : State} (q : Nat) (off : Nat) (bs : Bytes) (ha : Lasting a s) : Lasting a (sendData q off bs s) := by
  unfold sendData
  repeat' (first
    | with_reducible assumption
    | exact fun _ => rfl
    | (intro _)
    | (extract_lets +onlyGivenNames x; (first | (refine Lasting.cut a x ?_ ?_; (on_goal 1 => (unfold x; clear x)); (on_goal 2 => (intro _; clear_value x))) | (refine Lasting.cut a x.2 ?_ ?_; (on_goal 1 => (unfold x; clear x)); (on_goal 2 => (intro _; clear_value x))) | (have : ∃ y : State → State, y = x := ⟨x, rfl⟩; clear this; unfold x; clear x; beta_reduce) | (have : Nat → State → State := x; clear this; unfold x; clear x; beta_reduce) | (have : Nat → W16 → State → State := x; clear this; unfold x; clear x; beta_reduce) | (have : Nat → W16 → Cmd Run := x; clear this; unfold x; clear x; beta_reduce) | (have : (Vector_ → Vector_) → Next := x; clear this; unfold x; clear x; beta_reduce) | (have : (State → State) → Next := x; clear this; unfold x; clear x; beta_reduce) | (have : ∀ y, (x y : Cmd _) = x y := fun _ => rfl; clear this; unfold x; clear x; beta_reduce) | (have : Nv := x; clear this; unfold x; clear x) | (have : Scree := x; clear this; unfold x; clear x) | (have : TimeBlk := x; clear this; unfold x; clear x) | clear_value x | (unfold x; clear x)))
    | with_reducible apply forward_lasting
    | with_reducible apply Lasting.foldl
    | split
    | exact rfl
    | (with_reducible refine Lasting.ofPair ?_ ‹_ = (_, _)›)
    | fail_if_no_progress with_reducible refine Lasting.lit rfl ?_ rfl rfl rfl rfl rfl rfl rfl rfl rfl rfl)

theorem tellDispatch_lasting {a s : State} (q : Nat) (ha : Lasting a s) : Lasting a (tellDispatch q s) := by
  unfold tellDispatch
  repeat' (first
    | with_reducible assumption
    | exact fun _ => rfl
    | (intro _)
    | (extract_lets +onlyGivenNames x; (first | (refine Lasting.cut a x ?_ ?_; (on_goal 1 => (unfold x; clear x)); (on_goal 2 => (intro _; clear_value x))) | (refine Lasting.cut a x.2 ?_ ?_; (on_goal 1 => (unfold x; clear x)); (on_goal 2 => (intro _; clear_value x))) | (have : ∃ y : State → State, y = x := ⟨x, rfl⟩; clear this; unfold x; clear x; beta_reduce) | (have : Nat → State → State := x; clear this; unfold x; clear x; beta_reduce) | (have : Nat → W16 → State → State := x; clear this; unfold x; clear x; beta_reduce) | (have : Nat → W16 → Cmd Run := x; clear this; unfold x; clear x; beta_reduce) | (have : (Vector_ → Vector_) → Next := x; clear this; unfold x; clear x; beta_reduce) | (have : (State → State) → Next := x; clear this; unfold x; clear x; beta_reduce) | (have : ∀ y, (x y : Cmd _) = x y := fun _ => rfl; clear this; unfold x; clear x; beta_reduce) | (have : Nv := x; clear this; unfold x; clear x) | (have : Scree := x; clear this; unfold x; clear x) | (have : TimeBlk := x; clear this; unfold x; clear x) | clear_value x | (unfold x; clear x)))
    | with_reducible apply modJob_lasting
    | with_reducible apply forward_lasting
    | with_reducible apply Lasting.foldl
    | split
    | exact rfl
    | (with_reducible refine Lasting.ofPair ?_ ‹_ = (_, _)›)
    | fail_if_no_progress with_reducible refine Lasting.lit rfl ?_ rfl rfl rfl rfl rfl rfl rfl rfl rfl rfl)

theorem bindFail_lasting {a s : State} (q : Nat) (st : W16) (ha : Lasting a s) : Lasting a (bindFail q st s) := by
  unfold bindFail
  repeat' (first
    | with_reducible assumption
    | exact fun _ => rfl
    | (intro _)
    | (extract_lets +onlyGivenNames x; (first | (refine Lasting.cut a x ?_ ?_; (on_goal 1 => (unfold x; clear x)); (on_goal 2 => (intro _; clear_value x))) | (refine Lasting.cut a x.2 ?_ ?_; (on_goal 1 => (unfold x; clear x)); (on_goal 2 => (intro _; clear_value x))) | (have : ∃ y : State → State, y = x := ⟨x, rfl⟩; clear this; unfold x; clear x; beta_reduce) | (have : Nat → State → State := x; clear this; unfold x; clear x; beta_reduce) | (have : Nat → W16 → State → State := x; clear this; unfold x; clear x; beta_reduce) | (have : Nat → W16 → Cmd Run := x; clear this; unfold x; clear x; beta_reduce) | (have : (Vector_ → Vector_) → Next := x; clear this; unfold x; clear x; beta_reduce) | (have : (State → State) → Next := x; clear this; unfold x; clear x; beta_reduce) | (have : ∀ y, (x y : Cmd _) = x y := fun _ => rfl; clear this; unfold x; clear x; beta_reduce) | (have : Nv := x; clear this; unfold x; clear x) | (have : Scree := x; clear this; unfold x; clear x) | (have : TimeBlk := x; clear this; unfold x; clear x) | clear_value x | (unfold x; clear x)))
    | with_reducible apply endJob_lasting
    | with_reducible apply tellDispatch_lasting
    | with_reducible apply Lasting.foldl
    | split
    | exact rfl
    | (with_reducible refine Lasting.ofPair ?_ ‹_ = (_, _)›)
    | fail_if_no_progress with_reducible refine Lasting.lit rfl ?_ rfl rfl rfl rfl rfl rfl rfl rfl rfl rfl)

theorem requestBlob_lasting {a s : State} (j : Job) (second : Bool) (index : Nat) (ha : Lasting a s) : Lasting a (requestBlob j second index s) := by
  unfold requestBlob
  repeat' (first
    | with_reducible assumption
    | exact fun _ => rfl
    | (intro _)
    | (extract_lets +onlyGivenNames x; (first | (refine Lasting.cut a x ?_ ?_; (on_goal 1 => (unfold x; clear x)); (on_goal 2 => (intro _; clear_value x))) | (refine Lasting.cut a x.2 ?_ ?_; (on_goal 1 => (unfold x; clear x)); (on_goal 2 => (intro _; clear_value x))) | (have : ∃ y : State → State, y = x := ⟨x, rfl⟩; clear this; unfold x; clear x; beta_reduce) | (have : Nat → State → State := x; clear this; unfold x; clear x; beta_reduce) | (have : Nat → W16 → State → State := x; clear this; unfold x; clear x; beta_reduce) | (have : Nat → W16 → Cmd Run := x; clear this; unfold x; clear x; beta_reduce) | (have : (Vector_ → Vector_) → Next := x; clear this; unfold x; clear x; beta_reduce) | (have : (State → State) → Next := x; clear this; unfold x; clear x; beta_reduce) | (have : ∀ y, (x y : Cmd _) = x y := fun _ => rfl; clear this; unfold x; clear x; beta_reduce) | (have : Nv := x; clear this; unfold x; clear x) | (have : Scree := x; clear this; unfold x; clear x) | (have : TimeBlk := x; clear this; unfold x; clear x) | clear_value x | (unfold x; clear x)))
    | with_reducible apply bindFail_lasting
    | with_reducible apply partError_lasting
    | with_reducible apply emit_lasting
    | with_reducible apply addRead_lasting
    | with_reducible apply tellDispatch_lasting
    | with_reducible apply Lasting.foldl
    | split
    | exact rfl
    | (with_reducible refine Lasting.ofPair ?_ ‹_ = (_, _)›)
    | fail_if_no_progress with_reducible refine Lasting.lit rfl ?_ rfl rfl rfl rfl rfl rfl rfl rfl rfl rfl)

theorem bindStep_lasting {a s : State} (q : Nat) (second : Bool) (ha : Lasting a s) : Lasting a (bindStep q second s).2 := by
  unfold bindStep
  repeat' (first
    | with_reducible assumption
    | exact fun _ => rfl
    | (intro _)
    | (extract_lets +onlyGivenNames x; (first | (refine Lasting.cut a x ?_ ?_; (on_goal 1 => (unfold x; clear x)); (on_goal 2 => (intro _; clear_value x))) | (refine Lasting.cut a x.2 ?_ ?_; (on_goal 1 => (unfold x; clear x)); (on_goal 2 => (intro _; clear_value x))) | (have : ∃ y : State → State, y = x := ⟨x, rfl⟩; clear this; unfold x; clear x; beta_reduce) | (have : Nat → State → State := x; clear this; unfold x; clear x; beta_reduce) | (have : Nat → W16 → State → State := x; clear this; unfold x; clear x; beta_reduce) | (have : Nat → W16 → Cmd Run := x; clear this; unfold x; clear x; beta_reduce) | (have : (Vector_ → Vector_) → Next := x; clear this; unfold x; clear x; beta_reduce) | (have : (State → State) → Next := x; clear this; unfold x; clear x; beta_reduce) | (have : ∀ y, (x y : Cmd _) = x y := fun _ => rfl; clear this; unfold x; clear x; beta_reduce) | (have : Nv := x; clear this; unfold x; clear x) | (have : Scree := x; clear this; unfold x; clear x) | (have : TimeBlk := x; clear this; unfold x; clear x) | clear_value x | (unfold x; clear x)))
    | with_reducible apply bindRole_lasting
    | with_reducible apply modJob_lasting
    | with_reducible apply requestBlob_lasting
    | with_reducible apply bindFail_lasting
    | with_reducible apply Lasting.foldl
    | split
    | exact rfl
    | (with_reducible refine Lasting.ofPair ?_ ‹_ = (_, _)›)
    | fail_if_no_progress with_reducible refine Lasting.lit rfl ?_ rfl rfl rfl rfl rfl rfl rfl rfl rfl rfl
    | with_reducible apply BoundLasts.got
    | exact BoundLasts.wait
    | exact BoundLasts.load _
    | with_reducible apply BoundLasts.err
    | (with_reducible refine BoundLasts.ofGot ?_ ‹_ = Bound.got _ _›)
    | (with_reducible refine BoundLasts.ofErr ?_ ‹_ = Bound.err _ _›))

theorem inputHandle_lasting {a s : State} (j : Job) (ha : Lasting a s) : Lasting a (inputHandle j s) := by
  unfold inputHandle
  repeat' (first
    | with_reducible assumption
    | exact fun _ => rfl
    | (intro _)
    | (extract_lets +onlyGivenNames x; (first | (refine Lasting.cut a x ?_ ?_; (on_goal 1 => (unfold x; clear x)); (on_goal 2 => (intro _; clear_value x))) | (refine Lasting.cut a x.2 ?_ ?_; (on_goal 1 => (unfold x; clear x)); (on_goal 2 => (intro _; clear_value x))) | (have : ∃ y : State → State, y = x := ⟨x, rfl⟩; clear this; unfold x; clear x; beta_reduce) | (have : Nat → State → State := x; clear this; unfold x; clear x; beta_reduce) | (have : Nat → W16 → State → State := x; clear this; unfold x; clear x; beta_reduce) | (have : Nat → W16 → Cmd Run := x; clear this; unfold x; clear x; beta_reduce) | (have : (Vector_ → Vector_) → Next := x; clear this; unfold x; clear x; beta_reduce) | (have : (State → State) → Next := x; clear this; unfold x; clear x; beta_reduce) | (have : ∀ y, (x y : Cmd _) = x y := fun _ => rfl; clear this; unfold x; clear x; beta_reduce) | (have : Nv := x; clear this; unfold x; clear x) | (have : Scree := x; clear this; unfold x; clear x) | (have : TimeBlk := x; clear this; unfold x; clear x) | clear_value x | (unfold x; clear x)))
    | with_reducible apply bindFail_lasting
    | with_reducible apply modJob_lasting
    | with_reducible apply Lasting.foldl
    | split
    | exact rfl
    | (with_reducible refine Lasting.ofPair ?_ ‹_ = (_, _)›)
    | fail_if_no_progress with_reducible refine Lasting.lit rfl ?_ rfl rfl rfl rfl rfl rfl rfl rfl rfl rfl)

theorem progress_lasting {a s : State} (q : Nat) (ha : Lasting a s) : Lasting a (progress q s) := by
  unfold progress
  repeat' (first
    | with_reducible assumption
    | exact fun _ => rfl
    | (intro _)
    | (extract_lets +onlyGivenNames x; (first | (refine Lasting.cut a x ?_ ?_; (on_goal 1 => (unfold x; clear x)); (on_goal 2 => (intro _; clear_value x))) | (refine Lasting.cut a x.2 ?_ ?_; (on_goal 1 => (unfold x; clear x)); (on_goal 2 => (intro _; clear_value x))) | (have : ∃ y : State → State, y = x := ⟨x, rfl⟩; clear this; unfold x; clear x; beta_reduce) | (have : Nat → State → State := x; clear this; unfold x; clear x; beta_reduce) | (have : Nat → W16 → State → State := x; clear this; unfold x; clear x; beta_reduce) | (have : Nat → W16 → Cmd Run := x; clear this; unfold x; clear x; beta_reduce) | (have : (Vector_ → Vector_) → Next := x; clear this; unfold x; clear x; beta_reduce) | (have : (State → State) → Next := x; clear this; unfold x; clear x; beta_reduce) | (have : ∀ y, (x y : Cmd _) = x y := fun _ => rfl; clear this; unfold x; clear x; beta_reduce) | (have : Nv := x; clear this; unfold x; clear x) | (have : Scree := x; clear this; unfold x; clear x) | (have : TimeBlk := x; clear this; unfold x; clear x) | clear_value x | (unfold x; clear x)))
    | with_reducible apply bindStep_lasting
    | with_reducible apply issueReads_lasting
    | with_reducible apply tellDispatch_lasting
    | with_reducible apply inputHandle_lasting
    | with_reducible apply toUnit_lasting
    | with_reducible apply Lasting.foldl
    | split
    | exact rfl
    | (with_reducible refine Lasting.ofPair ?_ ‹_ = (_, _)›)
    | fail_if_no_progress with_reducible refine Lasting.lit rfl ?_ rfl rfl rfl rfl rfl rfl rfl rfl rfl rfl)

theorem progressAll_lasting {a s : State} (sel : Job → Bool) (ha : Lasting a s) : Lasting a (progressAll sel s) := by
  unfold progressAll
  repeat' (first
    | with_reducible assumption
    | exact fun _ => rfl
    | (intro _)
    | (extract_lets +onlyGivenNames x; (first | (refine Lasting.cut a x ?_ ?_; (on_goal 1 => (unfold x; clear x)); (on_goal 2 => (intro _; clear_value x))) | (refine Lasting.cut a x.2 ?_ ?_; (on_goal 1 => (unfold x; clear x)); (on_goal 2 => (intro _; clear_value x))) | (have : ∃ y : State → State, y = x := ⟨x, rfl⟩; clear this; unfold x; clear x; beta_reduce) | (have : Nat → State → State := x; clear this; unfold x; clear x; beta_reduce) | (have : Nat → W16 → State → State := x; clear this; unfold x; clear x; beta_reduce) | (have : Nat → W16 → Cmd Run := x; clear this; unfold x; clear x; beta_reduce) | (have : (Vector_ → Vector_) → Next := x; clear this; unfold x; clear x; beta_reduce) | (have : (State → State) → Next := x; clear this; unfold x; clear x; beta_reduce) | (have : ∀ y, (x y : Cmd _) = x y := fun _ => rfl; clear this; unfold x; clear x; beta_reduce) | (have : Nv := x; clear this; unfold x; clear x) | (have : Scree := x; clear this; unfold x; clear x) | (have : TimeBlk := x; clear this; unfold x; clear x) | clear_value x | (unfold x; clear x)))
    | with_reducible apply progress_lasting
    | with_reducible apply Lasting.foldl
    | split
    | exact rfl
    | (with_reducible refine Lasting.ofPair ?_ ‹_ = (_, _)›)
    | fail_if_no_progress with_reducible refine Lasting.lit rfl ?_ rfl rfl rfl rfl rfl rfl rfl rfl rfl rfl)

end Sys2Proof.Machine
end

