-- ==== Sys2Proof/Laws/LastRings.lean ====
section
/-!
SUPPORT. What the operations of Machine/Rings.lean keep (Lasting.lean), one lemma each.
-/
set_option linter.all false
namespace Sys2Proof.Machine

theorem execSqTail_lasting {a s : State} (p : Fin 256) (ring : Fin 16) (word : Bool) (value : W32) (ha : Lasting a s) : Lasts a (execSqTail p ring word value s) := by
  unfold execSqTail
  repeat' (first
    | with_reducible assumption
    | with_reducible apply served_lasting
    | with_reducible apply modRing_lasting
    | with_reducible apply Lasts.done)

theorem execCqHead_lasting {a s : State} (p : Fin 256) (ring : Fin 16) (word : Bool) (value : W32) (ha : Lasting a s) : Lasts a (execCqHead p ring word value s) := by
  unfold execCqHead
  repeat' (first
    | with_reducible assumption
    | with_reducible apply served_lasting
    | with_reducible apply modRing_lasting
    | with_reducible apply Lasts.done)

theorem execRingEnable_lasting {a s : State} (p : Fin 256) (ring : Fin 16) (ha : Lasting a s) : Lasts a (execRingEnable p ring s) := by
  unfold execRingEnable
  repeat' (first
    | with_reducible assumption
    | with_reducible apply served_lasting
    | with_reducible apply modRing_lasting
    | with_reducible apply Lasts.done
    | split)

theorem execRingDisable_lasting {a s : State} (p : Fin 256) (ring : Fin 16) (ha : Lasting a s) : Lasts a (execRingDisable p ring s) := by
  unfold execRingDisable
  repeat' (first
    | with_reducible assumption
    | with_reducible apply served_lasting
    | with_reducible apply modRing_lasting
    | with_reducible apply Lasts.done)

theorem execDescriptorFetch_lasting {a s : State} (ha : Lasting a s) : Lasts a (execDescriptorFetch s) := by
  unfold execDescriptorFetch
  repeat' (first
    | with_reducible assumption
    | (extract_lets +onlyGivenNames x; (first | (refine Lasting.cut a x ?_ ?_; (on_goal 1 => (unfold x; clear x)); (on_goal 2 => (intro _; clear_value x))) | (unfold x; clear x)))
    | with_reducible apply modPart_lasting
    | with_reducible apply fetchError_lasting
    | with_reducible apply partError_lasting
    | with_reducible apply emit_lasting
    | with_reducible apply modRing_lasting
    | with_reducible apply Lasts.done
    | split
    | fail_if_no_progress with_reducible refine Lasting.lit rfl ?_ rfl rfl rfl rfl rfl rfl rfl rfl rfl rfl)

theorem ringMessage_lasting {a s : State} (p : Nat) (r : Nat) (ha : Lasting a s) : Lasting a (ringMessage p r s) := by
  unfold ringMessage
  repeat' (first
    | with_reducible assumption
    | with_reducible apply sendMsix_lasting
    | with_reducible apply modRing_lasting)

theorem requestIrq_lasting {a s : State} (p : Nat) (r : Nat) (ha : Lasting a s) : Lasting a (requestIrq p r s) := by
  unfold requestIrq
  repeat' (first
    | with_reducible assumption
    | (extract_lets +onlyGivenNames x; (first | (refine Lasting.cut a x ?_ ?_; (on_goal 1 => (unfold x; clear x)); (on_goal 2 => (intro _; clear_value x))) | (unfold x; clear x)))
    | with_reducible apply ringMessage_lasting
    | with_reducible apply modRing_lasting
    | split)

theorem execIntModerationTimer_lasting {a s : State} (p : Fin 256) (ring : Fin 16) (ha : Lasting a s) : Lasts a (execIntModerationTimer p ring s) := by
  unfold execIntModerationTimer
  repeat' (first
    | with_reducible assumption
    | with_reducible apply ringMessage_lasting
    | with_reducible apply Lasts.done
    | split)

theorem execMsixVectorUnmask_lasting {a s : State} (p : Fin 256) (vector : Fin 64) (ha : Lasting a s) : Lasts a (execMsixVectorUnmask p vector s) := by
  unfold execMsixVectorUnmask
  repeat' (first
    | with_reducible assumption
    | (extract_lets +onlyGivenNames x; (refine Lasting.cut a x ?_ ?_; (on_goal 1 => (unfold x; clear x)); (on_goal 2 => (intro _; clear_value x))))
    | with_reducible apply emit_lasting
    | with_reducible apply Lasts.done
    | split
    | fail_if_no_progress with_reducible refine Lasting.lit rfl ?_ rfl rfl rfl rfl rfl rfl rfl rfl rfl rfl)

theorem enterReady_lasting {a s : State} (q : Nat) (ha : Lasting a s) : Lasting a (enterReady q s) := by
  unfold enterReady
  repeat' (first
    | with_reducible assumption
    | (extract_lets +onlyGivenNames x; (first | (refine Lasting.cut a x ?_ ?_; (on_goal 1 => (unfold x; clear x)); (on_goal 2 => (intro _; clear_value x))) | (unfold x; clear x)))
    | with_reducible apply modJob_lasting
    | with_reducible apply endJob_lasting
    | split
    | fail_if_no_progress with_reducible refine Lasting.lit rfl ?_ rfl rfl rfl rfl rfl rfl rfl rfl rfl rfl)

theorem flowAdvance_lasting {a s : State} (p f : Nat) (n : Nat) (ha : Lasting a s) : Lasting a (flowAdvance p f n s) := by
  induction n generalizing s with
  | zero => exact ha
  | succ n ih =>
  unfold flowAdvance
  repeat' (first
    | with_reducible apply ih
    | with_reducible assumption
    | with_reducible apply enterReady_lasting
    | split)

theorem writeOutput_lasting {a s : State} (j : Job) (ha : Lasting a s) : Lasting a (writeOutput j s) := by
  unfold writeOutput
  repeat' (first
    | with_reducible assumption
    | (intro _)
    | with_reducible apply hostWrite_lasting
    | with_reducible apply Lasting.foldl)

theorem countCompletion_lasting {a s : State} (j : Job) (late : Bool) (ha : Lasting a s) : Lasting a (countCompletion j late s) := by
  unfold countCompletion
  repeat' (first
    | with_reducible assumption
    | (extract_lets +onlyGivenNames x; (first | (refine Lasting.cut a x ?_ ?_; (on_goal 1 => (unfold x; clear x)); (on_goal 2 => (intro _; clear_value x))) | (unfold x; clear x)))
    | with_reducible apply pmcHit_lasting
    | with_reducible apply partCount_lasting
    | with_reducible apply modPart_lasting
    | split)

theorem writeCompletion_lasting {a s : State} (j : Job) (mirrored : Bool) (ha : Lasting a s) : Lasting a (writeCompletion j mirrored s) := by
  unfold writeCompletion
  repeat' (first
    | with_reducible assumption
    | (extract_lets +onlyGivenNames x; (first | (refine Lasting.cut a x ?_ ?_; (on_goal 1 => (unfold x; clear x)); (on_goal 2 => (intro _; clear_value x))) | (unfold x; clear x)))
    | with_reducible apply writeOutput_lasting
    | with_reducible apply hostWrite_lasting
    | with_reducible apply modRing_lasting
    | with_reducible apply countCompletion_lasting
    | with_reducible apply requestIrq_lasting
    | split)

theorem completed_lasting {a s : State} (p : Nat) (r : Nat) (q : Nat) (ha : Lasting a s) : Lasting a (completed p r q s) := by
  unfold completed
  repeat' (first
    | with_reducible assumption
    | (extract_lets +onlyGivenNames x; (refine Lasting.cut a x ?_ ?_; (on_goal 1 => (unfold x; clear x)); (on_goal 2 => (intro _; clear_value x))))
    | with_reducible apply modRing_lasting
    | with_reducible apply modPart_lasting)

theorem jobGone_lasting {a s : State} (j : Job) (ha : Lasting a s) : Lasting a (jobGone j s) := by
  unfold jobGone
  repeat' (first
    | with_reducible assumption
    | (extract_lets +onlyGivenNames x; (refine Lasting.cut a x ?_ ?_; (on_goal 1 => (unfold x; clear x)); (on_goal 2 => (intro _; clear_value x))))
    | with_reducible apply dropJob_lasting
    | with_reducible apply flowAdvance_lasting
    | with_reducible apply completed_lasting)

theorem execCompletionWrite_lasting {a s : State} (seq : Nat) (ha : Lasting a s) : Lasts a (execCompletionWrite seq s) := by
  unfold execCompletionWrite
  repeat' (first
    | with_reducible assumption
    | (extract_lets +onlyGivenNames x; (refine Lasting.cut a x ?_ ?_; (on_goal 1 => (unfold x; clear x)); (on_goal 2 => (intro _; clear_value x))))
    | with_reducible apply writeCompletion_lasting
    | with_reducible apply completed_lasting
    | with_reducible apply noteAll_lasting
    | with_reducible apply flowAdvance_lasting
    | with_reducible apply modJob_lasting
    | with_reducible apply jobGone_lasting
    | with_reducible apply Lasts.done
    | split
    | fail_if_no_progress with_reducible refine Lasting.lit rfl ?_ rfl rfl rfl rfl rfl rfl rfl rfl rfl rfl)

end Sys2Proof.Machine
end

