-- ==== Sys2Proof/Laws/LastAdmit.lean ====
section
/-!
SUPPORT. What the operations of Machine/Admit.lean keep (Lasting.lean), one lemma each.
-/
set_option linter.all false
namespace Sys2Proof.Machine

theorem startFlow_lasting {a s : State} (p : Nat) (f : Nat) (j : Job) (ha : Lasting a s) : Lasting a (startFlow p f j s) := by
  unfold startFlow
  repeat' (first
    | with_reducible assumption
    | with_reducible apply enterReady_lasting
    | with_reducible apply flowAdvance_lasting
    | split)

theorem takeIn_lasting {a s : State} (p : Nat) (r : Nat) (index : Nat) (b : Bytes) (ha : Lasting a s) : Lasting a (takeIn p r index b s) := by
  unfold takeIn
  repeat' (first
    | with_reducible assumption
    | (extract_lets +onlyGivenNames x; (first | (refine Lasting.cut a x ?_ ?_; (on_goal 1 => (unfold x; clear x)); (on_goal 2 => (intro _; clear_value x))) | (unfold x; clear x)))
    | with_reducible apply pmcHit_lasting
    | with_reducible apply partCount_lasting
    | with_reducible apply forward_lasting
    | with_reducible apply jrnAdd_lasting
    | with_reducible apply modRing_lasting
    | with_reducible apply modPart_lasting
    | with_reducible apply startFlow_lasting
    | with_reducible apply partError_lasting
    | split
    | fail_if_no_progress with_reducible refine Lasting.lit rfl ?_ rfl rfl rfl rfl rfl rfl rfl rfl rfl rfl)

theorem releaseHeldDescs_lasting {a s : State} (p r : Nat) (n : Nat) (ha : Lasting a s) : Lasting a (releaseHeldDescs p r n s) := by
  induction n generalizing s with
  | zero => exact ha
  | succ n ih =>
  unfold releaseHeldDescs
  repeat' (first
    | with_reducible apply ih
    | with_reducible assumption
    | with_reducible apply takeIn_lasting
    | with_reducible apply modRing_lasting
    | with_reducible apply modPart_lasting
    | split)

theorem noteRead_lasting {a s : State} (issued : Nat) (ha : Lasting a s) : Lasting a (noteRead issued s) := by
  unfold noteRead
  repeat' (first
    | with_reducible assumption
    | fail_if_no_progress with_reducible refine Lasting.lit rfl ?_ rfl rfl rfl rfl rfl rfl rfl rfl rfl rfl)

theorem countRead_lasting {a s : State} (n : Nat) (master : Nat) (cls : Nat) (ha : Lasting a s) : Lasting a (countRead n master cls s) := by
  unfold countRead
  repeat' (first
    | with_reducible assumption
    | with_reducible apply pmc_lasting)

theorem failRead_lasting {a s : State} (p : Nat) (r : Nat) (g : Ring) (n : Nat) (ha : Lasting a s) : Lasting a (failRead p r g n s) := by
  unfold failRead
  repeat' (first
    | with_reducible assumption
    | (extract_lets +onlyGivenNames x; (refine Lasting.cut a x ?_ ?_; (on_goal 1 => (unfold x; clear x)); (on_goal 2 => (intro _; clear_value x))))
    | with_reducible apply modRing_lasting
    | with_reducible apply fetchError_lasting
    | with_reducible apply partError_lasting)

theorem execDescriptorArrival_lasting {a s : State} (p : Fin 256) (ring : Fin 16) (r : ReadResult) (ha : Lasting a s) : Lasts a (execDescriptorArrival p ring r s) := by
  unfold execDescriptorArrival
  repeat' (first
    | with_reducible assumption
    | (extract_lets +onlyGivenNames x; (first | (refine Lasting.cut a x ?_ ?_; (on_goal 1 => (unfold x; clear x)); (on_goal 2 => (intro _; clear_value x))) | (unfold x; clear x)))
    | with_reducible apply modRing_lasting
    | with_reducible apply failRead_lasting
    | with_reducible apply countRead_lasting
    | with_reducible apply noteRead_lasting
    | with_reducible apply releaseHeldDescs_lasting
    | with_reducible apply Lasts.done
    | split)

theorem execFenceRelease_lasting {a s : State} (p : Fin 256) (ring : Fin 16) (ha : Lasting a s) : Lasts a (execFenceRelease p ring s) := by
  unfold execFenceRelease
  repeat' (first
    | with_reducible assumption
    | with_reducible apply releaseHeldDescs_lasting
    | with_reducible apply Lasts.done)

end Sys2Proof.Machine
end

