-- ==== Sys2Proof/Laws/LastPairOps.lean ====
section
/-!
SUPPORT. What the operations of Machine/PairOps.lean keep (Lasting.lean), one lemma each.
-/
set_option linter.all false
namespace Sys2Proof.Machine

theorem sendDone_lasting {a s : State} (j : Job) (ha : Lasting a s) : Lasting a (sendDone j s) := by
  unfold sendDone
  repeat' (first
    | with_reducible assumption
    | (extract_lets +onlyGivenNames x; (refine Lasting.cut a x ?_ ?_; (on_goal 1 => (unfold x; clear x)); (on_goal 2 => (intro _; clear_value x))))
    | with_reducible apply sendFrame_lasting
    | split
    | fail_if_no_progress with_reducible refine Lasting.lit rfl ?_ rfl rfl rfl rfl rfl rfl rfl rfl rfl rfl)

theorem pairTo_lasting {a s : State} (n : PairState) (cause : Nat) (ha : Lasting a s) : Lasting a (pairTo n cause s) := by
  unfold pairTo
  repeat' (first
    | with_reducible assumption
    | with_reducible apply sendMsix_lasting
    | with_reducible apply note_lasting
    | split
    | fail_if_no_progress with_reducible refine Lasting.lit rfl ?_ rfl rfl rfl rfl rfl rfl rfl rfl rfl rfl)

theorem releaseAcks_lasting {a s : State} (ha : Lasting a s) : Lasting a (releaseAcks s) := by
  unfold releaseAcks
  repeat' (first
    | with_reducible assumption
    | (intro _)
    | with_reducible apply gates_lasting
    | with_reducible apply modJob_lasting
    | with_reducible apply Lasting.foldl)

theorem releaseLag_lasting {a s : State} (ha : Lasting a s) : Lasting a (releaseLag s) := by
  unfold releaseLag
  repeat' (first
    | with_reducible assumption
    | fail_if_no_progress with_reducible refine Lasting.lit rfl ?_ rfl rfl rfl rfl rfl rfl rfl rfl rfl rfl)

theorem dropForwarded_lasting {a s : State} (ha : Lasting a s) : Lasting a (dropForwarded s) := by
  unfold dropForwarded
  repeat' (first
    | with_reducible assumption
    | (intro _)
    | (extract_lets +onlyGivenNames x; (refine Lasting.cut a x ?_ ?_; (on_goal 1 => (unfold x; clear x)); (on_goal 2 => (intro _; clear_value x))))
    | with_reducible apply dropJob_lasting
    | with_reducible apply dropHolds_lasting
    | with_reducible apply releaseHeld_lasting
    | with_reducible apply freeHeld_lasting
    | with_reducible apply Lasting.foldl
    | fail_if_no_progress with_reducible refine Lasting.lit rfl ?_ rfl rfl rfl rfl rfl rfl rfl rfl rfl rfl)

theorem failPairJob_lasting {a s : State} (q : Option Nat) (ha : Lasting a s) : Lasting a (failPairJob q s) := by
  unfold failPairJob
  repeat' (first
    | with_reducible assumption
    | with_reducible apply endJob_lasting
    | split)

theorem diverge_lasting {a s : State} (q : Nat) (p : Nat) (op : W16) (mine : Bytes) (peers : Bytes) (ha : Lasting a s) : Lasting a (diverge q p op mine peers s) := by
  unfold diverge
  repeat' (first
    | with_reducible assumption
    | (extract_lets +onlyGivenNames x; (first | (refine Lasting.cut a x ?_ ?_; (on_goal 1 => (unfold x; clear x)); (on_goal 2 => (intro _; clear_value x))) | (unfold x; clear x)))
    | with_reducible apply note_lasting
    | with_reducible apply tarnOpen_lasting
    | with_reducible apply sendFrame_lasting
    | with_reducible apply failPairJob_lasting
    | with_reducible apply pairTo_lasting
    | with_reducible apply dropForwarded_lasting
    | with_reducible apply releaseLag_lasting
    | with_reducible apply releaseAcks_lasting
    | split
    | fail_if_no_progress with_reducible refine Lasting.lit rfl ?_ rfl rfl rfl rfl rfl rfl rfl rfl rfl rfl)

theorem sendResult_lasting {a s : State} (q : Nat) (st : W16) (outcome : Nat) (dig : Bytes) (ha : Lasting a s) : Lasting a (sendResult q st outcome dig s) := by
  unfold sendResult
  repeat' (first
    | with_reducible assumption
    | with_reducible apply sendFrame_lasting)

theorem sendJack_lasting {a s : State} (p : Nat) (q : Nat) (ha : Lasting a s) : Lasting a (sendJack p q s) := by
  unfold sendJack
  repeat' (first
    | with_reducible assumption
    | with_reducible apply sendFrame_lasting
    | split)

theorem fwdGone_lasting {a s : State} (q : Nat) (ha : Lasting a s) : Lasting a (fwdGone q s) := by
  unfold fwdGone
  repeat' (first
    | with_reducible assumption
    | (extract_lets +onlyGivenNames x; (refine Lasting.cut a x ?_ ?_; (on_goal 1 => (unfold x; clear x)); (on_goal 2 => (intro _; clear_value x))))
    | with_reducible apply dropJob_lasting
    | with_reducible apply dropHolds_lasting
    | with_reducible apply releaseHeld_lasting
    | with_reducible apply freeHeld_lasting
    | split
    | fail_if_no_progress with_reducible refine Lasting.lit rfl ?_ rfl rfl rfl rfl rfl rfl rfl rfl rfl rfl)

theorem fwdSettle_lasting {a s : State} (q : Nat) (ha : Lasting a s) : Lasting a (fwdSettle q s) := by
  unfold fwdSettle
  repeat' (first
    | with_reducible assumption
    | (extract_lets +onlyGivenNames x; (unfold x; clear x))
    | with_reducible apply fwdGone_lasting
    | with_reducible apply sendResult_lasting
    | with_reducible apply diverge_lasting
    | split)

theorem fwdResult_lasting {a s : State} (j : Job) (ha : Lasting a s) : Lasting a (fwdResult j s) := by
  unfold fwdResult
  repeat' (first
    | with_reducible assumption
    | with_reducible apply fwdSettle_lasting
    | fail_if_no_progress with_reducible refine Lasting.lit rfl ?_ rfl rfl rfl rfl rfl rfl rfl rfl rfl rfl)

theorem clearMain_lasting {a s : State} (ha : Lasting a s) : Lasting a (clearMain s) := by
  unfold clearMain
  repeat' (first
    | with_reducible assumption
    | (extract_lets +onlyGivenNames x; (refine Lasting.cut a x ?_ ?_; (on_goal 1 => (unfold x; clear x)); (on_goal 2 => (intro _; clear_value x))))
    | with_reducible apply dropForwarded_lasting
    | fail_if_no_progress with_reducible refine Lasting.lit rfl ?_ rfl rfl rfl rfl rfl rfl rfl rfl rfl rfl)

theorem becomeAlone_lasting {a s : State} (cause : Nat) (ha : Lasting a s) : Lasting a (becomeAlone cause s) := by
  unfold becomeAlone
  repeat' (first
    | with_reducible assumption
    | (extract_lets +onlyGivenNames x; (first | (refine Lasting.cut a x ?_ ?_; (on_goal 1 => (unfold x; clear x)); (on_goal 2 => (intro _; clear_value x))) | (unfold x; clear x)))
    | with_reducible apply failPairJob_lasting
    | with_reducible apply pairTo_lasting
    | with_reducible apply releaseLag_lasting
    | with_reducible apply releaseAcks_lasting
    | with_reducible apply clearMain_lasting
    | split
    | fail_if_no_progress with_reducible refine Lasting.lit rfl ?_ rfl rfl rfl rfl rfl rfl rfl rfl rfl rfl)

theorem detach_lasting {a s : State} (cause : Nat) (ha : Lasting a s) : Lasting a (detach cause s) := by
  unfold detach
  repeat' (first
    | with_reducible assumption
    | with_reducible apply becomeAlone_lasting
    | with_reducible apply sendFrame_lasting
    | split)

end Sys2Proof.Machine
end

