-- ==== Sys2Proof/Laws/LastSched.lean ====
section
/-!
SUPPORT. What the operations of Machine/Sched.lean keep (Lasting.lean), one lemma each.
-/
set_option linter.all false
namespace Sys2Proof.Machine

theorem countFloor_lasting {a s : State} (j : Job) (ha : Lasting a s) : Lasting a (countFloor j s) := by
  unfold countFloor
  repeat' (first
    | with_reducible assumption
    | with_reducible apply modPart_lasting
    | with_reducible apply pmcJob_lasting)

theorem dispatchNext_lasting {a s : State}  (n : Nat) (ha : Lasting a s) : Lasting a (dispatchNext n s) := by
  induction n generalizing s with
  | zero => exact ha
  | succ n ih =>
  unfold dispatchNext
  repeat' (first
    | with_reducible apply ih
    | with_reducible assumption
    | (extract_lets +onlyGivenNames x; (refine Lasting.cut a x ?_ ?_; (on_goal 1 => (unfold x; clear x)); (on_goal 2 => (intro _; clear_value x))))
    | with_reducible apply endJob_lasting
    | with_reducible apply modPart_lasting
    | with_reducible apply countFloor_lasting
    | with_reducible apply progress_lasting
    | with_reducible apply modJob_lasting
    | split
    | fail_if_no_progress with_reducible refine Lasting.lit rfl ?_ rfl rfl rfl rfl rfl rfl rfl rfl rfl rfl)

theorem execJobDispatch_lasting {a s : State} (ha : Lasting a s) : Lasts a (execJobDispatch s) := by
  unfold execJobDispatch
  repeat' (first
    | with_reducible assumption
    | with_reducible apply dispatchNext_lasting
    | with_reducible apply Lasts.done)

theorem endIfDoomed_lasting {a s : State} (q : Nat) (ha : Lasting a s) : Lasting a (endIfDoomed q s) := by
  unfold endIfDoomed
  repeat' (first
    | with_reducible assumption
    | with_reducible apply endJob_lasting
    | split)

theorem dropRead_lasting {a s : State} (q : Nat) (off : Nat) (ha : Lasting a s) : Lasting a (dropRead q off s) := by
  unfold dropRead
  repeat' (first
    | with_reducible assumption
    | with_reducible apply modJob_lasting)

theorem inputFailed_lasting {a s : State} (j : Job) (off : Nat) (ha : Lasting a s) : Lasting a (inputFailed j off s) := by
  unfold inputFailed
  repeat' (first
    | with_reducible assumption
    | (extract_lets +onlyGivenNames x; (refine Lasting.cut a x ?_ ?_; (on_goal 1 => (unfold x; clear x)); (on_goal 2 => (intro _; clear_value x))))
    | with_reducible apply partError_lasting
    | with_reducible apply dropRead_lasting
    | with_reducible apply endIfDoomed_lasting
    | with_reducible apply endJob_lasting
    | split)

theorem execJobInputArrival_lasting {a s : State} (seq : Nat) (off : Nat) (r : ReadResult) (ha : Lasting a s) : Lasts a (execJobInputArrival seq off r s) := by
  unfold execJobInputArrival
  repeat' (first
    | with_reducible assumption
    | (extract_lets +onlyGivenNames x; (refine Lasting.cut a x ?_ ?_; (on_goal 1 => (unfold x; clear x)); (on_goal 2 => (intro _; clear_value x))))
    | with_reducible apply inputFailed_lasting
    | with_reducible apply noteRead_lasting
    | with_reducible apply countRead_lasting
    | with_reducible apply dropRead_lasting
    | with_reducible apply endIfDoomed_lasting
    | with_reducible apply sendData_lasting
    | with_reducible apply progress_lasting
    | with_reducible apply modJob_lasting
    | with_reducible apply Lasts.done
    | split)

theorem blobFailed_lasting {a s : State} (j : Job) (second : Bool) (check : Nat) (st : W16) (ha : Lasting a s) : Lasting a (blobFailed j second check st s) := by
  unfold blobFailed
  repeat' (first
    | with_reducible assumption
    | with_reducible apply endJob_lasting
    | with_reducible apply note_lasting)

theorem execBlobLoad_lasting {a s : State} (seq : Nat) (second : Bool) (entry : ReadResult) (blob : ReadResult) (ha : Lasting a s) : Lasts a (execBlobLoad seq second entry blob s) := by
  unfold execBlobLoad
  repeat' (first
    | with_reducible assumption
    | (with_reducible refine loadBlob_lasting _ _ _ ?_ ‹loadBlob _ _ _ _ = _›)
    | (extract_lets +onlyGivenNames x; (first | (refine Lasting.cut a x ?_ ?_; (on_goal 1 => (unfold x; clear x)); (on_goal 2 => (intro _; clear_value x))) | (have : Nat → State → State := x; clear this; unfold x; clear x; beta_reduce) | (unfold x; clear x)))
    | with_reducible apply dropRead_lasting
    | with_reducible apply endIfDoomed_lasting
    | with_reducible apply blobFailed_lasting
    | with_reducible apply partError_lasting
    | with_reducible apply sendData_lasting
    | with_reducible apply noteRead_lasting
    | with_reducible apply countRead_lasting
    | with_reducible apply modJob_lasting
    | with_reducible apply endJob_lasting
    | with_reducible apply emit_lasting
    | with_reducible apply progress_lasting
    | with_reducible apply Lasts.done
    | split)

theorem execHostReadTimeout_lasting {a s : State} (what : ReadRef) (ha : Lasting a s) : Lasts a (execHostReadTimeout what s) := by
  unfold execHostReadTimeout
  repeat' (first
    | with_reducible assumption
    | (extract_lets +onlyGivenNames x; (first | (refine Lasting.cut a x ?_ ?_; (on_goal 1 => (unfold x; clear x)); (on_goal 2 => (intro _; clear_value x))) | (unfold x; clear x)))
    | with_reducible apply modRing_lasting
    | with_reducible apply failRead_lasting
    | with_reducible apply inputFailed_lasting
    | with_reducible apply dropRead_lasting
    | with_reducible apply endIfDoomed_lasting
    | with_reducible apply blobFailed_lasting
    | with_reducible apply partError_lasting
    | with_reducible apply Lasts.done
    | split)

theorem takeUnit_lasting {a s : State} (j : Job) (floor : Bool) (u : UnitRef) (ha : Lasting a s) : Lasting a (takeUnit j floor u s) := by
  unfold takeUnit
  repeat' (first
    | with_reducible assumption
    | (extract_lets +onlyGivenNames x; (refine Lasting.cut a x ?_ ?_; (on_goal 1 => (unfold x; clear x)); (on_goal 2 => (intro _; clear_value x))))
    | with_reducible apply countFloor_lasting
    | with_reducible apply modJob_lasting
    | split)

theorem execNewtGrant_lasting {a s : State} (core : Fin 16) (ha : Lasting a s) : Lasts a (execNewtGrant core s) := by
  unfold execNewtGrant
  repeat' (first
    | with_reducible assumption
    | (extract_lets +onlyGivenNames x; (unfold x; clear x))
    | with_reducible apply takeUnit_lasting
    | with_reducible apply modNewt_lasting
    | with_reducible apply Lasts.done
    | split)

theorem resumeParked_lasting {a s : State} (n : Nat) (b : Bool) (q : Nat) (ha : Lasting a s) : Lasting a (resumeParked n b q s) := by
  unfold resumeParked
  repeat' (first
    | with_reducible assumption
    | with_reducible apply modJob_lasting
    | with_reducible apply modBig_lasting)

theorem settleCore_lasting {a s : State} (n : Nat) (ha : Lasting a s) : Lasting a (settleCore n s) := by
  unfold settleCore
  repeat' (first
    | with_reducible assumption
    | (extract_lets +onlyGivenNames x; (unfold x; clear x))
    | with_reducible apply resumeParked_lasting
    | with_reducible apply countFloor_lasting
    | split)

theorem execIguanaGrant_lasting {a s : State} (core : Fin 16) (bank : Bool) (ha : Lasting a s) : Lasts a (execIguanaGrant core bank s) := by
  unfold execIguanaGrant
  repeat' (first
    | with_reducible assumption
    | (extract_lets +onlyGivenNames x; (unfold x; clear x))
    | with_reducible apply resumeParked_lasting
    | with_reducible apply countFloor_lasting
    | with_reducible apply takeUnit_lasting
    | with_reducible apply modBig_lasting
    | with_reducible apply Lasts.done
    | split)

theorem execPinvGrant_lasting {a s : State} (unit : Fin 4) (ha : Lasting a s) : Lasts a (execPinvGrant unit s) := by
  unfold execPinvGrant
  repeat' (first
    | with_reducible assumption
    | (extract_lets +onlyGivenNames x; (unfold x; clear x))
    | with_reducible apply pmcJob_lasting
    | with_reducible apply takeUnit_lasting
    | with_reducible apply modPinv_lasting
    | with_reducible apply Lasts.done
    | split)

theorem execUnitGrant_lasting {a s : State} (unit : Fin 12) (ha : Lasting a s) : Lasts a (execUnitGrant unit s) := by
  unfold execUnitGrant
  repeat' (first
    | with_reducible assumption
    | (extract_lets +onlyGivenNames x; (unfold x; clear x))
    | with_reducible apply takeUnit_lasting
    | with_reducible apply modLat_lasting
    | with_reducible apply modHash_lasting
    | with_reducible apply Lasts.done
    | split)

theorem backToQueue_lasting {a s : State} (j : Job) (u : UnitRef) (ha : Lasting a s) : Lasting a (backToQueue j u s) := by
  unfold backToQueue
  repeat' (first
    | with_reducible assumption
    | with_reducible apply releaseUnit_lasting
    | with_reducible apply modJob_lasting)

theorem countSwitch_lasting {a s : State} (j : Job) (ha : Lasting a s) : Lasting a (countSwitch j s) := by
  unfold countSwitch
  repeat' (first
    | with_reducible assumption
    | with_reducible apply pmcJob_lasting)

theorem yieldSwitch_lasting {a s : State} (j : Job) (u : UnitRef) (ha : Lasting a s) : Lasting a (yieldSwitch j u s) := by
  unfold yieldSwitch
  repeat' (first
    | with_reducible assumption
    | (extract_lets +onlyGivenNames x; (first | (refine Lasting.cut a x ?_ ?_; (on_goal 1 => (unfold x; clear x)); (on_goal 2 => (intro _; clear_value x))) | (have : ∃ y : State → State, y = x := ⟨x, rfl⟩; clear this; unfold x; clear x; beta_reduce) | (unfold x; clear x)))
    | with_reducible apply backToQueue_lasting
    | with_reducible apply countSwitch_lasting
    | with_reducible apply takeUnit_lasting
    | with_reducible apply modNewt_lasting
    | with_reducible apply modLat_lasting
    | with_reducible apply modHash_lasting
    | with_reducible apply modJob_lasting
    | with_reducible apply modBig_lasting
    | with_reducible apply resumeParked_lasting
    | with_reducible apply countFloor_lasting
    | split)

theorem execYieldPoint_lasting {a s : State} (seq : Nat) (ha : Lasting a s) : Lasts a (execYieldPoint seq s) := by
  unfold execYieldPoint
  repeat' (first
    | with_reducible assumption
    | (extract_lets +onlyGivenNames x; (refine Lasting.cut a x ?_ ?_; (on_goal 1 => (unfold x; clear x)); (on_goal 2 => (intro _; clear_value x))))
    | with_reducible apply modJob_lasting
    | with_reducible apply endIfDoomed_lasting
    | with_reducible apply settleCore_lasting
    | with_reducible apply yieldSwitch_lasting
    | with_reducible apply Lasts.done
    | split)

theorem endWhereWaiting_lasting {a s : State} (q : Nat) (ha : Lasting a s) : Lasting a (endWhereWaiting q s) := by
  unfold endWhereWaiting
  repeat' (first
    | with_reducible assumption
    | with_reducible apply endIfDoomed_lasting
    | with_reducible apply settleCore_lasting
    | split)

theorem execBankZeroiseDone_lasting {a s : State} (core : Fin 16) (bank : Bool) (ha : Lasting a s) : Lasts a (execBankZeroiseDone core bank s) := by
  unfold execBankZeroiseDone
  repeat' (first
    | with_reducible assumption
    | (extract_lets +onlyGivenNames x; (first | (refine Lasting.cut a x ?_ ?_; (on_goal 1 => (unfold x; clear x)); (on_goal 2 => (intro _; clear_value x))) | (unfold x; clear x)))
    | with_reducible apply modBig_lasting
    | with_reducible apply iguWindowTake_lasting
    | with_reducible apply settleCore_lasting
    | with_reducible apply Lasts.done
    | split)

theorem goneSilently_lasting {a s : State} (j : Job) (ha : Lasting a s) : Lasting a (goneSilently j s) := by
  unfold goneSilently
  repeat' (first
    | with_reducible assumption
    | (extract_lets +onlyGivenNames x; (refine Lasting.cut a x ?_ ?_; (on_goal 1 => (unfold x; clear x)); (on_goal 2 => (intro _; clear_value x))))
    | with_reducible apply modRing_lasting
    | with_reducible apply jobGone_lasting
    | with_reducible apply noteAll_lasting
    | split
    | fail_if_no_progress with_reducible refine Lasting.lit rfl ?_ rfl rfl rfl rfl rfl rfl rfl rfl rfl rfl)

theorem execJobRetire_lasting {a s : State} (seq : Nat) (ha : Lasting a s) : Lasts a (execJobRetire seq s) := by
  unfold execJobRetire
  repeat' (first
    | with_reducible assumption
    | (extract_lets +onlyGivenNames x; (refine Lasting.cut a x ?_ ?_; (on_goal 1 => (unfold x; clear x)); (on_goal 2 => (intro _; clear_value x))))
    | with_reducible apply dropHolds_lasting
    | with_reducible apply modJob_lasting
    | with_reducible apply freeHeld_lasting
    | with_reducible apply settleCore_lasting
    | with_reducible apply fwdResult_lasting
    | with_reducible apply jrnFinal_lasting
    | with_reducible apply sendDone_lasting
    | with_reducible apply goneSilently_lasting
    | with_reducible apply flowAdvance_lasting
    | with_reducible apply progressAll_lasting
    | with_reducible apply Lasts.done
    | with_reducible apply Lasting.foldl
    | split
    | fail_if_no_progress with_reducible refine Lasting.lit rfl ?_ rfl rfl rfl rfl rfl rfl rfl rfl rfl rfl)

theorem moveFar_lasting {a s : State}  (n : Nat) (ha : Lasting a s) : Lasting a (moveFar n s) := by
  induction n generalizing s with
  | zero => exact ha
  | succ n ih =>
  unfold moveFar
  repeat' (first
    | with_reducible apply ih
    | with_reducible assumption
    | (extract_lets +onlyGivenNames x; (first | (refine Lasting.cut a x ?_ ?_; (on_goal 1 => (unfold x; clear x)); (on_goal 2 => (intro _; clear_value x))) | (unfold x; clear x)))
    | with_reducible apply modJob_lasting
    | split
    | fail_if_no_progress with_reducible refine Lasting.lit rfl ?_ rfl rfl rfl rfl rfl rfl rfl rfl rfl rfl)

theorem execCursorAdvance_lasting {a s : State} (ha : Lasting a s) : Lasts a (execCursorAdvance s) := by
  unfold execCursorAdvance
  repeat' (first
    | with_reducible assumption
    | with_reducible apply moveFar_lasting
    | with_reducible apply leaveBuckets_lasting
    | with_reducible apply Lasts.done
    | split
    | fail_if_no_progress with_reducible refine Lasting.lit rfl ?_ rfl rfl rfl rfl rfl rfl rfl rfl rfl rfl)

theorem execServiceWindow_lasting {a s : State} (ha : Lasting a s) : Lasts a (execServiceWindow s) := by
  unfold execServiceWindow
  repeat' (first
    | with_reducible assumption
    | with_reducible apply Lasts.done
    | split
    | fail_if_no_progress with_reducible refine Lasting.lit rfl ?_ rfl rfl rfl rfl rfl rfl rfl rfl rfl rfl)

end Sys2Proof.Machine
end

