-- ==== Sys2Proof/Laws/LastKeys.lean ====
section
/-!
SUPPORT. What the operations of Machine/Keys.lean keep (Lasting.lean), one lemma each.
-/
set_option linter.all false
namespace Sys2Proof.Machine

theorem ownPlace_lasting {a : State} (j : Job) (len : Nat) : CmdLasts a ((ownPlace j len) : Cmd Place) := by
  unfold ownPlace
  repeat' (first
    | with_reducible assumption
    | with_reducible apply CmdLasts.mk'
    | with_reducible apply RunLasts.ok
    | with_reducible apply RunLasts.fail
    | (intro _)
    | split)

theorem place_lasting {a : State} (j : Job) (len : Nat) : CmdLasts a ((place j len) : Cmd Place) := by
  unfold place
  repeat' (first
    | with_reducible assumption
    | with_reducible apply CmdLasts.mk'
    | with_reducible apply RunLasts.ok
    | with_reducible apply RunLasts.wait
    | (intro _)
    | split
    | (with_reducible refine CmdLasts.run (by with_reducible apply ownPlace_lasting) _ ?_))

theorem ownExt_lasting {a : State} (j : Job) (e : Nat) (more : List (Nat × Nat)) : CmdLasts a ((ownExt j e more) : Cmd Nat) := by
  unfold ownExt
  repeat' (first
    | with_reducible assumption
    | with_reducible apply CmdLasts.mk'
    | with_reducible apply RunLasts.ok
    | with_reducible apply RunLasts.fail
    | (intro _)
    | split)

theorem placeExt_lasting {a : State} (j : Job) (n : Nat) (e : Nat) (more : List (Nat × Nat)) : CmdLasts a ((placeExt j n e more) : Cmd Nat) := by
  unfold placeExt
  repeat' (first
    | with_reducible assumption
    | with_reducible apply CmdLasts.mk'
    | with_reducible apply RunLasts.ok
    | with_reducible apply RunLasts.fail
    | with_reducible apply RunLasts.wait
    | (intro _)
    | split
    | (with_reducible refine CmdLasts.run (by with_reducible apply ownExt_lasting) _ ?_))

theorem newNode_lasting {a : State} (j : Job) (persistent : Bool) (a_ : Attrs) (parent : ParentRef) (gcm : Nat) (m : Bytes) : CmdLasts a ((newNode j persistent a_ parent gcm m) : Cmd (Nat × Node)) := by
  unfold newNode
  repeat' (first
    | with_reducible apply CmdLasts.bindGet
    | with_reducible apply CmdLasts.bind
    | with_reducible apply CmdLasts.pure
    | (intro _)
    | with_reducible apply CmdLasts.need
    | with_reducible apply place_lasting)

theorem wrapOut_lasting {a : State} (q : Nat) (p : Nat) (kek : Bytes) (a_ : Attrs) (gcm : Nat) (parent : ParentRef) (persistent : Bool) (h : W32) (check : Bytes) (m : Bytes) : CmdLasts a ((wrapOut q p kek a_ gcm parent persistent h check m) : Cmd Bytes) := by
  unfold wrapOut
  repeat' (first
    | with_reducible apply CmdLasts.bind
    | with_reducible apply CmdLasts.pure
    | (intro _)
    | with_reducible apply drawFree_lasting)

theorem keyImportRun_lasting {a : State} (j : Job) : CmdLasts a ((keyImportRun j) : Cmd Run) := by
  unfold keyImportRun
  repeat' (first
    | with_reducible apply CmdLasts.bindGet
    | with_reducible apply CmdLasts.bind
    | with_reducible apply CmdLasts.pure
    | (intro _)
    | with_reducible apply CmdLasts.of
    | with_reducible apply newNode_lasting)

theorem execKeyImport_lasting {a s : State} (seq : Nat) (ha : Lasting a s) : Lasts a (execKeyImport seq s) := by
  unfold execKeyImport
  repeat' (first
    | with_reducible assumption
    | with_reducible apply runOp_lasting
    | with_reducible apply keyImportRun_lasting
    | with_reducible apply Lasts.done)

theorem keyRestoreRun_lasting {a : State} (j : Job) : CmdLasts a ((keyRestoreRun j) : Cmd Run) := by
  unfold keyRestoreRun
  repeat' (first
    | with_reducible apply CmdLasts.bindGet
    | with_reducible apply CmdLasts.bind
    | with_reducible apply CmdLasts.pure
    | (intro _)
    | (extract_lets +onlyGivenNames x; (unfold x; clear x))
    | with_reducible apply CmdLasts.of
    | with_reducible apply CmdLasts.some
    | with_reducible apply CmdLasts.need
    | with_reducible apply placeExt_lasting
    | split)

theorem execKeyImportRestore_lasting {a s : State} (seq : Nat) (ha : Lasting a s) : Lasts a (execKeyImportRestore seq s) := by
  unfold execKeyImportRestore
  repeat' (first
    | with_reducible assumption
    | with_reducible apply runOp_lasting
    | with_reducible apply keyRestoreRun_lasting
    | with_reducible apply Lasts.done)

theorem keyExportRun_lasting {a : State} (j : Job) : CmdLasts a ((keyExportRun j) : Cmd Run) := by
  unfold keyExportRun
  repeat' (first
    | with_reducible apply CmdLasts.bind
    | with_reducible apply CmdLasts.pure
    | (intro _)
    | with_reducible apply CmdLasts.of
    | with_reducible apply CmdLasts.need
    | with_reducible apply wrapOut_lasting)

theorem execKeyExport_lasting {a s : State} (seq : Nat) (ha : Lasting a s) : Lasts a (execKeyExport seq s) := by
  unfold execKeyExport
  repeat' (first
    | with_reducible assumption
    | with_reducible apply runOp_lasting
    | with_reducible apply keyExportRun_lasting
    | with_reducible apply Lasts.done)

theorem keyGenerateRun_lasting {a : State} (j : Job) : CmdLasts a ((keyGenerateRun j) : Cmd Run) := by
  unfold keyGenerateRun
  repeat' (first
    | with_reducible apply CmdLasts.bindGet
    | with_reducible apply CmdLasts.bind
    | with_reducible apply CmdLasts.pure
    | (intro _)
    | with_reducible apply CmdLasts.of
    | with_reducible apply CmdLasts.need
    | with_reducible apply place_lasting
    | with_reducible apply draw_lasting
    | with_reducible apply wrapOut_lasting
    | split)

theorem execKeyGenerate_lasting {a s : State} (seq : Nat) (ha : Lasting a s) : Lasts a (execKeyGenerate seq s) := by
  unfold execKeyGenerate
  repeat' (first
    | with_reducible assumption
    | with_reducible apply runOp_lasting
    | with_reducible apply keyGenerateRun_lasting
    | with_reducible apply Lasts.done)

theorem keyTranslateRun_lasting {a : State} (j : Job) : CmdLasts a ((keyTranslateRun j) : Cmd Run) := by
  unfold keyTranslateRun
  repeat' (first
    | with_reducible apply CmdLasts.bindGet
    | with_reducible apply CmdLasts.bind
    | with_reducible apply CmdLasts.pure
    | (intro _)
    | with_reducible apply CmdLasts.of
    | with_reducible apply CmdLasts.need
    | with_reducible apply wrapOut_lasting)

theorem execKeyTranslate_lasting {a s : State} (seq : Nat) (ha : Lasting a s) : Lasts a (execKeyTranslate seq s) := by
  unfold execKeyTranslate
  repeat' (first
    | with_reducible assumption
    | with_reducible apply runOp_lasting
    | with_reducible apply keyTranslateRun_lasting
    | with_reducible apply Lasts.done)

theorem keyReplaceRun_lasting {a : State} (j : Job) : CmdLasts a ((keyReplaceRun j) : Cmd Run) := by
  unfold keyReplaceRun
  repeat' (first
    | with_reducible apply CmdLasts.bindGet
    | with_reducible apply CmdLasts.bind
    | with_reducible apply CmdLasts.pure
    | (intro _)
    | with_reducible apply CmdLasts.of
    | with_reducible apply CmdLasts.need
    | with_reducible apply placeExt_lasting)

theorem execKeyReplace_lasting {a s : State} (seq : Nat) (ha : Lasting a s) : Lasts a (execKeyReplace seq s) := by
  unfold execKeyReplace
  repeat' (first
    | with_reducible assumption
    | with_reducible apply runOp_lasting
    | with_reducible apply keyReplaceRun_lasting
    | with_reducible apply Lasts.done)

theorem execKeyErase_lasting {a s : State} (seq : Nat) (ha : Lasting a s) : Lasts a (execKeyErase seq s) := by
  unfold execKeyErase
  repeat' (first
    | with_reducible assumption
    | with_reducible apply runPure_lasting
    | with_reducible apply Lasts.done)

theorem execKeyInvalidate_lasting {a s : State} (seq : Nat) (ha : Lasting a s) : Lasts a (execKeyInvalidate seq s) := by
  unfold execKeyInvalidate
  repeat' (first
    | with_reducible assumption
    | with_reducible apply runPure_lasting
    | with_reducible apply Lasts.done)

theorem execKeyAttrRead_lasting {a s : State} (seq : Nat) (ha : Lasting a s) : Lasts a (execKeyAttrRead seq s) := by
  unfold execKeyAttrRead
  repeat' (first
    | with_reducible assumption
    | with_reducible apply runPure_lasting
    | with_reducible apply Lasts.done)

theorem execKeyCheckValue_lasting {a s : State} (seq : Nat) (ha : Lasting a s) : Lasts a (execKeyCheckValue seq s) := by
  unfold execKeyCheckValue
  repeat' (first
    | with_reducible assumption
    | with_reducible apply runPure_lasting
    | with_reducible apply Lasts.done)

theorem evictAll_lasting {a s : State} (p : Nat) (ha : Lasting a s) : Lasting a (evictAll p s) := by
  unfold evictAll
  repeat' (first
    | with_reducible assumption
    | with_reducible apply evictBlob_lasting
    | with_reducible apply Lasting.foldl)

theorem blobTableRun_lasting {a : State} (j : Job) : CmdLasts a ((blobTableRun j) : Cmd Run) := by
  unfold blobTableRun
  repeat' (first
    | with_reducible assumption
    | with_reducible apply CmdLasts.bindGet
    | with_reducible apply CmdLasts.bind
    | with_reducible apply CmdLasts.pure
    | with_reducible apply CmdLasts.modify
    | (intro _)
    | with_reducible apply CmdLasts.need
    | with_reducible apply modPart_lasting
    | with_reducible apply evictAll_lasting)

theorem execBlobTableSet_lasting {a s : State} (seq : Nat) (ha : Lasting a s) : Lasts a (execBlobTableSet seq s) := by
  unfold execBlobTableSet
  repeat' (first
    | with_reducible assumption
    | with_reducible apply runOp_lasting
    | with_reducible apply blobTableRun_lasting
    | with_reducible apply Lasts.done)

theorem blobEvictRun_lasting {a : State} (j : Job) : CmdLasts a ((blobEvictRun j) : Cmd Run) := by
  unfold blobEvictRun
  repeat' (first
    | with_reducible assumption
    | with_reducible apply CmdLasts.bindGet
    | with_reducible apply CmdLasts.bind
    | with_reducible apply CmdLasts.pure
    | with_reducible apply CmdLasts.modify
    | (intro _)
    | with_reducible apply CmdLasts.of
    | with_reducible apply CmdLasts.need
    | with_reducible apply evictBlob_lasting
    | with_reducible apply Lasting.foldl)

theorem execBlobEvict_lasting {a s : State} (seq : Nat) (ha : Lasting a s) : Lasts a (execBlobEvict seq s) := by
  unfold execBlobEvict
  repeat' (first
    | with_reducible assumption
    | with_reducible apply runOp_lasting
    | with_reducible apply blobEvictRun_lasting
    | with_reducible apply Lasts.done)

theorem execDerivContextSet_lasting {a s : State} (seq : Nat) (ha : Lasting a s) : Lasts a (execDerivContextSet seq s) := by
  unfold execDerivContextSet
  repeat' (first
    | with_reducible assumption
    | with_reducible apply runPure_lasting
    | with_reducible apply Lasts.done)

theorem keystoreRingRun_lasting {a : State} (j : Job) : CmdLasts a ((keystoreRingRun j) : Cmd Run) := by
  unfold keystoreRingRun
  repeat' (first
    | with_reducible assumption
    | with_reducible apply CmdLasts.bindGet
    | with_reducible apply CmdLasts.bind
    | with_reducible apply CmdLasts.pure
    | with_reducible apply CmdLasts.modify
    | with_reducible apply CmdLasts.set
    | (intro _)
    | with_reducible apply CmdLasts.need
    | with_reducible apply partError_lasting
    | with_reducible apply CmdLasts.fail
    | with_reducible apply modPart_lasting
    | split)

theorem execKeystoreRingSet_lasting {a s : State} (seq : Nat) (ha : Lasting a s) : Lasts a (execKeystoreRingSet seq s) := by
  unfold execKeystoreRingSet
  repeat' (first
    | with_reducible assumption
    | with_reducible apply runOp_lasting
    | with_reducible apply keystoreRingRun_lasting
    | with_reducible apply Lasts.done)

theorem flushCache_lasting {a s : State} (p : Nat) (ha : Lasting a s) : Lasting a (flushCache p s) := by
  unfold flushCache
  repeat' (first
    | with_reducible assumption
    | fail_if_no_progress with_reducible refine Lasting.lit rfl ?_ rfl rfl rfl rfl rfl rfl rfl rfl rfl rfl)

theorem cacheFlushRun_lasting {a : State} (j : Job) : CmdLasts a ((cacheFlushRun j) : Cmd Run) := by
  unfold cacheFlushRun
  repeat' (first
    | with_reducible assumption
    | with_reducible apply CmdLasts.bind
    | with_reducible apply CmdLasts.pure
    | with_reducible apply CmdLasts.modify
    | (intro _)
    | with_reducible apply CmdLasts.of
    | with_reducible apply flushCache_lasting)

theorem execDerivedCacheFlush_lasting {a s : State} (seq : Nat) (ha : Lasting a s) : Lasts a (execDerivedCacheFlush seq s) := by
  unfold execDerivedCacheFlush
  repeat' (first
    | with_reducible assumption
    | with_reducible apply runOp_lasting
    | with_reducible apply cacheFlushRun_lasting
    | with_reducible apply Lasts.done)

theorem sweepNode_lasting {a s : State} (i : Nat) (ha : Lasting a s) : Lasting a (sweepNode i s) := by
  unfold sweepNode
  repeat' (first
    | with_reducible assumption
    | (extract_lets +onlyGivenNames x; (first | (refine Lasting.cut a x ?_ ?_; (on_goal 1 => (unfold x; clear x)); (on_goal 2 => (intro _; clear_value x))) | (unfold x; clear x)))
    | with_reducible apply evictBlob_lasting
    | with_reducible apply ksWrite_lasting
    | with_reducible apply freeHeld_lasting
    | with_reducible apply eraseNode_lasting
    | split)

theorem sweepEntry_lasting {a s : State} (k : Nat) (ha : Lasting a s) : Lasting a (sweepEntry k s) := by
  unfold sweepEntry
  repeat' (first
    | with_reducible assumption
    | fail_if_no_progress with_reducible refine Lasting.lit rfl ?_ rfl rfl rfl rfl rfl rfl rfl rfl rfl rfl)

theorem execSweepVisit_lasting {a s : State} (ha : Lasting a s) : Lasts a (execSweepVisit s) := by
  unfold execSweepVisit
  repeat' (first
    | with_reducible assumption
    | (extract_lets +onlyGivenNames x; (refine Lasting.cut a x ?_ ?_; (on_goal 1 => (unfold x; clear x)); (on_goal 2 => (intro _; clear_value x))))
    | with_reducible apply sweepNode_lasting
    | with_reducible apply sweepEntry_lasting
    | with_reducible apply Lasts.done
    | split
    | fail_if_no_progress with_reducible refine Lasting.lit rfl ?_ rfl rfl rfl rfl rfl rfl rfl rfl rfl rfl)

theorem execGenerationChangeCommit_lasting {a s : State} (seq : Nat) (ha : Lasting a s) : Lasts a (execGenerationChangeCommit seq s) := by
  unfold execGenerationChangeCommit
  repeat' (first
    | with_reducible assumption
    | with_reducible apply gates_lasting
    | with_reducible apply Lasts.done
    | split)

theorem execKeystoreRecordWrite_lasting {a s : State} (seq : Nat) (ha : Lasting a s) : Lasts a (execKeystoreRecordWrite seq s) := by
  unfold execKeystoreRecordWrite
  repeat' (first
    | with_reducible assumption
    | with_reducible apply gates_lasting
    | with_reducible apply progress_lasting
    | with_reducible apply Lasts.done
    | split)

theorem execMasKsHeadWrite_lasting {a s : State} (p : Fin 256) (value : W32) (ha : Lasting a s) : Lasts a (execMasKsHeadWrite p value s) := by
  unfold execMasKsHeadWrite
  repeat' (first
    | with_reducible assumption
    | (extract_lets +onlyGivenNames x; (unfold x; clear x))
    | with_reducible apply served_lasting
    | with_reducible apply modPart_lasting
    | with_reducible apply Lasts.done
    | split)

end Sys2Proof.Machine
end

