-- ==== Sys2Proof/Laws/LastDerive.lean ====
section
/-!
SUPPORT. What the operations of Machine/Derive.lean keep (Lasting.lean), one lemma each.
-/
set_option linter.all false
namespace Sys2Proof.Machine

theorem derived_lasting {a : State} (j : Job) (b : Binding) (kind : Nat) (label : Bytes) (key : Bytes) : CmdLasts a ((derived j b kind label key) : Cmd Bytes) := by
  unfold derived
  repeat' (first
    | with_reducible assumption
    | with_reducible apply CmdLasts.mk'
    | with_reducible apply RunLasts.ok
    | (intro _)
    | with_reducible apply derive_lasting)

theorem cardMaster_lasting {a : State} (j : Job) (b : Binding) (pan : List Nat) (psn : List Nat) : CmdLasts a ((cardMaster j b pan psn) : Cmd Bytes) := by
  unfold cardMaster
  repeat' (first
    | with_reducible apply derived_lasting)

theorem aesInter_lasting {a : State} (j : Job) (b : Binding) (id : Bytes) (c : Nat) : CmdLasts a ((aesInter j b id c) : Cmd Bytes) := by
  unfold aesInter
  repeat' (first
    | with_reducible apply CmdLasts.bindGet
    | with_reducible apply CmdLasts.bind
    | with_reducible apply CmdLasts.pure
    | (intro _)
    | (extract_lets +onlyGivenNames x; (have : ∀ y, (x y : Cmd _) = x y := fun _ => rfl; clear this; unfold x; clear x; beta_reduce))
    | with_reducible apply derived_lasting
    | split)

theorem tdesFuture_lasting {a : State} (j : Job) (b : Binding) (ksn : Bytes) (c : Nat) : CmdLasts a ((tdesFuture j b ksn c) : Cmd Bytes) := by
  unfold tdesFuture
  repeat' (first
    | with_reducible apply CmdLasts.bindGet
    | with_reducible apply CmdLasts.bind
    | with_reducible apply CmdLasts.pure
    | (intro _)
    | (extract_lets +onlyGivenNames x; (have : ∀ y, (x y : Cmd _) = x y := fun _ => rfl; clear this; unfold x; clear x; beta_reduce))
    | with_reducible apply derived_lasting
    | split)

theorem checkCounter_lasting {a : State} (j : Job) (tdes : Bool) (ksn : Bytes) : CmdLasts a ((checkCounter j tdes ksn) : Cmd Nat) := by
  unfold checkCounter
  repeat' (first
    | with_reducible assumption
    | with_reducible apply CmdLasts.bind
    | with_reducible apply CmdLasts.pure
    | with_reducible apply CmdLasts.modify
    | (intro _)
    | (extract_lets +onlyGivenNames x; (unfold x; clear x))
    | with_reducible apply note_lasting
    | with_reducible apply CmdLasts.fail
    | split)

theorem transactionKey_lasting {a : State} (j : Job) (b : Binding) (ksn : Bytes) (c : Nat) : CmdLasts a ((transactionKey j b ksn c) : Cmd Bytes) := by
  unfold transactionKey
  repeat' (first
    | with_reducible apply tdesFuture_lasting
    | with_reducible apply aesInter_lasting
    | split)

end Sys2Proof.Machine
end

