-- ==== Sys2Proof/Laws/LastPin.lean ====
section
/-!
SUPPORT. What the operations of Machine/Pin.lean keep (Lasting.lean), one lemma each.
-/
set_option linter.all false
namespace Sys2Proof.Machine

theorem drawKept_lasting {a : State} (q inst lim f n : Nat) : CmdLasts a (drawKept q inst lim f n) := by
  induction f generalizing n with
  | zero => cases n with
    | zero => exact CmdLasts.pure _
    | succ n => exact CmdLasts.hold
  | succ f ih =>
  cases n with
  | zero => exact CmdLasts.pure _
  | succ n =>
  unfold drawKept
  repeat' (first
    | with_reducible apply ih
    | with_reducible apply CmdLasts.bind
    | with_reducible apply CmdLasts.pure
    | (intro _)
    | with_reducible apply draw_lasting)

theorem drawFill_lasting {a : State} (j : Job) (fmt : Nat) (n : Nat) : CmdLasts a ((drawFill j fmt n) : Cmd (List Nat)) := by
  unfold drawFill
  repeat' (first
    | with_reducible apply CmdLasts.bind
    | with_reducible apply CmdLasts.pure
    | (intro _)
    | with_reducible apply draw_lasting
    | with_reducible apply drawKept_lasting
    | split)

theorem blockReject_lasting {a : State} {α : Type} (j : Job) : CmdLasts a ((blockReject j) : Cmd α) := by
  unfold blockReject
  repeat' (first
    | with_reducible assumption
    | with_reducible apply CmdLasts.bind
    | with_reducible apply CmdLasts.modify
    | (intro _)
    | with_reducible apply note_lasting
    | with_reducible apply CmdLasts.fail)

theorem pinIn_lasting {a : State} (j : Job) (fmt : Nat) (key : Bytes) (pan : List Nat) : CmdLasts a ((pinIn j fmt key pan) : Cmd (List Nat)) := by
  unfold pinIn
  repeat' (first
    | with_reducible apply CmdLasts.pure
    | with_reducible apply blockReject_lasting
    | split)

theorem pinTranslateRun_lasting {a : State} (j : Job) : CmdLasts a ((pinTranslateRun j) : Cmd Run) := by
  unfold pinTranslateRun
  repeat' (first
    | with_reducible apply CmdLasts.bind
    | with_reducible apply CmdLasts.pure
    | (intro _)
    | with_reducible apply CmdLasts.of
    | with_reducible apply CmdLasts.need
    | with_reducible apply checkCounter_lasting
    | with_reducible apply transactionKey_lasting
    | with_reducible apply drawFill_lasting
    | with_reducible apply pinIn_lasting
    | split)

theorem execPinTranslate_lasting {a s : State} (seq : Nat) (ha : Lasting a s) : Lasts a (execPinTranslate seq s) := by
  unfold execPinTranslate
  repeat' (first
    | with_reducible assumption
    | with_reducible apply runOp_lasting
    | with_reducible apply pinTranslateRun_lasting
    | with_reducible apply Lasts.done)

theorem offsetStart_lasting {a : State} (j : Job) (gen : Bool) : CmdLasts a ((offsetStart j gen) : Cmd (List Nat × List Nat × List Nat)) := by
  unfold offsetStart
  repeat' (first
    | with_reducible apply CmdLasts.bindGet
    | with_reducible apply CmdLasts.bind
    | with_reducible apply CmdLasts.pure
    | (intro _)
    | with_reducible apply CmdLasts.of
    | with_reducible apply CmdLasts.need
    | with_reducible apply pinIn_lasting)

theorem verifyOffsetRun_lasting {a : State} (j : Job) : CmdLasts a ((verifyOffsetRun j) : Cmd Run) := by
  unfold verifyOffsetRun
  repeat' (first
    | with_reducible apply CmdLasts.bind
    | with_reducible apply CmdLasts.pure
    | (intro _)
    | with_reducible apply offsetStart_lasting
    | with_reducible apply CmdLasts.need)

theorem execPinVerifyOffset_lasting {a s : State} (seq : Nat) (ha : Lasting a s) : Lasts a (execPinVerifyOffset seq s) := by
  unfold execPinVerifyOffset
  repeat' (first
    | with_reducible assumption
    | with_reducible apply runOp_lasting
    | with_reducible apply verifyOffsetRun_lasting
    | with_reducible apply Lasts.done)

theorem offsetGenRun_lasting {a : State} (j : Job) : CmdLasts a ((offsetGenRun j) : Cmd Run) := by
  unfold offsetGenRun
  repeat' (first
    | with_reducible apply CmdLasts.bind
    | with_reducible apply CmdLasts.pure
    | (intro _)
    | with_reducible apply offsetStart_lasting
    | with_reducible apply CmdLasts.need)

theorem execPinOffsetGen_lasting {a s : State} (seq : Nat) (ha : Lasting a s) : Lasts a (execPinOffsetGen seq s) := by
  unfold execPinOffsetGen
  repeat' (first
    | with_reducible assumption
    | with_reducible apply runOp_lasting
    | with_reducible apply offsetGenRun_lasting
    | with_reducible apply Lasts.done)

theorem pvvStart_lasting {a : State} (j : Job) (gen : Bool) : CmdLasts a ((pvvStart j gen) : Cmd (List Nat × List Nat)) := by
  unfold pvvStart
  repeat' (first
    | with_reducible apply CmdLasts.bind
    | with_reducible apply CmdLasts.pure
    | (intro _)
    | with_reducible apply CmdLasts.of
    | with_reducible apply CmdLasts.need
    | with_reducible apply pinIn_lasting)

theorem verifyPvvRun_lasting {a : State} (j : Job) : CmdLasts a ((verifyPvvRun j) : Cmd Run) := by
  unfold verifyPvvRun
  repeat' (first
    | with_reducible apply CmdLasts.bind
    | with_reducible apply CmdLasts.pure
    | (intro _)
    | with_reducible apply pvvStart_lasting
    | with_reducible apply CmdLasts.need)

theorem execPinVerifyPvv_lasting {a s : State} (seq : Nat) (ha : Lasting a s) : Lasts a (execPinVerifyPvv seq s) := by
  unfold execPinVerifyPvv
  repeat' (first
    | with_reducible assumption
    | with_reducible apply runOp_lasting
    | with_reducible apply verifyPvvRun_lasting
    | with_reducible apply Lasts.done)

theorem pvvGenRun_lasting {a : State} (j : Job) : CmdLasts a ((pvvGenRun j) : Cmd Run) := by
  unfold pvvGenRun
  repeat' (first
    | with_reducible apply CmdLasts.bind
    | with_reducible apply CmdLasts.pure
    | (intro _)
    | with_reducible apply pvvStart_lasting)

theorem execPvvGen_lasting {a s : State} (seq : Nat) (ha : Lasting a s) : Lasts a (execPvvGen seq s) := by
  unfold execPvvGen
  repeat' (first
    | with_reducible assumption
    | with_reducible apply runOp_lasting
    | with_reducible apply pvvGenRun_lasting
    | with_reducible apply Lasts.done)

theorem pinGenerateRun_lasting {a : State} (j : Job) : CmdLasts a ((pinGenerateRun j) : Cmd Run) := by
  unfold pinGenerateRun
  repeat' (first
    | with_reducible apply CmdLasts.bind
    | with_reducible apply CmdLasts.pure
    | (intro _)
    | with_reducible apply CmdLasts.of
    | with_reducible apply CmdLasts.need
    | with_reducible apply drawKept_lasting
    | with_reducible apply drawFill_lasting)

theorem execPinGenerate_lasting {a s : State} (seq : Nat) (ha : Lasting a s) : Lasts a (execPinGenerate seq s) := by
  unfold execPinGenerate
  repeat' (first
    | with_reducible assumption
    | with_reducible apply runOp_lasting
    | with_reducible apply pinGenerateRun_lasting
    | with_reducible apply Lasts.done)

theorem dectabRun_lasting {a : State} (j : Job) : CmdLasts a ((dectabRun j) : Cmd Run) := by
  unfold dectabRun
  repeat' (first
    | with_reducible assumption
    | with_reducible apply CmdLasts.bind
    | with_reducible apply CmdLasts.pure
    | with_reducible apply CmdLasts.modify
    | (intro _)
    | (extract_lets +onlyGivenNames x; (first | (have : Nat → W16 → Cmd Run := x; clear this; unfold x; clear x; beta_reduce) | (unfold x; clear x)))
    | with_reducible apply CmdLasts.need
    | with_reducible apply CmdLasts.of
    | with_reducible apply note_lasting
    | with_reducible apply CmdLasts.fail
    | split)

theorem execDectabLoad_lasting {a s : State} (seq : Nat) (ha : Lasting a s) : Lasts a (execDectabLoad seq s) := by
  unfold execDectabLoad
  repeat' (first
    | with_reducible assumption
    | with_reducible apply runOp_lasting
    | with_reducible apply dectabRun_lasting
    | with_reducible apply Lasts.done)

theorem cvvStart_lasting {a : State} (j : Job) (verify : Bool) : CmdLasts a ((cvvStart j verify) : Cmd (List Nat × List Nat)) := by
  unfold cvvStart
  repeat' (first
    | with_reducible apply CmdLasts.bind
    | with_reducible apply CmdLasts.pure
    | (intro _)
    | with_reducible apply CmdLasts.of
    | with_reducible apply CmdLasts.need
    | with_reducible apply CmdLasts.some)

theorem cvvGenerateRun_lasting {a : State} (j : Job) : CmdLasts a ((cvvGenerateRun j) : Cmd Run) := by
  unfold cvvGenerateRun
  repeat' (first
    | with_reducible apply CmdLasts.bind
    | with_reducible apply CmdLasts.pure
    | (intro _)
    | with_reducible apply cvvStart_lasting)

theorem execCvvGenerate_lasting {a s : State} (seq : Nat) (ha : Lasting a s) : Lasts a (execCvvGenerate seq s) := by
  unfold execCvvGenerate
  repeat' (first
    | with_reducible assumption
    | with_reducible apply runOp_lasting
    | with_reducible apply cvvGenerateRun_lasting
    | with_reducible apply Lasts.done)

theorem cvvVerifyRun_lasting {a : State} (j : Job) : CmdLasts a ((cvvVerifyRun j) : Cmd Run) := by
  unfold cvvVerifyRun
  repeat' (first
    | with_reducible apply CmdLasts.bind
    | with_reducible apply CmdLasts.pure
    | (intro _)
    | with_reducible apply cvvStart_lasting
    | with_reducible apply CmdLasts.need)

theorem execCvvVerify_lasting {a s : State} (seq : Nat) (ha : Lasting a s) : Lasts a (execCvvVerify seq s) := by
  unfold execCvvVerify
  repeat' (first
    | with_reducible assumption
    | with_reducible apply runOp_lasting
    | with_reducible apply cvvVerifyRun_lasting
    | with_reducible apply Lasts.done)

theorem execPinvUnitFault_lasting {a s : State} (unit : Fin 4) (datapath : Bool) (info : W32) (ha : Lasting a s) : Lasts a (execPinvUnitFault unit datapath info s) := by
  unfold execPinvUnitFault
  repeat' (first
    | with_reducible assumption
    | (extract_lets +onlyGivenNames x; (refine Lasting.cut a x ?_ ?_; (on_goal 1 => (unfold x; clear x)); (on_goal 2 => (intro _; clear_value x))))
    | with_reducible apply endJob_lasting
    | with_reducible apply note_lasting
    | with_reducible apply tarnRaise_lasting
    | with_reducible apply Lasts.done
    | split)

end Sys2Proof.Machine
end

