-- ==== Sys2Proof/Laws/LastCards.lean ====
section
/-!
SUPPORT. What the operations of Machine/Cards.lean keep (Lasting.lean), one lemma each.
-/
set_option linter.all false
namespace Sys2Proof.Machine

theorem cardSession_lasting {a : State} (j : Job) (a_ : Binding) (pan : List Nat) (psn : List Nat) (atc : Bytes) : CmdLasts a ((cardSession j a_ pan psn atc) : Cmd Bytes) := by
  unfold cardSession
  repeat' (first
    | with_reducible apply CmdLasts.bind
    | with_reducible apply CmdLasts.pure
    | (intro _)
    | with_reducible apply cardMaster_lasting)

theorem arqcRun_lasting {a : State} (verify : Bool) (j : Job) : CmdLasts a ((arqcRun verify j) : Cmd Run) := by
  unfold arqcRun
  repeat' (first
    | with_reducible apply CmdLasts.bind
    | with_reducible apply CmdLasts.pure
    | (intro _)
    | with_reducible apply CmdLasts.of
    | with_reducible apply CmdLasts.need
    | with_reducible apply cardMaster_lasting)

theorem execArqcVerify_lasting {a s : State} (seq : Nat) (ha : Lasting a s) : Lasts a (execArqcVerify seq s) := by
  unfold execArqcVerify
  repeat' (first
    | with_reducible assumption
    | with_reducible apply runOp_lasting
    | with_reducible apply arqcRun_lasting
    | with_reducible apply Lasts.done)

theorem execArpcGenerate_lasting {a s : State} (seq : Nat) (ha : Lasting a s) : Lasts a (execArpcGenerate seq s) := by
  unfold execArpcGenerate
  repeat' (first
    | with_reducible assumption
    | with_reducible apply runOp_lasting
    | with_reducible apply arqcRun_lasting
    | with_reducible apply Lasts.done)

theorem smMacRun_lasting {a : State} (j : Job) : CmdLasts a ((smMacRun j) : Cmd Run) := by
  unfold smMacRun
  repeat' (first
    | with_reducible apply CmdLasts.bind
    | with_reducible apply CmdLasts.pure
    | (intro _)
    | with_reducible apply CmdLasts.of
    | with_reducible apply CmdLasts.need
    | with_reducible apply cardSession_lasting)

theorem execSmMac_lasting {a s : State} (seq : Nat) (ha : Lasting a s) : Lasts a (execSmMac seq s) := by
  unfold execSmMac
  repeat' (first
    | with_reducible assumption
    | with_reducible apply runOp_lasting
    | with_reducible apply smMacRun_lasting
    | with_reducible apply Lasts.done)

theorem smEncryptRun_lasting {a : State} (j : Job) : CmdLasts a ((smEncryptRun j) : Cmd Run) := by
  unfold smEncryptRun
  repeat' (first
    | with_reducible apply CmdLasts.bind
    | with_reducible apply CmdLasts.pure
    | (intro _)
    | with_reducible apply CmdLasts.of
    | with_reducible apply CmdLasts.need
    | with_reducible apply cardSession_lasting)

theorem execSmEncrypt_lasting {a s : State} (seq : Nat) (ha : Lasting a s) : Lasts a (execSmEncrypt seq s) := by
  unfold execSmEncrypt
  repeat' (first
    | with_reducible assumption
    | with_reducible apply runOp_lasting
    | with_reducible apply smEncryptRun_lasting
    | with_reducible apply Lasts.done)

theorem smPinChangeRun_lasting {a : State} (j : Job) : CmdLasts a ((smPinChangeRun j) : Cmd Run) := by
  unfold smPinChangeRun
  repeat' (first
    | with_reducible apply CmdLasts.bind
    | with_reducible apply CmdLasts.pure
    | (intro _)
    | with_reducible apply CmdLasts.of
    | with_reducible apply CmdLasts.need
    | with_reducible apply cardMaster_lasting
    | with_reducible apply pinIn_lasting)

theorem execSmPinChange_lasting {a s : State} (seq : Nat) (ha : Lasting a s) : Lasts a (execSmPinChange seq s) := by
  unfold execSmPinChange
  repeat' (first
    | with_reducible assumption
    | with_reducible apply runOp_lasting
    | with_reducible apply smPinChangeRun_lasting
    | with_reducible apply Lasts.done)

end Sys2Proof.Machine
end

