-- ==== Sys2Proof/Laws/LastDukpt.lean ====
section
/-!
SUPPORT. What the operations of Machine/Dukpt.lean keep (Lasting.lean), one lemma each.
-/
set_option linter.all false
namespace Sys2Proof.Machine

theorem dukptExportRun_lasting {a : State} (j : Job) : CmdLasts a ((dukptExportRun j) : Cmd Run) := by
  unfold dukptExportRun
  repeat' (first
    | with_reducible apply CmdLasts.bind
    | with_reducible apply CmdLasts.pure
    | (intro _)
    | with_reducible apply CmdLasts.of
    | with_reducible apply CmdLasts.need
    | with_reducible apply derived_lasting
    | with_reducible apply wrapOut_lasting
    | split)

theorem execDukptInitExport_lasting {a s : State} (seq : Nat) (ha : Lasting a s) : Lasts a (execDukptInitExport seq s) := by
  unfold execDukptInitExport
  repeat' (first
    | with_reducible assumption
    | with_reducible apply runOp_lasting
    | with_reducible apply dukptExportRun_lasting
    | with_reducible apply Lasts.done)

theorem dukptKey_lasting {a : State} (j : Job) (u : DukptUse) (form : Bool) (macOk : Bool) : CmdLasts a ((dukptKey j u form macOk) : Cmd (Bool × Bytes)) := by
  unfold dukptKey
  repeat' (first
    | with_reducible apply CmdLasts.bindGet
    | with_reducible apply CmdLasts.bind
    | with_reducible apply CmdLasts.pure
    | (intro _)
    | with_reducible apply CmdLasts.of
    | with_reducible apply CmdLasts.need
    | with_reducible apply checkCounter_lasting
    | with_reducible apply transactionKey_lasting)

theorem dukptDataRun_lasting {a : State} (enc : Bool) (j : Job) : CmdLasts a ((dukptDataRun enc j) : Cmd Run) := by
  unfold dukptDataRun
  repeat' (first
    | with_reducible apply CmdLasts.bind
    | with_reducible apply CmdLasts.pure
    | (intro _)
    | with_reducible apply CmdLasts.of
    | with_reducible apply dukptKey_lasting
    | with_reducible apply CmdLasts.need)

theorem execDukptDecrypt_lasting {a s : State} (seq : Nat) (ha : Lasting a s) : Lasts a (execDukptDecrypt seq s) := by
  unfold execDukptDecrypt
  repeat' (first
    | with_reducible assumption
    | with_reducible apply runOp_lasting
    | with_reducible apply dukptDataRun_lasting
    | with_reducible apply Lasts.done)

theorem execDukptEncrypt_lasting {a s : State} (seq : Nat) (ha : Lasting a s) : Lasts a (execDukptEncrypt seq s) := by
  unfold execDukptEncrypt
  repeat' (first
    | with_reducible assumption
    | with_reducible apply runOp_lasting
    | with_reducible apply dukptDataRun_lasting
    | with_reducible apply Lasts.done)

theorem dukptMacRun_lasting {a : State} (verify : Bool) (j : Job) : CmdLasts a ((dukptMacRun verify j) : Cmd Run) := by
  unfold dukptMacRun
  repeat' (first
    | with_reducible apply CmdLasts.bind
    | with_reducible apply CmdLasts.pure
    | (intro _)
    | with_reducible apply CmdLasts.of
    | with_reducible apply dukptKey_lasting
    | with_reducible apply CmdLasts.need
    | with_reducible apply CmdLasts.some)

theorem execDukptMacGenerate_lasting {a s : State} (seq : Nat) (ha : Lasting a s) : Lasts a (execDukptMacGenerate seq s) := by
  unfold execDukptMacGenerate
  repeat' (first
    | with_reducible assumption
    | with_reducible apply runOp_lasting
    | with_reducible apply dukptMacRun_lasting
    | with_reducible apply Lasts.done)

theorem execDukptMacVerify_lasting {a s : State} (seq : Nat) (ha : Lasting a s) : Lasts a (execDukptMacVerify seq s) := by
  unfold execDukptMacVerify
  repeat' (first
    | with_reducible assumption
    | with_reducible apply runOp_lasting
    | with_reducible apply dukptMacRun_lasting
    | with_reducible apply Lasts.done)

theorem macRun_lasting {a : State} (verify : Bool) (j : Job) : CmdLasts a ((macRun verify j) : Cmd Run) := by
  unfold macRun
  repeat' (first
    | with_reducible apply CmdLasts.bind
    | with_reducible apply CmdLasts.pure
    | (intro _)
    | with_reducible apply CmdLasts.of
    | with_reducible apply CmdLasts.need
    | with_reducible apply CmdLasts.some)

theorem execMacGenerate_lasting {a s : State} (seq : Nat) (ha : Lasting a s) : Lasts a (execMacGenerate seq s) := by
  unfold execMacGenerate
  repeat' (first
    | with_reducible assumption
    | with_reducible apply runOp_lasting
    | with_reducible apply macRun_lasting
    | with_reducible apply Lasts.done)

theorem execMacVerify_lasting {a s : State} (seq : Nat) (ha : Lasting a s) : Lasts a (execMacVerify seq s) := by
  unfold execMacVerify
  repeat' (first
    | with_reducible assumption
    | with_reducible apply runOp_lasting
    | with_reducible apply macRun_lasting
    | with_reducible apply Lasts.done)

theorem ff1Run_lasting {a : State} (enc : Bool) (j : Job) : CmdLasts a ((ff1Run enc j) : Cmd Run) := by
  unfold ff1Run
  repeat' (first
    | with_reducible apply CmdLasts.bind
    | with_reducible apply CmdLasts.pure
    | (intro _)
    | with_reducible apply CmdLasts.of
    | with_reducible apply CmdLasts.some)

theorem execFf1Tokenise_lasting {a s : State} (seq : Nat) (ha : Lasting a s) : Lasts a (execFf1Tokenise seq s) := by
  unfold execFf1Tokenise
  repeat' (first
    | with_reducible assumption
    | with_reducible apply runOp_lasting
    | with_reducible apply ff1Run_lasting
    | with_reducible apply Lasts.done)

theorem execFf1Detokenise_lasting {a s : State} (seq : Nat) (ha : Lasting a s) : Lasts a (execFf1Detokenise seq s) := by
  unfold execFf1Detokenise
  repeat' (first
    | with_reducible assumption
    | with_reducible apply runOp_lasting
    | with_reducible apply ff1Run_lasting
    | with_reducible apply Lasts.done)

end Sys2Proof.Machine
end

