-- ==== Sys2Proof/Laws/LastTr34.lean ====
section
/-!
SUPPORT. What the operations of Machine/Tr34.lean keep (Lasting.lean), one lemma each.
-/
set_option linter.all false
namespace Sys2Proof.Machine

theorem trTake_lasting {a : State} (j : Job) (a_ : Binding) (c : Config.Cms) : CmdLasts a ((trTake j a_ c) : Cmd Run) := by
  unfold trTake
  repeat' (first
    | with_reducible apply CmdLasts.bindGet
    | with_reducible apply CmdLasts.bind
    | with_reducible apply CmdLasts.pure
    | (intro _)
    | with_reducible apply CmdLasts.some
    | with_reducible apply CmdLasts.need
    | with_reducible apply CmdLasts.of
    | with_reducible apply newNode_lasting)

theorem tr34Run_lasting {a : State} (j : Job) : CmdLasts a ((tr34Run j) : Cmd Run) := by
  unfold tr34Run
  repeat' (first
    | with_reducible assumption
    | with_reducible apply CmdLasts.bindGet
    | with_reducible apply CmdLasts.bind
    | with_reducible apply CmdLasts.modify
    | (intro _)
    | with_reducible apply CmdLasts.of
    | with_reducible apply CmdLasts.some
    | with_reducible apply CmdLasts.need
    | with_reducible apply readClock_lasting
    | with_reducible apply note_lasting
    | with_reducible apply CmdLasts.fail
    | with_reducible apply trTake_lasting
    | split)

theorem execTr34Import_lasting {a s : State} (seq : Nat) (ha : Lasting a s) : Lasts a (execTr34Import seq s) := by
  unfold execTr34Import
  repeat' (first
    | with_reducible assumption
    | with_reducible apply runOp_lasting
    | with_reducible apply tr34Run_lasting
    | with_reducible apply Lasts.done)

end Sys2Proof.Machine
end

