-- ==== Sys2Proof/Laws/LastNewt.lean ====
section
/-!
SUPPORT. What the operations of Machine/Newt.lean keep (Lasting.lean), one lemma each.
-/
set_option linter.all false
namespace Sys2Proof.Machine

theorem execEncrypt_lasting {a s : State} (seq : Nat) (ha : Lasting a s) : Lasts a (execEncrypt seq s) := by
  unfold execEncrypt
  repeat' (first
    | with_reducible assumption
    | with_reducible apply runPure_lasting
    | with_reducible apply Lasts.done)

theorem execDecrypt_lasting {a s : State} (seq : Nat) (ha : Lasting a s) : Lasts a (execDecrypt seq s) := by
  unfold execDecrypt
  repeat' (first
    | with_reducible assumption
    | with_reducible apply runPure_lasting
    | with_reducible apply Lasts.done)

theorem unitFault_lasting {a s : State} (u : TestUnit) (running : Job → Bool) (datapath : Bool) (info : W32) (ha : Lasting a s) : Lasting a (unitFault u running datapath info s) := by
  unfold unitFault
  repeat' (first
    | with_reducible assumption
    | with_reducible apply tarnRaise_lasting
    | with_reducible apply endJobs_lasting)

theorem execNewtCoreFault_lasting {a s : State} (core : Fin 16) (datapath : Bool) (info : W32) (ha : Lasting a s) : Lasts a (execNewtCoreFault core datapath info s) := by
  unfold execNewtCoreFault
  repeat' (first
    | with_reducible assumption
    | (extract_lets +onlyGivenNames x; (refine Lasting.cut a x ?_ ?_; (on_goal 1 => (unfold x; clear x)); (on_goal 2 => (intro _; clear_value x))))
    | with_reducible apply unitFault_lasting
    | with_reducible apply note_lasting
    | with_reducible apply Lasts.done)

theorem testPassed_lasting {a s : State} (u : TestUnit) (ha : Lasting a s) : Lasting a (testPassed u s) := by
  unfold testPassed
  repeat' (first
    | with_reducible assumption
    | with_reducible apply setUp_lasting
    | split)

theorem testFailed_lasting {a s : State} (u : TestUnit) (suite : Nat) (cause : Nat) (ha : Lasting a s) : Lasting a (testFailed u suite cause s) := by
  unfold testFailed
  repeat' (first
    | with_reducible assumption
    | (extract_lets +onlyGivenNames x; (refine Lasting.cut a x ?_ ?_; (on_goal 1 => (unfold x; clear x)); (on_goal 2 => (intro _; clear_value x))))
    | with_reducible apply tarnOpen_lasting
    | with_reducible apply takeOut_lasting
    | with_reducible apply note_lasting
    | split)

theorem newtWindowAsk_lasting {a s : State} (n : Nat) (suite : Nat) (ha : Lasting a s) : Lasting a (newtWindowAsk n suite s) := by
  unfold newtWindowAsk
  repeat' (first
    | with_reducible assumption
    | (extract_lets +onlyGivenNames x; (first | (refine Lasting.cut a x ?_ ?_; (on_goal 1 => (unfold x; clear x)); (on_goal 2 => (intro _; clear_value x))) | (unfold x; clear x)))
    | with_reducible apply newtWindowTake_lasting
    | split
    | fail_if_no_progress with_reducible refine Lasting.lit rfl ?_ rfl rfl rfl rfl rfl rfl rfl rfl rfl rfl)

theorem execNewtWinStart_lasting {a s : State} (value : W32) (ha : Lasting a s) : Lasts a (execNewtWinStart value s) := by
  unfold execNewtWinStart
  repeat' (first
    | with_reducible assumption
    | (extract_lets +onlyGivenNames x; (unfold x; clear x))
    | with_reducible apply served_lasting
    | with_reducible apply newtWindowAsk_lasting
    | with_reducible apply Lasts.done
    | split
    | fail_if_no_progress with_reducible refine Lasting.lit rfl ?_ rfl rfl rfl rfl rfl rfl rfl rfl rfl rfl)

theorem execNewtPeriodicTest_lasting {a s : State} (ha : Lasting a s) : Lasts a (execNewtPeriodicTest s) := by
  unfold execNewtPeriodicTest
  repeat' (first
    | with_reducible assumption
    | with_reducible apply newtWindowAsk_lasting
    | with_reducible apply Lasts.done
    | split
    | fail_if_no_progress with_reducible refine Lasting.lit rfl ?_ rfl rfl rfl rfl rfl rfl rfl rfl rfl rfl)

theorem newtWindowEnd_lasting {a s : State} (n : Fin 16) (pass : Bool) (cause : Nat) (cycles : Nat) (ha : Lasting a s) : Lasting a (newtWindowEnd n pass cause cycles s) := by
  unfold newtWindowEnd
  repeat' (first
    | with_reducible assumption
    | (extract_lets +onlyGivenNames x; (refine Lasting.cut a x ?_ ?_; (on_goal 1 => (unfold x; clear x)); (on_goal 2 => (intro _; clear_value x))))
    | with_reducible apply releaseNewt_lasting
    | with_reducible apply testPassed_lasting
    | with_reducible apply testFailed_lasting
    | split
    | fail_if_no_progress with_reducible refine Lasting.lit rfl ?_ rfl rfl rfl rfl rfl rfl rfl rfl rfl rfl)

theorem iguWindowEnd_lasting {a s : State} (n : Fin 28) (pass : Bool) (ha : Lasting a s) : Lasting a (iguWindowEnd n pass s) := by
  unfold iguWindowEnd
  repeat' (first
    | with_reducible assumption
    | (extract_lets +onlyGivenNames x; (refine Lasting.cut a x ?_ ?_; (on_goal 1 => (unfold x; clear x)); (on_goal 2 => (intro _; clear_value x))))
    | with_reducible apply modBig_lasting
    | with_reducible apply modLat_lasting
    | with_reducible apply modHash_lasting
    | with_reducible apply testPassed_lasting
    | with_reducible apply testFailed_lasting
    | split
    | fail_if_no_progress with_reducible refine Lasting.lit rfl ?_ rfl rfl rfl rfl rfl rfl rfl rfl rfl rfl)

theorem execWindowTestDone_lasting {a s : State} (unit : TestUnit) (pass : Bool) (cycles : BitVec 14) (ha : Lasting a s) : Lasts a (execWindowTestDone unit pass cycles s) := by
  unfold execWindowTestDone
  repeat' (first
    | with_reducible assumption
    | (extract_lets +onlyGivenNames x; (first | (refine Lasting.cut a x ?_ ?_; (on_goal 1 => (unfold x; clear x)); (on_goal 2 => (intro _; clear_value x))) | (have : ∃ y : State → State, y = x := ⟨x, rfl⟩; clear this; unfold x; clear x; beta_reduce)))
    | with_reducible apply testPassed_lasting
    | with_reducible apply testFailed_lasting
    | with_reducible apply newtWindowEnd_lasting
    | with_reducible apply iguWindowEnd_lasting
    | with_reducible apply Lasts.done
    | split
    | fail_if_no_progress with_reducible refine Lasting.lit rfl ?_ rfl rfl rfl rfl rfl rfl rfl rfl rfl rfl)

theorem execNewtWinTimeout_lasting {a s : State} (ha : Lasting a s) : Lasts a (execNewtWinTimeout s) := by
  unfold execNewtWinTimeout
  repeat' (first
    | with_reducible assumption
    | with_reducible apply newtWindowEnd_lasting
    | with_reducible apply Lasts.done
    | split)

end Sys2Proof.Machine
end

