-- ==== Sys2Proof/Laws/LastIguana.lean ====
section
/-!
SUPPORT. What the operations of Machine/Iguana.lean keep (Lasting.lean), one lemma each.
-/
set_option linter.all false
namespace Sys2Proof.Machine

theorem rejectInput_lasting {a : State} {α : Type} (j : Job) : CmdLasts a ((rejectInput j) : Cmd α) := by
  unfold rejectInput
  repeat' (first
    | with_reducible assumption
    | with_reducible apply CmdLasts.bind
    | with_reducible apply CmdLasts.modify
    | (intro _)
    | with_reducible apply note_lasting
    | with_reducible apply CmdLasts.fail)

theorem valid_lasting {a : State} (j : Job) (b : Bool) : CmdLasts a ((valid j b) : Cmd Unit) := by
  unfold valid
  repeat' (first
    | with_reducible apply CmdLasts.pure
    | with_reducible apply rejectInput_lasting
    | split)

theorem drawScalar_lasting {a : State} (q inst k : Nat) (n : Nat) : CmdLasts a (drawScalar q inst k n) := by
  induction n with
  | zero => exact CmdLasts.hold
  | succ n ih =>
  unfold drawScalar
  repeat' (first
    | with_reducible assumption
    | with_reducible apply CmdLasts.bind
    | with_reducible apply CmdLasts.pure
    | (intro _)
    | (extract_lets +onlyGivenNames x; (unfold x; clear x))
    | with_reducible apply draw_lasting
    | split)

theorem drawBlind_lasting {a : State} (q : Nat) (l : Nat) : CmdLasts a ((drawBlind q l) : Cmd Unit) := by
  unfold drawBlind
  repeat' (first
    | with_reducible apply CmdLasts.bind
    | with_reducible apply CmdLasts.pure
    | (intro _)
    | with_reducible apply draw_lasting)

theorem drawRsaBlind_lasting {a : State} (q : Nat) (k : Nat) : CmdLasts a ((drawRsaBlind q k) : Cmd Unit) := by
  unfold drawRsaBlind
  repeat' (first
    | with_reducible apply CmdLasts.bind
    | with_reducible apply CmdLasts.pure
    | (intro _)
    | with_reducible apply draw_lasting)

theorem ecdsaSign_lasting {a : State} (q inst : Nat) (c : Weier) (d : Nat) (dig : Bytes) (n : Nat) : CmdLasts a (ecdsaSign q inst c d dig n) := by
  induction n with
  | zero => exact CmdLasts.hold
  | succ n ih =>
  unfold ecdsaSign
  repeat' (first
    | with_reducible assumption
    | with_reducible apply CmdLasts.bind
    | with_reducible apply CmdLasts.pure
    | (intro _)
    | with_reducible apply drawScalar_lasting
    | split)

theorem pkSignRun_lasting {a : State} (j : Job) : CmdLasts a ((pkSignRun j) : Cmd Run) := by
  unfold pkSignRun
  repeat' (first
    | with_reducible apply CmdLasts.bind
    | with_reducible apply CmdLasts.pure
    | (intro _)
    | with_reducible apply CmdLasts.of
    | with_reducible apply CmdLasts.need
    | with_reducible apply CmdLasts.some
    | with_reducible apply ecdsaSign_lasting
    | with_reducible apply drawBlind_lasting
    | with_reducible apply drawRsaBlind_lasting
    | with_reducible apply draw_lasting
    | split)

theorem execPkSign_lasting {a s : State} (seq : Nat) (ha : Lasting a s) : Lasts a (execPkSign seq s) := by
  unfold execPkSign
  repeat' (first
    | with_reducible assumption
    | with_reducible apply runOp_lasting
    | with_reducible apply pkSignRun_lasting
    | with_reducible apply Lasts.done)

theorem pkVerifyRun_lasting {a : State} (j : Job) : CmdLasts a ((pkVerifyRun j) : Cmd Run) := by
  unfold pkVerifyRun
  repeat' (first
    | with_reducible apply CmdLasts.bind
    | with_reducible apply CmdLasts.pure
    | (intro _)
    | with_reducible apply CmdLasts.need
    | with_reducible apply CmdLasts.of
    | with_reducible apply CmdLasts.some
    | with_reducible apply valid_lasting)

theorem execPkVerify_lasting {a s : State} (seq : Nat) (ha : Lasting a s) : Lasts a (execPkVerify seq s) := by
  unfold execPkVerify
  repeat' (first
    | with_reducible assumption
    | with_reducible apply runOp_lasting
    | with_reducible apply pkVerifyRun_lasting
    | with_reducible apply Lasts.done)

theorem drawPrime_lasting {a : State} (q h : Nat) (other : Option Nat) (n : Nat) : CmdLasts a (drawPrime q h other n) := by
  induction n with
  | zero => exact CmdLasts.hold
  | succ n ih =>
  unfold drawPrime
  repeat' (first
    | with_reducible assumption
    | with_reducible apply CmdLasts.bind
    | with_reducible apply CmdLasts.pure
    | (intro _)
    | (extract_lets +onlyGivenNames x; (unfold x; clear x))
    | with_reducible apply draw_lasting
    | split)

theorem drawMaterial_lasting {a : State} (j : Job) (alg : Nat) (curve : Bytes) : CmdLasts a ((drawMaterial j alg curve) : Cmd Bytes) := by
  unfold drawMaterial
  repeat' (first
    | with_reducible apply CmdLasts.bind
    | with_reducible apply CmdLasts.pure
    | (intro _)
    | (extract_lets +onlyGivenNames x; (have : ∀ y, (x y : Cmd _) = x y := fun _ => rfl; clear this; unfold x; clear x; beta_reduce))
    | with_reducible apply drawScalar_lasting
    | with_reducible apply drawBlind_lasting
    | with_reducible apply drawPrime_lasting
    | with_reducible apply draw_lasting
    | split)

theorem pkKeypairRun_lasting {a : State} (j : Job) : CmdLasts a ((pkKeypairRun j) : Cmd Run) := by
  unfold pkKeypairRun
  repeat' (first
    | with_reducible apply CmdLasts.bindGet
    | with_reducible apply CmdLasts.bind
    | with_reducible apply CmdLasts.pure
    | (intro _)
    | with_reducible apply CmdLasts.of
    | with_reducible apply CmdLasts.need
    | with_reducible apply place_lasting
    | with_reducible apply drawMaterial_lasting
    | with_reducible apply wrapOut_lasting
    | split)

theorem execPkKeypair_lasting {a s : State} (seq : Nat) (ha : Lasting a s) : Lasts a (execPkKeypair seq s) := by
  unfold execPkKeypair
  repeat' (first
    | with_reducible assumption
    | with_reducible apply runOp_lasting
    | with_reducible apply pkKeypairRun_lasting
    | with_reducible apply Lasts.done)

theorem pkAgreeRun_lasting {a : State} (j : Job) : CmdLasts a ((pkAgreeRun j) : Cmd Run) := by
  unfold pkAgreeRun
  repeat' (first
    | with_reducible apply CmdLasts.bind
    | with_reducible apply CmdLasts.pure
    | (intro _)
    | with_reducible apply CmdLasts.of
    | with_reducible apply CmdLasts.need
    | with_reducible apply valid_lasting
    | with_reducible apply drawBlind_lasting
    | with_reducible apply rejectInput_lasting
    | split)

theorem execPkAgree_lasting {a s : State} (seq : Nat) (ha : Lasting a s) : Lasts a (execPkAgree seq s) := by
  unfold execPkAgree
  repeat' (first
    | with_reducible assumption
    | with_reducible apply runOp_lasting
    | with_reducible apply pkAgreeRun_lasting
    | with_reducible apply Lasts.done)

theorem kemEncapsRun_lasting {a : State} (j : Job) : CmdLasts a ((kemEncapsRun j) : Cmd Run) := by
  unfold kemEncapsRun
  repeat' (first
    | with_reducible apply CmdLasts.bind
    | with_reducible apply CmdLasts.pure
    | (intro _)
    | with_reducible apply CmdLasts.need
    | with_reducible apply valid_lasting
    | with_reducible apply draw_lasting)

theorem execKemEncaps_lasting {a s : State} (seq : Nat) (ha : Lasting a s) : Lasts a (execKemEncaps seq s) := by
  unfold execKemEncaps
  repeat' (first
    | with_reducible assumption
    | with_reducible apply runOp_lasting
    | with_reducible apply kemEncapsRun_lasting
    | with_reducible apply Lasts.done)

theorem execKemDecaps_lasting {a s : State} (seq : Nat) (ha : Lasting a s) : Lasts a (execKemDecaps seq s) := by
  unfold execKemDecaps
  repeat' (first
    | with_reducible assumption
    | with_reducible apply runPure_lasting
    | with_reducible apply Lasts.done)

theorem rsaEncryptRun_lasting {a : State} (j : Job) : CmdLasts a ((rsaEncryptRun j) : Cmd Run) := by
  unfold rsaEncryptRun
  repeat' (first
    | with_reducible apply CmdLasts.bind
    | with_reducible apply CmdLasts.pure
    | (intro _)
    | with_reducible apply CmdLasts.need
    | with_reducible apply CmdLasts.of
    | with_reducible apply valid_lasting
    | with_reducible apply draw_lasting)

theorem execRsaEncrypt_lasting {a s : State} (seq : Nat) (ha : Lasting a s) : Lasts a (execRsaEncrypt seq s) := by
  unfold execRsaEncrypt
  repeat' (first
    | with_reducible assumption
    | with_reducible apply runOp_lasting
    | with_reducible apply rsaEncryptRun_lasting
    | with_reducible apply Lasts.done)

theorem rsaDecryptRun_lasting {a : State} (j : Job) : CmdLasts a ((rsaDecryptRun j) : Cmd Run) := by
  unfold rsaDecryptRun
  repeat' (first
    | with_reducible apply CmdLasts.bind
    | with_reducible apply CmdLasts.pure
    | (intro _)
    | with_reducible apply CmdLasts.of
    | with_reducible apply CmdLasts.need
    | with_reducible apply valid_lasting
    | with_reducible apply drawRsaBlind_lasting
    | with_reducible apply rejectInput_lasting
    | split)

theorem execRsaDecrypt_lasting {a s : State} (seq : Nat) (ha : Lasting a s) : Lasts a (execRsaDecrypt seq s) := by
  unfold execRsaDecrypt
  repeat' (first
    | with_reducible assumption
    | with_reducible apply runOp_lasting
    | with_reducible apply rsaDecryptRun_lasting
    | with_reducible apply Lasts.done)

theorem execHash_lasting {a s : State} (seq : Nat) (ha : Lasting a s) : Lasts a (execHash seq s) := by
  unfold execHash
  repeat' (first
    | with_reducible assumption
    | with_reducible apply runPure_lasting
    | with_reducible apply Lasts.done)

theorem execHmac_lasting {a s : State} (seq : Nat) (ha : Lasting a s) : Lasts a (execHmac seq s) := by
  unfold execHmac
  repeat' (first
    | with_reducible assumption
    | with_reducible apply runPure_lasting
    | with_reducible apply Lasts.done)

theorem curveLoadRun_lasting {a : State} (j : Job) : CmdLasts a ((curveLoadRun j) : Cmd Run) := by
  unfold curveLoadRun
  repeat' (first
    | with_reducible assumption
    | with_reducible apply CmdLasts.bind
    | with_reducible apply CmdLasts.pure
    | with_reducible apply CmdLasts.modify
    | (intro _)
    | (extract_lets +onlyGivenNames x; (unfold x; clear x))
    | with_reducible apply CmdLasts.need
    | with_reducible apply note_lasting
    | with_reducible apply CmdLasts.fail
    | split)

theorem execCurveLoad_lasting {a s : State} (seq : Nat) (ha : Lasting a s) : Lasts a (execCurveLoad seq s) := by
  unfold execCurveLoad
  repeat' (first
    | with_reducible assumption
    | with_reducible apply runOp_lasting
    | with_reducible apply curveLoadRun_lasting
    | with_reducible apply Lasts.done)

theorem execIguUnitFault_lasting {a s : State} (unit : Fin 28) (datapath : Bool) (info : W32) (ha : Lasting a s) : Lasts a (execIguUnitFault unit datapath info s) := by
  unfold execIguUnitFault
  repeat' (first
    | with_reducible assumption
    | (extract_lets +onlyGivenNames x; (refine Lasting.cut a x ?_ ?_; (on_goal 1 => (unfold x; clear x)); (on_goal 2 => (intro _; clear_value x))))
    | with_reducible apply unitFault_lasting
    | with_reducible apply note_lasting
    | with_reducible apply settleCore_lasting
    | with_reducible apply Lasts.done
    | split)

theorem iguWindowAsk_lasting {a s : State} (n : Nat) (ha : Lasting a s) : Lasting a (iguWindowAsk n s) := by
  unfold iguWindowAsk
  repeat' (first
    | with_reducible assumption
    | (extract_lets +onlyGivenNames x; (first | (refine Lasting.cut a x ?_ ?_; (on_goal 1 => (unfold x; clear x)); (on_goal 2 => (intro _; clear_value x))) | (unfold x; clear x)))
    | with_reducible apply iguWindowTake_lasting
    | split
    | fail_if_no_progress with_reducible refine Lasting.lit rfl ?_ rfl rfl rfl rfl rfl rfl rfl rfl rfl rfl)

theorem execIguWinStart_lasting {a s : State} (value : W32) (ha : Lasting a s) : Lasts a (execIguWinStart value s) := by
  unfold execIguWinStart
  repeat' (first
    | with_reducible assumption
    | (extract_lets +onlyGivenNames x; (unfold x; clear x))
    | with_reducible apply served_lasting
    | with_reducible apply iguWindowAsk_lasting
    | with_reducible apply Lasts.done
    | split
    | fail_if_no_progress with_reducible refine Lasting.lit rfl ?_ rfl rfl rfl rfl rfl rfl rfl rfl rfl rfl)

theorem execIguPeriodicTest_lasting {a s : State} (ha : Lasting a s) : Lasts a (execIguPeriodicTest s) := by
  unfold execIguPeriodicTest
  repeat' (first
    | with_reducible assumption
    | (extract_lets +onlyGivenNames x; (unfold x; clear x))
    | with_reducible apply iguWindowAsk_lasting
    | with_reducible apply Lasts.done
    | split
    | fail_if_no_progress with_reducible refine Lasting.lit rfl ?_ rfl rfl rfl rfl rfl rfl rfl rfl rfl rfl)

end Sys2Proof.Machine
end

