-- ==== Sys2Proof/Laws/LastRng.lean ====
section
/-!
SUPPORT. What the operations of Machine/Rng.lean keep (Lasting.lean), one lemma each.
-/
set_option linter.all false
namespace Sys2Proof.Machine

theorem modRng_lasting {a s : State} (f : Rng → Rng) (ha : Lasting a s) : Lasting a (modRng f s) := by
  unfold modRng
  repeat' (first
    | with_reducible assumption
    | fail_if_no_progress with_reducible refine Lasting.lit rfl ?_ rfl rfl rfl rfl rfl rfl rfl rfl rfl rfl)

theorem modSource_lasting {a s : State} (i : Nat) (f : Source → Source) (ha : Lasting a s) : Lasting a (modSource i f s) := by
  unfold modSource
  repeat' (first
    | with_reducible assumption
    | with_reducible apply modRng_lasting)

theorem discardBlock_lasting {a s : State} (ha : Lasting a s) : Lasting a (discardBlock s) := by
  unfold discardBlock
  repeat' (first
    | with_reducible assumption
    | with_reducible apply modRng_lasting)

theorem entropyStop_lasting {a s : State} (ha : Lasting a s) : Lasting a (entropyStop s) := by
  unfold entropyStop
  repeat' (first
    | with_reducible assumption
    | (extract_lets +onlyGivenNames x; (refine Lasting.cut a x ?_ ?_; (on_goal 1 => (unfold x; clear x)); (on_goal 2 => (intro _; clear_value x))))
    | with_reducible apply endJobs_lasting
    | with_reducible apply modRng_lasting
    | with_reducible apply note_lasting)

theorem sourceOut_lasting {a s : State} (i : Nat) (cause : Nat) (attempt : Nat) (ha : Lasting a s) : Lasting a (sourceOut i cause attempt s) := by
  unfold sourceOut
  repeat' (first
    | with_reducible assumption
    | (extract_lets +onlyGivenNames x; (refine Lasting.cut a x ?_ ?_; (on_goal 1 => (unfold x; clear x)); (on_goal 2 => (intro _; clear_value x))))
    | with_reducible apply modSource_lasting
    | with_reducible apply tarnOpen_lasting
    | with_reducible apply note_lasting
    | with_reducible apply discardBlock_lasting
    | with_reducible apply modRng_lasting
    | with_reducible apply entropyStop_lasting
    | split)

theorem execRngStartupTestDone_lasting {a s : State} (source : Fin 3) (pass : Bool) (ha : Lasting a s) : Lasts a (execRngStartupTestDone source pass s) := by
  unfold execRngStartupTestDone
  repeat' (first
    | with_reducible assumption
    | (extract_lets +onlyGivenNames x; (first | (refine Lasting.cut a x ?_ ?_; (on_goal 1 => (unfold x; clear x)); (on_goal 2 => (intro _; clear_value x))) | (unfold x; clear x)))
    | with_reducible apply modSource_lasting
    | with_reducible apply note_lasting
    | with_reducible apply modRng_lasting
    | with_reducible apply sourceOut_lasting
    | with_reducible apply startStop_lasting
    | with_reducible apply Lasts.done
    | split)

theorem execRngSourceFail_lasting {a s : State} (source : Fin 3) (apt : Bool) (ha : Lasting a s) : Lasts a (execRngSourceFail source apt s) := by
  unfold execRngSourceFail
  repeat' (first
    | with_reducible assumption
    | (extract_lets +onlyGivenNames x; (first | (refine Lasting.cut a x ?_ ?_; (on_goal 1 => (unfold x; clear x)); (on_goal 2 => (intro _; clear_value x))) | (unfold x; clear x)))
    | with_reducible apply modSource_lasting
    | with_reducible apply sourceOut_lasting
    | with_reducible apply Lasts.done
    | split)

theorem execRngCtrlRestart_lasting {a s : State} (value : W32) (ha : Lasting a s) : Lasts a (execRngCtrlRestart value s) := by
  unfold execRngCtrlRestart
  repeat' (first
    | with_reducible assumption
    | (intro _)
    | (extract_lets +onlyGivenNames x; (refine Lasting.cut a x ?_ ?_; (on_goal 1 => (unfold x; clear x)); (on_goal 2 => (intro _; clear_value x))))
    | with_reducible apply served_lasting
    | with_reducible apply modSource_lasting
    | with_reducible apply modRng_lasting
    | with_reducible apply Lasts.done
    | with_reducible apply Lasting.foldl
    | split)

theorem poolIn_lasting {a s : State} (raw : Bytes) (ha : Lasting a s) : Lasting a (poolIn raw s) := by
  unfold poolIn
  repeat' (first
    | with_reducible assumption
    | with_reducible apply modRng_lasting)

theorem execRngBlockClose_lasting {a s : State} (raw : Bytes) (ha : Lasting a s) : Lasts a (execRngBlockClose raw s) := by
  unfold execRngBlockClose
  repeat' (first
    | with_reducible assumption
    | (extract_lets +onlyGivenNames x; (unfold x; clear x))
    | with_reducible apply poolIn_lasting
    | with_reducible apply modRng_lasting
    | with_reducible apply Lasts.done
    | split)

theorem poolOut_lasting {a s : State} (ha : Lasting a s) : Lasting a (poolOut s).2 := by
  unfold poolOut
  repeat' (first
    | with_reducible assumption
    | (extract_lets +onlyGivenNames x; (first | (refine Lasting.cut a x ?_ ?_; (on_goal 1 => (unfold x; clear x)); (on_goal 2 => (intro _; clear_value x))) | (unfold x; clear x)))
    | with_reducible apply modRng_lasting
    | with_reducible apply poolIn_lasting
    | split)

theorem execRngReseed_lasting {a s : State} (ha : Lasting a s) : Lasts a (execRngReseed s) := by
  unfold execRngReseed
  repeat' (first
    | with_reducible assumption
    | with_reducible apply poolOut_lasting
    | with_reducible apply setInst_lasting
    | with_reducible apply modRng_lasting
    | with_reducible apply Lasts.done
    | split)

theorem seedInst_lasting {a s : State} (i : Nat) (ha : Lasting a s) : Lasting a (seedInst s i) := by
  unfold seedInst
  repeat' (first
    | with_reducible assumption
    | with_reducible apply drawInst_lasting
    | with_reducible apply setInst_lasting
    | with_reducible apply instantiateInst_lasting
    | split)

theorem execRngReady_lasting {a s : State} (raw : Bytes) (ha : Lasting a s) : Lasts a (execRngReady raw s) := by
  unfold execRngReady
  repeat' (first
    | with_reducible assumption
    | (extract_lets +onlyGivenNames x; (refine Lasting.cut a x ?_ ?_; (on_goal 1 => (unfold x; clear x)); (on_goal 2 => (intro _; clear_value x))))
    | with_reducible apply setInst_lasting
    | with_reducible apply modRng_lasting
    | with_reducible apply seedInst_lasting
    | with_reducible apply note_lasting
    | with_reducible apply Lasts.done
    | with_reducible apply Lasting.foldl
    | split
    | fail_if_no_progress with_reducible refine Lasting.lit rfl ?_ rfl rfl rfl rfl rfl rfl rfl rfl rfl rfl)

theorem randomRun_lasting {a : State} (j : Job) : CmdLasts a ((randomRun j) : Cmd Run) := by
  unfold randomRun
  repeat' (first
    | with_reducible assumption
    | with_reducible apply CmdLasts.bindGet
    | with_reducible apply CmdLasts.bind
    | with_reducible apply CmdLasts.pure
    | with_reducible apply CmdLasts.modify
    | (intro _)
    | (extract_lets +onlyGivenNames x; (have : ∀ y, (x y : Cmd _) = x y := fun _ => rfl; clear this; unfold x; clear x; beta_reduce))
    | with_reducible apply CmdLasts.of
    | with_reducible apply CmdLasts.need
    | with_reducible apply CmdLasts.hold
    | with_reducible apply modRng_lasting
    | with_reducible apply draw_lasting
    | split)

theorem execRandom_lasting {a s : State} (seq : Nat) (ha : Lasting a s) : Lasts a (execRandom seq s) := by
  unfold execRandom
  repeat' (first
    | with_reducible assumption
    | with_reducible apply runOp_lasting
    | with_reducible apply randomRun_lasting
    | with_reducible apply Lasts.done)

end Sys2Proof.Machine
end

