-- ==== Sys2Proof/Laws/LastAuth.lean ====
section
/-!
SUPPORT. What the operations of Machine/Auth.lean keep (Lasting.lean), one lemma each.
-/
set_option linter.all false
namespace Sys2Proof.Machine

theorem hybridSign_lasting {a : State} (j : Job) (msg : Bytes) : CmdLasts a ((hybridSign j msg) : Cmd Bytes) := by
  unfold hybridSign
  repeat' (first
    | with_reducible assumption
    | with_reducible apply CmdLasts.bind
    | (intro _)
    | with_reducible apply ecdsaSign_lasting
    | with_reducible apply draw_lasting
    | with_reducible apply share_lasting)

theorem judge_lasting {a : State} (j : Job) (cls : Nat) (off : Nat) (dig : Bytes) (new : Option (Nat × Byte × Bytes)) : CmdLasts a ((judge j cls off dig new) : Cmd Unit) := by
  unfold judge
  repeat' (first
    | with_reducible assumption
    | with_reducible apply CmdLasts.bindGet
    | with_reducible apply CmdLasts.bind
    | with_reducible apply CmdLasts.modify
    | (intro _)
    | (extract_lets +onlyGivenNames x; (unfold x; clear x))
    | with_reducible apply readClock_lasting
    | with_reducible apply CmdLasts.need
    | with_reducible apply CmdLasts.some
    | with_reducible apply note_lasting
    | with_reducible apply CmdLasts.fail
    | split
    | fail_if_no_progress with_reducible refine Lasting.lit rfl ?_ rfl rfl rfl rfl rfl rfl rfl rfl rfl rfl)

end Sys2Proof.Machine
end

