-- ==== Sys2Proof/Laws/LastCustodian.lean ====
section
/-!
SUPPORT. What the operations of Machine/Custodian.lean keep (Lasting.lean), one lemma each.
-/
set_option linter.all false
namespace Sys2Proof.Machine

theorem modCust_lasting {a s : State} (f : Cust → Cust) (ha : Lasting a s) : Lasting a (modCust f s) := by
  unfold modCust
  repeat' (first
    | with_reducible assumption
    | fail_if_no_progress with_reducible refine Lasting.lit rfl ?_ rfl rfl rfl rfl rfl rfl rfl rfl rfl rfl)

theorem authChallengeRun_lasting {a : State} (j : Job) : CmdLasts a ((authChallengeRun j) : Cmd Run) := by
  unfold authChallengeRun
  repeat' (first
    | with_reducible assumption
    | with_reducible apply CmdLasts.bind
    | with_reducible apply CmdLasts.pure
    | with_reducible apply CmdLasts.modify
    | (intro _)
    | with_reducible apply CmdLasts.of
    | with_reducible apply draw_lasting
    | with_reducible apply readClock_lasting
    | with_reducible apply modCust_lasting)

theorem execAuthChallenge_lasting {a s : State} (seq : Nat) (ha : Lasting a s) : Lasts a (execAuthChallenge seq s) := by
  unfold execAuthChallenge
  repeat' (first
    | with_reducible assumption
    | with_reducible apply runOp_lasting
    | with_reducible apply authChallengeRun_lasting
    | with_reducible apply Lasts.done)

theorem execChallengeExpiry_lasting {a s : State} (ha : Lasting a s) : Lasts a (execChallengeExpiry s) := by
  unfold execChallengeExpiry
  repeat' (first
    | with_reducible assumption
    | with_reducible apply modCust_lasting
    | with_reducible apply Lasts.done)

theorem setSession_lasting {a s : State} (c : Nat) (x : Option Session) (ha : Lasting a s) : Lasting a (setSession c x s) := by
  unfold setSession
  repeat' (first
    | with_reducible assumption
    | with_reducible apply modCust_lasting)

theorem sessionOpenRun_lasting {a : State} (j : Job) : CmdLasts a ((sessionOpenRun j) : Cmd Run) := by
  unfold sessionOpenRun
  repeat' (first
    | with_reducible assumption
    | with_reducible apply CmdLasts.bindGet
    | with_reducible apply CmdLasts.bind
    | with_reducible apply CmdLasts.pure
    | with_reducible apply CmdLasts.modify
    | (intro _)
    | with_reducible apply CmdLasts.of
    | with_reducible apply CmdLasts.need
    | with_reducible apply draw_lasting
    | with_reducible apply drawScalar_lasting
    | with_reducible apply hybridSign_lasting
    | with_reducible apply setSession_lasting)

theorem execCustodianSessionOpen_lasting {a s : State} (seq : Nat) (ha : Lasting a s) : Lasts a (execCustodianSessionOpen seq s) := by
  unfold execCustodianSessionOpen
  repeat' (first
    | with_reducible assumption
    | with_reducible apply runOp_lasting
    | with_reducible apply sessionOpenRun_lasting
    | with_reducible apply Lasts.done)

theorem sessionExchangeRun_lasting {a : State} (j : Job) : CmdLasts a ((sessionExchangeRun j) : Cmd Run) := by
  unfold sessionExchangeRun
  repeat' (first
    | with_reducible assumption
    | with_reducible apply CmdLasts.bindGet
    | with_reducible apply CmdLasts.bind
    | with_reducible apply CmdLasts.pure
    | with_reducible apply CmdLasts.modify
    | (intro _)
    | with_reducible apply CmdLasts.some
    | with_reducible apply setSession_lasting
    | with_reducible apply CmdLasts.need)

theorem execCustodianSessionExchange_lasting {a s : State} (seq : Nat) (ha : Lasting a s) : Lasts a (execCustodianSessionExchange seq s) := by
  unfold execCustodianSessionExchange
  repeat' (first
    | with_reducible assumption
    | with_reducible apply runOp_lasting
    | with_reducible apply sessionExchangeRun_lasting
    | with_reducible apply Lasts.done)

theorem sessionCloseRun_lasting {a : State} (j : Job) : CmdLasts a ((sessionCloseRun j) : Cmd Run) := by
  unfold sessionCloseRun
  repeat' (first
    | with_reducible assumption
    | with_reducible apply CmdLasts.bindGet
    | with_reducible apply CmdLasts.bind
    | with_reducible apply CmdLasts.pure
    | with_reducible apply CmdLasts.modify
    | (intro _)
    | with_reducible apply CmdLasts.of
    | with_reducible apply CmdLasts.need
    | with_reducible apply setSession_lasting)

theorem execCustodianSessionClose_lasting {a s : State} (seq : Nat) (ha : Lasting a s) : Lasts a (execCustodianSessionClose seq s) := by
  unfold execCustodianSessionClose
  repeat' (first
    | with_reducible assumption
    | with_reducible apply runOp_lasting
    | with_reducible apply sessionCloseRun_lasting
    | with_reducible apply Lasts.done)

theorem execSessionExpiry_lasting {a s : State} (custodian : Fin 32) (ha : Lasting a s) : Lasts a (execSessionExpiry custodian s) := by
  unfold execSessionExpiry
  repeat' (first
    | with_reducible assumption
    | with_reducible apply setSession_lasting
    | with_reducible apply Lasts.done
    | split)

theorem custodianEnrolRun_lasting {a : State} (j : Job) : CmdLasts a ((custodianEnrolRun j) : Cmd Run) := by
  unfold custodianEnrolRun
  repeat' (first
    | with_reducible apply CmdLasts.bindGet
    | with_reducible apply CmdLasts.bind
    | with_reducible apply CmdLasts.pure
    | (intro _)
    | with_reducible apply CmdLasts.need
    | with_reducible apply judge_lasting
    | split)

theorem execCustodianEnrol_lasting {a s : State} (seq : Nat) (ha : Lasting a s) : Lasts a (execCustodianEnrol seq s) := by
  unfold execCustodianEnrol
  repeat' (first
    | with_reducible assumption
    | with_reducible apply runOp_lasting
    | with_reducible apply custodianEnrolRun_lasting
    | with_reducible apply Lasts.done)

theorem masterLoadRun_lasting {a : State} (j : Job) : CmdLasts a ((masterLoadRun j) : Cmd Run) := by
  unfold masterLoadRun
  repeat' (first
    | with_reducible apply CmdLasts.bindGet
    | with_reducible apply CmdLasts.bind
    | with_reducible apply CmdLasts.pure
    | (intro _)
    | with_reducible apply CmdLasts.need
    | with_reducible apply judge_lasting
    | with_reducible apply CmdLasts.some)

theorem execMasterLoad_lasting {a s : State} (seq : Nat) (ha : Lasting a s) : Lasts a (execMasterLoad seq s) := by
  unfold execMasterLoad
  repeat' (first
    | with_reducible assumption
    | with_reducible apply runOp_lasting
    | with_reducible apply masterLoadRun_lasting
    | with_reducible apply Lasts.done)

theorem policyRulesRun_lasting {a : State} (j : Job) : CmdLasts a ((policyRulesRun j) : Cmd Run) := by
  unfold policyRulesRun
  repeat' (first
    | with_reducible apply CmdLasts.bindGet
    | with_reducible apply CmdLasts.bind
    | with_reducible apply CmdLasts.pure
    | (intro _)
    | with_reducible apply CmdLasts.need
    | with_reducible apply judge_lasting
    | with_reducible apply CmdLasts.some)

theorem execPolicySetRules_lasting {a s : State} (seq : Nat) (ha : Lasting a s) : Lasts a (execPolicySetRules seq s) := by
  unfold execPolicySetRules
  repeat' (first
    | with_reducible assumption
    | with_reducible apply runOp_lasting
    | with_reducible apply policyRulesRun_lasting
    | with_reducible apply Lasts.done)

theorem policyWindowRun_lasting {a : State} (j : Job) : CmdLasts a ((policyWindowRun j) : Cmd Run) := by
  unfold policyWindowRun
  repeat' (first
    | with_reducible apply CmdLasts.bind
    | with_reducible apply CmdLasts.pure
    | (intro _)
    | with_reducible apply CmdLasts.need
    | with_reducible apply judge_lasting)

theorem execPolicySetCellWindow_lasting {a s : State} (seq : Nat) (ha : Lasting a s) : Lasts a (execPolicySetCellWindow seq s) := by
  unfold execPolicySetCellWindow
  repeat' (first
    | with_reducible assumption
    | with_reducible apply runOp_lasting
    | with_reducible apply policyWindowRun_lasting
    | with_reducible apply Lasts.done)

theorem execCustodianKeyStoreErase_lasting {a s : State} (ha : Lasting a s) : Lasts a (execCustodianKeyStoreErase s) := by
  unfold execCustodianKeyStoreErase
  repeat' (first
    | with_reducible assumption
    | (extract_lets +onlyGivenNames x; (have : Nv := x; clear this; unfold x; clear x))
    | with_reducible apply Lasts.done
    | split
    | fail_if_no_progress with_reducible refine Lasting.lit rfl ?_ rfl rfl rfl rfl rfl rfl rfl rfl rfl rfl)

theorem namedThere_lasting {a : State} (j : Job) : CmdLasts a ((namedThere j) : Cmd Unit) := by
  unfold namedThere
  repeat' (first
    | with_reducible apply CmdLasts.bindGet
    | (intro _)
    | with_reducible apply CmdLasts.need)

theorem tdesSet_lasting {a : State} (on : Bool) (j : Job) : CmdLasts a ((tdesSet on j) : Cmd Run) := by
  unfold tdesSet
  repeat' (first
    | with_reducible apply CmdLasts.bindGet
    | with_reducible apply CmdLasts.bind
    | with_reducible apply CmdLasts.pure
    | (intro _)
    | with_reducible apply namedThere_lasting)

theorem tdesEnableRun_lasting {a : State} (j : Job) : CmdLasts a ((tdesEnableRun j) : Cmd Run) := by
  unfold tdesEnableRun
  repeat' (first
    | with_reducible apply CmdLasts.bind
    | (intro _)
    | with_reducible apply judge_lasting
    | with_reducible apply tdesSet_lasting)

theorem tdesDisableRun_lasting {a : State} (j : Job) : CmdLasts a ((tdesDisableRun j) : Cmd Run) := by
  unfold tdesDisableRun
  repeat' (first
    | with_reducible apply CmdLasts.bind
    | (intro _)
    | with_reducible apply CmdLasts.of
    | with_reducible apply tdesSet_lasting)

theorem execTdesSetEnable_lasting {a s : State} (seq : Nat) (ha : Lasting a s) : Lasts a (execTdesSetEnable seq s) := by
  unfold execTdesSetEnable
  repeat' (first
    | with_reducible assumption
    | with_reducible apply runOp_lasting
    | with_reducible apply tdesEnableRun_lasting
    | with_reducible apply Lasts.done)

theorem execTdesSetDisable_lasting {a s : State} (seq : Nat) (ha : Lasting a s) : Lasts a (execTdesSetDisable seq s) := by
  unfold execTdesSetDisable
  repeat' (first
    | with_reducible assumption
    | with_reducible apply runOp_lasting
    | with_reducible apply tdesDisableRun_lasting
    | with_reducible apply Lasts.done)

end Sys2Proof.Machine
end

