-- ==== Sys2Proof/Laws/LastFirmware.lean ====
section
/-!
SUPPORT. What the operations of Machine/Firmware.lean keep (Lasting.lean), one lemma each.
-/
set_option linter.all false
namespace Sys2Proof.Machine

theorem slotWrite_lasting {a s : State} (b : Bool) (k : Nat) (bs : Bytes) (ha : Lasting a s) : Lasting a (slotWrite b k bs s) := by
  unfold slotWrite
  split
  · exact { ha with slotB := fun h => Tab.wf_writeBytes bs (ha.slotB h) }
  · dsimp only
    split
    · exact { ha with slotA := fun _ => Tab.wf_writeBytes bs (Tab.wf_writeBytes _ rfl) }
    · exact { ha with slotA := fun h => Tab.wf_writeBytes bs (ha.slotA h) }

theorem slotErase_lasting {a s : State} (b : Bool) (ha : Lasting a s) : Lasting a (slotErase b s) := by
  unfold slotErase
  split
  · exact { ha with slotB := fun _ => rfl }
  · exact { ha with slotA := fun _ => rfl }

end Sys2Proof.Machine
end

