-- ==== Sys2Proof/Laws/LastParts.lean ====
section
/-!
SUPPORT. What the operations of Machine/Parts.lean keep (Lasting.lean), one lemma each.
-/
set_option linter.all false
namespace Sys2Proof.Machine

theorem partCreateRun_lasting {a : State} (j : Job) : CmdLasts a ((partCreateRun j) : Cmd Run) := by
  unfold partCreateRun
  repeat' (first
    | with_reducible apply CmdLasts.bindGet
    | with_reducible apply CmdLasts.bind
    | with_reducible apply CmdLasts.pure
    | (intro _)
    | with_reducible apply CmdLasts.need
    | with_reducible apply judge_lasting
    | with_reducible apply CmdLasts.of
    | with_reducible apply draw_lasting)

theorem execPartCreate_lasting {a s : State} (seq : Nat) (ha : Lasting a s) : Lasts a (execPartCreate seq s) := by
  unfold execPartCreate
  repeat' (first
    | with_reducible assumption
    | with_reducible apply runOp_lasting
    | with_reducible apply partCreateRun_lasting
    | with_reducible apply Lasts.done)

theorem partConfigureRun_lasting {a : State} (j : Job) : CmdLasts a ((partConfigureRun j) : Cmd Run) := by
  unfold partConfigureRun
  repeat' (first
    | with_reducible apply CmdLasts.bindGet
    | with_reducible apply CmdLasts.bind
    | with_reducible apply CmdLasts.pure
    | (intro _)
    | with_reducible apply namedThere_lasting
    | with_reducible apply CmdLasts.need
    | with_reducible apply CmdLasts.of)

theorem execPartConfigure_lasting {a s : State} (seq : Nat) (ha : Lasting a s) : Lasts a (execPartConfigure seq s) := by
  unfold execPartConfigure
  repeat' (first
    | with_reducible assumption
    | with_reducible apply runOp_lasting
    | with_reducible apply partConfigureRun_lasting
    | with_reducible apply Lasts.done)

theorem resetJob_lasting {a s : State} (q : Nat) (ha : Lasting a s) : Lasting a (resetJob q s) := by
  unfold resetJob
  repeat' (first
    | with_reducible assumption
    | (extract_lets +onlyGivenNames x; (refine Lasting.cut a x ?_ ?_; (on_goal 1 => (unfold x; clear x)); (on_goal 2 => (intro _; clear_value x))))
    | with_reducible apply goneSilently_lasting
    | with_reducible apply endWhereWaiting_lasting
    | with_reducible apply modJob_lasting
    | with_reducible apply endJob_lasting
    | split)

theorem stopPart_lasting {a s : State} (p : Nat) (ha : Lasting a s) : Lasting a (stopPart p s) := by
  unfold stopPart
  repeat' (first
    | with_reducible assumption
    | (intro _)
    | (extract_lets +onlyGivenNames x; (first | (refine Lasting.cut a x ?_ ?_; (on_goal 1 => (unfold x; clear x)); (on_goal 2 => (intro _; clear_value x))) | (unfold x; clear x)))
    | with_reducible apply modRing_lasting
    | with_reducible apply modPart_lasting
    | with_reducible apply completed_lasting
    | with_reducible apply resetJob_lasting
    | with_reducible apply Lasting.foldl
    | split
    | fail_if_no_progress with_reducible refine Lasting.lit rfl ?_ rfl rfl rfl rfl rfl rfl rfl rfl rfl rfl)

theorem startReset_lasting {a s : State} (p : Nat) (cause : Nat) (ha : Lasting a s) : Lasting a (startReset p cause s) := by
  unfold startReset
  repeat' (first
    | with_reducible assumption
    | with_reducible apply stopPart_lasting
    | with_reducible apply modPart_lasting
    | split)

theorem resetFunction_lasting {a s : State} (p : Nat) (ha : Lasting a s) : Lasting a (resetFunction p s) := by
  unfold resetFunction
  repeat' (first
    | with_reducible assumption
    | with_reducible apply modPart_lasting
    | fail_if_no_progress with_reducible refine Lasting.lit rfl ?_ rfl rfl rfl rfl rfl rfl rfl rfl rfl rfl)

theorem execVfFlr_lasting {a s : State} (p : Fin 256) (ha : Lasting a s) : Lasts a (execVfFlr p s) := by
  unfold execVfFlr
  repeat' (first
    | with_reducible assumption
    | with_reducible apply startReset_lasting
    | with_reducible apply resetFunction_lasting
    | with_reducible apply Lasts.done
    | split)

theorem resetVfs_lasting {a s : State} (ha : Lasting a s) : Lasting a (resetVfs s) := by
  unfold resetVfs
  repeat' (first
    | with_reducible assumption
    | (intro _)
    | with_reducible apply startReset_lasting
    | with_reducible apply resetFunction_lasting
    | with_reducible apply Lasting.foldl)

theorem resetSelectors_lasting {a s : State} (ha : Lasting a s) : Lasting a (resetSelectors s) := by
  unfold resetSelectors
  repeat' (first
    | with_reducible assumption
    | (extract_lets +onlyGivenNames x; (have : Scree := x; clear this; unfold x; clear x))
    | fail_if_no_progress with_reducible refine Lasting.lit rfl ?_ rfl rfl rfl rfl rfl rfl rfl rfl rfl rfl)

theorem execPfFlr_lasting {a s : State} (ha : Lasting a s) : Lasts a (execPfFlr s) := by
  unfold execPfFlr
  repeat' (first
    | with_reducible assumption
    | with_reducible apply startReset_lasting
    | with_reducible apply resetFunction_lasting
    | with_reducible apply resetSelectors_lasting
    | with_reducible apply resetVfs_lasting
    | with_reducible apply Lasts.done)

theorem execVfEnableClear_lasting {a s : State} (ha : Lasting a s) : Lasts a (execVfEnableClear s) := by
  unfold execVfEnableClear
  repeat' (first
    | with_reducible assumption
    | with_reducible apply resetVfs_lasting
    | with_reducible apply Lasts.done)

theorem execPartVfCtrlReset_lasting {a s : State} (p : Fin 256) (value : W32) (ha : Lasting a s) : Lasts a (execPartVfCtrlReset p value s) := by
  unfold execPartVfCtrlReset
  repeat' (first
    | with_reducible assumption
    | with_reducible apply served_lasting
    | with_reducible apply startReset_lasting
    | with_reducible apply Lasts.done
    | split)

theorem execPartCtrlReset_lasting {a s : State} (value : W32) (ha : Lasting a s) : Lasts a (execPartCtrlReset value s) := by
  unfold execPartCtrlReset
  repeat' (first
    | with_reducible assumption
    | with_reducible apply served_lasting
    | with_reducible apply startReset_lasting
    | with_reducible apply Lasts.done
    | split)

theorem dumpInto_lasting {a s : State} (p : Nat) (h : HostRing) (ha : Lasting a s) : Lasting a (dumpInto p h s).2 := by
  unfold dumpInto
  repeat' (first
    | with_reducible assumption
    | (extract_lets +onlyGivenNames x; (refine Lasting.cut a x ?_ ?_; (on_goal 1 => (unfold x; clear x)); (on_goal 2 => (intro _; clear_value x))))
    | with_reducible apply hostWrite_lasting
    | with_reducible apply note_lasting
    | with_reducible apply sendMsix_lasting
    | split)

theorem owedDump_lasting {a s : State} (p : Nat) (ha : Lasting a s) : Lasting a (owedDump p s) := by
  unfold owedDump
  repeat' (first
    | with_reducible assumption
    | with_reducible apply dumpInto_lasting
    | split)

theorem dropHalves_lasting {a s : State} (p : Nat) (ha : Lasting a s) : Lasting a (dropHalves p s) := by
  unfold dropHalves
  repeat' (first
    | with_reducible assumption
    | fail_if_no_progress with_reducible refine Lasting.lit rfl ?_ rfl rfl rfl rfl rfl rfl rfl rfl rfl rfl)

theorem execPartResetDone_lasting {a s : State} (p : Fin 256) (ha : Lasting a s) : Lasts a (execPartResetDone p s) := by
  unfold execPartResetDone
  repeat' (first
    | with_reducible assumption
    | (extract_lets +onlyGivenNames x; (refine Lasting.cut a x ?_ ?_; (on_goal 1 => (unfold x; clear x)); (on_goal 2 => (intro _; clear_value x))))
    | with_reducible apply dropHalves_lasting
    | with_reducible apply owedDump_lasting
    | with_reducible apply resetRings_lasting
    | with_reducible apply modPart_lasting
    | with_reducible apply note_lasting
    | with_reducible apply partErrMsix_lasting
    | with_reducible apply Lasts.done
    | split
    | fail_if_no_progress with_reducible refine Lasting.lit rfl ?_ rfl rfl rfl rfl rfl rfl rfl rfl rfl rfl)

theorem beginDestroy_lasting {a s : State} (p : Nat) (ha : Lasting a s) : Lasting a (beginDestroy p s) := by
  unfold beginDestroy
  repeat' (first
    | with_reducible assumption
    | with_reducible apply stopPart_lasting
    | with_reducible apply modPart_lasting)

theorem partDestroyRun_lasting {a : State} (j : Job) : CmdLasts a ((partDestroyRun j) : Cmd Run) := by
  unfold partDestroyRun
  repeat' (first
    | with_reducible assumption
    | with_reducible apply CmdLasts.bindGet
    | with_reducible apply CmdLasts.bind
    | with_reducible apply CmdLasts.pure
    | with_reducible apply CmdLasts.modify
    | (intro _)
    | with_reducible apply CmdLasts.hold
    | with_reducible apply CmdLasts.need
    | with_reducible apply judge_lasting
    | with_reducible apply beginDestroy_lasting
    | split)

theorem execPartDestroy_lasting {a s : State} (seq : Nat) (ha : Lasting a s) : Lasts a (execPartDestroy seq s) := by
  unfold execPartDestroy
  repeat' (first
    | with_reducible assumption
    | with_reducible apply runOp_lasting
    | with_reducible apply partDestroyRun_lasting
    | with_reducible apply Lasts.done)

theorem beginFreeze_lasting {a s : State} (p : Nat) (ha : Lasting a s) : Lasting a (beginFreeze p s) := by
  unfold beginFreeze
  repeat' (first
    | with_reducible assumption
    | (extract_lets +onlyGivenNames x; (refine Lasting.cut a x ?_ ?_; (on_goal 1 => (unfold x; clear x)); (on_goal 2 => (intro _; clear_value x))))
    | with_reducible apply modPart_lasting
    | with_reducible apply endJobs_lasting)

theorem partFreezeRun_lasting {a : State} (j : Job) : CmdLasts a ((partFreezeRun j) : Cmd Run) := by
  unfold partFreezeRun
  repeat' (first
    | with_reducible assumption
    | with_reducible apply CmdLasts.bindGet
    | with_reducible apply CmdLasts.bind
    | with_reducible apply CmdLasts.pure
    | with_reducible apply CmdLasts.modify
    | (intro _)
    | with_reducible apply CmdLasts.of
    | with_reducible apply CmdLasts.need
    | with_reducible apply beginFreeze_lasting
    | with_reducible apply CmdLasts.hold
    | split)

theorem execPartFreeze_lasting {a s : State} (seq : Nat) (ha : Lasting a s) : Lasts a (execPartFreeze seq s) := by
  unfold execPartFreeze
  repeat' (first
    | with_reducible assumption
    | with_reducible apply runOp_lasting
    | with_reducible apply partFreezeRun_lasting
    | with_reducible apply Lasts.done)

theorem partThawRun_lasting {a : State} (j : Job) : CmdLasts a ((partThawRun j) : Cmd Run) := by
  unfold partThawRun
  repeat' (first
    | with_reducible apply CmdLasts.bindGet
    | with_reducible apply CmdLasts.bind
    | with_reducible apply CmdLasts.pure
    | (intro _)
    | with_reducible apply CmdLasts.of
    | with_reducible apply CmdLasts.need)

theorem execPartThaw_lasting {a s : State} (seq : Nat) (ha : Lasting a s) : Lasts a (execPartThaw seq s) := by
  unfold execPartThaw
  repeat' (first
    | with_reducible assumption
    | with_reducible apply runOp_lasting
    | with_reducible apply partThawRun_lasting
    | with_reducible apply Lasts.done)

theorem needFrozen_lasting {a : State} (j : Job) : CmdLasts a ((needFrozen j) : Cmd VaultPart) := by
  unfold needFrozen
  repeat' (first
    | with_reducible apply CmdLasts.bindGet
    | with_reducible apply CmdLasts.bind
    | with_reducible apply CmdLasts.pure
    | (intro _)
    | with_reducible apply CmdLasts.need)

theorem modMigr_lasting {a s : State} (p : Nat) (f : Migration → Migration) (ha : Lasting a s) : Lasting a (modMigr p f s) := by
  unfold modMigr
  repeat' (first
    | with_reducible assumption
    | with_reducible apply modPart_lasting)

theorem partSaveRun_lasting {a : State} (j : Job) : CmdLasts a ((partSaveRun j) : Cmd Run) := by
  unfold partSaveRun
  repeat' (first
    | with_reducible assumption
    | with_reducible apply CmdLasts.bindGet
    | with_reducible apply CmdLasts.bind
    | with_reducible apply CmdLasts.pure
    | with_reducible apply CmdLasts.modify
    | (intro _)
    | with_reducible apply needFrozen_lasting
    | with_reducible apply CmdLasts.need
    | with_reducible apply CmdLasts.some
    | with_reducible apply draw_lasting
    | with_reducible apply drawScalar_lasting
    | with_reducible apply readClock_lasting
    | with_reducible apply hybridSign_lasting
    | with_reducible apply modMigr_lasting)

theorem execPartSaveSave_lasting {a s : State} (seq : Nat) (ha : Lasting a s) : Lasts a (execPartSaveSave seq s) := by
  unfold execPartSaveSave
  repeat' (first
    | with_reducible assumption
    | with_reducible apply runOp_lasting
    | with_reducible apply partSaveRun_lasting
    | with_reducible apply Lasts.done)

theorem signSlip_lasting {a : State} (type : Nat) (j : Job) (other : Bytes) (nonce : Bytes) (dig : Bytes) : CmdLasts a ((signSlip type j other nonce dig) : Cmd Bytes) := by
  unfold signSlip
  repeat' (first
    | with_reducible apply CmdLasts.bindGet
    | with_reducible apply CmdLasts.bind
    | with_reducible apply CmdLasts.pure
    | (intro _)
    | with_reducible apply readClock_lasting
    | with_reducible apply hybridSign_lasting)

theorem partReleaseRun_lasting {a : State} (j : Job) : CmdLasts a ((partReleaseRun j) : Cmd Run) := by
  unfold partReleaseRun
  repeat' (first
    | with_reducible apply CmdLasts.bindGet
    | with_reducible apply CmdLasts.bind
    | with_reducible apply CmdLasts.pure
    | (intro _)
    | with_reducible apply needFrozen_lasting
    | with_reducible apply CmdLasts.some
    | with_reducible apply CmdLasts.need
    | with_reducible apply signSlip_lasting)

theorem execPartSaveRelease_lasting {a s : State} (seq : Nat) (ha : Lasting a s) : Lasts a (execPartSaveRelease seq s) := by
  unfold execPartSaveRelease
  repeat' (first
    | with_reducible assumption
    | with_reducible apply runOp_lasting
    | with_reducible apply partReleaseRun_lasting
    | with_reducible apply Lasts.done)

theorem partReissueRun_lasting {a : State} (j : Job) : CmdLasts a ((partReissueRun j) : Cmd Run) := by
  unfold partReissueRun
  repeat' (first
    | with_reducible apply CmdLasts.bindGet
    | with_reducible apply CmdLasts.bind
    | with_reducible apply CmdLasts.pure
    | (intro _)
    | with_reducible apply CmdLasts.some
    | with_reducible apply CmdLasts.need
    | with_reducible apply signSlip_lasting)

theorem execPartSaveReissue_lasting {a s : State} (seq : Nat) (ha : Lasting a s) : Lasts a (execPartSaveReissue seq s) := by
  unfold execPartSaveReissue
  repeat' (first
    | with_reducible assumption
    | with_reducible apply runOp_lasting
    | with_reducible apply partReissueRun_lasting
    | with_reducible apply Lasts.done)

theorem partOfferRun_lasting {a : State} (j : Job) : CmdLasts a ((partOfferRun j) : Cmd Run) := by
  unfold partOfferRun
  repeat' (first
    | with_reducible assumption
    | with_reducible apply CmdLasts.bindGet
    | with_reducible apply CmdLasts.bind
    | with_reducible apply CmdLasts.pure
    | with_reducible apply CmdLasts.modify
    | (intro _)
    | with_reducible apply needFrozen_lasting
    | with_reducible apply CmdLasts.some
    | with_reducible apply CmdLasts.need
    | with_reducible apply draw_lasting
    | with_reducible apply drawScalar_lasting
    | with_reducible apply share_lasting
    | with_reducible apply hybridSign_lasting
    | with_reducible apply modMigr_lasting)

theorem execPartRestoreOffer_lasting {a s : State} (seq : Nat) (ha : Lasting a s) : Lasts a (execPartRestoreOffer seq s) := by
  unfold execPartRestoreOffer
  repeat' (first
    | with_reducible assumption
    | with_reducible apply runOp_lasting
    | with_reducible apply partOfferRun_lasting
    | with_reducible apply Lasts.done)

theorem partRestoreRun_lasting {a : State} (j : Job) : CmdLasts a ((partRestoreRun j) : Cmd Run) := by
  unfold partRestoreRun
  repeat' (first
    | with_reducible assumption
    | with_reducible apply CmdLasts.bindGet
    | with_reducible apply CmdLasts.bind
    | with_reducible apply CmdLasts.pure
    | with_reducible apply CmdLasts.modify
    | (intro _)
    | with_reducible apply needFrozen_lasting
    | with_reducible apply CmdLasts.some
    | with_reducible apply CmdLasts.need
    | with_reducible apply judge_lasting
    | with_reducible apply CmdLasts.of
    | with_reducible apply signSlip_lasting
    | with_reducible apply modMigr_lasting)

theorem execPartRestoreRestore_lasting {a s : State} (seq : Nat) (ha : Lasting a s) : Lasts a (execPartRestoreRestore seq s) := by
  unfold execPartRestoreRestore
  repeat' (first
    | with_reducible assumption
    | with_reducible apply runOp_lasting
    | with_reducible apply partRestoreRun_lasting
    | with_reducible apply Lasts.done)

theorem partActivateRun_lasting {a : State} (j : Job) : CmdLasts a ((partActivateRun j) : Cmd Run) := by
  unfold partActivateRun
  repeat' (first
    | with_reducible apply CmdLasts.bindGet
    | with_reducible apply CmdLasts.bind
    | with_reducible apply CmdLasts.pure
    | (intro _)
    | with_reducible apply needFrozen_lasting
    | with_reducible apply CmdLasts.some
    | with_reducible apply CmdLasts.need)

theorem execPartRestoreActivate_lasting {a s : State} (seq : Nat) (ha : Lasting a s) : Lasts a (execPartRestoreActivate seq s) := by
  unfold execPartRestoreActivate
  repeat' (first
    | with_reducible assumption
    | with_reducible apply runOp_lasting
    | with_reducible apply partActivateRun_lasting
    | with_reducible apply Lasts.done)

theorem partAbortRun_lasting {a : State} (j : Job) : CmdLasts a ((partAbortRun j) : Cmd Run) := by
  unfold partAbortRun
  repeat' (first
    | with_reducible apply CmdLasts.bind
    | with_reducible apply CmdLasts.pure
    | (intro _)
    | with_reducible apply needFrozen_lasting
    | with_reducible apply CmdLasts.some
    | with_reducible apply judge_lasting
    | with_reducible apply CmdLasts.need
    | split)

theorem execPartRestoreAbort_lasting {a s : State} (seq : Nat) (ha : Lasting a s) : Lasts a (execPartRestoreAbort seq s) := by
  unfold execPartRestoreAbort
  repeat' (first
    | with_reducible assumption
    | with_reducible apply runOp_lasting
    | with_reducible apply partAbortRun_lasting
    | with_reducible apply Lasts.done)

theorem dmaOn_lasting {a s : State} (p : Nat) (ha : Lasting a s) : Lasting a (dmaOn p s) := by
  unfold dmaOn
  repeat' (first
    | with_reducible assumption
    | with_reducible apply progressAll_lasting
    | with_reducible apply flushHeld_lasting)

theorem execBusMasterEnableClear_lasting {a s : State} (p : Fin 256) (ha : Lasting a s) : Lasts a (execBusMasterEnableClear p s) := by
  unfold execBusMasterEnableClear
  repeat' (first
    | with_reducible assumption
    | with_reducible apply modPart_lasting
    | with_reducible apply Lasts.done)

theorem execBusMasterEnableSet_lasting {a s : State} (p : Fin 256) (ha : Lasting a s) : Lasts a (execBusMasterEnableSet p s) := by
  unfold execBusMasterEnableSet
  repeat' (first
    | with_reducible assumption
    | with_reducible apply dmaOn_lasting
    | with_reducible apply modPart_lasting
    | with_reducible apply Lasts.done)

theorem execD3hotEntry_lasting {a s : State} (p : Fin 256) (ha : Lasting a s) : Lasts a (execD3hotEntry p s) := by
  unfold execD3hotEntry
  repeat' (first
    | with_reducible assumption
    | with_reducible apply modPart_lasting
    | with_reducible apply Lasts.done)

theorem execD3hotExit_lasting {a s : State} (p : Fin 256) (ha : Lasting a s) : Lasts a (execD3hotExit p s) := by
  unfold execD3hotExit
  repeat' (first
    | with_reducible assumption
    | with_reducible apply dmaOn_lasting
    | with_reducible apply modPart_lasting
    | with_reducible apply Lasts.done)

end Sys2Proof.Machine
end

