-- ==== Sys2Proof/Laws/LastReset.lean ====
section
/-!
SUPPORT. What the operations of Machine/Reset.lean keep (Lasting.lean), one lemma each.
-/
set_option linter.all false
namespace Sys2Proof.Machine

theorem stopWriting_lasting {a s : State} (ha : Lasting a s) : Lasting a (stopWriting s) := by
  unfold stopWriting
  repeat' (first
    | with_reducible assumption
    | (extract_lets +onlyGivenNames x; (have : Nv := x; clear this; unfold x; clear x))
    | split
    | fail_if_no_progress with_reducible refine Lasting.lit rfl ?_ rfl rfl rfl rfl rfl rfl rfl rfl rfl rfl)

theorem coldMain_lasting {a s : State} (ha : Lasting a s) : Lasting a (coldMain s) := by
  have h1 := stopWriting_lasting ha
  exact { h1 with ring := fun _ => rfl }

theorem beginStart_lasting {a s : State} (posB : Bool) (fuseOk : Bool) (pufOk : Bool) (ha : Lasting a s) : Lasting a (beginStart posB fuseOk pufOk s) := by
  unfold beginStart
  repeat' (first
    | with_reducible assumption
    | (extract_lets +onlyGivenNames x; (have : TimeBlk := x; clear this; unfold x; clear x))
    | fail_if_no_progress with_reducible refine Lasting.lit rfl ?_ rfl rfl rfl rfl rfl rfl rfl rfl rfl rfl)

theorem restart_lasting {a s : State} (ha : Lasting a s) : Lasting a (restart s) := by
  unfold restart
  repeat' (first
    | with_reducible assumption
    | with_reducible apply beginStart_lasting
    | with_reducible apply coldMain_lasting)

theorem closeDebug_lasting {a s : State} (cause : Nat) (ha : Lasting a s) : Lasting a (closeDebug cause s) := by
  unfold closeDebug
  repeat' (first
    | with_reducible assumption
    | (extract_lets +onlyGivenNames x; (first | (refine Lasting.cut a x ?_ ?_; (on_goal 1 => (unfold x; clear x)); (on_goal 2 => (intro _; clear_value x))) | (unfold x; clear x)))
    | with_reducible apply note_lasting
    | with_reducible apply restart_lasting
    | split
    | fail_if_no_progress with_reducible refine Lasting.lit rfl ?_ rfl rfl rfl rfl rfl rfl rfl rfl rfl rfl)

theorem burnOnce_lasting {a s : State} (ha : Lasting a s) : Lasting a (burnOnce s) := by
  unfold burnOnce
  dsimp only
  split
  · exact ha
  · exact { ha with
      otpA := fun i h => by simp only [BitVec.getLsbD_or, ha.otpA i h, Bool.true_or]
      otpB := fun i h => by simp only [BitVec.getLsbD_or, ha.otpB i h, Bool.true_or] }

theorem noteBurn_lasting {a s : State} (cause : Nat) (ha : Lasting a s) : Lasting a (noteBurn cause s) := by
  unfold noteBurn
  repeat' (first
    | with_reducible assumption
    | with_reducible apply note_lasting)

theorem evWrite_lasting {a s : State} (e : Evidence) (ha : Lasting a s) : Lasting a (evWrite e s) := by
  unfold evWrite
  repeat' (first
    | with_reducible assumption
    | (extract_lets +onlyGivenNames x; (have : Nv := x; clear this; unfold x; clear x))
    | split
    | fail_if_no_progress with_reducible refine Lasting.lit rfl ?_ rfl rfl rfl rfl rfl rfl rfl rfl rfl rfl)

end Sys2Proof.Machine
end

