-- ==== Sys2Proof/Laws/LastTamper.lean ====
section
/-!
SUPPORT. What the operations of Machine/Tamper.lean keep (Lasting.lean), one lemma each.
-/
set_option linter.all false
namespace Sys2Proof.Machine

theorem policyTamperRun_lasting {a : State} (j : Job) : CmdLasts a ((policyTamperRun j) : Cmd Run) := by
  unfold policyTamperRun
  repeat' (first
    | with_reducible apply CmdLasts.bind
    | with_reducible apply CmdLasts.pure
    | (intro _)
    | with_reducible apply CmdLasts.need
    | with_reducible apply judge_lasting)

theorem execPolicySetTamper_lasting {a s : State} (seq : Nat) (ha : Lasting a s) : Lasts a (execPolicySetTamper seq s) := by
  unfold execPolicySetTamper
  repeat' (first
    | with_reducible assumption
    | with_reducible apply runOp_lasting
    | with_reducible apply policyTamperRun_lasting
    | with_reducible apply Lasts.done)

theorem endCommitting_lasting {a s : State} (ha : Lasting a s) : Lasting a (endCommitting s) := by
  unfold endCommitting
  repeat' (first
    | with_reducible assumption
    | with_reducible apply endJobs_lasting)

theorem zeroiseWorking_lasting {a s : State} (ha : Lasting a s) : Lasting a (zeroiseWorking s) := by
  unfold zeroiseWorking
  repeat' (first
    | with_reducible assumption
    | (extract_lets +onlyGivenNames x; (refine Lasting.cut a x ?_ ?_; (on_goal 1 => (unfold x; clear x)); (on_goal 2 => (intro _; clear_value x))))
    | with_reducible apply dropForwarded_lasting
    | with_reducible apply endCommitting_lasting
    | with_reducible apply endJobs_lasting
    | fail_if_no_progress with_reducible refine Lasting.lit rfl ?_ rfl rfl rfl rfl rfl rfl rfl rfl rfl rfl)

theorem zeroiseVault_lasting {a s : State} (ha : Lasting a s) : Lasting a (zeroiseVault s) := by
  unfold zeroiseVault
  repeat' (first
    | with_reducible assumption
    | (extract_lets +onlyGivenNames x; (have : Nv := x; clear this; unfold x; clear x))
    | fail_if_no_progress with_reducible refine Lasting.lit rfl ?_ rfl rfl rfl rfl rfl rfl rfl rfl rfl rfl)

theorem zeroise_lasting {a s : State} (scope : Nat) (cause : Nat) (ha : Lasting a s) : Lasting a (zeroise scope cause s) := by
  unfold zeroise
  repeat' (first
    | with_reducible assumption
    | (extract_lets +onlyGivenNames x; (refine Lasting.cut a x ?_ ?_; (on_goal 1 => (unfold x; clear x)); (on_goal 2 => (intro _; clear_value x))))
    | with_reducible apply zeroiseVault_lasting
    | with_reducible apply detach_lasting
    | with_reducible apply zeroiseWorking_lasting
    | split
    | fail_if_no_progress with_reducible refine Lasting.lit rfl ?_ rfl rfl rfl rfl rfl rfl rfl rfl rfl rfl)

theorem execZeroiseReadbackDone_lasting {a s : State} (ok : Bool) (ha : Lasting a s) : Lasts a (execZeroiseReadbackDone ok s) := by
  unfold execZeroiseReadbackDone
  repeat' (first
    | with_reducible assumption
    | (extract_lets +onlyGivenNames x; (refine Lasting.cut a x ?_ ?_; (on_goal 1 => (unfold x; clear x)); (on_goal 2 => (intro _; clear_value x))))
    | with_reducible apply note_lasting
    | with_reducible apply tarnOpen_lasting
    | with_reducible apply Lasts.done
    | split
    | fail_if_no_progress with_reducible refine Lasting.lit rfl ?_ rfl rfl rfl rfl rfl rfl rfl rfl rfl rfl)

theorem applyResponse_lasting {a s : State} (r : Nat) (ha : Lasting a s) : Lasting a (applyResponse r s) := by
  unfold applyResponse
  repeat' (first
    | with_reducible assumption
    | (extract_lets +onlyGivenNames x; (refine Lasting.cut a x ?_ ?_; (on_goal 1 => (unfold x; clear x)); (on_goal 2 => (intro _; clear_value x))))
    | with_reducible apply giveUpRole_lasting
    | with_reducible apply suspendJobs_lasting
    | with_reducible apply zeroise_lasting
    | split
    | fail_if_no_progress with_reducible refine Lasting.lit rfl ?_ rfl rfl rfl rfl rfl rfl rfl rfl rfl rfl)

theorem respond_lasting {a s : State} (r : Nat) (ha : Lasting a s) : Lasting a (respond r s) := by
  unfold respond
  repeat' (first
    | with_reducible assumption
    | (extract_lets +onlyGivenNames x; (refine Lasting.cut a x ?_ ?_; (on_goal 1 => (unfold x; clear x)); (on_goal 2 => (intro _; clear_value x))))
    | with_reducible apply applyResponse_lasting
    | with_reducible apply closeDebug_lasting
    | split)

theorem tamperEvent_lasting {a s : State} (reg : Nat) (conf : Nat) (ev : Nat → Nat → Nat × List Nat) (ha : Lasting a s) : Lasting a (tamperEvent reg conf ev s) := by
  unfold tamperEvent
  repeat' (first
    | with_reducible assumption
    | (extract_lets +onlyGivenNames x; (first | (refine Lasting.cut a x ?_ ?_; (on_goal 1 => (unfold x; clear x)); (on_goal 2 => (intro _; clear_value x))) | (have : Nv := x; clear this; unfold x; clear x) | (unfold x; clear x)))
    | with_reducible apply evWrite_lasting
    | with_reducible apply burnOnce_lasting
    | with_reducible apply note_lasting
    | with_reducible apply noteBurn_lasting
    | with_reducible apply respond_lasting
    | with_reducible apply sendMsix_lasting
    | with_reducible apply zeroise_lasting
    | split
    | fail_if_no_progress with_reducible refine Lasting.lit rfl ?_ rfl rfl rfl rfl rfl rfl rfl rfl rfl rfl)

theorem modMon_lasting {a s : State} (m : Nat) (f : Monitor → Monitor) (ha : Lasting a s) : Lasting a (modMon m f s) := by
  unfold modMon
  repeat' (first
    | with_reducible assumption
    | fail_if_no_progress with_reducible refine Lasting.lit rfl ?_ rfl rfl rfl rfl rfl rfl rfl rfl rfl rfl)

theorem execMonitorExcursion_lasting {a s : State} (monitor : Fin 5) (detA : Bool) (detB : Bool) (ha : Lasting a s) : Lasts a (execMonitorExcursion monitor detA detB s) := by
  unfold execMonitorExcursion
  repeat' (first
    | with_reducible assumption
    | (extract_lets +onlyGivenNames x; (unfold x; clear x))
    | with_reducible apply modMon_lasting
    | with_reducible apply tamperEvent_lasting
    | with_reducible apply Lasts.done
    | split)

theorem monitorFault_lasting {a s : State} (m : Nat) (det : Nat) (ms : Nat) (ha : Lasting a s) : Lasting a (monitorFault m det ms s) := by
  unfold monitorFault
  repeat' (first
    | with_reducible assumption
    | (extract_lets +onlyGivenNames x; (refine Lasting.cut a x ?_ ?_; (on_goal 1 => (unfold x; clear x)); (on_goal 2 => (intro _; clear_value x))))
    | with_reducible apply tamperEvent_lasting
    | split
    | fail_if_no_progress with_reducible refine Lasting.lit rfl ?_ rfl rfl rfl rfl rfl rfl rfl rfl rfl rfl)

theorem execDetectorDisagreement_lasting {a s : State} (monitor : Fin 6) (detA : Bool) (ha : Lasting a s) : Lasts a (execDetectorDisagreement monitor detA s) := by
  unfold execDetectorDisagreement
  repeat' (first
    | with_reducible assumption
    | (extract_lets +onlyGivenNames x; (unfold x; clear x))
    | with_reducible apply monitorFault_lasting
    | with_reducible apply modMon_lasting
    | with_reducible apply Lasts.done
    | split)

theorem execTamperClockFault_lasting {a s : State} (clockB : Bool) (ha : Lasting a s) : Lasts a (execTamperClockFault clockB s) := by
  unfold execTamperClockFault
  repeat' (first
    | with_reducible assumption
    | with_reducible apply monitorFault_lasting
    | with_reducible apply Lasts.done
    | split
    | fail_if_no_progress with_reducible refine Lasting.lit rfl ?_ rfl rfl rfl rfl rfl rfl rfl rfl rfl rfl)

theorem setCell_lasting {a s : State} (b : Bool) (c : Cell) (ha : Lasting a s) : Lasting a (setCell b c s) := by
  unfold setCell
  repeat' (first
    | with_reducible assumption
    | fail_if_no_progress with_reducible refine Lasting.lit rfl ?_ rfl rfl rfl rfl rfl rfl rfl rfl rfl rfl)

theorem noteCell_lasting {a s : State} (b : Bool) (what : Nat) (ha : Lasting a s) : Lasting a (noteCell b what s) := by
  unfold noteCell
  repeat' (first
    | with_reducible assumption
    | with_reducible apply note_lasting
    | split)

theorem bayTrips_lasting {a s : State} (ha : Lasting a s) : Lasting a (bayTrips s) := by
  unfold bayTrips
  repeat' (first
    | with_reducible assumption
    | with_reducible apply modMon_lasting)

theorem bothAbsent_lasting {a s : State} (ha : Lasting a s) : Lasting a (bothAbsent s) := by
  unfold bothAbsent
  repeat' (first
    | with_reducible assumption
    | (extract_lets +onlyGivenNames x; (refine Lasting.cut a x ?_ ?_; (on_goal 1 => (unfold x; clear x)); (on_goal 2 => (intro _; clear_value x))))
    | with_reducible apply tamperEvent_lasting
    | split
    | fail_if_no_progress with_reducible refine Lasting.lit rfl ?_ rfl rfl rfl rfl rfl rfl rfl rfl rfl rfl)

theorem oneAbsent_lasting {a s : State} (ha : Lasting a s) : Lasting a (oneAbsent s) := by
  unfold oneAbsent
  repeat' (first
    | with_reducible assumption
    | with_reducible apply tamperEvent_lasting)

theorem execCellRemoval_lasting {a s : State} (cellB : Bool) (ha : Lasting a s) : Lasts a (execCellRemoval cellB s) := by
  unfold execCellRemoval
  repeat' (first
    | with_reducible assumption
    | (extract_lets +onlyGivenNames x; (refine Lasting.cut a x ?_ ?_; (on_goal 1 => (unfold x; clear x)); (on_goal 2 => (intro _; clear_value x))))
    | with_reducible apply bayTrips_lasting
    | with_reducible apply setCell_lasting
    | with_reducible apply noteCell_lasting
    | with_reducible apply bothAbsent_lasting
    | with_reducible apply tamperEvent_lasting
    | with_reducible apply oneAbsent_lasting
    | with_reducible apply Lasts.done
    | split)

theorem execCellInsertion_lasting {a s : State} (cellB : Bool) (volts : Byte) (ha : Lasting a s) : Lasts a (execCellInsertion cellB volts s) := by
  unfold execCellInsertion
  repeat' (first
    | with_reducible assumption
    | (extract_lets +onlyGivenNames x; (refine Lasting.cut a x ?_ ?_; (on_goal 1 => (unfold x; clear x)); (on_goal 2 => (intro _; clear_value x))))
    | with_reducible apply setCell_lasting
    | with_reducible apply noteCell_lasting
    | with_reducible apply bayTrips_lasting
    | with_reducible apply Lasts.done
    | split
    | fail_if_no_progress with_reducible refine Lasting.lit rfl ?_ rfl rfl rfl rfl rfl rfl rfl rfl rfl rfl)

theorem judgeCell_lasting {a s : State} (b : Bool) (ha : Lasting a s) : Lasting a (judgeCell b s) := by
  unfold judgeCell
  repeat' (first
    | with_reducible assumption
    | (extract_lets +onlyGivenNames x; (first | (refine Lasting.cut a x ?_ ?_; (on_goal 1 => (unfold x; clear x)); (on_goal 2 => (intro _; clear_value x))) | (unfold x; clear x)))
    | with_reducible apply setCell_lasting
    | with_reducible apply note_lasting
    | split)

theorem execCellSettled_lasting {a s : State} (cellB : Bool) (ha : Lasting a s) : Lasts a (execCellSettled cellB s) := by
  unfold execCellSettled
  repeat' (first
    | with_reducible assumption
    | (extract_lets +onlyGivenNames x; (unfold x; clear x))
    | with_reducible apply judgeCell_lasting
    | with_reducible apply Lasts.done
    | split)

theorem execCellLow_lasting {a s : State} (cellB : Bool) (volts : Byte) (ha : Lasting a s) : Lasts a (execCellLow cellB volts s) := by
  unfold execCellLow
  repeat' (first
    | with_reducible assumption
    | (extract_lets +onlyGivenNames x; (unfold x; clear x))
    | with_reducible apply judgeCell_lasting
    | with_reducible apply setCell_lasting
    | with_reducible apply Lasts.done
    | split)

theorem execCellWindowExpiry_lasting {a s : State} (ha : Lasting a s) : Lasts a (execCellWindowExpiry s) := by
  unfold execCellWindowExpiry
  repeat' (first
    | with_reducible assumption
    | (extract_lets +onlyGivenNames x; (refine Lasting.cut a x ?_ ?_; (on_goal 1 => (unfold x; clear x)); (on_goal 2 => (intro _; clear_value x))))
    | with_reducible apply note_lasting
    | with_reducible apply oneAbsent_lasting
    | with_reducible apply Lasts.done
    | split
    | fail_if_no_progress with_reducible refine Lasting.lit rfl ?_ rfl rfl rfl rfl rfl rfl rfl rfl rfl rfl)

theorem execHoldupExpiry_lasting {a s : State} (ha : Lasting a s) : Lasts a (execHoldupExpiry s) := by
  unfold execHoldupExpiry
  repeat' (first
    | with_reducible assumption
    | with_reducible apply Lasts.done
    | split
    | fail_if_no_progress with_reducible refine Lasting.lit rfl ?_ rfl rfl rfl rfl rfl rfl rfl rfl rfl rfl)

theorem execTmpCtrlResume_lasting {a s : State} (ha : Lasting a s) : Lasts a (execTmpCtrlResume s) := by
  unfold execTmpCtrlResume
  repeat' (first
    | with_reducible assumption
    | with_reducible apply openTo_lasting
    | with_reducible apply note_lasting
    | with_reducible apply Lasts.done
    | split
    | fail_if_no_progress with_reducible refine Lasting.lit rfl ?_ rfl rfl rfl rfl rfl rfl rfl rfl rfl rfl)

theorem execTmpCtrlEvregClear_lasting {a s : State} (ha : Lasting a s) : Lasts a (execTmpCtrlEvregClear s) := by
  unfold execTmpCtrlEvregClear
  repeat' (first
    | with_reducible assumption
    | (extract_lets +onlyGivenNames x; (have : Nv := x; clear this; unfold x; clear x))
    | with_reducible apply openTo_lasting
    | with_reducible apply Lasts.done
    | fail_if_no_progress with_reducible refine Lasting.lit rfl ?_ rfl rfl rfl rfl rfl rfl rfl rfl rfl rfl)

theorem execTmpEvregDataRead_lasting {a s : State} (word : Fin 4) (ha : Lasting a s) : Lasts a (execTmpEvregDataRead word s) := by
  unfold execTmpEvregDataRead
  repeat' (first
    | with_reducible assumption
    | (extract_lets +onlyGivenNames x; (first | (refine Lasting.cut a x ?_ ?_; (on_goal 1 => (unfold x; clear x)); (on_goal 2 => (intro _; clear_value x))) | (have : Nv := x; clear this; unfold x; clear x)))
    | with_reducible apply emit_lasting
    | with_reducible apply Lasts.done
    | split
    | fail_if_no_progress with_reducible refine Lasting.lit rfl ?_ rfl rfl rfl rfl rfl rfl rfl rfl rfl rfl)

end Sys2Proof.Machine
end

