-- ==== Sys2Proof/Laws/LastGuard.lean ====
section
/-!
SUPPORT. What the operations of Machine/Guard.lean keep (Lasting.lean), one lemma each.
-/
set_option linter.all false
namespace Sys2Proof.Machine

theorem modTarn_lasting {a s : State} (f : Tarn → Tarn) (ha : Lasting a s) : Lasting a (modTarn f s) := by
  unfold modTarn
  repeat' (first
    | with_reducible assumption
    | fail_if_no_progress with_reducible refine Lasting.lit rfl ?_ rfl rfl rfl rfl rfl rfl rfl rfl rfl rfl)

theorem raiseTo_lasting {a s : State} (n : Nat) (lvl : Nat) (ha : Lasting a s) : Lasting a (raiseTo n lvl s) := by
  unfold raiseTo
  repeat' (first
    | with_reducible assumption
    | (extract_lets +onlyGivenNames x; (refine Lasting.cut a x ?_ ?_; (on_goal 1 => (unfold x; clear x)); (on_goal 2 => (intro _; clear_value x))))
    | with_reducible apply modSrc_lasting
    | with_reducible apply note_lasting
    | with_reducible apply sendMsix_lasting
    | with_reducible apply severityEffects_lasting
    | split)

theorem execTarnEscalation_lasting {a s : State} (source : Fin 60) (ha : Lasting a s) : Lasts a (execTarnEscalation source s) := by
  unfold execTarnEscalation
  repeat' (first
    | with_reducible assumption
    | (extract_lets +onlyGivenNames x; (first | (refine Lasting.cut a x ?_ ?_; (on_goal 1 => (unfold x; clear x)); (on_goal 2 => (intro _; clear_value x))) | (unfold x; clear x)))
    | with_reducible apply sendMsix_lasting
    | with_reducible apply note_lasting
    | with_reducible apply raiseTo_lasting
    | with_reducible apply modSrc_lasting
    | with_reducible apply Lasts.done
    | split)

theorem clearSrc_lasting {a s : State} (n : Nat) (ha : Lasting a s) : Lasting a (clearSrc s n) := by
  unfold clearSrc
  repeat' (first
    | with_reducible assumption
    | (extract_lets +onlyGivenNames x; (refine Lasting.cut a x ?_ ?_; (on_goal 1 => (unfold x; clear x)); (on_goal 2 => (intro _; clear_value x))))
    | with_reducible apply note_lasting
    | with_reducible apply modSrc_lasting
    | split
    | fail_if_no_progress with_reducible refine Lasting.lit rfl ?_ rfl rfl rfl rfl rfl rfl rfl rfl rfl rfl)

theorem errNormal_lasting {a s : State} (ha : Lasting a s) : Lasting a (errNormal s) := by
  unfold errNormal
  repeat' (first
    | with_reducible assumption
    | with_reducible apply modTarn_lasting
    | split)

theorem execTarnStatusClear_lasting {a s : State} (mask : W64) (gone : W64) (ha : Lasting a s) : Lasts a (execTarnStatusClear mask gone s) := by
  unfold execTarnStatusClear
  repeat' (first
    | with_reducible assumption
    | (extract_lets +onlyGivenNames x; (refine Lasting.cut a x ?_ ?_; (on_goal 1 => (unfold x; clear x)); (on_goal 2 => (intro _; clear_value x))))
    | with_reducible apply openTo_lasting
    | with_reducible apply modTarn_lasting
    | with_reducible apply clearSrc_lasting
    | with_reducible apply note_lasting
    | with_reducible apply errNormal_lasting
    | with_reducible apply Lasts.done
    | with_reducible apply Lasting.foldl
    | split)

theorem execTarnSevWrite_lasting {a s : State} (high : Bool) (value : W64) (ha : Lasting a s) : Lasts a (execTarnSevWrite high value s) := by
  unfold execTarnSevWrite
  repeat' (first
    | with_reducible assumption
    | (intro _)
    | (extract_lets +onlyGivenNames x; (first | (refine Lasting.cut a x ?_ ?_; (on_goal 1 => (unfold x; clear x)); (on_goal 2 => (intro _; clear_value x))) | (unfold x; clear x)))
    | with_reducible apply openTo_lasting
    | with_reducible apply accError_lasting
    | with_reducible apply modTarn_lasting
    | with_reducible apply raiseTo_lasting
    | with_reducible apply note_lasting
    | with_reducible apply Lasts.done
    | with_reducible apply Lasting.foldl
    | split)

theorem execTarnInject_lasting {a s : State} (value : W32) (ha : Lasting a s) : Lasts a (execTarnInject value s) := by
  unfold execTarnInject
  repeat' (first
    | with_reducible assumption
    | (extract_lets +onlyGivenNames x; (unfold x; clear x))
    | with_reducible apply openTo_lasting
    | with_reducible apply tarnOpen_lasting
    | with_reducible apply note_lasting
    | with_reducible apply Lasts.done
    | split)

theorem raiseC_lasting {a s : State} (n : Nat) (kind : Nat) (unit : Nat) (info : W32) (ha : Lasting a s) : Lasting a (raiseC n kind unit info s) := by
  unfold raiseC
  repeat' (first
    | with_reducible assumption
    | with_reducible apply tarnRaise_lasting
    | with_reducible apply modTarn_lasting)

theorem execErrReadbackMismatch_lasting {a s : State} (pinP : Bool) (pinN : Bool) (ha : Lasting a s) : Lasts a (execErrReadbackMismatch pinP pinN s) := by
  unfold execErrReadbackMismatch
  repeat' (first
    | with_reducible assumption
    | exact { ha with free := Nat.le_trans ha.free (Nat.le_succ _) }
    | with_reducible apply raiseC_lasting
    | with_reducible apply Lasts.done
    | split)

theorem violation_lasting {a s : State} (u : Nat) (master : Nat) (world : Nat) (kind : Nat) (a_ : W32) (debug : Bool) (ha : Lasting a s) : Lasting a (violation u master world kind a_ debug s) := by
  unfold violation
  repeat' (first
    | with_reducible assumption
    | (extract_lets +onlyGivenNames x; (first | (refine Lasting.cut a x ?_ ?_; (on_goal 1 => (unfold x; clear x)); (on_goal 2 => (intro _; clear_value x))) | (unfold x; clear x)))
    | with_reducible apply tarnRaise_lasting
    | with_reducible apply note_lasting
    | with_reducible apply freeBelow_lasting
    | with_reducible apply endJob_lasting
    | split
    | (with_reducible refine Lasting.ofPair ?_ ‹_ = (_, _)›)
    | fail_if_no_progress with_reducible refine Lasting.lit rfl ?_ rfl rfl rfl rfl rfl rfl rfl rfl rfl rfl)

theorem execTarnErrorEvent_lasting {a s : State} (source : Fin 60) (kind : BitVec 6) (unit : Byte) (info : W32) (ha : Lasting a s) : Lasts a (execTarnErrorEvent source kind unit info s) := by
  unfold execTarnErrorEvent
  repeat' (first
    | with_reducible assumption
    | (extract_lets +onlyGivenNames x; (unfold x; clear x))
    | with_reducible apply violation_lasting
    | with_reducible apply raiseC_lasting
    | with_reducible apply tarnRaise_lasting
    | with_reducible apply Lasts.done
    | split)

theorem execGrdCommit_lasting {a s : State} (map : List (Fin 8 × Fin 32 × GuardRegion)) (ha : Lasting a s) : Lasts a (execGrdCommit map s) := by
  unfold execGrdCommit
  repeat' (first
    | with_reducible assumption
    | with_reducible apply Lasts.done
    | split
    | fail_if_no_progress with_reducible refine Lasting.lit rfl ?_ rfl rfl rfl rfl rfl rfl rfl rfl rfl rfl)

theorem execGrdCommitApply_lasting {a s : State} (ha : Lasting a s) : Lasts a (execGrdCommitApply s) := by
  unfold execGrdCommitApply
  repeat' (first
    | with_reducible assumption
    | with_reducible apply note_lasting
    | with_reducible apply Lasts.done
    | split
    | fail_if_no_progress with_reducible refine Lasting.lit rfl ?_ rfl rfl rfl rfl rfl rfl rfl rfl rfl rfl)

end Sys2Proof.Machine
end

