-- ==== Sys2Proof/Laws/LastJournal.lean ====
section
/-!
SUPPORT. What the operations of Machine/Journal.lean keep (Lasting.lean), one lemma each.
-/
set_option linter.all false
namespace Sys2Proof.Machine

theorem execMarkRaise_lasting {a s : State} (ha : Lasting a s) : Lasts a (execMarkRaise s) := by
  unfold execMarkRaise
  repeat' (first
    | with_reducible assumption
    | (extract_lets +onlyGivenNames x; (have : Nv := x; clear this; unfold x; clear x))
    | with_reducible apply Lasts.done
    | split
    | fail_if_no_progress with_reducible refine Lasting.lit rfl ?_ rfl rfl rfl rfl rfl rfl rfl rfl rfl rfl)

theorem execJrnHrCfgWrite_lasting {a s : State} (p : Fin 256) (value : W32) (ha : Lasting a s) : Lasts a (execJrnHrCfgWrite p value s) := by
  unfold execJrnHrCfgWrite
  repeat' (first
    | with_reducible assumption
    | (extract_lets +onlyGivenNames x; (refine Lasting.cut a x ?_ ?_; (on_goal 1 => (unfold x; clear x)); (on_goal 2 => (intro _; clear_value x))))
    | with_reducible apply served_lasting
    | with_reducible apply modPart_lasting
    | with_reducible apply note_lasting
    | with_reducible apply Lasts.done
    | split)

theorem startSearch_lasting {a s : State} (p : Nat) (q : Nat) (ha : Lasting a s) : Lasting a (startSearch p q s) := by
  unfold startSearch
  repeat' (first
    | with_reducible assumption
    | with_reducible apply modPart_lasting)

theorem execJrnWinSeqWrite_lasting {a s : State} (p : Fin 256) (upper : W32) (ha : Lasting a s) : Lasts a (execJrnWinSeqWrite p upper s) := by
  unfold execJrnWinSeqWrite
  repeat' (first
    | with_reducible assumption
    | with_reducible apply served_lasting
    | with_reducible apply startSearch_lasting
    | with_reducible apply setStage_lasting
    | with_reducible apply Lasts.done)

theorem execJrnSearchDone_lasting {a s : State} (p : Fin 256) (ha : Lasting a s) : Lasts a (execJrnSearchDone p s) := by
  unfold execJrnSearchDone
  repeat' (first
    | with_reducible assumption
    | (extract_lets +onlyGivenNames x; (unfold x; clear x))
    | with_reducible apply modPart_lasting
    | with_reducible apply Lasts.done
    | split)

theorem execJrnWinEntryRead_lasting {a s : State} (p : Fin 256) (ha : Lasting a s) : Lasts a (execJrnWinEntryRead p s) := by
  unfold execJrnWinEntryRead
  repeat' (first
    | with_reducible assumption
    | with_reducible apply served_lasting
    | with_reducible apply startSearch_lasting
    | with_reducible apply emit_lasting
    | with_reducible apply Lasts.done)

theorem modScr_lasting {a s : State} (f : Scree → Scree) (ha : Lasting a s) (hf : ∀ c, Memory.wf 0 c.ring = true → Memory.wf 0 (f c).ring = true) :
    Lasting a (modScr f s) := { ha with ring := fun h => hf _ (ha.ring h) }

theorem makeRoom_lasting {a s : State} (k : Nat) (n : Nat) (ha : Lasting a s) : Lasting a (makeRoom k n s) := by
  induction n generalizing s with
  | zero => exact ha
  | succ n ih =>
  unfold makeRoom
  repeat' (first
    | with_reducible apply ih
    | with_reducible assumption
    | (intro _)
    | with_reducible apply modScr_lasting
    | split)

theorem screeFill_lasting {a s : State} (ha : Lasting a s) : Lasting a (screeFill s) := by
  unfold screeFill
  repeat' (first
    | with_reducible assumption
    | (intro _)
    | with_reducible apply sendMsix_lasting
    | with_reducible apply modScr_lasting
    | split)

theorem closeRecord_lasting {a s : State} (x : ScreeItem) (ha : Lasting a s) : Lasting a (closeRecord x s) := by
  unfold closeRecord
  repeat' (first
    | with_reducible assumption
    | exact fun _ h => Tab.wf_writeBytes _ h
    | (extract_lets +onlyGivenNames x; (refine Lasting.cut a x ?_ ?_; (on_goal 1 => (unfold x; clear x)); (on_goal 2 => (intro _; clear_value x))))
    | with_reducible apply makeRoom_lasting
    | with_reducible apply screeFill_lasting
    | with_reducible apply modScr_lasting)

theorem execScreeRecordClose_lasting {a s : State} (ha : Lasting a s) : Lasts a (execScreeRecordClose s) := by
  unfold execScreeRecordClose
  repeat' (first
    | with_reducible assumption
    | (intro _)
    | with_reducible apply closeRecord_lasting
    | with_reducible apply modScr_lasting
    | with_reducible apply Lasts.done
    | split)

theorem modCode_lasting {a s : State} (code : Nat) (f : CodeState → CodeState) (ha : Lasting a s) : Lasting a (modCode code f s) := by
  unfold modCode
  repeat' (first
    | with_reducible assumption
    | (intro _)
    | with_reducible apply modScr_lasting)

theorem execTokenRefill_lasting {a s : State} (code : BitVec 12) (ha : Lasting a s) : Lasts a (execTokenRefill code s) := by
  unfold execTokenRefill
  repeat' (first
    | with_reducible assumption
    | (extract_lets +onlyGivenNames x; (unfold x; clear x))
    | with_reducible apply modCode_lasting
    | with_reducible apply Lasts.done
    | split)

theorem execSuppressed_lasting {a s : State} (code : BitVec 12) (ha : Lasting a s) : Lasts a (execSuppressed code s) := by
  unfold execSuppressed
  repeat' (first
    | with_reducible assumption
    | (extract_lets +onlyGivenNames x; (unfold x; clear x))
    | with_reducible apply screePut_lasting
    | with_reducible apply modCode_lasting
    | with_reducible apply Lasts.done
    | split)

theorem execScrCtrlFreeze_lasting {a s : State} (ha : Lasting a s) : Lasts a (execScrCtrlFreeze s) := by
  unfold execScrCtrlFreeze
  repeat' (first
    | with_reducible assumption
    | (intro _)
    | with_reducible apply openTo_lasting
    | with_reducible apply modScr_lasting
    | with_reducible apply Lasts.done
    | split)

theorem endFreeze_lasting {a s : State} (cause : Byte) (ha : Lasting a s) : Lasting a (endFreeze cause s) := by
  unfold endFreeze
  repeat' (first
    | with_reducible assumption
    | (intro _)
    | with_reducible apply modScr_lasting
    | split)

theorem execScrCtrlThaw_lasting {a s : State} (ha : Lasting a s) : Lasts a (execScrCtrlThaw s) := by
  unfold execScrCtrlThaw
  repeat' (first
    | with_reducible assumption
    | with_reducible apply openTo_lasting
    | with_reducible apply endFreeze_lasting
    | with_reducible apply Lasts.done)

theorem execFreezeMaxExpiry_lasting {a s : State} (ha : Lasting a s) : Lasts a (execFreezeMaxExpiry s) := by
  unfold execFreezeMaxExpiry
  repeat' (first
    | with_reducible assumption
    | with_reducible apply endFreeze_lasting
    | with_reducible apply Lasts.done
    | split)

theorem execScrAckWrite_lasting {a s : State} (upper : W32) (ha : Lasting a s) : Lasts a (execScrAckWrite upper s) := by
  unfold execScrAckWrite
  repeat' (first
    | with_reducible assumption
    | (intro _)
    | with_reducible apply openTo_lasting
    | with_reducible apply screeFill_lasting
    | with_reducible apply setStage_lasting
    | with_reducible apply modScr_lasting
    | with_reducible apply Lasts.done)

end Sys2Proof.Machine
end

