-- ==== Sys2Proof/Laws/LastPmc.lean ====
section
/-!
SUPPORT. What the operations of Machine/Pmc.lean keep (Lasting.lean), one lemma each.
-/
set_option linter.all false
namespace Sys2Proof.Machine

theorem execPmcClearAll_lasting {a s : State} (ha : Lasting a s) : Lasts a (execPmcClearAll s) := by
  unfold execPmcClearAll
  repeat' (first
    | with_reducible assumption
    | with_reducible apply served_lasting
    | with_reducible apply Lasts.done
    | fail_if_no_progress with_reducible refine Lasting.lit rfl ?_ rfl rfl rfl rfl rfl rfl rfl rfl rfl rfl)

theorem execPmcSrCfgWrite_lasting {a s : State} (value : W32) (ha : Lasting a s) : Lasts a (execPmcSrCfgWrite value s) := by
  unfold execPmcSrCfgWrite
  repeat' (first
    | with_reducible assumption
    | with_reducible apply served_lasting
    | with_reducible apply Lasts.done
    | fail_if_no_progress with_reducible refine Lasting.lit rfl ?_ rfl rfl rfl rfl rfl rfl rfl rfl rfl rfl)

theorem execPmcPDumpCfgWrite_lasting {a s : State} (p : Fin 256) (value : W32) (ha : Lasting a s) : Lasts a (execPmcPDumpCfgWrite p value s) := by
  unfold execPmcPDumpCfgWrite
  repeat' (first
    | with_reducible assumption
    | with_reducible apply served_lasting
    | with_reducible apply modPart_lasting
    | with_reducible apply Lasts.done)

theorem execPmcDump_lasting {a s : State} (p : Fin 256) (ha : Lasting a s) : Lasts a (execPmcDump p s) := by
  unfold execPmcDump
  repeat' (first
    | with_reducible assumption
    | (extract_lets +onlyGivenNames x; (first | (refine Lasting.cut a x ?_ ?_; (on_goal 1 => (unfold x; clear x)); (on_goal 2 => (intro _; clear_value x))) | (unfold x; clear x)))
    | with_reducible apply modPart_lasting
    | with_reducible apply dumpInto_lasting
    | with_reducible apply Lasts.done
    | split)

end Sys2Proof.Machine
end

