-- ==== Sys2Proof/Laws/LastGeneral.lean ====
section
/-!
SUPPORT. What the operations of Machine/General.lean keep (Lasting.lean), one lemma each.
-/
set_option linter.all false
namespace Sys2Proof.Machine

theorem execNop_lasting {a s : State} (seq : Nat) (ha : Lasting a s) : Lasts a (execNop seq s) := by
  unfold execNop
  repeat' (first
    | with_reducible assumption
    | with_reducible apply runPure_lasting
    | with_reducible apply Lasts.done)

theorem execJournalMark_lasting {a s : State} (seq : Nat) (ha : Lasting a s) : Lasts a (execJournalMark seq s) := by
  unfold execJournalMark
  repeat' (first
    | with_reducible assumption
    | with_reducible apply runPure_lasting
    | with_reducible apply Lasts.done)

theorem timeReadRun_lasting {a : State} (j : Job) : CmdLasts a ((timeReadRun j) : Cmd Run) := by
  unfold timeReadRun
  repeat' (first
    | with_reducible apply CmdLasts.bind
    | with_reducible apply CmdLasts.pure
    | (intro _)
    | with_reducible apply CmdLasts.of
    | with_reducible apply readClock_lasting)

theorem execTimeRead_lasting {a s : State} (seq : Nat) (ha : Lasting a s) : Lasts a (execTimeRead seq s) := by
  unfold execTimeRead
  repeat' (first
    | with_reducible assumption
    | with_reducible apply runOp_lasting
    | with_reducible apply timeReadRun_lasting
    | with_reducible apply Lasts.done)

theorem fenceRun_lasting {a : State} (j : Job) : CmdLasts a ((fenceRun j) : Cmd Run) := by
  unfold fenceRun
  repeat' (first
    | with_reducible apply CmdLasts.bindGet
    | with_reducible apply CmdLasts.bind
    | with_reducible apply CmdLasts.pure
    | (intro _)
    | with_reducible apply CmdLasts.of
    | with_reducible apply CmdLasts.hold
    | split)

theorem execFence_lasting {a s : State} (seq : Nat) (ha : Lasting a s) : Lasts a (execFence seq s) := by
  unfold execFence
  repeat' (first
    | with_reducible assumption
    | with_reducible apply runOp_lasting
    | with_reducible apply fenceRun_lasting
    | with_reducible apply Lasts.done)

theorem cancelTarget_lasting {a s : State} (q : Nat) (ha : Lasting a s) : Lasting a (cancelTarget s q) := by
  unfold cancelTarget
  repeat' (first
    | with_reducible assumption
    | with_reducible apply endWhereWaiting_lasting
    | with_reducible apply modJob_lasting
    | with_reducible apply endJob_lasting
    | split)

theorem cancelRun_lasting {a : State} (j : Job) : CmdLasts a ((cancelRun j) : Cmd Run) := by
  unfold cancelRun
  repeat' (first
    | with_reducible assumption
    | with_reducible apply CmdLasts.bindGet
    | with_reducible apply CmdLasts.bind
    | with_reducible apply CmdLasts.pure
    | with_reducible apply CmdLasts.set
    | (intro _)
    | (extract_lets +onlyGivenNames x; (first | (have : ∀ y, (x y : Cmd _) = x y := fun _ => rfl; clear this; unfold x; clear x; beta_reduce) | (unfold x; clear x)))
    | with_reducible apply CmdLasts.of
    | with_reducible apply modJob_lasting
    | with_reducible apply cancelTarget_lasting
    | with_reducible apply CmdLasts.hold
    | with_reducible apply share_lasting
    | with_reducible apply Lasting.foldl
    | split)

theorem execCancel_lasting {a s : State} (seq : Nat) (ha : Lasting a s) : Lasts a (execCancel seq s) := by
  unfold execCancel
  repeat' (first
    | with_reducible assumption
    | with_reducible apply runOp_lasting
    | with_reducible apply cancelRun_lasting
    | with_reducible apply Lasts.done)

end Sys2Proof.Machine
end

