-- ==== Sys2Proof/Laws/LastLifeCycle.lean ====
section
/-!
SUPPORT. What the operations of Machine/LifeCycle.lean keep (Lasting.lean), one lemma each.
-/
set_option linter.all false
namespace Sys2Proof.Machine

theorem certCheck_lasting {a : State} (j : Job) (b : Bytes) (type : Nat) (target : Nat) : CmdLasts a ((certCheck j b type target) : Cmd Unit) := by
  unfold certCheck
  repeat' (first
    | with_reducible assumption
    | with_reducible apply CmdLasts.bindGet
    | with_reducible apply CmdLasts.bind
    | with_reducible apply CmdLasts.pure
    | with_reducible apply CmdLasts.modify
    | (intro _)
    | with_reducible apply readClock_lasting
    | with_reducible apply CmdLasts.need
    | with_reducible apply note_lasting
    | with_reducible apply CmdLasts.fail
    | split
    | fail_if_no_progress with_reducible refine Lasting.lit rfl ?_ rfl rfl rfl rfl rfl rfl rfl rfl rfl rfl)

theorem setTransition_lasting {a s : State} (t : Option Nat) (ha : Lasting a s) : Lasting a (setTransition t s) := by
  unfold setTransition
  repeat' (first
    | with_reducible assumption
    | (extract_lets +onlyGivenNames x; (have : Nv := x; clear this; unfold x; clear x))
    | fail_if_no_progress with_reducible refine Lasting.lit rfl ?_ rfl rfl rfl rfl rfl rfl rfl rfl rfl rfl)

theorem clearRecords_lasting {a s : State} (ha : Lasting a s) : Lasting a (clearRecords s) := { ha with ring := fun _ => rfl }

theorem dropPartition_lasting {a s : State} (p : Nat) (q : Nat) (ha : Lasting a s) : Lasting a (dropPartition p q s) := by
  unfold dropPartition
  repeat' (first
    | with_reducible assumption
    | (extract_lets +onlyGivenNames x; (refine Lasting.cut a x ?_ ?_; (on_goal 1 => (unfold x; clear x)); (on_goal 2 => (intro _; clear_value x))))
    | with_reducible apply endJobs_lasting
    | with_reducible apply applyVault_lasting
    | split)

theorem lcErase_lasting {a s : State} (dst : Nat) (q : Nat) (ha : Lasting a s) : Lasting a (lcErase dst q s) := by
  unfold lcErase
  repeat' (first
    | with_reducible assumption
    | with_reducible apply zeroise_lasting
    | with_reducible apply dropPartition_lasting
    | with_reducible apply applyResponse_lasting
    | split)

theorem lcAfterErase_lasting {a s : State} (dst : Nat) (ha : Lasting a s) : Lasting a (lcAfterErase dst s) := by
  unfold lcAfterErase
  split
  · exact clearRecords_lasting ha
  · exact { ha with slotA := fun _ => rfl, slotB := fun _ => rfl, scrapped := fun _ => rfl }
  · exact ha

theorem lcWrite_lasting {a s : State} (dst : Nat) (ha : Lasting a s) : Lasting a (lcWrite dst s) := by
  unfold lcWrite
  repeat' (first
    | with_reducible assumption
    | (extract_lets +onlyGivenNames x; (have : Nv := x; clear this; unfold x; clear x))
    | with_reducible apply setTransition_lasting
    | fail_if_no_progress with_reducible refine Lasting.lit rfl ?_ rfl rfl rfl rfl rfl rfl rfl rfl rfl rfl)

theorem lcFinish_lasting {a : State} (j : Job) : CmdLasts a ((lcFinish j) : Cmd Run) := by
  unfold lcFinish
  repeat' (first
    | with_reducible assumption
    | with_reducible apply CmdLasts.bindGet
    | with_reducible apply CmdLasts.bind
    | with_reducible apply CmdLasts.pure
    | with_reducible apply CmdLasts.modify
    | (intro _)
    | (extract_lets +onlyGivenNames x; (first | (refine Lasting.cut a x ?_ ?_; (on_goal 1 => (unfold x; clear x)); (on_goal 2 => (intro _; clear_value x))) | (have : Nv := x; clear this; unfold x; clear x)))
    | with_reducible apply CmdLasts.hold
    | with_reducible apply lcAfterErase_lasting
    | with_reducible apply lcWrite_lasting
    | split
    | fail_if_no_progress with_reducible refine Lasting.lit rfl ?_ rfl rfl rfl rfl rfl rfl rfl rfl rfl rfl)

theorem lcTransitionRun_lasting {a : State} (j : Job) : CmdLasts a ((lcTransitionRun j) : Cmd Run) := by
  unfold lcTransitionRun
  repeat' (first
    | with_reducible assumption
    | with_reducible apply CmdLasts.bindGet
    | with_reducible apply CmdLasts.bind
    | with_reducible apply CmdLasts.pure
    | with_reducible apply CmdLasts.set
    | (intro _)
    | (extract_lets +onlyGivenNames x; (have : ∀ y, (x y : Cmd _) = x y := fun _ => rfl; clear this; unfold x; clear x; beta_reduce))
    | with_reducible apply lcFinish_lasting
    | with_reducible apply share_lasting
    | with_reducible apply CmdLasts.need
    | with_reducible apply judge_lasting
    | with_reducible apply certCheck_lasting
    | with_reducible apply lcErase_lasting
    | with_reducible apply setTransition_lasting
    | with_reducible apply CmdLasts.hold
    | split)

theorem execLcTransition_lasting {a s : State} (seq : Nat) (ha : Lasting a s) : Lasts a (execLcTransition seq s) := by
  unfold execLcTransition
  repeat' (first
    | with_reducible assumption
    | with_reducible apply runOp_lasting
    | with_reducible apply lcTransitionRun_lasting
    | with_reducible apply Lasts.done)

theorem fwLoadRun_lasting {a : State} (j : Job) : CmdLasts a ((fwLoadRun j) : Cmd Run) := by
  unfold fwLoadRun
  repeat' (first
    | with_reducible assumption
    | with_reducible apply CmdLasts.bind
    | with_reducible apply CmdLasts.pure
    | with_reducible apply CmdLasts.modify
    | (intro _)
    | (extract_lets +onlyGivenNames x; (first | (refine Lasting.cut a x ?_ ?_; (on_goal 1 => (unfold x; clear x)); (on_goal 2 => (intro _; clear_value x))) | (have : Nv := x; clear this; unfold x; clear x)))
    | with_reducible apply CmdLasts.need
    | with_reducible apply slotWrite_lasting
    | with_reducible apply slotErase_lasting
    | split
    | fail_if_no_progress with_reducible refine Lasting.lit rfl ?_ rfl rfl rfl rfl rfl rfl rfl rfl rfl rfl)

theorem execFwUpdateLoad_lasting {a s : State} (seq : Nat) (ha : Lasting a s) : Lasts a (execFwUpdateLoad seq s) := by
  unfold execFwUpdateLoad
  repeat' (first
    | with_reducible assumption
    | with_reducible apply runOp_lasting
    | with_reducible apply fwLoadRun_lasting
    | with_reducible apply Lasts.done)

theorem fwActivateRun_lasting {a : State} (j : Job) : CmdLasts a ((fwActivateRun j) : Cmd Run) := by
  unfold fwActivateRun
  repeat' (first
    | with_reducible assumption
    | with_reducible apply CmdLasts.bindGet
    | with_reducible apply CmdLasts.bind
    | with_reducible apply CmdLasts.pure
    | with_reducible apply CmdLasts.modify
    | (intro _)
    | (extract_lets +onlyGivenNames x; (have : Nv := x; clear this; unfold x; clear x))
    | with_reducible apply judge_lasting
    | with_reducible apply CmdLasts.need
    | fail_if_no_progress with_reducible refine Lasting.lit rfl ?_ rfl rfl rfl rfl rfl rfl rfl rfl rfl rfl)

theorem execFwUpdateActivate_lasting {a s : State} (seq : Nat) (ha : Lasting a s) : Lasts a (execFwUpdateActivate seq s) := by
  unfold execFwUpdateActivate
  repeat' (first
    | with_reducible assumption
    | with_reducible apply runOp_lasting
    | with_reducible apply fwActivateRun_lasting
    | with_reducible apply Lasts.done)

theorem attestRun_lasting {a : State} (j : Job) : CmdLasts a ((attestRun j) : Cmd Run) := by
  unfold attestRun
  repeat' (first
    | with_reducible assumption
    | with_reducible apply CmdLasts.bind
    | with_reducible apply CmdLasts.pure
    | (intro _)
    | with_reducible apply CmdLasts.need
    | with_reducible apply share_lasting
    | with_reducible apply hybridSign_lasting)

theorem execAttest_lasting {a s : State} (seq : Nat) (ha : Lasting a s) : Lasts a (execAttest seq s) := by
  unfold execAttest
  repeat' (first
    | with_reducible assumption
    | with_reducible apply runOp_lasting
    | with_reducible apply attestRun_lasting
    | with_reducible apply Lasts.done)

theorem openDebug_lasting {a s : State} (rights : Nat) (notAfter : Nat) (ha : Lasting a s) : Lasting a (openDebug rights notAfter s) := by
  unfold openDebug
  repeat' (first
    | with_reducible assumption
    | fail_if_no_progress with_reducible refine Lasting.lit rfl ?_ rfl rfl rfl rfl rfl rfl rfl rfl rfl rfl)

theorem debugOpen_lasting {a : State} (j : Job) : CmdLasts a ((debugOpen j) : Cmd Run) := by
  unfold debugOpen
  repeat' (first
    | with_reducible assumption
    | with_reducible apply CmdLasts.bindGet
    | with_reducible apply CmdLasts.bind
    | with_reducible apply CmdLasts.pure
    | with_reducible apply CmdLasts.set
    | (intro _)
    | with_reducible apply CmdLasts.hold
    | with_reducible apply openDebug_lasting
    | split)

theorem debugCertRun_lasting {a : State} (j : Job) : CmdLasts a ((debugCertRun j) : Cmd Run) := by
  unfold debugCertRun
  repeat' (first
    | with_reducible assumption
    | with_reducible apply CmdLasts.bind
    | with_reducible apply CmdLasts.pure
    | with_reducible apply CmdLasts.modify
    | (intro _)
    | (extract_lets +onlyGivenNames x; (have : ∀ y, (x y : Cmd _) = x y := fun _ => rfl; clear this; unfold x; clear x; beta_reduce))
    | with_reducible apply debugOpen_lasting
    | with_reducible apply share_lasting
    | with_reducible apply CmdLasts.need
    | with_reducible apply judge_lasting
    | with_reducible apply certCheck_lasting
    | with_reducible apply applyResponse_lasting
    | with_reducible apply CmdLasts.hold
    | split)

theorem execDebugCertAccept_lasting {a s : State} (seq : Nat) (ha : Lasting a s) : Lasts a (execDebugCertAccept seq s) := by
  unfold execDebugCertAccept
  repeat' (first
    | with_reducible assumption
    | with_reducible apply runOp_lasting
    | with_reducible apply debugCertRun_lasting
    | with_reducible apply Lasts.done)

theorem execDbgCtrlClose_lasting {a s : State} (ha : Lasting a s) : Lasts a (execDbgCtrlClose s) := by
  unfold execDbgCtrlClose
  repeat' (first
    | with_reducible assumption
    | with_reducible apply served_lasting
    | with_reducible apply closeDebug_lasting
    | with_reducible apply Lasts.done)

theorem execDebugSessionExpiry_lasting {a s : State} (ha : Lasting a s) : Lasts a (execDebugSessionExpiry s) := by
  unfold execDebugSessionExpiry
  repeat' (first
    | with_reducible assumption
    | with_reducible apply closeDebug_lasting
    | with_reducible apply Lasts.done
    | split)

theorem debugRead_lasting {a s : State} (a_ : W32) (ha : Lasting a s) : Lasting a (debugRead a_ s).2 := by
  unfold debugRead
  repeat' (first
    | with_reducible assumption
    | (extract_lets +onlyGivenNames x; (unfold x; clear x))
    | with_reducible apply freeBytes_lasting
    | split)

theorem execDebugAccess_lasting {a s : State} (kind : AccessKind) (address : W32) (ha : Lasting a s) : Lasts a (execDebugAccess kind address s) := by
  unfold execDebugAccess
  repeat' (first
    | with_reducible assumption
    | (extract_lets +onlyGivenNames x; (first | (refine Lasting.cut a x ?_ ?_; (on_goal 1 => (unfold x; clear x)); (on_goal 2 => (intro _; clear_value x))) | (unfold x; clear x)))
    | with_reducible apply pmc_lasting
    | with_reducible apply debugRead_lasting
    | with_reducible apply emit_lasting
    | with_reducible apply violation_lasting
    | with_reducible apply note_lasting
    | with_reducible apply Lasts.done
    | split
    | fail_if_no_progress with_reducible refine Lasting.lit rfl ?_ rfl rfl rfl rfl rfl rfl rfl rfl rfl rfl)

end Sys2Proof.Machine
end

