-- ==== Sys2Proof/Laws/LastPower.lean ====
section
/-!
SUPPORT. What the operations of Machine/Power.lean keep (Lasting.lean), one lemma each.
-/
set_option linter.all false
namespace Sys2Proof.Machine

theorem modPwr_lasting {a s : State} (f : Power → Power) (ha : Lasting a s) : Lasting a (modPwr f s) := by
  unfold modPwr
  repeat' (first
    | with_reducible assumption
    | fail_if_no_progress with_reducible refine Lasting.lit rfl ?_ rfl rfl rfl rfl rfl rfl rfl rfl rfl rfl)

theorem bootBurns_lasting {a s : State} (ha : Lasting a s) : Lasting a (bootBurns s) := by
  unfold bootBurns
  repeat' (first
    | with_reducible assumption
    | (intro _)
    | (extract_lets +onlyGivenNames x; (first | (refine Lasting.cut a x ?_ ?_; (on_goal 1 => (unfold x; clear x)); (on_goal 2 => (intro _; clear_value x))) | (have : ∃ y : State → State, y = x := ⟨x, rfl⟩; clear this; unfold x; clear x; beta_reduce) | (have : Nv := x; clear this; unfold x; clear x)))
    | with_reducible apply noteBurn_lasting
    | with_reducible apply modPwr_lasting
    | with_reducible apply burnOnce_lasting
    | with_reducible apply Lasting.foldl
    | fail_if_no_progress with_reducible refine Lasting.lit rfl ?_ rfl rfl rfl rfl rfl rfl rfl rfl rfl rfl)

theorem bootCopies_lasting {a s : State} (ha : Lasting a s) : Lasting a (bootCopies s) := by
  unfold bootCopies
  repeat' (first
    | (extract_lets +onlyGivenNames x; (first | (have : Nv := x; clear this; unfold x; clear x) | clear_value x))
    | exact { ha with otpB := fun i h => by simp only [BitVec.getLsbD_or, ha.otpB i h, Bool.true_or] }
    | with_reducible apply noteBurn_lasting
    | with_reducible apply modPwr_lasting
    | split)

theorem bootMismatch_lasting {a s : State} (ha : Lasting a s) : Lasting a (bootMismatch s) := by
  unfold bootMismatch
  repeat' (first
    | with_reducible assumption
    | (extract_lets +onlyGivenNames x; (first | (refine Lasting.cut a x ?_ ?_; (on_goal 1 => (unfold x; clear x)); (on_goal 2 => (intro _; clear_value x))) | (unfold x; clear x)))
    | with_reducible apply noteBurn_lasting
    | split
    | fail_if_no_progress with_reducible refine Lasting.lit rfl ?_ rfl rfl rfl rfl rfl rfl rfl rfl rfl rfl)

theorem bootReplay_lasting {a s : State} (ha : Lasting a s) : Lasting a (bootReplay s) := by
  unfold bootReplay
  repeat' (first
    | with_reducible assumption
    | (intro _)
    | with_reducible apply note_lasting
    | with_reducible apply Lasting.foldl)

theorem bootTransition_lasting {a s : State} (ha : Lasting a s) : Lasting a (bootTransition s) := by
  unfold bootTransition
  repeat' (first
    | with_reducible assumption
    | (extract_lets +onlyGivenNames x; (first | (refine Lasting.cut a x ?_ ?_; (on_goal 1 => (unfold x; clear x)); (on_goal 2 => (intro _; clear_value x))) | (unfold x; clear x)))
    | with_reducible apply setTransition_lasting
    | with_reducible apply applyVault_lasting
    | with_reducible apply zeroiseVault_lasting
    | with_reducible apply note_lasting
    | with_reducible apply lcWrite_lasting
    | with_reducible apply lcAfterErase_lasting
    | split
    | fail_if_no_progress with_reducible refine Lasting.lit rfl ?_ rfl rfl rfl rfl rfl rfl rfl rfl rfl rfl)

theorem bootInvalid_lasting {a s : State} (ha : Lasting a s) : Lasting a (bootInvalid s) := by
  unfold bootInvalid
  repeat' (first
    | with_reducible assumption
    | with_reducible apply note_lasting
    | split)

theorem bootZeroise_lasting {a s : State} (ha : Lasting a s) : Lasting a (bootZeroise s) := by
  unfold bootZeroise
  repeat' (first
    | with_reducible assumption
    | with_reducible apply note_lasting
    | split
    | fail_if_no_progress with_reducible refine Lasting.lit rfl ?_ rfl rfl rfl rfl rfl rfl rfl rfl rfl rfl)

theorem bootSlot_lasting {a s : State} (ha : Lasting a s) : Lasting a (bootSlot s) := by
  unfold bootSlot
  repeat' (first
    | with_reducible assumption
    | with_reducible apply modPwr_lasting)

theorem relatch_lasting {a s : State} (ha : Lasting a s) : Lasting a (relatch s) := by
  unfold relatch
  repeat' (first
    | with_reducible assumption
    | (intro _)
    | with_reducible apply tarnRaise_lasting
    | with_reducible apply Lasting.foldl
    | split)

theorem bootRom_lasting {a s : State} (ha : Lasting a s) : Lasting a (bootRom s) := by
  unfold bootRom
  repeat' (first
    | with_reducible assumption
    | with_reducible apply relatch_lasting
    | with_reducible apply bootSlot_lasting
    | with_reducible apply bootZeroise_lasting
    | with_reducible apply bootInvalid_lasting
    | with_reducible apply bootTransition_lasting
    | with_reducible apply bootReplay_lasting
    | with_reducible apply bootMismatch_lasting
    | with_reducible apply bootBurns_lasting
    | with_reducible apply bootCopies_lasting)

theorem bootRoot_lasting {a s : State} (ha : Lasting a s) : Lasting a (bootRoot s) := by
  unfold bootRoot
  repeat' (first
    | with_reducible assumption
    | (extract_lets +onlyGivenNames x; (refine Lasting.cut a x ?_ ?_; (on_goal 1 => (unfold x; clear x)); (on_goal 2 => (intro _; clear_value x))))
    | exact { ha with free := Nat.le_trans ha.free (Nat.le_succ _) }
    | with_reducible apply tarnRaise_lasting
    | with_reducible apply note_lasting
    | with_reducible apply startStop_lasting
    | split)

theorem switchOn_lasting {a s : State} (d : Nat) (ha : Lasting a s) : Lasting a (switchOn d s) := by
  unfold switchOn
  repeat' (first
    | with_reducible assumption
    | with_reducible apply modPwr_lasting)

theorem execPowerDomainSlot_lasting {a s : State} (ha : Lasting a s) : Lasts a (execPowerDomainSlot s) := by
  unfold execPowerDomainSlot
  repeat' (first
    | with_reducible assumption
    | (extract_lets +onlyGivenNames x; (first | (refine Lasting.cut a x ?_ ?_; (on_goal 1 => (unfold x; clear x)); (on_goal 2 => (intro _; clear_value x))) | (unfold x; clear x)))
    | with_reducible apply switchOn_lasting
    | with_reducible apply modPwr_lasting
    | with_reducible apply bootRom_lasting
    | with_reducible apply bootRoot_lasting
    | with_reducible apply Lasts.done
    | split
    | fail_if_no_progress with_reducible refine Lasting.lit rfl ?_ rfl rfl rfl rfl rfl rfl rfl rfl rfl rfl)

theorem execDomainRegulationTimeout_lasting {a s : State} (domain : Fin 60) (ha : Lasting a s) : Lasts a (execDomainRegulationTimeout domain s) := by
  unfold execDomainRegulationTimeout
  repeat' (first
    | with_reducible assumption
    | (extract_lets +onlyGivenNames x; (unfold x; clear x))
    | with_reducible apply startStop_lasting
    | with_reducible apply tarnOpen_lasting
    | with_reducible apply Lasts.done
    | split)

theorem execPerstNRelease_lasting {a s : State} (posB : Bool) (fuseOk : Bool) (pufOk : Bool) (ha : Lasting a s) : Lasts a (execPerstNRelease posB fuseOk pufOk s) := by
  unfold execPerstNRelease
  repeat' (first
    | with_reducible assumption
    | with_reducible apply beginStart_lasting
    | with_reducible apply modPwr_lasting
    | with_reducible apply Lasts.done
    | split)

theorem noteLoss_lasting {a s : State} (cause : Nat) (ha : Lasting a s) : Lasting a (noteLoss cause s) := by
  unfold noteLoss
  repeat' (first
    | with_reducible assumption
    | fail_if_no_progress with_reducible refine Lasting.lit rfl ?_ rfl rfl rfl rfl rfl rfl rfl rfl rfl rfl)

theorem execPerstNAssert_lasting {a s : State} (ha : Lasting a s) : Lasts a (execPerstNAssert s) := by
  unfold execPerstNAssert
  repeat' (first
    | with_reducible assumption
    | (extract_lets +onlyGivenNames x; (refine Lasting.cut a x ?_ ?_; (on_goal 1 => (unfold x; clear x)); (on_goal 2 => (intro _; clear_value x))))
    | with_reducible apply modPwr_lasting
    | with_reducible apply noteLoss_lasting
    | with_reducible apply coldMain_lasting
    | with_reducible apply Lasts.done
    | split)

theorem execMainPowerLoss_lasting {a s : State} (ha : Lasting a s) : Lasts a (execMainPowerLoss s) := by
  unfold execMainPowerLoss
  repeat' (first
    | with_reducible assumption
    | (extract_lets +onlyGivenNames x; (refine Lasting.cut a x ?_ ?_; (on_goal 1 => (unfold x; clear x)); (on_goal 2 => (intro _; clear_value x))))
    | with_reducible apply modPwr_lasting
    | with_reducible apply coldMain_lasting
    | with_reducible apply noteLoss_lasting
    | with_reducible apply Lasts.done
    | split
    | fail_if_no_progress with_reducible refine Lasting.lit rfl ?_ rfl rfl rfl rfl rfl rfl rfl rfl rfl rfl)

theorem execMainPowerGood_lasting {a s : State} (posB : Bool) (fuseOk : Bool) (pufOk : Bool) (ha : Lasting a s) : Lasts a (execMainPowerGood posB fuseOk pufOk s) := by
  unfold execMainPowerGood
  repeat' (first
    | with_reducible assumption
    | (extract_lets +onlyGivenNames x; (first | (refine Lasting.cut a x ?_ ?_; (on_goal 1 => (unfold x; clear x)); (on_goal 2 => (intro _; clear_value x))) | (unfold x; clear x)))
    | with_reducible apply modPwr_lasting
    | with_reducible apply beginStart_lasting
    | with_reducible apply Lasts.done
    | split
    | fail_if_no_progress with_reducible refine Lasting.lit rfl ?_ rfl rfl rfl rfl rfl rfl rfl rfl rfl rfl)

theorem execAuxChange_lasting {a s : State} (good : Bool) (ha : Lasting a s) : Lasts a (execAuxChange good s) := by
  unfold execAuxChange
  repeat' (first
    | with_reducible assumption
    | (extract_lets +onlyGivenNames x; (refine Lasting.cut a x ?_ ?_; (on_goal 1 => (unfold x; clear x)); (on_goal 2 => (intro _; clear_value x))))
    | with_reducible apply modPwr_lasting
    | with_reducible apply note_lasting
    | with_reducible apply Lasts.done
    | split)

theorem beginQuiesce_lasting {a s : State} (ha : Lasting a s) : Lasting a (beginQuiesce s) := by
  unfold beginQuiesce
  repeat' (first
    | with_reducible assumption
    | (extract_lets +onlyGivenNames x; (refine Lasting.cut a x ?_ ?_; (on_goal 1 => (unfold x; clear x)); (on_goal 2 => (intro _; clear_value x))))
    | with_reducible apply note_lasting
    | with_reducible apply modPwr_lasting
    | with_reducible apply endJobs_lasting
    | split)

theorem endQuiesce_lasting {a s : State} (src : Nat) (ha : Lasting a s) : Lasting a (endQuiesce src s) := by
  unfold endQuiesce
  repeat' (first
    | with_reducible assumption
    | (extract_lets +onlyGivenNames x; (refine Lasting.cut a x ?_ ?_; (on_goal 1 => (unfold x; clear x)); (on_goal 2 => (intro _; clear_value x))))
    | with_reducible apply note_lasting
    | with_reducible apply modPwr_lasting
    | split
    | fail_if_no_progress with_reducible refine Lasting.lit rfl ?_ rfl rfl rfl rfl rfl rfl rfl rfl rfl rfl)

theorem execQuiesceReqNAssert_lasting {a s : State} (ha : Lasting a s) : Lasts a (execQuiesceReqNAssert s) := by
  unfold execQuiesceReqNAssert
  repeat' (first
    | with_reducible assumption
    | with_reducible apply beginQuiesce_lasting
    | with_reducible apply modPwr_lasting
    | with_reducible apply Lasts.done)

theorem execQuiesceReqNRelease_lasting {a s : State} (ha : Lasting a s) : Lasts a (execQuiesceReqNRelease s) := by
  unfold execQuiesceReqNRelease
  repeat' (first
    | with_reducible assumption
    | (extract_lets +onlyGivenNames x; (refine Lasting.cut a x ?_ ?_; (on_goal 1 => (unfold x; clear x)); (on_goal 2 => (intro _; clear_value x))))
    | with_reducible apply modPwr_lasting
    | with_reducible apply endQuiesce_lasting
    | with_reducible apply Lasts.done
    | split)

theorem execPwrCtrlQuiesce_lasting {a s : State} (ha : Lasting a s) : Lasts a (execPwrCtrlQuiesce s) := by
  unfold execPwrCtrlQuiesce
  repeat' (first
    | with_reducible assumption
    | with_reducible apply openTo_lasting
    | with_reducible apply beginQuiesce_lasting
    | with_reducible apply modPwr_lasting
    | with_reducible apply Lasts.done
    | split)

theorem execPwrCtrlUnquiesce_lasting {a s : State} (ha : Lasting a s) : Lasts a (execPwrCtrlUnquiesce s) := by
  unfold execPwrCtrlUnquiesce
  repeat' (first
    | with_reducible assumption
    | (extract_lets +onlyGivenNames x; (refine Lasting.cut a x ?_ ?_; (on_goal 1 => (unfold x; clear x)); (on_goal 2 => (intro _; clear_value x))))
    | with_reducible apply openTo_lasting
    | with_reducible apply modPwr_lasting
    | with_reducible apply endQuiesce_lasting
    | with_reducible apply Lasts.done
    | split)

theorem quiesceComplete_lasting {a s : State} (ha : Lasting a s) : Lasting a (quiesceComplete s) := by
  unfold quiesceComplete
  repeat' (first
    | with_reducible assumption
    | with_reducible apply note_lasting
    | with_reducible apply modPwr_lasting)

theorem execQuiesceDrained_lasting {a s : State} (ha : Lasting a s) : Lasts a (execQuiesceDrained s) := by
  unfold execQuiesceDrained
  repeat' (first
    | with_reducible assumption
    | with_reducible apply modPwr_lasting
    | with_reducible apply quiesceComplete_lasting
    | with_reducible apply releaseActive_lasting
    | with_reducible apply detach_lasting
    | with_reducible apply Lasts.done
    | split
    | fail_if_no_progress with_reducible refine Lasting.lit rfl ?_ rfl rfl rfl rfl rfl rfl rfl rfl rfl rfl)

theorem execQuiesceMaxExpiry_lasting {a s : State} (ha : Lasting a s) : Lasts a (execQuiesceMaxExpiry s) := by
  unfold execQuiesceMaxExpiry
  repeat' (first
    | with_reducible assumption
    | (extract_lets +onlyGivenNames x; (refine Lasting.cut a x ?_ ?_; (on_goal 1 => (unfold x; clear x)); (on_goal 2 => (intro _; clear_value x))))
    | with_reducible apply modPwr_lasting
    | with_reducible apply endJobs_lasting
    | with_reducible apply Lasts.done
    | split
    | fail_if_no_progress with_reducible refine Lasting.lit rfl ?_ rfl rfl rfl rfl rfl rfl rfl rfl rfl rfl)

theorem fallback_lasting {a s : State} (cause : Nat) (ha : Lasting a s) : Lasting a (fallback cause s) := by
  unfold fallback
  repeat' (first
    | with_reducible assumption
    | (extract_lets +onlyGivenNames x; (first | (refine Lasting.cut a x ?_ ?_; (on_goal 1 => (unfold x; clear x)); (on_goal 2 => (intro _; clear_value x))) | (have : Nv := x; clear this; unfold x; clear x)))
    | with_reducible apply note_lasting
    | with_reducible apply modPwr_lasting
    | fail_if_no_progress with_reducible refine Lasting.lit rfl ?_ rfl rfl rfl rfl rfl rfl rfl rfl rfl rfl)

theorem imageFails_lasting {a s : State} (ha : Lasting a s) : Lasting a (imageFails s) := by
  unfold imageFails
  repeat' (first
    | with_reducible assumption
    | (extract_lets +onlyGivenNames x; (first | (refine Lasting.cut a x ?_ ?_; (on_goal 1 => (unfold x; clear x)); (on_goal 2 => (intro _; clear_value x))) | (unfold x; clear x)))
    | with_reducible apply fallback_lasting
    | with_reducible apply startStop_lasting
    | split)

theorem adoptImage_lasting {a s : State} (ha : Lasting a s) : Lasting a (adoptImage s) := by
  unfold adoptImage
  repeat' (first
    | with_reducible assumption
    | (intro _)
    | (extract_lets +onlyGivenNames x; (first | (refine Lasting.cut a x ?_ ?_; (on_goal 1 => (unfold x; clear x)); (on_goal 2 => (intro _; clear_value x))) | (have : Nv := x; clear this; unfold x; clear x)))
    | exact Lasting.raise ‹_›
    | with_reducible apply modPwr_lasting
    | with_reducible apply note_lasting
    | with_reducible apply Lasting.foldl
    | split
    | fail_if_no_progress with_reducible refine Lasting.lit rfl ?_ rfl rfl rfl rfl rfl rfl rfl rfl rfl rfl)

theorem takeMark_lasting {a s : State} (ha : Lasting a s) : Lasting a (takeMark s) := by
  unfold takeMark
  repeat' (first
    | with_reducible assumption
    | (extract_lets +onlyGivenNames x; (have : Nv := x; clear this; unfold x; clear x))
    | with_reducible apply note_lasting
    | fail_if_no_progress with_reducible refine Lasting.lit rfl ?_ rfl rfl rfl rfl rfl rfl rfl rfl rfl rfl)

theorem keyMismatches_lasting {a s : State} (ha : Lasting a s) : Lasting a (keyMismatches s) := by
  unfold keyMismatches
  repeat' (first
    | with_reducible assumption
    | (intro _)
    | with_reducible apply note_lasting
    | with_reducible apply Lasting.foldl
    | split)

theorem restoreTamper_lasting {a s : State} (ha : Lasting a s) : Lasting a (restoreTamper s) := by
  unfold restoreTamper
  repeat' (first
    | with_reducible assumption
    | with_reducible apply sendMsix_lasting
    | split
    | fail_if_no_progress with_reducible refine Lasting.lit rfl ?_ rfl rfl rfl rfl rfl rfl rfl rfl rfl rfl)

theorem noteLost_lasting {a s : State} (ha : Lasting a s) : Lasting a (noteLost s) := by
  unfold noteLost
  repeat' (first
    | with_reducible assumption
    | with_reducible apply note_lasting
    | split
    | fail_if_no_progress with_reducible refine Lasting.lit rfl ?_ rfl rfl rfl rfl rfl rfl rfl rfl rfl rfl)

theorem bootRestore_lasting {a s : State} (ha : Lasting a s) : Lasting a (bootRestore s) := by
  unfold bootRestore
  repeat' (first
    | with_reducible assumption
    | (extract_lets +onlyGivenNames x; (refine Lasting.cut a x ?_ ?_; (on_goal 1 => (unfold x; clear x)); (on_goal 2 => (intro _; clear_value x))))
    | with_reducible apply noteLost_lasting
    | with_reducible apply restoreTamper_lasting
    | with_reducible apply keyMismatches_lasting
    | with_reducible apply takeMark_lasting
    | with_reducible apply adoptImage_lasting
    | fail_if_no_progress with_reducible refine Lasting.lit rfl ?_ rfl rfl rfl rfl rfl rfl rfl rfl rfl rfl)

theorem bootReady_lasting {a s : State} (ha : Lasting a s) : Lasting a (bootReady s) := by
  unfold bootReady
  repeat' (first
    | with_reducible assumption
    | (extract_lets +onlyGivenNames x; (first | (refine Lasting.cut a x ?_ ?_; (on_goal 1 => (unfold x; clear x)); (on_goal 2 => (intro _; clear_value x))) | (unfold x; clear x)))
    | with_reducible apply modPwr_lasting
    | with_reducible apply modTarn_lasting
    | with_reducible apply note_lasting
    | with_reducible apply beginQuiesce_lasting
    | split)

theorem execStartUpComplete_lasting {a s : State} (ha : Lasting a s) : Lasts a (execStartUpComplete s) := by
  unfold execStartUpComplete
  repeat' (first
    | with_reducible assumption
    | with_reducible apply imageFails_lasting
    | with_reducible apply bootReady_lasting
    | with_reducible apply bootRestore_lasting
    | with_reducible apply Lasts.done
    | split)

theorem execStartFault_lasting {a s : State} (code : Fin 8) (ha : Lasting a s) : Lasts a (execStartFault code s) := by
  unfold execStartFault
  repeat' (first
    | with_reducible assumption
    | with_reducible apply startStop_lasting
    | with_reducible apply note_lasting
    | with_reducible apply imageFails_lasting
    | with_reducible apply fallback_lasting
    | with_reducible apply tarnOpen_lasting
    | with_reducible apply Lasts.done
    | split)

theorem execFwBootTimeout_lasting {a s : State} (ha : Lasting a s) : Lasts a (execFwBootTimeout s) := by
  unfold execFwBootTimeout
  repeat' (first
    | with_reducible assumption
    | with_reducible apply fallback_lasting
    | with_reducible apply startStop_lasting
    | with_reducible apply Lasts.done
    | split)

theorem execAutoOffIdle_lasting {a s : State} (domain : Fin 60) (ha : Lasting a s) : Lasts a (execAutoOffIdle domain s) := by
  unfold execAutoOffIdle
  repeat' (first
    | with_reducible assumption
    | (extract_lets +onlyGivenNames x; (unfold x; clear x))
    | with_reducible apply modPwr_lasting
    | with_reducible apply Lasts.done
    | split)

theorem execDomainWake_lasting {a s : State} (domain : Fin 60) (ha : Lasting a s) : Lasts a (execDomainWake domain s) := by
  unfold execDomainWake
  repeat' (first
    | with_reducible assumption
    | (extract_lets +onlyGivenNames x; (unfold x; clear x))
    | with_reducible apply modPwr_lasting
    | with_reducible apply Lasts.done
    | split)

theorem execDomainSwitchOn_lasting {a s : State} (ha : Lasting a s) : Lasts a (execDomainSwitchOn s) := by
  unfold execDomainSwitchOn
  repeat' (first
    | with_reducible assumption
    | (extract_lets +onlyGivenNames x; (first | (refine Lasting.cut a x ?_ ?_; (on_goal 1 => (unfold x; clear x)); (on_goal 2 => (intro _; clear_value x))) | (unfold x; clear x)))
    | with_reducible apply switchOn_lasting
    | with_reducible apply modPwr_lasting
    | with_reducible apply Lasts.done
    | split)

end Sys2Proof.Machine
end

