-- ==== Sys2Proof/Laws/LastLink.lean ====
section
/-!
SUPPORT. What the operations of Machine/Link.lean keep (Lasting.lean), one lemma each.
-/
set_option linter.all false
namespace Sys2Proof.Machine

theorem modPair_lasting {a s : State} (f : Pair → Pair) (ha : Lasting a s) : Lasting a (modPair f s) := by
  unfold modPair
  repeat' (first
    | with_reducible assumption
    | fail_if_no_progress with_reducible refine Lasting.lit rfl ?_ rfl rfl rfl rfl rfl rfl rfl rfl rfl rfl)

theorem takeAck_lasting {a s : State} (low : Nat) (ha : Lasting a s) : Lasting a (takeAck low s) := by
  unfold takeAck
  repeat' (first
    | with_reducible assumption
    | (intro _)
    | (extract_lets +onlyGivenNames x; (first | (refine Lasting.cut a x ?_ ?_; (on_goal 1 => (unfold x; clear x)); (on_goal 2 => (intro _; clear_value x))) | (unfold x; clear x)))
    | with_reducible apply modPair_lasting
    | with_reducible apply sendFrame_lasting
    | with_reducible apply gates_lasting
    | with_reducible apply modJob_lasting
    | with_reducible apply Lasting.foldl
    | split)

theorem inbandSeen_lasting {a s : State} (ha : Lasting a s) : Lasting a (inbandSeen s) := by
  unfold inbandSeen
  repeat' (first
    | with_reducible assumption
    | (extract_lets +onlyGivenNames x; (refine Lasting.cut a x ?_ ?_; (on_goal 1 => (unfold x; clear x)); (on_goal 2 => (intro _; clear_value x))))
    | with_reducible apply modPair_lasting
    | with_reducible apply note_lasting
    | split)

theorem receive_lasting {a s : State} (type : Nat) (f : Bytes) (ha : Lasting a s) : OptLasts a (receive type f s) := by
  unfold receive
  dsimp only
  split
  · exact OptLasts.none
  · exact OptLasts.mapTo _ _ (inbandSeen_lasting (takeAck_lasting _ (modPair_lasting _ ha)))

theorem sendChain_lasting {a s : State} (ha : Lasting a s) : Lasting a (sendChain s) := by
  unfold sendChain
  repeat' (first
    | with_reducible assumption
    | (intro _)
    | with_reducible apply sendFrame_lasting
    | with_reducible apply Lasting.foldl)

theorem startHandshake_lasting {a s : State} (ha : Lasting a s) : Lasting a (startHandshake s) := by
  unfold startHandshake
  repeat' (first
    | with_reducible assumption
    | with_reducible apply sendChain_lasting
    | with_reducible apply modPair_lasting
    | split)

theorem failHandshake_lasting {a s : State} (cause : Nat) (ha : Lasting a s) : Lasting a (failHandshake cause s) := by
  unfold failHandshake
  repeat' (first
    | with_reducible assumption
    | with_reducible apply note_lasting
    | with_reducible apply modPair_lasting)

theorem takeRandom_lasting {a s : State} (i : Nat) (n : Nat) (ha : Lasting a s) : OptLasts a (takeRandom i n s) := by
  unfold takeRandom
  repeat' (first
    | with_reducible assumption
    | with_reducible apply drawInst_lasting
    | split
    | with_reducible exact OptLasts.none
    | with_reducible apply OptLasts.some)

theorem takeScalar_lasting {a s : State} (i n : Nat) (ha : Lasting a s) : OptLasts a (takeScalar i n s) := by
  induction n generalizing s with
  | zero => exact OptLasts.none
  | succ n ih =>
    unfold takeScalar
    have h1 := takeRandom_lasting i p384.orderLen ha
    cases h : takeRandom i p384.orderLen s with
    | none => exact OptLasts.none
    | some p =>
      obtain ⟨b, t⟩ := p
      dsimp only
      split
      · exact OptLasts.some _ (h1.keep _ _ h)
      · exact ih (h1.keep _ _ h)

theorem shakeEcdsa_lasting {a s : State} (msg : Bytes) (n : Nat) (ha : Lasting a s) : OptLasts a (shakeEcdsa msg n s) := by
  induction n generalizing s with
  | zero => exact OptLasts.none
  | succ n ih =>
    unfold shakeEcdsa
    have h1 := takeScalar_lasting 259 64 ha
    cases h : takeScalar 259 64 s with
    | none => exact OptLasts.none
    | some p =>
      obtain ⟨k, t⟩ := p
      dsimp only
      split
      · exact OptLasts.some _ (h1.keep _ _ h)
      · exact ih (h1.keep _ _ h)

theorem shakeSign_lasting {a s : State} (msg : Bytes) (ha : Lasting a s) : OptLasts a (shakeSign msg s) := by
  unfold shakeSign
  have h1 := shakeEcdsa_lasting msg 8 ha
  cases h : shakeEcdsa msg 8 s with
  | none => exact OptLasts.none
  | some p =>
    obtain ⟨x, t⟩ := p
    exact OptLasts.map (takeRandom_lasting _ _ (h1.keep _ _ h)) fun _ h => h

theorem sendHello_lasting {a s : State} (ha : Lasting a s) : MayLasts a (sendHello s) :=
  MayLasts.bind (takeRandom_lasting _ _ ha) fun _ _ h1 => MayLasts.bind (takeRandom_lasting _ _ h1) fun _ _ h2 =>
    MayLasts.bind (takeScalar_lasting _ _ h2) fun _ _ h3 => MayLasts.bind (shakeSign_lasting _ h3) fun _ _ h4 =>
      MayLasts.some (sendFrame_lasting _ _ (modPair_lasting _ h4))

theorem orStand_lasting {a s : State} (f : State → Option State) (ha : Lasting a s) (hf : MayLasts a (f s)) : Lasting a (orStand f s) := by
  unfold orStand
  cases h : f s with
  | none => exact ha
  | some t => exact hf.keep t h

theorem chainArrived_lasting {a s : State} (peerB : Bool) (ha : Lasting a s) : Lasting a (chainArrived peerB s) := by
  unfold chainArrived
  repeat' (first
    | with_reducible assumption
    | (extract_lets +onlyGivenNames x; (refine Lasting.cut a x ?_ ?_; (on_goal 1 => (unfold x; clear x)); (on_goal 2 => (intro _; clear_value x))))
    | with_reducible apply failHandshake_lasting
    | with_reducible apply modPair_lasting
    | with_reducible apply orStand_lasting
    | with_reducible apply sendHello_lasting
    | split)

theorem execCert_lasting {a s : State} (frame : Bytes) (ha : Lasting a s) : Lasts a (execCert frame s) := by
  unfold execCert
  repeat' (first
    | with_reducible assumption
    | (extract_lets +onlyGivenNames x; (first | (refine Lasting.cut a x ?_ ?_; (on_goal 1 => (unfold x; clear x)); (on_goal 2 => (intro _; clear_value x))) | (unfold x; clear x)))
    | with_reducible apply startHandshake_lasting
    | with_reducible apply receive_lasting
    | with_reducible apply modPair_lasting
    | with_reducible apply chainArrived_lasting
    | with_reducible apply Lasts.done
    | split
    | (with_reducible refine OptLasts.of ?_ ‹_ = some (_, _)›))

theorem answerHello_lasting {a s : State} (o : Bytes) (ha : Lasting a s) : MayLasts a (answerHello o s) :=
  MayLasts.bind (takeRandom_lasting _ _ ha) fun _ _ h1 => MayLasts.bind (takeScalar_lasting _ _ h1) fun _ _ h2 => by
    dsimp only
    split
    · exact MayLasts.some (failHandshake_lasting _ h2)
    · exact MayLasts.bind (shakeSign_lasting _ h2) fun _ _ h3 =>
        MayLasts.some (sendFrame_lasting _ _ (sendFrame_lasting _ _ (modPair_lasting _ h3)))

theorem execHello_lasting {a s : State} (frame : Bytes) (ha : Lasting a s) : Lasts a (execHello frame s) := by
  unfold execHello
  repeat' (first
    | with_reducible assumption
    | with_reducible apply receive_lasting
    | with_reducible apply failHandshake_lasting
    | with_reducible apply orStand_lasting
    | with_reducible apply answerHello_lasting
    | with_reducible apply Lasts.done
    | split
    | (with_reducible refine OptLasts.of ?_ ‹_ = some (_, _)›))

theorem execKeyx_lasting {a s : State} (frame : Bytes) (ha : Lasting a s) : Lasts a (execKeyx frame s) := by
  unfold execKeyx
  repeat' (first
    | with_reducible assumption
    | (extract_lets +onlyGivenNames x; (refine Lasting.cut a x ?_ ?_; (on_goal 1 => (unfold x; clear x)); (on_goal 2 => (intro _; clear_value x))))
    | with_reducible apply receive_lasting
    | with_reducible apply failHandshake_lasting
    | with_reducible apply modPair_lasting
    | with_reducible apply sendFrame_lasting
    | with_reducible apply Lasts.done
    | split
    | (with_reducible refine OptLasts.of ?_ ‹_ = some (_, _)›))

theorem execHandshakeRetry_lasting {a s : State} (ha : Lasting a s) : Lasts a (execHandshakeRetry s) := by
  unfold execHandshakeRetry
  repeat' (first
    | with_reducible assumption
    | with_reducible apply startHandshake_lasting
    | with_reducible apply Lasts.done
    | split)

theorem setLanes_lasting {a s : State} (l : BitVec 4) (ha : Lasting a s) : Lasting a (setLanes l s) := by
  unfold setLanes
  repeat' (first
    | with_reducible assumption
    | with_reducible apply note_lasting
    | with_reducible apply modPair_lasting
    | split)

theorem execLinkTraining_lasting {a s : State} (lanes : BitVec 4) (ha : Lasting a s) : Lasts a (execLinkTraining lanes s) := by
  unfold execLinkTraining
  repeat' (first
    | with_reducible assumption
    | (extract_lets +onlyGivenNames x; (refine Lasting.cut a x ?_ ?_; (on_goal 1 => (unfold x; clear x)); (on_goal 2 => (intro _; clear_value x))))
    | with_reducible apply setLanes_lasting
    | with_reducible apply modPair_lasting
    | with_reducible apply tarnOpen_lasting
    | with_reducible apply startHandshake_lasting
    | with_reducible apply Lasts.done
    | split)

theorem endSession_lasting {a s : State} (ha : Lasting a s) : Lasting a (endSession s) := by
  unfold endSession
  repeat' (first
    | with_reducible assumption
    | (extract_lets +onlyGivenNames x; (refine Lasting.cut a x ?_ ?_; (on_goal 1 => (unfold x; clear x)); (on_goal 2 => (intro _; clear_value x))))
    | with_reducible apply becomeAlone_lasting
    | with_reducible apply modPair_lasting
    | split)

theorem execLinkTrainingLost_lasting {a s : State} (ha : Lasting a s) : Lasts a (execLinkTrainingLost s) := by
  unfold execLinkTrainingLost
  repeat' (first
    | with_reducible assumption
    | (extract_lets +onlyGivenNames x; (refine Lasting.cut a x ?_ ?_; (on_goal 1 => (unfold x; clear x)); (on_goal 2 => (intro _; clear_value x))))
    | with_reducible apply modPair_lasting
    | with_reducible apply setLanes_lasting
    | with_reducible apply endSession_lasting
    | with_reducible apply tarnOpen_lasting
    | with_reducible apply Lasts.done
    | split)

theorem execHeartbeatSend_lasting {a s : State} (ha : Lasting a s) : Lasts a (execHeartbeatSend s) := by
  unfold execHeartbeatSend
  repeat' (first
    | with_reducible assumption
    | (extract_lets +onlyGivenNames x; (refine Lasting.cut a x ?_ ?_; (on_goal 1 => (unfold x; clear x)); (on_goal 2 => (intro _; clear_value x))))
    | with_reducible apply emit_lasting
    | with_reducible apply modPair_lasting
    | with_reducible apply sendFrame_lasting
    | with_reducible apply Lasts.done
    | split)

theorem noteActive_lasting {a s : State} (role : Nat) (ha : Lasting a s) : Lasting a (noteActive role s) := by
  unfold noteActive
  repeat' (first
    | with_reducible assumption
    | with_reducible apply modPair_lasting
    | split)

theorem execSidebandCharacter_lasting {a s : State} (counter : BitVec 6) (role : BitVec 2) (ha : Lasting a s) : Lasts a (execSidebandCharacter counter role s) := by
  unfold execSidebandCharacter
  repeat' (first
    | with_reducible assumption
    | (extract_lets +onlyGivenNames x; (first | (refine Lasting.cut a x ?_ ?_; (on_goal 1 => (unfold x; clear x)); (on_goal 2 => (intro _; clear_value x))) | (unfold x; clear x)))
    | with_reducible apply modPair_lasting
    | with_reducible apply note_lasting
    | with_reducible apply noteActive_lasting
    | with_reducible apply Lasts.done
    | split)

theorem losePath_lasting {a s : State} (sideband : Bool) (ha : Lasting a s) : Lasting a (losePath sideband s) := by
  unfold losePath
  repeat' (first
    | with_reducible assumption
    | (extract_lets +onlyGivenNames x; (refine Lasting.cut a x ?_ ?_; (on_goal 1 => (unfold x; clear x)); (on_goal 2 => (intro _; clear_value x))))
    | with_reducible apply modPair_lasting
    | with_reducible apply tarnOpen_lasting
    | with_reducible apply note_lasting)

theorem execPathLost_lasting {a s : State} (sideband : Bool) (ha : Lasting a s) : Lasts a (execPathLost sideband s) := by
  unfold execPathLost
  repeat' (first
    | with_reducible assumption
    | (extract_lets +onlyGivenNames x; (unfold x; clear x))
    | with_reducible apply losePath_lasting
    | with_reducible apply Lasts.done
    | split)

theorem execLinkAckTimeout_lasting {a s : State} (ha : Lasting a s) : Lasts a (execLinkAckTimeout s) := by
  unfold execLinkAckTimeout
  repeat' (first
    | with_reducible assumption
    | (intro _)
    | (extract_lets +onlyGivenNames x; (refine Lasting.cut a x ?_ ?_; (on_goal 1 => (unfold x; clear x)); (on_goal 2 => (intro _; clear_value x))))
    | with_reducible apply emit_lasting
    | with_reducible apply losePath_lasting
    | with_reducible apply Lasts.done
    | with_reducible apply Lasting.foldl
    | split)

theorem execPairInhibitChange_lasting {a s : State} (high : Bool) (ha : Lasting a s) : Lasts a (execPairInhibitChange high s) := by
  unfold execPairInhibitChange
  repeat' (first
    | with_reducible assumption
    | with_reducible apply modPair_lasting
    | with_reducible apply Lasts.done
    | split)

theorem execLivenessTimeout_lasting {a s : State} (ha : Lasting a s) : Lasts a (execLivenessTimeout s) := by
  unfold execLivenessTimeout
  repeat' (first
    | with_reducible assumption
    | with_reducible apply releaseActive_lasting
    | with_reducible apply Lasts.done)

theorem execPairClaim_lasting {a s : State} (ha : Lasting a s) : Lasts a (execPairClaim s) := by
  unfold execPairClaim
  repeat' (first
    | with_reducible assumption
    | with_reducible apply modPair_lasting
    | with_reducible apply Lasts.done
    | split)

end Sys2Proof.Machine
end

