-- ==== Sys2Proof/Laws/LastPair.lean ====
section
/-!
SUPPORT. What the operations of Machine/Pair.lean keep (Lasting.lean), one lemma each.
-/
set_option linter.all false
namespace Sys2Proof.Machine

theorem inherit_lasting {a s : State} (j : Job) (ha : Lasting a s) : Lasting a (inherit j s) := by
  unfold inherit
  repeat' (first
    | with_reducible assumption
    | (extract_lets +onlyGivenNames x; (refine Lasting.cut a x ?_ ?_; (on_goal 1 => (unfold x; clear x)); (on_goal 2 => (intro _; clear_value x))))
    | with_reducible apply modJob_lasting
    | with_reducible apply inheritCommits_lasting
    | with_reducible apply gates_lasting
    | split)

theorem resolve_lasting {a : State} (f : Fwd) (x : Resolved × State) (ha : Lasting a x.2) : Lasting a (resolve f x).2 := by
  obtain ⟨c, s⟩ := x
  unfold resolve
  dsimp only
  repeat' (first
    | exact ha
    | split
    | with_reducible apply fwdGone_lasting
    | with_reducible apply jrnFinal_lasting
    | with_reducible apply inherit_lasting)

theorem resolveAll_lasting {a : State} (l : List Fwd) : ∀ (x : Resolved × State), Lasting a x.2 → Lasting a (l.foldl (fun x f => resolve f x) x).2 := by
  induction l with
  | nil => exact fun _ h => h
  | cons f l ih => exact fun x h => ih _ (resolve_lasting f x h)

theorem markAbove_lasting {a s : State} (q : Nat) (ha : Lasting a s) : Lasting a (markAbove q s) := by
  unfold markAbove
  repeat' (first
    | with_reducible assumption
    | (extract_lets +onlyGivenNames x; (first | (have : Nv := x; clear this; unfold x; clear x) | (unfold x; clear x)))
    | split
    | fail_if_no_progress with_reducible refine Lasting.lit rfl ?_ rfl rfl rfl rfl rfl rfl rfl rfl rfl rfl)

theorem failover_lasting {a s : State} (ha : Lasting a s) : Lasting a (failover s) := by
  unfold failover
  repeat' (first
    | with_reducible assumption
    | with_reducible apply resolveAll_lasting
    | with_reducible apply markAbove_lasting
    | with_reducible apply pairTo_lasting
    | with_reducible apply note_lasting
    | fail_if_no_progress with_reducible refine Lasting.lit rfl ?_ rfl rfl rfl rfl rfl rfl rfl rfl rfl rfl)

theorem becomeActive_lasting {a s : State} (ha : Lasting a s) : Lasting a (becomeActive s) := by
  unfold becomeActive
  repeat' (first
    | with_reducible assumption
    | (extract_lets +onlyGivenNames x; (first | (refine Lasting.cut a x ?_ ?_; (on_goal 1 => (unfold x; clear x)); (on_goal 2 => (intro _; clear_value x))) | (unfold x; clear x)))
    | with_reducible apply modPair_lasting
    | with_reducible apply sendMsix_lasting
    | with_reducible apply note_lasting
    | with_reducible apply failover_lasting
    | split)

theorem execClaimCheck_lasting {a s : State} (ha : Lasting a s) : Lasts a (execClaimCheck s) := by
  unfold execClaimCheck
  repeat' (first
    | with_reducible assumption
    | (extract_lets +onlyGivenNames x; (unfold x; clear x))
    | with_reducible apply note_lasting
    | with_reducible apply modPair_lasting
    | with_reducible apply becomeActive_lasting
    | with_reducible apply Lasts.done
    | split)

theorem modFwd_lasting {a s : State} (q : Nat) (f : Fwd → Fwd) (ha : Lasting a s) : Lasting a (modFwd q f s) := by
  unfold modFwd
  repeat' (first
    | with_reducible assumption
    | with_reducible apply modPair_lasting)

theorem differs_lasting {a s : State} (j : Job) (st : W16) (ha : Lasting a s) : Lasting a (differs j st s) := by
  unfold differs
  repeat' (first
    | with_reducible assumption
    | with_reducible apply diverge_lasting
    | with_reducible apply sendResult_lasting)

theorem copyBlob_lasting {a s : State} (j : Job) (f : Fwd) (second : Bool) (index : Nat) (ha : Lasting a s) : Lasting a (copyBlob j f second index s).2 := by
  unfold copyBlob
  repeat' (first
    | with_reducible assumption
    | (with_reducible refine loadBlob_lasting _ _ _ ?_ ‹loadBlob _ _ _ _ = _›)
    | (extract_lets +onlyGivenNames x; (first | (have : Nat → W16 → State → State := x; clear this; unfold x; clear x; beta_reduce) | (unfold x; clear x)))
    | with_reducible apply endJob_lasting
    | with_reducible apply note_lasting
    | with_reducible apply modJob_lasting
    | split)

theorem copyBind_lasting {a s : State} (q : Nat) (second : Bool) (n : Nat) (ha : Lasting a s) : Lasting a (copyBind q second n s).2 := by
  induction n generalizing s with
  | zero => exact ha
  | succ n ih =>
  unfold copyBind
  repeat' (first
    | with_reducible apply ih
    | with_reducible assumption
    | (extract_lets +onlyGivenNames x; (unfold x; clear x))
    | with_reducible apply bindRole_lasting
    | with_reducible apply differs_lasting
    | with_reducible apply modJob_lasting
    | with_reducible apply copyBlob_lasting
    | with_reducible apply endJob_lasting
    | split
    | (with_reducible refine Lasting.ofPair ?_ ‹_ = (_, _)›)
    | (with_reducible refine BoundLasts.ofGot ?_ ‹_ = Bound.got _ _›)
    | (with_reducible refine BoundLasts.ofErr ?_ ‹_ = Bound.err _ _›))

theorem copyProgress_lasting {a s : State} (q : Nat) (ha : Lasting a s) : Lasting a (copyProgress q s) := by
  unfold copyProgress
  repeat' (first
    | with_reducible assumption
    | (extract_lets +onlyGivenNames x; (refine Lasting.cut a x ?_ ?_; (on_goal 1 => (unfold x; clear x)); (on_goal 2 => (intro _; clear_value x))))
    | with_reducible apply copyBind_lasting
    | with_reducible apply modJob_lasting
    | with_reducible apply inputHandle_lasting
    | with_reducible apply toUnit_lasting
    | split
    | (with_reducible refine Lasting.ofPair ?_ ‹_ = (_, _)›))

theorem copiesAll_lasting {a s : State} (ha : Lasting a s) : Lasting a (copiesAll s) := by
  unfold copiesAll
  repeat' (first
    | with_reducible assumption
    | with_reducible apply copyProgress_lasting
    | with_reducible apply Lasting.foldl)

theorem execAdmit_lasting {a s : State} (frame : Bytes) (ha : Lasting a s) : Lasts a (execAdmit frame s) := by
  unfold execAdmit
  repeat' (first
    | with_reducible assumption
    | (extract_lets +onlyGivenNames x; (first | (refine Lasting.cut a x ?_ ?_; (on_goal 1 => (unfold x; clear x)); (on_goal 2 => (intro _; clear_value x))) | (unfold x; clear x)))
    | with_reducible apply receive_lasting
    | with_reducible apply jrnAdd_lasting
    | with_reducible apply modPair_lasting
    | with_reducible apply sendJack_lasting
    | with_reducible apply Lasts.done
    | split
    | fail_if_no_progress with_reducible refine Lasting.lit rfl ?_ rfl rfl rfl rfl rfl rfl rfl rfl rfl rfl
    | (with_reducible refine OptLasts.of ?_ ‹_ = some (_, _)›))

theorem execDispatchFrame_lasting {a s : State} (frame : Bytes) (ha : Lasting a s) : Lasts a (execDispatchFrame frame s) := by
  unfold execDispatchFrame
  repeat' (first
    | with_reducible assumption
    | (extract_lets +onlyGivenNames x; (first | (refine Lasting.cut a x ?_ ?_; (on_goal 1 => (unfold x; clear x)); (on_goal 2 => (intro _; clear_value x))) | (unfold x; clear x)))
    | with_reducible apply receive_lasting
    | with_reducible apply modFwd_lasting
    | with_reducible apply copyProgress_lasting
    | with_reducible apply Lasts.done
    | split
    | fail_if_no_progress with_reducible refine Lasting.lit rfl ?_ rfl rfl rfl rfl rfl rfl rfl rfl rfl rfl
    | (with_reducible refine OptLasts.of ?_ ‹_ = some (_, _)›))

theorem execDataFrame_lasting {a s : State} (frame : Bytes) (ha : Lasting a s) : Lasts a (execDataFrame frame s) := by
  unfold execDataFrame
  repeat' (first
    | with_reducible assumption
    | with_reducible apply receive_lasting
    | with_reducible apply copyProgress_lasting
    | with_reducible apply modFwd_lasting
    | with_reducible apply Lasts.done
    | split
    | (with_reducible refine OptLasts.of ?_ ‹_ = some (_, _)›))

theorem execRandomFrame_lasting {a s : State} (frame : Bytes) (ha : Lasting a s) : Lasts a (execRandomFrame frame s) := by
  unfold execRandomFrame
  repeat' (first
    | with_reducible assumption
    | with_reducible apply receive_lasting
    | with_reducible apply modFwd_lasting
    | with_reducible apply Lasts.done
    | split
    | (with_reducible refine OptLasts.of ?_ ‹_ = some (_, _)›))

theorem putRecord_lasting {a s : State} (q : Nat) (kind : Nat) (index : Nat) (b : Bytes) (ha : Lasting a s) : Lasting a (putRecord q kind index b s) := by
  unfold putRecord
  repeat' (first
    | with_reducible assumption
    | with_reducible apply applyCommit_lasting
    | with_reducible apply noteCommits_lasting
    | split)

theorem execCommitFrame_lasting {a s : State} (frame : Bytes) (ha : Lasting a s) : Lasts a (execCommitFrame frame s) := by
  unfold execCommitFrame
  repeat' (first
    | with_reducible assumption
    | (extract_lets +onlyGivenNames x; (unfold x; clear x))
    | with_reducible apply receive_lasting
    | with_reducible apply diverge_lasting
    | with_reducible apply sendResult_lasting
    | with_reducible apply putRecord_lasting
    | with_reducible apply modFwd_lasting
    | with_reducible apply Lasts.done
    | split
    | (with_reducible refine OptLasts.of ?_ ‹_ = some (_, _)›))

theorem execDoneFrame_lasting {a s : State} (frame : Bytes) (ha : Lasting a s) : Lasts a (execDoneFrame frame s) := by
  unfold execDoneFrame
  repeat' (first
    | with_reducible assumption
    | (extract_lets +onlyGivenNames x; (first | (refine Lasting.cut a x ?_ ?_; (on_goal 1 => (unfold x; clear x)); (on_goal 2 => (intro _; clear_value x))) | (unfold x; clear x)))
    | with_reducible apply receive_lasting
    | with_reducible apply modFwd_lasting
    | with_reducible apply sendJack_lasting
    | with_reducible apply jrnFinal_lasting
    | with_reducible apply copiesAll_lasting
    | with_reducible apply fwdSettle_lasting
    | with_reducible apply Lasts.done
    | split
    | (with_reducible refine OptLasts.of ?_ ‹_ = some (_, _)›))

theorem execResultFrame_lasting {a s : State} (frame : Bytes) (ha : Lasting a s) : Lasts a (execResultFrame frame s) := by
  unfold execResultFrame
  repeat' (first
    | with_reducible assumption
    | (extract_lets +onlyGivenNames x; (unfold x; clear x))
    | with_reducible apply receive_lasting
    | with_reducible apply diverge_lasting
    | with_reducible apply dropJob_lasting
    | with_reducible apply modJob_lasting
    | with_reducible apply Lasts.done
    | split
    | (with_reducible refine OptLasts.of ?_ ‹_ = some (_, _)›))

theorem execJack_lasting {a s : State} (frame : Bytes) (ha : Lasting a s) : Lasts a (execJack frame s) := by
  unfold execJack
  repeat' (first
    | with_reducible assumption
    | with_reducible apply receive_lasting
    | with_reducible apply Lasts.done
    | split
    | fail_if_no_progress with_reducible refine Lasting.lit rfl ?_ rfl rfl rfl rfl rfl rfl rfl rfl rfl rfl
    | (with_reducible refine OptLasts.of ?_ ‹_ = some (_, _)›))

theorem peerState_lasting {a s : State} (n : Nat) (ha : Lasting a s) : Lasting a (peerState n s) := by
  unfold peerState
  repeat' (first
    | with_reducible assumption
    | (extract_lets +onlyGivenNames x; (first | (refine Lasting.cut a x ?_ ?_; (on_goal 1 => (unfold x; clear x)); (on_goal 2 => (intro _; clear_value x))) | (unfold x; clear x)))
    | with_reducible apply modPair_lasting
    | with_reducible apply note_lasting
    | with_reducible apply pairTo_lasting
    | with_reducible apply becomeAlone_lasting
    | split)

theorem streamAll_lasting {a s : State} (ha : Lasting a s) : Lasting a (streamAll s) := by
  unfold streamAll
  repeat' (first
    | with_reducible assumption
    | (intro _)
    | (extract_lets +onlyGivenNames x; (refine Lasting.cut a x ?_ ?_; (on_goal 1 => (unfold x; clear x)); (on_goal 2 => (intro _; clear_value x))))
    | with_reducible apply sendFrame_lasting
    | with_reducible apply modPair_lasting
    | with_reducible apply Lasting.foldl)

theorem startCatchup_lasting {a s : State} (q : Option Nat) (copy : Bool) (ha : Lasting a s) : Lasting a (startCatchup q copy s) := by
  unfold startCatchup
  repeat' (first
    | with_reducible assumption
    | (extract_lets +onlyGivenNames x; (refine Lasting.cut a x ?_ ?_; (on_goal 1 => (unfold x; clear x)); (on_goal 2 => (intro _; clear_value x))))
    | with_reducible apply modPair_lasting
    | with_reducible apply note_lasting
    | with_reducible apply pairTo_lasting
    | with_reducible apply streamAll_lasting)

theorem freeBit_lasting {a : State} : CmdLasts a (freeBit : Cmd Bool) := by
  unfold freeBit
  repeat' (first
    | with_reducible assumption
    | with_reducible apply CmdLasts.mk'
    | with_reducible apply RunLasts.ok
    | (intro _)
    | with_reducible apply freeBelow_lasting)

theorem repairRun_lasting {a : State} (j : Job) : CmdLasts a ((repairRun j) : Cmd Run) := by
  unfold repairRun
  repeat' (first
    | with_reducible assumption
    | with_reducible apply CmdLasts.bindGet
    | with_reducible apply CmdLasts.bind
    | with_reducible apply CmdLasts.pure
    | with_reducible apply CmdLasts.modify
    | (intro _)
    | with_reducible apply CmdLasts.hold
    | with_reducible apply CmdLasts.need
    | with_reducible apply freeBit_lasting
    | with_reducible apply CmdLasts.of
    | with_reducible apply startCatchup_lasting
    | with_reducible apply judge_lasting
    | split)

theorem execPairStatusRepair_lasting {a s : State} (seq : Nat) (ha : Lasting a s) : Lasts a (execPairStatusRepair seq s) := by
  unfold execPairStatusRepair
  repeat' (first
    | with_reducible assumption
    | with_reducible apply runOp_lasting
    | with_reducible apply repairRun_lasting
    | with_reducible apply Lasts.done)

theorem autoJoin_lasting {a s : State} (ha : Lasting a s) : Lasting a (autoJoin s) := by
  unfold autoJoin
  repeat' (first
    | with_reducible assumption
    | with_reducible apply freeBelow_lasting
    | with_reducible apply startCatchup_lasting
    | split
    | (with_reducible refine Lasting.ofPair ?_ ‹_ = (_, _)›))

theorem execConfirm_lasting {a s : State} (frame : Bytes) (ha : Lasting a s) : Lasts a (execConfirm frame s) := by
  unfold execConfirm
  repeat' (first
    | with_reducible assumption
    | with_reducible apply receive_lasting
    | with_reducible apply failHandshake_lasting
    | with_reducible apply autoJoin_lasting
    | with_reducible apply modPair_lasting
    | with_reducible apply Lasts.done
    | split
    | (with_reducible refine OptLasts.of ?_ ‹_ = some (_, _)›))

theorem execHeartbeat_lasting {a s : State} (frame : Bytes) (ha : Lasting a s) : Lasts a (execHeartbeat frame s) := by
  unfold execHeartbeat
  repeat' (first
    | with_reducible assumption
    | (extract_lets +onlyGivenNames x; (first | (refine Lasting.cut a x ?_ ?_; (on_goal 1 => (unfold x; clear x)); (on_goal 2 => (intro _; clear_value x))) | (unfold x; clear x)))
    | with_reducible apply receive_lasting
    | with_reducible apply modPair_lasting
    | with_reducible apply noteActive_lasting
    | with_reducible apply streamAll_lasting
    | with_reducible apply note_lasting
    | with_reducible apply peerState_lasting
    | with_reducible apply Lasts.done
    | split
    | (with_reducible refine OptLasts.of ?_ ‹_ = some (_, _)›))

theorem join_lasting {a s : State} (ha : Lasting a s) : Lasting a (join s) := by
  unfold join
  repeat' (first
    | with_reducible assumption
    | (extract_lets +onlyGivenNames x; (refine Lasting.cut a x ?_ ?_; (on_goal 1 => (unfold x; clear x)); (on_goal 2 => (intro _; clear_value x))))
    | with_reducible apply clearMain_lasting
    | with_reducible apply modPair_lasting
    | with_reducible apply note_lasting
    | with_reducible apply pairTo_lasting)

theorem execSnapshot_lasting {a s : State} (frame : Bytes) (ha : Lasting a s) : Lasts a (execSnapshot frame s) := by
  unfold execSnapshot
  repeat' (first
    | with_reducible assumption
    | (extract_lets +onlyGivenNames x; (first | (refine Lasting.cut a x ?_ ?_; (on_goal 1 => (unfold x; clear x)); (on_goal 2 => (intro _; clear_value x))) | (unfold x; clear x)))
    | with_reducible apply receive_lasting
    | with_reducible apply join_lasting
    | with_reducible apply modPair_lasting
    | with_reducible apply putRecord_lasting
    | with_reducible apply Lasts.done
    | split
    | (with_reducible refine OptLasts.of ?_ ‹_ = some (_, _)›))

theorem takeVault_lasting {a s : State} (ha : Lasting a s) : Lasting a (takeVault s) := by
  unfold takeVault
  repeat' (first
    | with_reducible assumption
    | (intro _)
    | (extract_lets +onlyGivenNames x; (refine Lasting.cut a x ?_ ?_; (on_goal 1 => (unfold x; clear x)); (on_goal 2 => (intro _; clear_value x))))
    | with_reducible apply setVault_lasting
    | with_reducible apply putRecord_lasting
    | with_reducible apply Lasting.foldl
    | split)

theorem execSnapshotEnd_lasting {a s : State} (frame : Bytes) (ha : Lasting a s) : Lasts a (execSnapshotEnd frame s) := by
  unfold execSnapshotEnd
  repeat' (first
    | with_reducible assumption
    | (extract_lets +onlyGivenNames x; (refine Lasting.cut a x ?_ ?_; (on_goal 1 => (unfold x; clear x)); (on_goal 2 => (intro _; clear_value x))))
    | with_reducible apply receive_lasting
    | with_reducible apply takeVault_lasting
    | with_reducible apply modPair_lasting
    | with_reducible apply pairTo_lasting
    | with_reducible apply clearMain_lasting
    | with_reducible apply note_lasting
    | with_reducible apply Lasts.done
    | split
    | fail_if_no_progress with_reducible refine Lasting.lit rfl ?_ rfl rfl rfl rfl rfl rfl rfl rfl rfl rfl
    | (with_reducible refine OptLasts.of ?_ ‹_ = some (_, _)›))

theorem execCatchupInStep_lasting {a s : State} (ha : Lasting a s) : Lasts a (execCatchupInStep s) := by
  unfold execCatchupInStep
  repeat' (first
    | with_reducible assumption
    | (extract_lets +onlyGivenNames x; (first | (refine Lasting.cut a x ?_ ?_; (on_goal 1 => (unfold x; clear x)); (on_goal 2 => (intro _; clear_value x))) | (unfold x; clear x)))
    | with_reducible apply modPair_lasting
    | with_reducible apply note_lasting
    | with_reducible apply pairTo_lasting
    | with_reducible apply Lasts.done
    | split)

theorem execDetach_lasting {a s : State} (frame : Bytes) (ha : Lasting a s) : Lasts a (execDetach frame s) := by
  unfold execDetach
  repeat' (first
    | with_reducible assumption
    | (extract_lets +onlyGivenNames x; (unfold x; clear x))
    | with_reducible apply receive_lasting
    | with_reducible apply diverge_lasting
    | with_reducible apply becomeAlone_lasting
    | with_reducible apply Lasts.done
    | split
    | (with_reducible refine OptLasts.of ?_ ‹_ = some (_, _)›))

theorem execPairCtrlDetach_lasting {a s : State} (ha : Lasting a s) : Lasts a (execPairCtrlDetach s) := by
  unfold execPairCtrlDetach
  repeat' (first
    | with_reducible assumption
    | (extract_lets +onlyGivenNames x; (first | (refine Lasting.cut a x ?_ ?_; (on_goal 1 => (unfold x; clear x)); (on_goal 2 => (intro _; clear_value x))) | (unfold x; clear x)))
    | with_reducible apply served_lasting
    | with_reducible apply pairTo_lasting
    | with_reducible apply modPair_lasting
    | with_reducible apply clearMain_lasting
    | with_reducible apply detach_lasting
    | with_reducible apply Lasts.done
    | split)

theorem handoverRun_lasting {a : State} (j : Job) : CmdLasts a ((handoverRun j) : Cmd Run) := by
  unfold handoverRun
  repeat' (first
    | with_reducible assumption
    | with_reducible apply CmdLasts.bindGet
    | with_reducible apply CmdLasts.bind
    | with_reducible apply CmdLasts.pure
    | with_reducible apply CmdLasts.modify
    | (intro _)
    | with_reducible apply CmdLasts.of
    | with_reducible apply CmdLasts.hold
    | with_reducible apply CmdLasts.need
    | with_reducible apply modPair_lasting
    | split)

theorem execPairStatusHandover_lasting {a s : State} (seq : Nat) (ha : Lasting a s) : Lasts a (execPairStatusHandover seq s) := by
  unfold execPairStatusHandover
  repeat' (first
    | with_reducible assumption
    | with_reducible apply runOp_lasting
    | with_reducible apply handoverRun_lasting
    | with_reducible apply Lasts.done)

theorem letGo_lasting {a s : State} (ha : Lasting a s) : Lasting a (letGo s) := by
  unfold letGo
  repeat' (first
    | with_reducible assumption
    | with_reducible apply note_lasting
    | with_reducible apply modPair_lasting
    | with_reducible apply releaseActive_lasting)

theorem sendHandover_lasting {a s : State} (ha : Lasting a s) : Lasting a (sendHandover s) := by
  unfold sendHandover
  repeat' (first
    | with_reducible assumption
    | with_reducible apply sendFrame_lasting)

theorem execHandoverDrained_lasting {a s : State} (ha : Lasting a s) : Lasts a (execHandoverDrained s) := by
  unfold execHandoverDrained
  repeat' (first
    | with_reducible assumption
    | (extract_lets +onlyGivenNames x; (unfold x; clear x))
    | with_reducible apply letGo_lasting
    | with_reducible apply sendHandover_lasting
    | with_reducible apply modPair_lasting
    | with_reducible apply Lasts.done
    | split)

theorem execHandover_lasting {a s : State} (frame : Bytes) (ha : Lasting a s) : Lasts a (execHandover frame s) := by
  unfold execHandover
  repeat' (first
    | with_reducible assumption
    | with_reducible apply receive_lasting
    | with_reducible apply modPair_lasting
    | with_reducible apply Lasts.done
    | split
    | fail_if_no_progress with_reducible refine Lasting.lit rfl ?_ rfl rfl rfl rfl rfl rfl rfl rfl rfl rfl
    | (with_reducible refine OptLasts.of ?_ ‹_ = some (_, _)›))

theorem pairReadRun_lasting {a : State} (j : Job) : CmdLasts a ((pairReadRun j) : Cmd Run) := by
  unfold pairReadRun
  repeat' (first
    | with_reducible assumption
    | with_reducible apply CmdLasts.bind
    | with_reducible apply CmdLasts.pure
    | (intro _)
    | with_reducible apply CmdLasts.of
    | with_reducible apply share_lasting)

theorem execPairStatusRead_lasting {a s : State} (seq : Nat) (ha : Lasting a s) : Lasts a (execPairStatusRead seq s) := by
  unfold execPairStatusRead
  repeat' (first
    | with_reducible assumption
    | with_reducible apply runOp_lasting
    | with_reducible apply pairReadRun_lasting
    | with_reducible apply Lasts.done)

end Sys2Proof.Machine
end

