-- ==== Sys2Proof/Laws/LastRegs.lean ====
section
/-!
SUPPORT. What the operations of Machine/Regs.lean keep (Lasting.lean), one lemma each.
-/
set_option linter.all false
namespace Sys2Proof.Machine

theorem setLock_lasting {a s : State} (b : Nat) (ha : Lasting a s) : Lasting a (setLock b s) := by
  unfold setLock
  repeat' (first
    | with_reducible assumption
    | (extract_lets +onlyGivenNames x; (first | (have : Scree := x; clear this; unfold x; clear x) | (have : TimeBlk := x; clear this; unfold x; clear x)))
    | with_reducible apply noteTimeCfg_lasting
    | with_reducible apply note_lasting
    | split
    | fail_if_no_progress with_reducible refine Lasting.lit rfl ?_ rfl rfl rfl rfl rfl rfl rfl rfl rfl rfl)

theorem lockIf_lasting {a s : State} (v : Nat) (b : Nat) (ha : Lasting a s) : Lasting a (lockIf v b s) := by
  unfold lockIf
  repeat' (first
    | with_reducible assumption
    | with_reducible apply setLock_lasting
    | split)

theorem execSysLockWrite_lasting {a s : State} (value : W32) (ha : Lasting a s) : Lasts a (execSysLockWrite value s) := by
  unfold execSysLockWrite
  repeat' (first
    | with_reducible assumption
    | (intro _)
    | with_reducible apply served_lasting
    | with_reducible apply setLock_lasting
    | with_reducible apply Lasts.done
    | with_reducible apply Lasting.foldl
    | split)

theorem rwl_lasting {a s : State} (b off : Nat) (same : Bool) (store : State → State) (ha : Lasting a s)
    (hs : ∀ s, Lasting a s → Lasting a (store s)) : Lasting a (rwl b off same store s) := by
  unfold rwl
  split
  · exact hs s ha
  · split
    · exact ha
    · exact accError_lasting _ _ ha

theorem execCustCertSelWrite_lasting {a s : State} (value : W32) (ha : Lasting a s) : Lasts a (execCustCertSelWrite value s) := by
  unfold execCustCertSelWrite
  repeat' (first
    | with_reducible assumption
    | with_reducible apply served_lasting
    | with_reducible apply Lasts.done
    | fail_if_no_progress with_reducible refine Lasting.lit rfl ?_ rfl rfl rfl rfl rfl rfl rfl rfl rfl rfl)

theorem execCustCertDataRead_lasting {a s : State} (ha : Lasting a s) : Lasts a (execCustCertDataRead s) := by
  unfold execCustCertDataRead
  repeat' (first
    | with_reducible assumption
    | with_reducible apply emit_lasting
    | with_reducible apply Lasts.done
    | split
    | fail_if_no_progress with_reducible refine Lasting.lit rfl ?_ rfl rfl rfl rfl rfl rfl rfl rfl rfl rfl)

theorem setLatch_lasting {a s : State} (p : Nat) (off : Nat) (w : W32) (ha : Lasting a s) : Lasting a (setLatch p off w s) := by
  unfold setLatch
  repeat' (first
    | with_reducible assumption
    | fail_if_no_progress with_reducible refine Lasting.lit rfl ?_ rfl rfl rfl rfl rfl rfl rfl rfl rfl rfl)

theorem pfError_lasting {a s : State} (p : Nat) (bit : Nat) (off : Nat) (ha : Lasting a s) : Lasting a (pfError p bit off s) := by
  unfold pfError
  repeat' (first
    | with_reducible assumption
    | with_reducible apply accError_lasting
    | split)

theorem readMon_lasting {a s : State} (off : Nat) (ha : Lasting a s) : Lasting a (readMon off s) :=
  emit_lasting _ (Lasting.lit rfl (freeBytes_lasting 4 ha) rfl rfl rfl rfl rfl rfl rfl rfl rfl rfl)

theorem readWord_lasting {a s : State} (p : Fin 256) (off : Nat) (ha : Lasting a s) : Lasts a (readWord p off s) := by
  unfold readWord
  repeat' (first
    | with_reducible assumption
    | (extract_lets +onlyGivenNames x; (refine Lasting.cut a x ?_ ?_; (on_goal 1 => (unfold x; clear x)); (on_goal 2 => (intro _; clear_value x))))
    | with_reducible apply emit_lasting
    | with_reducible apply setLatch_lasting
    | with_reducible apply startSearch_lasting
    | with_reducible apply execCustCertDataRead_lasting
    | with_reducible apply execTmpEvregDataRead_lasting
    | with_reducible apply readMon_lasting
    | with_reducible apply pfError_lasting
    | with_reducible apply Lasts.done
    | split)

theorem execLowerWordRead_lasting {a s : State} (p : Fin 256) (offset : Nat) (ha : Lasting a s) : Lasts a (execLowerWordRead p offset s) := by
  unfold execLowerWordRead
  repeat' (first
    | with_reducible assumption
    | with_reducible apply emit_lasting
    | with_reducible apply pfError_lasting
    | with_reducible apply readWord_lasting
    | with_reducible apply Lasts.done
    | split)

theorem ringSet_lasting {a s : State} (p : Nat) (r : Nat) (f : Ring → Ring) (ha : Lasting a s) : Lasting a (ringSet p r f s) := by
  unfold ringSet
  repeat' (first
    | with_reducible assumption
    | with_reducible apply modRing_lasting)

theorem ringWrite64_lasting {a s : State} (p : Nat) (o : Nat) (v : Nat) (ha : Lasting a s) : Lasting a (ringWrite64 p o v s) := by
  unfold ringWrite64
  repeat' (first
    | with_reducible assumption
    | with_reducible apply ringSet_lasting
    | split)

theorem cursorWrite_lasting {a s : State} (v : Nat) (ha : Lasting a s) : Lasting a (cursorWrite v s) := by
  unfold cursorWrite
  repeat' (first
    | with_reducible assumption
    | (intro _)
    | with_reducible apply modScr_lasting
    | split)

theorem write64_lasting {a s : State} (p : Fin 256) (off : Nat) (v : Nat) (ha : Lasting a s) : Lasts a (write64 p off v s) := by
  unfold write64
  repeat' (first
    | with_reducible assumption
    | (extract_lets +onlyGivenNames x; (first | (have : ∃ y : State → State, y = x := ⟨x, rfl⟩; clear this; unfold x; clear x; beta_reduce) | (have : TimeBlk := x; clear this; unfold x; clear x)))
    | with_reducible apply setStage_lasting
    | with_reducible apply served_lasting
    | with_reducible apply ringWrite64_lasting
    | with_reducible apply modPart_lasting
    | with_reducible apply execJrnWinSeqWrite_lasting
    | with_reducible apply execTimePair_lasting
    | with_reducible apply openTo_lasting
    | with_reducible apply cursorWrite_lasting
    | with_reducible apply execScrAckWrite_lasting
    | with_reducible apply execTarnStatusClear_lasting
    | with_reducible apply execTarnSevWrite_lasting
    | with_reducible apply Lasts.done
    | split
    | fail_if_no_progress with_reducible refine Lasting.lit rfl ?_ rfl rfl rfl rfl rfl rfl rfl rfl rfl rfl)

theorem ringWrite32_lasting {a s : State} (p : Fin 256) (o : Nat) (v : Nat) (ha : Lasting a s) : Lasts a (ringWrite32 p o v s) := by
  unfold ringWrite32
  repeat' (first
    | with_reducible assumption
    | with_reducible apply served_lasting
    | with_reducible apply ringSet_lasting
    | with_reducible apply modRing_lasting
    | with_reducible apply execRingEnable_lasting
    | with_reducible apply execRingDisable_lasting
    | with_reducible apply Lasts.done
    | split)

theorem partErrClear_lasting {a s : State} (p : Nat) (v : Nat) (ha : Lasting a s) : Lasting a (partErrClear p v s) := by
  unfold partErrClear
  repeat' (first
    | with_reducible assumption
    | with_reducible apply modPart_lasting)

theorem msixWrite_lasting {a s : State} (p : Fin 256) (o : Nat) (v : Nat) (ha : Lasting a s) : Lasts a (msixWrite p o v s) := by
  unfold msixWrite
  repeat' (first
    | with_reducible assumption
    | (extract_lets +onlyGivenNames x; (have : (Vector_ → Vector_) → Next := x; clear this; unfold x; clear x; beta_reduce))
    | with_reducible apply execMsixVectorUnmask_lasting
    | with_reducible apply Lasts.done
    | split
    | fail_if_no_progress with_reducible refine Lasting.lit rfl ?_ rfl rfl rfl rfl rfl rfl rfl rfl rfl rfl)

theorem cirqCfgWrite_lasting {a s : State} (v : Nat) (ha : Lasting a s) : Lasting a (cirqCfgWrite v s) := by
  unfold cirqCfgWrite
  repeat' (first
    | with_reducible assumption
    | (intro _)
    | with_reducible apply lockIf_lasting
    | with_reducible apply rwl_lasting
    | fail_if_no_progress with_reducible refine Lasting.lit rfl ?_ rfl rfl rfl rfl rfl rfl rfl rfl rfl rfl)

theorem pairCfgWrite_lasting {a s : State} (v : Nat) (ha : Lasting a s) : Lasting a (pairCfgWrite v s) := by
  unfold pairCfgWrite
  repeat' (first
    | with_reducible assumption
    | (intro _)
    | (extract_lets +onlyGivenNames x; (first | (refine Lasting.cut a x ?_ ?_; (on_goal 1 => (unfold x; clear x)); (on_goal 2 => (intro _; clear_value x))) | (have : ∃ y : State → State, y = x := ⟨x, rfl⟩; clear this; unfold x; clear x; beta_reduce)))
    | with_reducible apply modPair_lasting
    | with_reducible apply pairTo_lasting
    | with_reducible apply endSession_lasting
    | with_reducible apply lockIf_lasting
    | with_reducible apply rwl_lasting
    | split)

theorem peerWrite_lasting {a s : State} (off : Nat) (v : Nat) (ha : Lasting a s) : Lasting a (peerWrite off v s) := by
  unfold peerWrite
  repeat' (first
    | with_reducible assumption
    | (intro _)
    | with_reducible apply rwl_lasting
    | with_reducible apply modPair_lasting)

theorem scrCfgWrite_lasting {a s : State} (v : Nat) (ha : Lasting a s) : Lasting a (scrCfgWrite v s) := by
  unfold scrCfgWrite
  repeat' (first
    | with_reducible assumption
    | (intro _)
    | with_reducible apply lockIf_lasting
    | with_reducible apply rwl_lasting
    | with_reducible apply modScr_lasting)

theorem scrRateWrite_lasting {a s : State} (v : Nat) (ha : Lasting a s) : Lasting a (scrRateWrite v s) := by
  unfold scrRateWrite
  repeat' (first
    | with_reducible assumption
    | (intro _)
    | with_reducible apply rwl_lasting
    | with_reducible apply modScr_lasting
    | split)

theorem tarnCfgWrite_lasting {a s : State} (v : Nat) (ha : Lasting a s) : Lasting a (tarnCfgWrite v s) := by
  unfold tarnCfgWrite
  repeat' (first
    | with_reducible assumption
    | (intro _)
    | with_reducible apply lockIf_lasting
    | with_reducible apply rwl_lasting
    | with_reducible apply modTarn_lasting)

theorem pmcCfgWrite_lasting {a s : State} (v : Nat) (ha : Lasting a s) : Lasting a (pmcCfgWrite v s) := by
  unfold pmcCfgWrite
  repeat' (first
    | with_reducible assumption
    | (intro _)
    | with_reducible apply lockIf_lasting
    | with_reducible apply rwl_lasting
    | fail_if_no_progress with_reducible refine Lasting.lit rfl ?_ rfl rfl rfl rfl rfl rfl rfl rfl rfl rfl)

theorem counterWrite_lasting {a s : State} (off : Nat) (f : Counter → Counter) (ha : Lasting a s) : Lasting a (counterWrite off f s) := by
  unfold counterWrite
  repeat' (first
    | with_reducible assumption
    | (intro _)
    | with_reducible apply rwl_lasting
    | fail_if_no_progress with_reducible refine Lasting.lit rfl ?_ rfl rfl rfl rfl rfl rfl rfl rfl rfl rfl)

theorem pwrCfgWrite_lasting {a s : State} (v : Nat) (ha : Lasting a s) : Lasting a (pwrCfgWrite v s) := by
  unfold pwrCfgWrite
  repeat' (first
    | with_reducible assumption
    | (intro _)
    | with_reducible apply lockIf_lasting
    | with_reducible apply rwl_lasting
    | with_reducible apply modPwr_lasting)

theorem andThen_lasting {a : State} {n : Next} {f : State → Next} (hn : Lasts a n) (hf : ∀ s, Lasting a s → Lasts a (f s)) :
    Lasts a (andThen n f) := by
  cases n with
  | next s => exact hf s (hn.keep s rfl)
  | fault r => exact ⟨fun t e => by cases e⟩
  | refused r => exact ⟨fun t e => by cases e⟩

theorem ctrlBits_lasting {a s : State} (v : Nat) (f g : State → Next) (ha : Lasting a s) (hf : ∀ s, Lasting a s → Lasts a (f s))
    (hg : ∀ s, Lasting a s → Lasts a (g s)) : Lasts a (ctrlBits v f g s) := by
  refine andThen_lasting ?_ fun t ht => ?_
  · split
    · exact hf s ha
    · exact Lasts.done ha
  · split
    · exact hg t ht
    · exact Lasts.done ht

theorem pfWrite32_lasting {a s : State} (off : Nat) (v : Nat) (ha : Lasting a s) : Lasts a (pfWrite32 off v s) := by
  unfold pfWrite32
  repeat' (first
    | with_reducible assumption
    | exact fun _ => rfl
    | exact fun _ h => h
    | (intro _)
    | (extract_lets +onlyGivenNames x; (first | (refine Lasting.cut a x ?_ ?_; (on_goal 1 => (unfold x; clear x)); (on_goal 2 => (intro _; clear_value x))) | (refine Lasting.cut a x.2 ?_ ?_; (on_goal 1 => (unfold x; clear x)); (on_goal 2 => (intro _; clear_value x))) | (have : (State → State) → Next := x; clear this; unfold x; clear x; beta_reduce) | (unfold x; clear x)))
    | with_reducible apply served_lasting
    | with_reducible apply msixWrite_lasting
    | with_reducible apply peerWrite_lasting
    | with_reducible apply execSysLockWrite_lasting
    | with_reducible apply execTimeCfgWrite_lasting
    | with_reducible apply execAcceptFree_lasting
    | with_reducible apply cirqCfgWrite_lasting
    | with_reducible apply execMasKsHeadWrite_lasting
    | with_reducible apply lockIf_lasting
    | with_reducible apply rwl_lasting
    | with_reducible apply execNewtWinStart_lasting
    | with_reducible apply execIguWinStart_lasting
    | with_reducible apply modRng_lasting
    | with_reducible apply execRngCtrlRestart_lasting
    | with_reducible apply modPart_lasting
    | with_reducible apply execPartCtrlReset_lasting
    | with_reducible apply execPartVfCtrlReset_lasting
    | with_reducible apply partErrClear_lasting
    | with_reducible apply modCust_lasting
    | with_reducible apply execCustCertSelWrite_lasting
    | with_reducible apply openTo_lasting
    | with_reducible apply ctrlBits_lasting
    | with_reducible apply execTmpCtrlResume_lasting
    | with_reducible apply execTmpCtrlEvregClear_lasting
    | with_reducible apply pairCfgWrite_lasting
    | with_reducible apply execPairCtrlDetach_lasting
    | with_reducible apply scrCfgWrite_lasting
    | with_reducible apply modScr_lasting
    | with_reducible apply execScrCtrlFreeze_lasting
    | with_reducible apply execScrCtrlThaw_lasting
    | with_reducible apply scrRateWrite_lasting
    | with_reducible apply tarnCfgWrite_lasting
    | with_reducible apply modTarn_lasting
    | with_reducible apply execTarnInject_lasting
    | with_reducible apply pmcCfgWrite_lasting
    | with_reducible apply execPmcClearAll_lasting
    | with_reducible apply counterWrite_lasting
    | with_reducible apply execPmcSrCfgWrite_lasting
    | with_reducible apply pwrCfgWrite_lasting
    | with_reducible apply execPwrCtrlQuiesce_lasting
    | with_reducible apply execPwrCtrlUnquiesce_lasting
    | with_reducible apply execDbgCtrlClose_lasting
    | with_reducible apply Lasts.done
    | split
    | fail_if_no_progress with_reducible refine Lasting.lit rfl ?_ rfl rfl rfl rfl rfl rfl rfl rfl rfl rfl)

theorem write32_lasting {a s : State} (p : Fin 256) (off : Nat) (v : Nat) (ha : Lasting a s) : Lasts a (write32 p off v s) := by
  unfold write32
  repeat' (first
    | with_reducible assumption
    | with_reducible apply ringWrite32_lasting
    | with_reducible apply execJrnHrCfgWrite_lasting
    | with_reducible apply served_lasting
    | with_reducible apply modPart_lasting
    | with_reducible apply execPmcPDumpCfgWrite_lasting
    | with_reducible apply pfWrite32_lasting
    | with_reducible apply msixWrite_lasting
    | with_reducible apply execPartVfCtrlReset_lasting
    | with_reducible apply partErrClear_lasting
    | with_reducible apply execMasKsHeadWrite_lasting
    | with_reducible apply Lasts.done
    | split)

theorem writeHalf_lasting {a s : State} (p : Fin 256) (off : Nat) (upper : Bool) (v : Nat) (ha : Lasting a s) : Lasts a (writeHalf p off upper v s) := by
  unfold writeHalf
  repeat' (first
    | with_reducible assumption
    | with_reducible apply write64_lasting
    | with_reducible apply setStage_lasting
    | with_reducible apply Lasts.done
    | split)

theorem writeWord_lasting {a s : State} (p : Fin 256) (off : Nat) (v : Nat) (ha : Lasting a s) : Lasts a (writeWord p off v s) := by
  unfold writeWord
  repeat' (first
    | with_reducible assumption
    | with_reducible apply write32_lasting
    | with_reducible apply writeHalf_lasting
    | with_reducible apply pfError_lasting
    | with_reducible apply Lasts.done
    | split)

theorem doorbellWrite_lasting {a s : State} (p : Fin 256) (off : Nat) (size : Nat) (v : Nat) (ha : Lasting a s) : Lasts a (doorbellWrite p off size v s) := by
  unfold doorbellWrite
  repeat' (first
    | with_reducible assumption
    | with_reducible apply execCqHead_lasting
    | with_reducible apply execSqTail_lasting
    | with_reducible apply Lasts.done
    | split)

theorem execRegisterWrite_lasting {a s : State} (p : Fin 256) (offset : Nat) (size : Nat) (value : W64) (ha : Lasting a s) : Lasts a (execRegisterWrite p offset size value s) := by
  unfold execRegisterWrite
  repeat' (first
    | with_reducible assumption
    | (intro _)
    | with_reducible apply doorbellWrite_lasting
    | with_reducible apply writeWord_lasting
    | with_reducible apply write64_lasting
    | with_reducible apply andThen_lasting
    | with_reducible apply pfError_lasting
    | with_reducible apply Lasts.done
    | split)

theorem execDebugPageRefresh_lasting {a s : State} (trace : Bytes) (ha : Lasting a s) : Lasts a (execDebugPageRefresh trace s) := by
  unfold execDebugPageRefresh
  repeat' (first
    | with_reducible assumption
    | with_reducible apply Lasts.done
    | split
    | fail_if_no_progress with_reducible refine Lasting.lit rfl ?_ rfl rfl rfl rfl rfl rfl rfl rfl rfl rfl)

end Sys2Proof.Machine
end

