-- ==== Sys2Proof/Laws/LastSmbus.lean ====
section
/-!
SUPPORT. What the operations of Machine/Smbus.lean keep (Lasting.lean), one lemma each.
-/
set_option linter.all false
namespace Sys2Proof.Machine

theorem smbAnswer_lasting {a s : State} (pec : Bool) (f : State → Bytes × State) (ha : Lasting a s) (hf : ∀ s, Lasting a s → Lasting a (f s).2) :
    Lasts a (smbAnswer pec f s) := by
  unfold smbAnswer
  have h1 := hf s ha
  repeat' (first
    | with_reducible apply Lasts.done
    | split
    | with_reducible apply tarnOpen_lasting
    | with_reducible apply emit_lasting
    | exact h1
    | exact ha)

theorem execSmbStatus_lasting {a s : State} (pec : Bool) (ha : Lasting a s) : Lasts a (execSmbStatus pec s) := by
  unfold execSmbStatus
  repeat' (first
    | with_reducible assumption
    | (intro _)
    | with_reducible apply smbAnswer_lasting
    | with_reducible apply judgeAlert_lasting)

theorem execSmbHealth_lasting {a s : State} (pec : Bool) (ha : Lasting a s) : Lasts a (execSmbHealth pec s) := by
  unfold execSmbHealth
  repeat' (first
    | with_reducible assumption
    | (intro _)
    | with_reducible apply smbAnswer_lasting)

theorem execSmbTemperature_lasting {a s : State} (pec : Bool) (ha : Lasting a s) : Lasts a (execSmbTemperature pec s) := by
  unfold execSmbTemperature
  repeat' (first
    | with_reducible assumption
    | (intro _)
    | with_reducible apply smbAnswer_lasting
    | with_reducible apply freeBytes_lasting
    | split)

theorem execSmbEvidence_lasting {a s : State} (pec : Bool) (ha : Lasting a s) : Lasts a (execSmbEvidence pec s) := by
  unfold execSmbEvidence
  repeat' (first
    | with_reducible assumption
    | (intro _)
    | with_reducible apply smbAnswer_lasting)

theorem execSmbInventory_lasting {a s : State} (pec : Bool) (ha : Lasting a s) : Lasts a (execSmbInventory pec s) := by
  unfold execSmbInventory
  repeat' (first
    | with_reducible assumption
    | (intro _)
    | with_reducible apply smbAnswer_lasting)

theorem execSmbQuiesceState_lasting {a s : State} (pec : Bool) (ha : Lasting a s) : Lasts a (execSmbQuiesceState pec s) := by
  unfold execSmbQuiesceState
  repeat' (first
    | with_reducible assumption
    | (intro _)
    | with_reducible apply smbAnswer_lasting)

theorem execAlertResponseRead_lasting {a s : State} (ha : Lasting a s) : Lasts a (execAlertResponseRead s) := by
  unfold execAlertResponseRead
  repeat' (first
    | with_reducible assumption
    | (extract_lets +onlyGivenNames x; (refine Lasting.cut a x ?_ ?_; (on_goal 1 => (unfold x; clear x)); (on_goal 2 => (intro _; clear_value x))))
    | with_reducible apply judgeAlert_lasting
    | with_reducible apply emit_lasting
    | with_reducible apply Lasts.done
    | split
    | fail_if_no_progress with_reducible refine Lasting.lit rfl ?_ rfl rfl rfl rfl rfl rfl rfl rfl rfl rfl)

end Sys2Proof.Machine
end

