-- ==== Sys2Proof/Laws/Time.lean ====
section
/-!
SUPPORT. What leaves the TIME block as it is, and what the corrections of NTB make of it.
-/
namespace Sys2Proof.Machine

@[simp] theorem scree_time (e : Ev) (s : State) : (scree e s).time = s.time := by
  unfold scree screePut
  dsimp only
  repeat' split
  all_goals rfl

@[simp] theorem note_time (c k : Nat) (f : List Nat) (s : State) : (note c k f s).time = s.time := scree_time _ s

@[simp] theorem sendMsix_time (p v : Nat) (s : State) : (sendMsix p v s).time = s.time := by
  unfold sendMsix
  split <;> rfl

theorem releaseUnit_time (u : UnitRef) (s : State) : (releaseUnit u s).time = s.time := by
  unfold releaseUnit releaseNewt newtWindowTake iguWindowTake
  dsimp only
  repeat' split
  all_goals rfl

theorem endJob_time (q : Nat) (st : W16) (e : Ending) (s : State) : (endJob q st e s).time = s.time := by
  unfold endJob
  split
  · rfl
  · split
    · rfl
    · show (releaseHeld _ (unfreeze _ s)).time = _
      have h : ∀ j : Job, (unfreeze j s).time = s.time := fun j => by unfold unfreeze; split <;> rfl
      unfold releaseHeld
      split
      · exact h _
      · exact (releaseUnit_time _ _).trans (h _)

theorem endJobs_time (qs : List Nat) (st : W16) (e : Ending) : ∀ s : State, (endJobs qs st e s).time = s.time := by
  unfold endJobs
  induction qs with
  | nil => exact fun s => rfl
  | cons q r ih => exact fun s => (ih _).trans (endJob_time q st e s)

@[simp] theorem moveCursor_time (s : State) : (moveCursor s).time = s.time := endJobs_time _ _ _ _

/-- A step of NTB ends any slew. -/
@[simp] theorem stepNtb_time (off : Int) (s : State) :
    (stepNtb off s).time = { s.time with ntb := BitVec.ofInt 64 (s.time.ntb.toNat + off), slew := none, slewBack := false } := by
  unfold stepNtb
  rw [moveCursor_time, note_time]
  rfl

/-- Moving NTB to another state changes the state alone, and the time of the first setting when it is the first. -/
theorem setTimeState_time (n : NtbState) (s : State) :
    (setTimeState n s).time.state = n ∧ (setTimeState n s).time.ntb = s.time.ntb ∧ (setTimeState n s).time.slew = s.time.slew ∧
      (setTimeState n s).time.frac = s.time.frac ∧ (setTimeState n s).time.mono = s.time.mono := by
  unfold setTimeState
  split
  · rename_i h; exact ⟨h, rfl, rfl, rfl, rfl⟩
  · dsimp only
    rw [sendMsix_time, note_time]
    exact ⟨rfl, rfl, rfl, rfl, rfl⟩

end Sys2Proof.Machine
end

