-- ==== Sys2Proof/WellFormed.lean ====
section
/-!
DEFINITION. When a command is well formed: the operands a sender can supply at all. The opcode map's job is named by a
64-bit journal sequence (16 R447); a register access has an offset a BAR can hold and one transaction's size (21 R548, R557); a
frame on a link has its fixed or bounded length (02 R27, 15 R419); a region of a Guard unit has a size of 4 KiB to 4 GiB (17 R485).
The meanings do not depend on it: an ill-formed operand has the effect of whatever its bits say.
-/
namespace Sys2Proof

/-- Data of a host read holds at least one byte and at most `n`. -/
def ReadResult.wfTo (n : Nat) : ReadResult → Bool
  | .data bs => decide (0 < bs.length ∧ bs.length ≤ n)
  | .failed _ => true

/-- One read request asks for at most 4,096 bytes (03 R54, R569). -/
def ReadResult.wf (r : ReadResult) : Bool := r.wfTo 4096

/-- A sequence fits its 64 bits. -/
def seqWf (n : Nat) : Bool := decide (n < 2 ^ 64)

/-- A frame of the Ulistade link (15 R419): a header of 16 bytes, a payload of at most 4,752 and a tag of 16. -/
def frameWf (bs : Bytes) : Bool := decide (16 ≤ bs.length ∧ bs.length ≤ 4784)

/-- Every command of the opcode map names a job. -/
def Instr.seq? : Instr → Option Nat
  | .jobInputArrival seq _ _ => some seq
  | .blobLoad seq _ _ _ => some seq
  | .yieldPoint seq => some seq
  | .jobRetire seq => some seq
  | .completionWrite seq => some seq
  | .partCreate seq => some seq
  | .partDestroy seq => some seq
  | .partConfigure seq => some seq
  | .partFreeze seq => some seq
  | .partThaw seq => some seq
  | .partSaveSave seq => some seq
  | .partSaveRelease seq => some seq
  | .partSaveReissue seq => some seq
  | .partRestoreOffer seq => some seq
  | .partRestoreRestore seq => some seq
  | .partRestoreActivate seq => some seq
  | .partRestoreAbort seq => some seq
  | .tdesSetEnable seq => some seq
  | .tdesSetDisable seq => some seq
  | .authChallenge seq => some seq
  | .custodianSessionOpen seq => some seq
  | .custodianSessionExchange seq => some seq
  | .custodianSessionClose seq => some seq
  | .custodianEnrol seq => some seq
  | .masterLoad seq => some seq
  | .policySetTamper seq => some seq
  | .policySetRules seq => some seq
  | .policySetCellWindow seq => some seq
  | .lcTransition seq => some seq
  | .fwUpdateLoad seq => some seq
  | .fwUpdateActivate seq => some seq
  | .debugCertAccept seq => some seq
  | .attest seq => some seq
  | .pairStatusRead seq => some seq
  | .pairStatusRepair seq => some seq
  | .pairStatusHandover seq => some seq
  | .keyImport seq => some seq
  | .keyImportRestore seq => some seq
  | .keyExport seq => some seq
  | .keyGenerate seq => some seq
  | .keyReplace seq => some seq
  | .keyErase seq => some seq
  | .keyInvalidate seq => some seq
  | .keyAttrRead seq => some seq
  | .keyCheckValue seq => some seq
  | .keyTranslate seq => some seq
  | .blobTableSet seq => some seq
  | .blobEvict seq => some seq
  | .derivContextSet seq => some seq
  | .keystoreRingSet seq => some seq
  | .derivedCacheFlush seq => some seq
  | .tr34Import seq => some seq
  | .pinTranslate seq => some seq
  | .pinVerifyOffset seq => some seq
  | .pinVerifyPvv seq => some seq
  | .pinOffsetGen seq => some seq
  | .pvvGen seq => some seq
  | .pinGenerate seq => some seq
  | .dectabLoad seq => some seq
  | .arqcVerify seq => some seq
  | .arpcGenerate seq => some seq
  | .smMac seq => some seq
  | .smEncrypt seq => some seq
  | .smPinChange seq => some seq
  | .cvvGenerate seq => some seq
  | .cvvVerify seq => some seq
  | .dukptInitExport seq => some seq
  | .dukptDecrypt seq => some seq
  | .dukptEncrypt seq => some seq
  | .dukptMacGenerate seq => some seq
  | .dukptMacVerify seq => some seq
  | .encrypt seq => some seq
  | .decrypt seq => some seq
  | .macGenerate seq => some seq
  | .macVerify seq => some seq
  | .ff1Tokenise seq => some seq
  | .ff1Detokenise seq => some seq
  | .pkSign seq => some seq
  | .pkVerify seq => some seq
  | .pkKeypair seq => some seq
  | .pkAgree seq => some seq
  | .kemEncaps seq => some seq
  | .kemDecaps seq => some seq
  | .rsaDecrypt seq => some seq
  | .rsaEncrypt seq => some seq
  | .curveLoad seq => some seq
  | .random seq => some seq
  | .hash seq => some seq
  | .hmac seq => some seq
  | .nop seq => some seq
  | .fence seq => some seq
  | .cancel seq => some seq
  | .timeRead seq => some seq
  | .journalMark seq => some seq
  | .generationChangeCommit seq => some seq
  | .keystoreRecordWrite seq => some seq
  | _ => none

/-- The frame of a command that is a frame of the link. -/
def Instr.frame? : Instr → Option Bytes
  | .cert f => some f
  | .hello f => some f
  | .keyx f => some f
  | .confirm f => some f
  | .heartbeat f => some f
  | .admitFrame f => some f
  | .dispatchFrame f => some f
  | .dataFrame f => some f
  | .randomFrame f => some f
  | .commitFrame f => some f
  | .doneFrame f => some f
  | .resultFrame f => some f
  | .jack f => some f
  | .handover f => some f
  | .snapshot f => some f
  | .snapshotEnd f => some f
  | .detach f => some f
  | _ => none

/-- The check of the operands that are neither a job's sequence nor a link frame. -/
def Instr.rest : Instr → Bool
  | .descriptorArrival _ _ r => r.wf
  | .jobInputArrival _ off r => r.wf && decide (off < 2 ^ 32)
  | .blobLoad _ _ a b => a.wf && b.wfTo 9999
  | .hostReadTimeout (.input seq off) => seqWf seq && decide (off < 2 ^ 32)
  | .hostReadTimeout (.blob seq _) => seqWf seq
  | .timeOfDayFrame f => decide (f.length = 16)
  | .grdCommit map => decide (map.length ≤ 256) && map.all fun r => decide (12 ≤ r.2.2.size.toNat ∧ r.2.2.size.toNat ≤ 32)
  | .lowerWordRead _ off => decide (off < 2 ^ 24)
  | .registerWrite _ off size _ => decide (off < 2 ^ 24 ∧ 1 ≤ size ∧ size ≤ 4096)
  | _ => true

/-- The operands are ones a sender can supply. -/
def Instr.wf (i : Instr) : Bool :=
  (i.seq?.all seqWf) && (i.frame?.all frameWf) && i.rest

end Sys2Proof
end

