-- ==== Sys2Proof/Tests/Slice0.lean ====
section
/-!
SUPPORT. Tests: the refusals of WellFormed, a few values the spec works out, and for each statement with hypotheses a witness.

A witness `witness_X` takes the statement X and applies it to a concrete state and concrete operands, so that Lean checks that they meet all
hypotheses of the clause together; its conclusion is that the command answers a next state there.
-/
namespace Sys2Proof.Tests
open Sys2Proof Sys2Proof.Machine

/-! ## WellFormed refuses an ill-formed operand of each kind -/

theorem test_wf_seq : (Instr.nop (2 ^ 64)).wf = false := by decide
theorem test_wf_seq_ok : (Instr.nop (2 ^ 64 - 1)).wf = true := by decide
theorem test_wf_frame_short : (Instr.hello [1, 0]).wf = false := by decide
theorem test_wf_frame_ok : (Instr.hello (zeros 16)).wf = true := by decide
theorem test_wf_descriptor_data : (Instr.descriptorArrival 0 0 (.data [])).wf = false := by decide
theorem test_wf_input_offset : (Instr.jobInputArrival 1 (2 ^ 32) (.data [0])).wf = false := by decide
theorem test_wf_blob_data : (Instr.blobLoad 1 false (.data []) (.data [0])).wf = false := by decide
theorem test_wf_timeout_input : (Instr.hostReadTimeout (.input 1 (2 ^ 32))).wf = false := by decide
theorem test_wf_timeout_blob : (Instr.hostReadTimeout (.blob (2 ^ 64) false)).wf = false := by decide
theorem test_wf_time_frame : (Instr.timeOfDayFrame [0]).wf = false := by decide
theorem test_wf_region : (Instr.grdCommit [(0, 0, { en := true, base := 0, size := 11, worlds := 7, srd := 0 })]).wf = false := by decide
theorem test_wf_read_offset : (Instr.lowerWordRead 0 (2 ^ 24)).wf = false := by decide
theorem test_wf_write_size : (Instr.registerWrite 0 0 0 0).wf = false := by decide

/-! ## States for the witnesses -/

/-- A descriptor of partition 0 with parameters `par` and input length `n`. -/
def desc (op : W16) (n cap : Nat) (par : Bytes) : Desc :=
  { opcode := op, fence := false, inlined := false, irq := false, noJournal := false, version := 2, flow := 0, cls := 1, deadline := 0, keyA := 0,
    keyB := 0, inIova := 0, inLen := n, outCap := cap, outIova := 0, tag := 0, params := fit 8 par }

/-- A job of sequence 1 that runs, with all its input. -/
def job (op : W16) (par input : Bytes) : Job :=
  { newJob State.reset 0 0 0 (desc op input.length 8192 par) stOk with seq := 1, phase := .running, pieces := [(0, input)] }

/-- Attributes of a key. -/
def attrs (u0 u1 alg mode exp : Char) (mask : Nat) : Attrs :=
  { Attrs.none with usage := chars2 u0 u1, alg := chr alg, mode := chr mode, exp := chr exp, mask := BitVec.ofNat 16 mask }

/-- A key bound to a job. -/
def key (a : Attrs) (m : Bytes) : Binding :=
  { handle := 0x02000005, node := 5, gen := 1, attrs := a, depth := 1, check := [1, 2, 3, 4, 5], material := m, gcm := 0, image := zeros 64, curve := [] }

/-- A powered and started module whose clock is LOCKED and whose random service serves, with vault masters. -/
def live : State :=
  { State.reset with
    pwr := { Power.reset with perst := false, ready := true, domains := BitVec.ofNat 64 (2 ^ 60 - 1), phase := 13, slot := 58 }
    time := { TimeBlk.reset with mono := 10 ^ 12, ntb := BitVec.ofNat 64 (10 ^ 18), state := .locked, firstSet := some 0 }
    rng := { Rng.reset with state := 1, pool := [zeros 48], drbg := [0, 256, 257, 258, 259].map fun i => (i, { Drbg.off with up := true, key := zeros 32, v := zeros 16 }) }
    vault := { Vault.factory with parts := [(0, { VaultPart.absent with exists_ := true, master := some (zeros 32), gen := 1 }),
      (1, { VaultPart.absent with exists_ := true, master := some (zeros 32), gen := 1 }),
      (2, { VaultPart.absent with exists_ := true, master := some (zeros 32), gen := 1, frozen := true })] }
    parts := [0, 1, 2].map fun p => (p, { Part.custodian with bme := true, deficit := 8 })
    pair := { Pair.reset with state := .solo, role := 1, actOut := true, effective := true }
    mas := { Massif.reset with nodes := [(5, { Node.empty with state := .current, gen := 1, owner := 0, check := [1, 2, 3, 4, 5] })] } }

/-- A state with one job. -/
def one (j : Job) : State := { live with jobs := [j] }

/-- A check that a job is due. -/
def isDue (s : State) (op : W16) (q : Nat) (j : Job) : Bool :=
  decide (findJob s q = some j) && j.desc.opcode == op && (j.phase == .running || j.phase == .waitRandom || j.phase == .waiting) && serialFree s j &&
  (match namesPart j.desc with | some p => (partAt s p).resetting.isNone | none => true) && j.doom.isNone && !j.fwd

theorem due_of {s : State} {op : W16} {q : Nat} {j : Job} (h : isDue s op q j = true) : Due s op q j := by
  simp only [isDue, Bool.and_eq_true, Bool.or_eq_true, decide_eq_true_eq, beq_iff_eq, Bool.not_eq_true'] at h
  obtain ⟨⟨⟨⟨⟨⟨h1, h2⟩, h3⟩, h4⟩, h5⟩, h6⟩, h7⟩ := h
  refine ⟨h1, h2, by rcases h3 with (h | h) | h <;> simp [h], h4, ?_, by simpa using h6, h7⟩
  intro p hp
  rw [hp] at h5
  simpa using h5

/-- The command answers a next state. -/
def Completes (c : Instr) (s : State) : Prop := ∃ t, exec c s = .next t

/-- A job of an opcode without keys is due in the state that holds it alone. -/
theorem due_one {op : W16} {q : Nat} {j : Job} (h : isDue (one j) op q j = true) : Due (one j) op q j := due_of h

/-! ## Witnesses -/

theorem witness_StepRunsFrontCommand (h : Obligations.StepRunsFrontCommand) :
    step { State.reset with pending := [.nop 1] } = exec (.nop 1) State.reset := h (.nop 1) [] { State.reset with pending := [.nop 1] } rfl

theorem witness_IdleStepIsOneTick (h : Obligations.IdleStepIsOneTick) : ∃ t, step live = .next t ∧ t.time.ntb = live.time.ntb + 8 :=
  (h live rfl).elim fun t ht => ⟨t, ht.1, (ht.2.2.2.1 rfl rfl rfl).1⟩

theorem witness_StepKeeps (h : Obligations.StepKeepsMemoryCanonical) (g : Obligations.StepKeepsEvidence) :
    ∃ t, step live = .next t ∧ t.memWf ∧ live.Kept t := ⟨_, rfl, h live _ ⟨rfl, rfl, rfl⟩ rfl, g live _ rfl⟩

theorem witness_CommandsOnlyAddOutputs (h : Obligations.CommandsOnlyAddOutputs) : ∃ t, exec (.nop 1) live = .next t ∧ live.out <+: t.out :=
  ⟨_, rfl, (h (.nop 1) live _ rfl).2.2.1⟩

/-- A job with one key bound. -/
def jobA (op : W16) (par input : Bytes) (a : Binding) : Job := { job op par input with keyA := some a, desc := { desc op input.length 8192 par with keyA := a.handle } }
/-- A job with two keys bound. -/
def jobAB (op : W16) (par input : Bytes) (a b : Binding) : Job := { jobA op par input a with keyB := some b }
/-- An AES key-encryption key, a data key and a TDES key. -/
def kek : Binding := key (attrs 'K' '1' 'A' 'B' 'N' 0xFFFF) (zeros 32)
def dataKey : Binding := key (attrs 'D' '0' 'A' 'B' 'E' 0xFFFF) (zeros 16)
def tdesKey : Binding := key (attrs 'P' '0' 'T' 'B' 'E' 0xFFFF) (zeros 16)

theorem witness_EmptyCommandsEnd (h : Obligations.EmptyCommandsEnd) :
    Completes (.nop 1) (one (job 0x0A01 [] [])) ∧ Completes (.journalMark 1) (one (job 0x0A05 [] [])) ∧
    Completes (.fence 1) (one (job 0x0A02 [] [])) ∧
    Completes (.fence 1) { one (job 0x0A02 [] []) with jobs := [job 0x0A02 [] [], { job 0x0A01 [] [] with seq := 0 }] } ∧
    complete (job 0x0A01 [] []) (Run.output []) (one (job 0x0A01 [] [])) = endedWith (job 0x0A01 [] []) stOk [] (one (job 0x0A01 [] [])) :=
  ⟨⟨_, (h.1 _ _ (job 0x0A01 [] []) rfl).1 (due_of (by decide))⟩, ⟨_, (h.1 _ _ (job 0x0A05 [] []) rfl).2.1 (due_of (by decide))⟩,
   ⟨_, (h.1 _ _ (job 0x0A02 [] []) rfl).2.2.1 (due_of (by decide)) rfl⟩,
   ⟨_, (h.1 _ _ (job 0x0A02 [] []) rfl).2.2.2 (due_of (by decide)) (by decide)⟩, h.2 _ (job 0x0A01 [] []) [] rfl⟩

/-- The template of an AES data key of 16 bytes. -/
def template : Bytes := [BitVec.ofNat 8 68, BitVec.ofNat 8 48, chr 'A', chr 'B', chr 'E', 16, 0xFF, 0xFF] ++ zeros 16 ++ [BitVec.ofNat 8 48, BitVec.ofNat 8 48] ++ zeros 6
def jImport : Job := jobA 0x0201 [] [] kek
def jGenerate : Job := job 0x0203 [] template
def jGenerateOut : Job := job 0x0203 [2] template
def jRestore : Job := job 0x0201 [] []

theorem witness_KeysBecomeNodes (h : Obligations.KeysBecomeNodes) :
    Completes (.keyImport 1) (one jImport) ∧ Completes (.keyGenerate 1) (one jGenerate) ∧ Completes (.keyGenerate 1) (one jGenerateOut) ∧
    Completes (.keyImportRestore 1) (one jRestore) :=
  ⟨⟨_, h.1 (one jImport) 1 jImport kek (due_of (by decide)) (by decide) rfl (by decide)⟩,
   ⟨_, h.2.1 (one jGenerate) _ _ 1 jGenerate _ [] _ [] 1 0 0 (due_of (by decide)) rfl rfl (fun _ => rfl) (fun _ e => nomatch e) (fun e => nomatch e) rfl rfl rfl⟩,
   ⟨_, h.2.1 (one jGenerateOut) _ _ 1 jGenerateOut _ (kbpk (one jGenerateOut) 0) _ _ 1 0 0 (due_of (by decide)) rfl rfl (fun _ => rfl) (fun _ e => nomatch e)
     (fun _ => ⟨by decide, fun e => nomatch e⟩) rfl rfl rfl⟩,
   ⟨_, h.2.2 (one jRestore) 1 jRestore (due_of (by decide)) rfl rfl⟩⟩
def jExport : Job := jobAB 0x0202 [] [] dataKey kek
def jTranslate : Job := jobAB 0x0209 [] [] kek kek
def jAttr : Job := jobA 0x0207 [] [] kek
def jCheck : Job := jobA 0x0208 [] [] kek

theorem witness_KeysComeOut (h : Obligations.KeysComeOut) :
    Completes (.keyExport 1) (one jExport) ∧ Completes (.keyTranslate 1) (one jTranslate) ∧ Completes (.keyAttrRead 1) (one jAttr) ∧
    Completes (.keyCheckValue 1) (one jCheck) :=
  ⟨⟨_, (h.1 (one jExport) _ 1 jExport dataKey kek _ rfl rfl).1 (due_of (by decide)) rfl rfl rfl⟩,
   ⟨_, (h.1 (one jTranslate) live 1 jTranslate kek kek [] rfl rfl).2 (due_of (by decide))⟩,
   ⟨_, (h.2 (one jAttr) 1 jAttr kek rfl rfl).1 (due_of (by decide)) (by decide)⟩,
   ⟨_, (h.2 (one jCheck) 1 jCheck kek rfl rfl).2 (due_of (by decide)) (by decide)⟩⟩

def jErase : Job := jobA 0x0205 [] [] kek
def jInvalidate : Job := jobA 0x0206 [] [] kek
def jReplace : Job := jobA 0x0204 [] ([5, 1, 2, 3, 4, 5] ++ zeros 20) kek
def jReplaceB : Job := jobAB 0x0204 [] ([3, 1, 2, 3] ++ zeros 20) kek kek
def jBlobTable : Job := job 0x020A [] (zeros 16)
def jBlobEvict : Job := { job 0x020B [] [] with desc := { desc 0x020B 0 0 [] with keyA := 0x40000000 } }
def jRing : Job := job 0x020D [] (leBytes 8 0x10000 ++ [16] ++ zeros 15)
def jRingOff : Job := job 0x020D [] (zeros 24)
def jFlush : Job := job 0x020E [] []
def jCtx : Job := jobA 0x020C [] ([BitVec.ofNat 8 68, BitVec.ofNat 8 48, chr 'A', chr 'B', 16, 0, 0xFF, 0xFF, 3] ++ zeros 7 ++ [1, 2, 3] ++ zeros 29)
  { dataKey with material := zeros 32 }

theorem witness_KeysChange (h : Obligations.KeysChange) :
    Completes (.keyErase 1) (one jErase) ∧ Completes (.keyInvalidate 1) (one jInvalidate) ∧ Completes (.keyReplace 1) (one jReplace) ∧
    Completes (.keyReplace 1) (one jReplaceB) ∧ Completes (.blobTableSet 1) (one jBlobTable) ∧ Completes (.keystoreRingSet 1) (one jRing) ∧
    Completes (.keystoreRingSet 1) (one jRingOff) ∧ Completes (.derivedCacheFlush 1) (one jFlush) ∧ Completes (.derivContextSet 1) (one jCtx) ∧
    Completes (.blobEvict 1) { one jBlobEvict with parts := [(0, { Part.custodian with blobTable := some (0, 1) })] } :=
  ⟨⟨_, (h.1 (one jErase) 1 jErase kek rfl rfl rfl).1 (due_of (by decide)) rfl⟩,
   ⟨_, (h.1 (one jInvalidate) 1 jInvalidate kek rfl rfl rfl).2.1 (due_of (by decide)) rfl⟩,
   ⟨_, (h.1 (one jReplace) 1 jReplace kek rfl rfl rfl).2.2 _ _ (due_of (by decide)) (by decide) (by decide) (by decide) (fun _ e => nomatch e)
     (fun _ => ⟨rfl, rfl, rfl⟩) (by decide)⟩,
   ⟨_, (h.1 (one jReplaceB) 1 jReplaceB kek rfl rfl rfl).2.2 kek.material (.node 5 1) (due_of (by decide)) (by decide) (by decide) (by decide)
     (fun _ e => by cases e; exact ⟨rfl, rfl⟩) (fun e => nomatch e) (by decide)⟩,
   ⟨_, (h.2 (one jBlobTable) 1 jBlobTable).1 (due_of (by decide)) rfl rfl (by decide)⟩,
   ⟨_, (h.2 (one jRing) 1 jRing).2.2.1 (due_of (by decide)) rfl rfl (.inr (by decide))⟩,
   ⟨_, (h.2 (one jRingOff) 1 jRingOff).2.2.1 (due_of (by decide)) rfl rfl (.inl rfl)⟩,
   ⟨_, (h.2 (one jFlush) 1 jFlush).2.2.2.1 (due_of (by decide)) rfl⟩,
   ⟨_, (h.2 (one jCtx) 1 jCtx).2.2.2.2 { dataKey with material := zeros 32 } _ (due_of (by decide)) rfl rfl rfl (by decide) (by decide) (by decide) rfl
     (by decide) (by decide) (by decide)⟩,
   ⟨_, (h.2 { one jBlobEvict with parts := [(0, { Part.custodian with blobTable := some (0, 1) })] } 1 jBlobEvict).2.1 0 1 (due_of (by decide)) rfl (by decide) rfl (by decide)⟩⟩
/-- The account field of the PAN 4000001234567899. -/
def acct : Bytes := [16, 0x40, 0x00, 0x00, 0x12, 0x34, 0x56, 0x78, 0x99, 0xFF, 0xFF, 0]
def jEnc : Job := jobA 0x0601 [2] (zeros 48 ++ zeros 16) dataKey
def jDec : Job := jobA 0x0602 [5, 0, 16] (zeros 48) dataKey
def jMac : Job := jobA 0x0603 [6, 0, 16] [] dataKey
def jMacV : Job := jobA 0x0604 [6, 0, 16] (zeros 16) dataKey
def jTok : Job := jobA 0x0605 [0, 0] [48, 49, 50, 51, 52, 57] dataKey
def jDetok : Job := jobA 0x0606 [36, 1] [7, 122, 97, 48, 57] dataKey

theorem witness_DataCommandsAnswer (h : Obligations.DataCommandsAnswer) :
    Completes (.encrypt 1) (one jEnc) ∧ Completes (.decrypt 1) (one jDec) ∧ Completes (.macGenerate 1) (one jMac) ∧
    Completes (.macVerify 1) (one jMacV) ∧ Completes (.ff1Tokenise 1) (one jTok) ∧ Completes (.ff1Detokenise 1) (one jDetok) :=
  ⟨⟨_, (h.1 (one jEnc) 1 jEnc dataKey true rfl (by decide) (by decide) (by decide) (by decide)).1 rfl (due_of (by decide))⟩,
   ⟨_, (h.1 (one jDec) 1 jDec dataKey false rfl (by decide) (by decide) (by decide) (by decide)).2 rfl (due_of (by decide))⟩,
   ⟨_, (h.2 (one jMac) 1 jMac dataKey rfl).1 _ rfl (due_of (by decide))⟩,
   ⟨_, (h.2 (one jMacV) 1 jMacV dataKey rfl).2.1 _ rfl (by decide) (by decide) (due_of (by decide))⟩,
   ⟨_, ((h.2 (one jTok) 1 jTok dataKey rfl).2.2 [0, 1, 2, 3, 4, 9] (by decide)).1 (due_of (by decide))⟩,
   ⟨_, ((h.2 (one jDetok) 1 jDetok dataKey rfl).2.2 [35, 10, 0, 9] (by decide)).2 (due_of (by decide))⟩⟩

theorem witness_Ff1RoundTrip (h : Obligations.Ff1RoundTrip) : ff1 false (zeros 16) [] 36 (ff1 true (zeros 16) [] 36 [0, 35]) = [0, 35] :=
  h (zeros 16) [] 36 [0, 35] (by decide) (by decide) (by decide)

theorem witness_PinFieldsReadBack (h : Obligations.PinFieldsReadBack) :
    pinOf 4 (pinField 4 [1, 2, 3, 9] (List.replicate 16 15)) = some [1, 2, 3, 9] ∧
    pinOf 3 (pinField 3 [1, 2, 3, 4, 5, 6, 7, 8, 9, 0, 1, 2] (List.replicate 16 10)) = some [1, 2, 3, 4, 5, 6, 7, 8, 9, 0, 1, 2] :=
  ⟨h 4 _ _ (by decide) (by decide) (by decide) (by decide) (by decide) (by decide) (by decide),
   h 3 _ _ (by decide) (by decide) (by decide) (by decide) (by decide) (by decide) (by decide)⟩

def pan16 : List Nat := [4, 0, 0, 0, 0, 0, 1, 2, 3, 4, 5, 6, 7, 8, 9, 9]
def pvk : Binding := key (attrs 'V' '2' 'T' 'N' 'E' 0xFFFF) (zeros 16)
def bdk : Binding := key (attrs 'B' '0' 'T' 'X' 'E' 0xFFFF) (zeros 16)
def bdkAes : Binding := key (attrs 'B' '0' 'A' 'X' 'E' 0xFFFF) (zeros 16)
def jTrans : Job := jobAB 0x0301 [0x11, 0x11] (zeros 16 ++ zeros 12 ++ acct) tdesKey tdesKey
def jTransD : Job := jobAB 0x0301 [0, 0x10] (zeros 16 ++ [0, 0, 0, 0, 0, 0, 0, 0, 0, 1, 0, 0] ++ acct) bdk tdesKey
def jPinGen : Job := jobAB 0x0306 [0x14, 4] (zeros 28 ++ acct) dataKey dataKey
def jOffV : Job := jobAB 0x0302 [0, 4] (zeros 16 ++ zeros 12 ++ acct ++ zeros 8 ++ [0, 0, 0xFF, 0xFF, 0xFF, 0xFF] ++ zeros 2) tdesKey pvk
def jOffG : Job := jobAB 0x0304 [0, 4] (zeros 16 ++ zeros 12 ++ acct ++ zeros 8) tdesKey pvk
def jPvvV : Job := jobAB 0x0303 [0, 1] (zeros 16 ++ zeros 12 ++ acct ++ [0x12, 0x39] ++ zeros 6) tdesKey pvk
def jPvvG : Job := jobAB 0x0305 [0, 1] (zeros 16 ++ zeros 12 ++ acct) tdesKey pvk

theorem witness_PinCommandsAnswer (h : Obligations.PinCommandsAnswer) (g : Obligations.PvvFollowsItsMethod) :
    Completes (.pinTranslate 1) (one jTrans) ∧ Completes (.pinTranslate 1) (one jTransD) ∧ Completes (.pinGenerate 1) (one jPinGen) ∧
    Completes (.pinVerifyOffset 1) (one jOffV) ∧ Completes (.pinOffsetGen 1) (one jOffG) ∧ Completes (.pinVerifyPvv 1) (one jPvvV) ∧
    Completes (.pvvGen 1) (one jPvvG) :=
  ⟨⟨_, (h.1 (one jTrans) _ _ 1 jTrans tdesKey pan16 _ rfl).1 tdesKey _ (due_of (by decide)) rfl (by decide) (fun _ => ⟨rfl, rfl⟩)
     (fun e => nomatch e) (by decide) rfl (by decide) rfl⟩,
   ⟨_, (h.1 (one jTransD) _ _ 1 jTransD tdesKey pan16 [] rfl).1 bdk _ (due_of (by decide)) rfl (by decide) (fun e => nomatch e)
     (fun _ => ⟨by decide, _, rfl, rfl⟩) (by decide) rfl (by decide) rfl⟩,
   ⟨_, (h.1 (one jPinGen) live live 1 jPinGen dataKey pan16 [] rfl).2 (due_of (by decide)) rfl rfl rfl (by decide)⟩,
   ⟨_, (h.2 (one jOffV) 1 jOffV tdesKey pvk pan16 rfl rfl).1 (due_of (by decide)) rfl rfl (by decide) (by decide)⟩,
   ⟨_, (h.2 (one jOffG) 1 jOffG tdesKey pvk pan16 rfl rfl).2.1 (due_of (by decide)) rfl rfl⟩,
   ⟨_, (h.2 (one jPvvV) 1 jPvvV tdesKey pvk pan16 rfl rfl).2.2.1 (due_of (by decide)) rfl rfl (by decide)⟩,
   ⟨_, g (one jPvvG) 1 jPvvG tdesKey pvk pan16 (due_of (by decide)) rfl rfl rfl rfl⟩⟩
def cvk : Binding := key (attrs 'C' '0' 'T' 'C' 'E' 0xFFFF) (zeros 16)
def imk : Binding := key (attrs 'E' '0' 'A' 'X' 'E' 0xFFFF) (zeros 16)
def table : Bytes := [0, 1, 2, 3, 4, 5, 6, 7, 8, 9, 0, 1, 2, 3, 4, 5]
def jTab : Job := jobAB 0x0307 [3] (zeros 8 ++ table ++ zeros 16) pvk pvk
def jCvv : Job := jobA 0x0406 [0] (acct ++ [0x29, 0x12, 0x20, 0x1F]) cvk
def jCvv2 : Job := jobA 0x0406 [2] (acct ++ [0x29, 0x01, 0, 0]) cvk
def jCvvV : Job := jobA 0x0407 [1] (acct ++ [0x29, 0x12, 0, 0, 0x99, 0x9F]) cvk
def emv : Bytes := acct ++ [0x01, 1, 0, 7]
def jArqc : Job := jobA 0x0401 [0, 0] (emv ++ zeros 24 ++ [1]) imk
def jArpc : Job := jobA 0x0402 [0, 2] (emv ++ zeros 12 ++ [8] ++ zeros 11) imk
def jSmMac : Job := jobA 0x0403 [0] (emv ++ [4] ++ zeros 15 ++ [1]) imk
def jSmMacV : Job := jobA 0x0403 [1] (emv ++ [8] ++ zeros 7 ++ [1, 2, 3, 4, 5, 6, 7, 8] ++ [1]) imk
def jSmEnc : Job := jobA 0x0404 [] (emv ++ [1]) imk
def jSmPin : Job := jobAB 0x0405 [0] (zeros 28 ++ acct ++ [0x01, 0, 0, 7] ++ zeros 4) imk tdesKey

theorem witness_CardCommandsAnswer (h : Obligations.CardCommandsAnswer) (g : Obligations.CardValueFollowsItsMethod) :
    Completes (.dectabLoad 1) (one jTab) ∧ Completes (.cvvGenerate 1) (one jCvv) ∧ Completes (.cvvGenerate 1) (one jCvv2) ∧
    Completes (.cvvVerify 1) (one jCvvV) ∧ Completes (.arqcVerify 1) (one jArqc) ∧ Completes (.arpcGenerate 1) (one jArpc) ∧
    Completes (.smMac 1) (one jSmMac) ∧ Completes (.smMac 1) (one jSmMacV) ∧ Completes (.smEncrypt 1) (one jSmEnc) ∧ Completes (.smPinChange 1) (one jSmPin) :=
  ⟨⟨_, (h.1 (one jTab) 1 jTab).1 pvk (due_of (by decide)) rfl rfl rfl (fun _ => rfl)⟩,
   ⟨_, g (one jCvv) 1 jCvv cvk pan16 [2, 0, 1] (due_of (by decide)) rfl rfl rfl (by decide) (by decide) (by decide) (fun _ => rfl) (fun e => absurd rfl e)⟩,
   ⟨_, ((h.1 (one jCvv2) 1 jCvv2).2 cvk pan16 [9, 9, 9] [] rfl rfl (by decide) (by decide) (by decide) ⟨rfl, rfl⟩).1 (due_of (by decide)) rfl⟩,
   ⟨_, ((h.1 (one jCvvV) 1 jCvvV).2 cvk pan16 [0, 0, 0] [9, 9, 9] rfl rfl (by decide) (by decide) (by decide) ⟨rfl, rfl⟩).2 (due_of (by decide)) rfl rfl⟩,
   ⟨_, ((h.2 (one jArqc) _ 1 jArqc imk pan16 [0, 1] [0, 7] _ rfl rfl).1 rfl).1 (due_of (by decide)) rfl⟩,
   ⟨_, ((h.2 (one jArpc) _ 1 jArpc imk pan16 [0, 1] [0, 7] _ rfl rfl).1 rfl).2 (due_of (by decide)) rfl⟩,
   ⟨_, ((h.2 (one jSmMac) _ 1 jSmMac imk pan16 [0, 1] [0, 7] _ rfl rfl).2.1 rfl).1 (due_of (by decide)) (by decide) (by decide) rfl (by decide) (by decide) rfl⟩,
   ⟨_, ((h.2 (one jSmMacV) _ 1 jSmMacV imk pan16 [0, 1] [0, 7] _ rfl rfl).2.1 rfl).1 (due_of (by decide)) (by decide) (by decide) rfl (by decide) (by decide) rfl⟩,
   ⟨_, ((h.2 (one jSmEnc) _ 1 jSmEnc imk pan16 [0, 1] [0, 7] _ rfl rfl).2.1 rfl).2 (due_of (by decide)) (by decide) (by decide) (by decide)⟩,
   ⟨_, (h.2 (one jSmPin) _ 1 jSmPin imk pan16 [0, 1] [0, 7] _ rfl rfl).2.2 tdesKey rfl (due_of (by decide)) rfl rfl rfl rfl⟩⟩

def ksn : Bytes := [1, 2, 3, 4, 5, 6, 7, 8, 0, 0, 0, 1]
def jDe : Job := jobA 0x0503 [2] (ksn ++ [0, 2] ++ zeros 18 ++ zeros 16) bdkAes
def jDd : Job := jobA 0x0502 [1] (ksn ++ [1, 2] ++ zeros 18 ++ zeros 16) bdkAes
def jDm : Job := jobA 0x0504 [6, 16] (ksn ++ [0, 2] ++ zeros 18 ++ [1, 2]) bdkAes
def jDv : Job := jobA 0x0505 [6, 4] (ksn ++ [0, 2] ++ zeros 34) bdkAes
def jDi : Job := jobAB 0x0501 [] ([1, 2, 3, 4, 5, 6, 7, 8] ++ zeros 8) bdkAes kek
def jDlim : Job := jobA 0x0503 [2] ([1, 2, 3, 4, 5, 6, 7, 8, 0xFF, 0xFF, 0, 0] ++ [0, 2] ++ zeros 18) bdkAes

theorem witness_DukptCommandsAnswer (h : Obligations.DukptCommandsAnswer) :
    Completes (.dukptEncrypt 1) (one jDe) ∧ Completes (.dukptDecrypt 1) (one jDd) ∧ Completes (.dukptMacGenerate 1) (one jDm) ∧
    Completes (.dukptMacVerify 1) (one jDv) ∧ Completes (.dukptInitExport 1) (one jDi) ∧ Completes (.dukptEncrypt 1) (one jDlim) :=
  ⟨⟨_, (h.1 (one jDe) _ live 1 jDe bdkAes _ _ rfl).1 (due_of (by decide)) rfl (by decide)⟩,
   ⟨_, (h.1 (one jDd) _ live 1 jDd bdkAes _ _ rfl).2.1 (due_of (by decide)) rfl (by decide)⟩,
   ⟨_, (h.1 (one jDm) _ live 1 jDm bdkAes _ _ rfl).2.2.1 _ (due_of (by decide)) rfl rfl⟩,
   ⟨_, (h.1 (one jDv) _ live 1 jDv bdkAes _ _ rfl).2.2.2.1 _ (due_of (by decide)) rfl (by decide) rfl⟩,
   ⟨_, (h.1 (one jDi) _ _ 1 jDi bdkAes false [] rfl).2.2.2.2 kek _ _ (due_of (by decide)) rfl rfl rfl rfl (by decide) rfl rfl⟩,
   ⟨_, h.2 (one jDlim) 1 jDlim bdkAes (due_of (by decide)) rfl (by decide) rfl rfl (by decide) rfl⟩⟩
def pkKey (code : Nat) (m : Bytes) : Binding := key { attrs 'S' '0' 'E' 'S' 'E' 0xFFFF with code := code } m
def jTime : Job := job 0x0A04 [] []
def jRand : Job := { job 0x0801 [] [] with desc := desc 0x0801 0 16 [0] }
def jRandW : Job := { job 0x0801 [] [] with desc := desc 0x0801 0 16 [1] }
def jHash : Job := job 0x0901 [2] [1, 2, 3]
def jHmac : Job := jobA 0x0902 [2, 16] [1, 2, 3] dataKey

theorem witness_TimeRandomAndHashesAnswer (h : Obligations.TimeRandomAndHashesAnswer) :
    Completes (.timeRead 1) (one jTime) ∧ Completes (.random 1) (one jRand) ∧ Completes (.random 1) (one jRandW) ∧
    Completes (.random 1) (one { jRandW with phase := .waiting }) ∧ Completes (.hash 1) (one jHash) ∧ Completes (.hmac 1) (one jHmac) :=
  ⟨⟨_, (h.1 (one jTime) _ 1 jTime rfl).1 _ (due_of (by decide)) rfl⟩,
   ⟨_, (h.1 (one jRand) _ 1 jRand rfl).2.1 _ (due_of (by decide)) (.inl rfl) rfl⟩,
   ⟨_, (h.1 (one jRandW) live 1 jRandW rfl).2.2 (due_of (by decide)) rfl rfl (by decide) rfl⟩,
   ⟨_, (h.1 (one { jRandW with phase := .waiting }) _ 1 { jRandW with phase := .waiting } rfl).2.1 _ (due_of (by decide)) (.inr ⟨rfl, by decide, by decide⟩) rfl⟩,
   ⟨_, (h.2 (one jHash) 1 jHash).1 (due_of (by decide))⟩, ⟨_, (h.2 (one jHmac) 1 jHmac).2 dataKey (due_of (by decide)) rfl⟩⟩

def msg : Bytes := zeros 8 ++ [1, 2, 3]
def rawCurve : Bytes := [224, 0, 1] ++ zeros 5 ++ zeros 197
def ec : Binding := { pkKey 0x10 (zeros 97) with curve := rawCurve }
def ed : Binding := pkKey 6 (zeros 32)
def rsa : Binding := pkKey 0x20 (zeros 902)
def lat : Binding := pkKey 0x38 (zeros 32)
def jSign (b : Binding) (scheme hash : Byte) : Job := jobA 0x0701 [scheme, hash] msg b
def jVer : Job := jobA 0x0702 [2, 0] (zeros 8 ++ zeros 64 ++ [1, 2, 3]) ed
def jVerIn : Job := job 0x0702 [2, 0] ([0, 0, 6, 0, 32, 0, 0, 0] ++ zeros 32 ++ zeros 64 ++ [1, 2, 3])

set_option maxRecDepth 100000 in
theorem witness_SignaturesAreMadeAndVerified (h : Obligations.SignaturesAreMadeAndVerified) :
    Completes (.pkSign 1) (one (jSign ec 1 2)) ∧ Completes (.pkSign 1) (one (jSign ed 2 0)) ∧ Completes (.pkSign 1) (one (jSign rsa 3 2)) ∧
    Completes (.pkSign 1) (one (jSign rsa 4 2)) ∧ Completes (.pkSign 1) (one (jSign lat 5 0)) ∧ Completes (.pkVerify 1) (one jVer) ∧
    Completes (.pkVerify 1) (one jVerIn) :=
  ⟨⟨_, (h.1 (one (jSign ec 1 2)) live live 1 (jSign ec 1 2) ec _ _ (due_of (by decide)) rfl (by decide +kernel) rfl rfl).1 rfl⟩,
   ⟨_, (h.1 (one (jSign ed 2 0)) _ live 1 (jSign ed 2 0) ed _ _ (due_of (by decide)) rfl (by decide) rfl rfl).2.1 rfl rfl⟩,
   ⟨_, (h.1 (one (jSign rsa 3 2)) _ live 1 (jSign rsa 3 2) rsa _ _ (due_of (by decide)) rfl (by decide) rfl rfl).2.2.1 rfl rfl⟩,
   ⟨_, (h.1 (one (jSign rsa 4 2)) _ _ 1 (jSign rsa 4 2) rsa _ _ (due_of (by decide)) rfl (by decide) rfl rfl).2.2.2.1 _ rfl rfl rfl⟩,
   ⟨_, (h.1 (one (jSign lat 5 0)) _ live 1 (jSign lat 5 0) lat _ _ (due_of (by decide)) rfl (by decide) rfl rfl).2.2.2.2 _ rfl rfl⟩,
   ⟨_, h.2 (one jVer) 1 jVer _ _ _ (due_of (by decide)) rfl rfl (by decide) rfl⟩,
   ⟨_, h.2 (one jVerIn) 1 jVerIn _ _ _ (due_of (by decide)) rfl rfl (by decide) rfl⟩⟩

def pairT : Bytes := [BitVec.ofNat 8 83, BitVec.ofNat 8 48, chr 'S', chr 'E', 0x7F, 0] ++ zeros 18 ++ [BitVec.ofNat 8 48, BitVec.ofNat 8 48] ++ zeros 6
def jPair : Job := job 0x0703 [6, 1] pairT
def jPairB : Job := { job 0x0703 [6, 0] pairT with keyB := some kek }
def jAgree : Job := jobA 0x0704 [0] (zeros 8 ++ zeros 32) (pkKey 8 (zeros 32))
def jAgreeK : Job := jobA 0x0704 [1] (zeros 8 ++ zeros 32 ++ zeros 256) (pkKey 8 (zeros 32))
def jKem : Job := job 0x0705 [0x30] ([0, 0, 0, 0] ++ leBytes 4 800 ++ zeros 800)
def jKemD : Job := jobA 0x0706 [0x30] (zeros 768) (pkKey 0x30 (zeros 64))
def jRsaE : Job := job 0x0708 [1] ([1, 0, 0x20, 0] ++ leBytes 4 260 ++ zeros 260 ++ [9, 7])
def jRsaD : Job := jobA 0x0707 [1] ([1, 0, 0, 0, 0, 0, 0, 0] ++ [9] ++ zeros 256) rsa
def jCurveOff : Job := job 0x0709 [3] (zeros 8)
def jCurve : Job := job 0x0709 [0] rawCurve

set_option maxRecDepth 100000 in
theorem witness_PublicKeyCommandsAnswer (h : Obligations.PublicKeyCommandsAnswer) :
    Completes (.pkKeypair 1) (one jPair) ∧ Completes (.pkKeypair 1) (one jPairB) ∧ Completes (.pkAgree 1) (one jAgree) ∧
    Completes (.pkAgree 1) (one jAgreeK) ∧ Completes (.kemEncaps 1) (one jKem) ∧ Completes (.kemDecaps 1) (one jKemD) ∧
    Completes (.rsaEncrypt 1) (one jRsaE) ∧ Completes (.rsaDecrypt 1) (one jRsaD) ∧ Completes (.curveLoad 1) (one jCurveOff) ∧
    Completes (.curveLoad 1) (one jCurve) :=
  ⟨⟨_, (h.1 (one jPair) _ _ 1 jPair).1 _ _ _ _ _ [] (due_of (by decide)) rfl (by decide) (fun e => nomatch e) rfl (by decide) rfl rfl (fun _ e => nomatch e) (fun _ => ⟨rfl, rfl⟩)⟩,
   ⟨_, (h.1 (one jPairB) _ _ 1 jPairB).1 _ _ _ _ _ _ (due_of (by decide)) rfl (by decide) (fun _ => by decide) rfl (by decide) rfl rfl (fun _ e => by cases e; rfl) (fun e => nomatch e)⟩,
   ⟨_, (h.1 (one jAgree) _ live 1 jAgree).2 (pkKey 8 (zeros 32)) (due_of (by decide)) rfl rfl ⟨rfl, by decide⟩ rfl⟩,
   ⟨_, (h.1 (one jAgreeK) _ live 1 jAgreeK).2 (pkKey 8 (zeros 32)) (due_of (by decide)) rfl rfl ⟨by decide, by decide⟩ rfl⟩,
   ⟨_, (h.2 (one jKem) _ 1 jKem).1 _ (due_of (by decide)) (by decide +kernel) (by decide +kernel) (show _ ∧ _ from ⟨by decide +kernel, by decide +kernel⟩) (by decide +kernel) rfl⟩,
   ⟨_, (h.2 (one jKemD) live 1 jKemD).2.1 (pkKey 0x30 (zeros 64)) (due_of (by decide)) rfl rfl⟩,
   ⟨_, (h.2 (one jRsaE) _ 1 jRsaE).2.2.1 _ _ (due_of (by decide)) rfl rfl (by decide) (by decide) (by decide) rfl⟩,
   ⟨_, (h.2 (one jRsaD) _ 1 jRsaD).2.2.2.1 rsa (due_of (by decide)) rfl (by decide) rfl rfl rfl⟩,
   ⟨_, ((h.2 (one jCurveOff) live 1 jCurveOff).2.2.2.2 (due_of (by decide))).1 rfl rfl rfl⟩,
   ⟨_, ((h.2 (one jCurve) live 1 jCurve).2.2.2.2 (due_of (by decide))).2 (by decide) (by decide) (by decide) (by decide) rfl rfl⟩⟩

def jTr : Job := jobAB 0x020F [0] [0x30] rsa rsa
set_option maxRecDepth 100000 in
theorem witness_Tr34Imports (h : Obligations.Tr34Imports) : Completes (.tr34Import 1) (one jTr) :=
  ⟨_, h.1 (one jTr) _ 1 jTr rsa rsa _ (due_of (by decide)) rfl rfl rfl⟩
def jCreate : Job := job 0x0101 [7] (zeros 64)
def jConfig : Job := job 0x0103 [1] (zeros 64)
def jDestroy : Job := job 0x0102 [1] []
def jDestroyW : Job := { jDestroy with phase := .waiting }

theorem witness_PartitionsAreMadeAndDestroyed (h : Obligations.PartitionsAreMadeAndDestroyed) :
    Completes (.partCreate 1) (one jCreate) ∧ Completes (.partConfigure 1) (one jConfig) ∧ Completes (.partDestroy 1) (one jDestroy) ∧
    Completes (.partDestroy 1) { one jDestroyW with parts := [(0, Part.custodian), (1, { Part.custodian with destroying := true })] } :=
  ⟨⟨_, (h.1 (one jCreate) 1 jCreate).1 (due_of (by decide)) (by decide) (by decide)⟩,
   ⟨_, (h.1 (one jConfig) 1 jConfig).2 (due_of (by decide)) (by decide) rfl⟩,
   ⟨_, (h.2 (one jDestroy) 1 jDestroy (due_of (by decide))).2 (by decide) (by decide) (by decide)⟩,
   ⟨_, (h.2 { one jDestroyW with parts := [(0, Part.custodian), (1, { Part.custodian with destroying := true })] } 1 jDestroyW (due_of (by decide))).1 rfl (by decide)⟩⟩

def jFreeze : Job := job 0x0104 [1] []
def jThaw : Job := job 0x0105 [2] []
def jTdes1 : Job := job 0x0108 [1, 1] [1]
def jTdes0 : Job := job 0x0108 [2, 0] []

theorem witness_PartitionsFreezeThawAndSetTdes (h : Obligations.PartitionsFreezeThawAndSetTdes) :
    Completes (.partFreeze 1) (one jFreeze) ∧ Completes (.partThaw 1) (one jThaw) ∧ Completes (.tdesSetEnable 1) (one jTdes1) ∧
    Completes (.tdesSetDisable 1) (one jTdes0) :=
  ⟨⟨_, (h.1 (one jFreeze) 1 jFreeze rfl).1 (due_of (by decide)) (.inr ⟨by decide, by decide⟩)⟩,
   ⟨_, (h.1 (one jThaw) 1 jThaw rfl).2 (due_of (by decide)) (by decide) (by decide)⟩,
   ⟨_, (h.2 (one jTdes1) 1 jTdes1).1 (due_of (by decide)) rfl⟩,
   ⟨_, (h.2 (one jTdes0) 1 jTdes0).2 (due_of (by decide)) rfl rfl (.inr (by decide))⟩⟩

/-- A receipt for partition 2. -/
def receipt : Bytes := [1, 3, 2, 0] ++ zeros 16 ++ jobSerial live jThaw ++ zeros 3481
def jSave : Job := job 0x0106 [2] []
def jRelease : Job := job 0x0106 [2] ([2])
def jReissue : Job := job 0x0106 [2] ([3, 0, 0, 0] ++ leBytes 4 3517 ++ zeros 8 ++ receipt)
def jOffer : Job := job 0x0107 [2] []
def jRest : Job := job 0x0107 [2] [2]
def jActivate : Job := job 0x0107 [2] [3]
def jAbort : Job := job 0x0107 [2] ([4] ++ zeros 15)
def released : State := { one jReissue with vault := { Vault.factory with parts := [(0, { VaultPart.absent with exists_ := true }),
  (2, { VaultPart.absent with release := some (zeros 32, zeros 32) })] } }

set_option maxRecDepth 100000 in
theorem reissue_items : itemsOf jReissue.input 3 1 = some [slice jReissue.input 16 3517] := by
  unfold itemsOf
  simp only []
  rw [if_pos (by decide +kernel)]
  rfl

set_option maxRecDepth 100000 in
theorem reissue_due : Due released 0x0106 1 jReissue := ⟨rfl, rfl, .inl rfl, rfl, fun p hp => by cases hp; rfl, rfl, rfl⟩

set_option maxRecDepth 100000 in
theorem witness_PartitionsMigrate (h : Obligations.PartitionsMigrate) :
    Completes (.partSaveSave 1) (one jSave) ∧ Completes (.partSaveRelease 1) (one jRelease) ∧ Completes (.partSaveReissue 1) released ∧
    Completes (.partRestoreOffer 1) (one jOffer) ∧ Completes (.partRestoreRestore 1) (one jRest) ∧ Completes (.partRestoreActivate 1) (one jActivate) ∧
    Completes (.partRestoreAbort 1) (one jAbort) :=
  ⟨⟨_, ((h.1 (one jSave) 1 jSave (due_of (by decide))).1 rfl rfl).1⟩,
   ⟨_, ((h.1 (one jRelease) 1 jRelease (due_of (by decide))).2.1 rfl).1⟩,
   ⟨_, (h.1 released 1 jReissue reissue_due).2.2 _ rfl reissue_items (by simp [slice]) (by decide +kernel) rfl rfl rfl rfl⟩,
   ⟨_, ((h.2 (one jOffer) 1 jOffer (due_of (by decide))).1 rfl rfl rfl).1⟩,
   ⟨_, ((h.2 (one jRest) 1 jRest (due_of (by decide))).2.1 rfl).1⟩,
   ⟨_, ((h.2 (one jActivate) 1 jActivate (due_of (by decide))).2.2.1 rfl).1⟩,
   ⟨_, (h.2 (one jAbort) 1 jAbort (due_of (by decide))).2.2.2 rfl (by decide) (by decide)⟩⟩

def jChal : Job := job 0x0109 [] []
def jOpen : Job := job 0x010A [3, 1] []
def jExch : Job := job 0x010A [3, 2] []
def jClose : Job := job 0x010A [3, 3] []
def inSession (j : Job) : State := setSession 3 (some { offer := [], kem := [], ec := [], opened := 0 }) (one j)

theorem witness_SessionsBringComponents (h : Obligations.SessionsBringComponents) :
    Completes (.authChallenge 1) (one jChal) ∧ Completes (.custodianSessionOpen 1) (one jOpen) ∧ Completes (.custodianSessionExchange 1) (inSession jExch) ∧
    Completes (.custodianSessionClose 1) (inSession jClose) :=
  ⟨⟨_, h.1 (one jChal) _ _ 1 jChal _ _ (due_of (by decide)) rfl rfl rfl⟩,
   ⟨_, ((h.2 (one jOpen) 1 jOpen (due_of (by decide))).1 rfl).1⟩,
   ⟨_, ((h.2 (inSession jExch) 1 jExch (due_of (by decide))).2.1 rfl).1⟩,
   ⟨_, (h.2 (inSession jClose) 1 jClose (due_of (by decide))).2.2 rfl rfl rfl⟩⟩

def jEnrol : Job := job 0x010B [3, 1] ([0x02, 0, 0, 0] ++ leBytes 4 97 ++ zeros 97)
def jRemove : Job := job 0x010B [3, 1] (zeros 8)
def jMaster : Job := job 0x010C [0, 2] ([5] ++ zeros 7)
def jPolicy : Job := job 0x010D [1] (zeros 64)
def jRules : Job := job 0x010D [2] ((List.replicate 11 [(2 : Byte), 1, 1, 0]).flatten)
def jRulesBad : Job := job 0x010D [2] (zeros 44)
def jWindow : Job := job 0x010D [3] (zeros 8)

theorem witness_CustodianCommandsCommit (h : Obligations.CustodianCommandsCommit) (g : Obligations.RulesAreReplaced) (k : Obligations.TamperPolicyIsReplaced) :
    Completes (.custodianEnrol 1) (one jEnrol) ∧ Completes (.custodianEnrol 1) (one jRemove) ∧ Completes (.masterLoad 1) (one jMaster) ∧
    Completes (.policySetTamper 1) (one jPolicy) ∧ Completes (.policySetRules 1) (one jRules) ∧ Completes (.policySetCellWindow 1) (one jWindow) ∧
    Completes (.policySetRules 1) (one jRulesBad) ∧ Completes (.policySetTamper 1) (one jPolicy) :=
  ⟨⟨_, (h.1 (one jEnrol) 1 jEnrol (due_of (by decide)) (by decide) rfl).2 (.inl ⟨rfl, rfl⟩)⟩,
   ⟨_, (h.1 (one jRemove) 1 jRemove (due_of (by decide)) (by decide) rfl).1 rfl rfl⟩,
   ⟨_, h.2.1 (one jMaster) 1 jMaster (due_of (by decide)) (by decide) rfl rfl⟩,
   ⟨_, (h.2.2 (one jPolicy) 1 jPolicy (due_of (by decide))).1 rfl (by decide)⟩,
   ⟨_, (g (one jRules) 1 jRules (due_of (by decide)) rfl (by decide)).1 (by decide)⟩,
   ⟨_, (h.2.2 (one jWindow) 1 jWindow (due_of (by decide))).2.2 rfl (by decide)⟩,
   ⟨_, (g (one jRulesBad) 1 jRulesBad (due_of (by decide)) rfl (by decide)).2.1 (by decide)⟩,
   ⟨_, (k (one jPolicy) 1 jPolicy (due_of (by decide)) rfl (by decide)).2.1 (by decide)⟩⟩

theorem witness_CommitsTakeEffect (h : Obligations.CommitsTakeEffect) :
    enrolled (applyCommit 1 live (.custodian 3 (some { alg := 2, group := 1, digest := sha384B [1] }) [1])) 3 = some { alg := 2, group := 1, digest := sha384B [1] } :=
  (h live 1 0 3).2.2.2.1 _ _ rfl (by decide)
def jLc : Job := job 0x010E [3] (1 :: zeros 7)
def jLcCert : Job := job 0x010E [4] (2 :: zeros 7)
def jLcW : Job := { job 0x010E [3] (1 :: zeros 7) with phase := .waiting }

theorem witness_TransitionsGoByStages (h : Obligations.TransitionsGoByStages) :
    Completes (.lcTransition 1) (one jLc) ∧ Completes (.lcTransition 1) (one jLcCert) ∧ Completes (.lcTransition 1) (one jLcW) :=
  ⟨⟨_, ((h (one jLc) _ 1 jLc _ (due_of (by decide))).1 (by decide) rfl (by decide) rfl rfl).1 rfl⟩,
   ⟨_, ((h (one jLcCert) _ 1 jLcCert _ (due_of (by decide))).1 (by decide) rfl (by decide) rfl rfl).2 rfl⟩,
   ⟨_, (h (one jLcW) live 1 jLcW [] (due_of (by decide))).2 rfl⟩⟩

def jFw1 : Job := job 0x010F [1, 0, 0, 0, 0, 16] [1]
def jFw2 : Job := job 0x010F [2] [1]
def jDbg : Job := job 0x0110 [] (zeros 3534)
def jDbgW : Job := { job 0x0110 [] (zeros 72) with phase := .waiting }
def jDbgRma : Job := job 0x0110 [] (zeros 3533)
def rma : State := { one jDbgRma with nv := { Nv.factory with stage := [(0, stagePattern 0), (1, stagePattern 1), (3, stagePattern 3)] } }
def jAtt : Job := job 0x0111 [] (zeros 32)

set_option maxRecDepth 100000 in
theorem witness_FirmwareDebugAndAttestation (h : Obligations.FirmwareDebugAndAttestation) :
    Completes (.fwUpdateLoad 1) (one jFw1) ∧ Completes (.fwUpdateActivate 1) (one jFw2) ∧ Completes (.debugCertAccept 1) (one jDbg) ∧
    Completes (.debugCertAccept 1) (one jDbgW) ∧ Completes (.debugCertAccept 1) rma ∧ Completes (.attest 1) (one jAtt) :=
  ⟨⟨_, (h.1 (one jFw1) 1 jFw1 (due_of (by decide))).1 rfl⟩, ⟨_, (h.1 (one jFw2) 1 jFw2 (due_of (by decide))).2 rfl⟩,
   ⟨_, ((h.2.1 (one jDbg) _ 1 jDbg _ (due_of (by decide +kernel))).2 (by decide) rfl).1 (.inl (by decide)) (by decide +kernel)⟩,
   ⟨_, (h.2.1 (one jDbgW) live 1 jDbgW [] (due_of (by decide))).1 rfl⟩,
   ⟨_, ((h.2.1 rma _ 1 jDbgRma _ (due_of (by decide +kernel))).2 (by decide) rfl).2 (by decide) (by decide) (by decide +kernel)⟩,
   ⟨_, h.2.2 (one jAtt) _ 1 jAtt _ (due_of (by decide)) rfl rfl⟩⟩

def jPs0 : Job := job 0x0112 [0] []
def jPs2 : Job := job 0x0112 [2] []
def jPs1 : Job := job 0x0112 [1] []
theorem witness_PairStatusAnswers (h : Obligations.PairStatusAnswers) :
    Completes (.pairStatusRead 1) (one jPs0) ∧ Completes (.pairStatusHandover 1) (one jPs2) ∧ Completes (.pairStatusRepair 1) (one jPs1) :=
  ⟨⟨_, (h (one jPs0) _ 1 jPs0 _ (due_of (by decide))).1 rfl rfl rfl⟩, ⟨_, (h (one jPs2) live 1 jPs2 [] (due_of (by decide))).2.1 rfl rfl⟩,
   ⟨_, (h (one jPs1) live 1 jPs1 [] (due_of (by decide))).2.2 rfl⟩⟩

def jCancel : Job := job 0x0A03 [0, 1] []
def target : Job := { job 0x0A01 [] [] with seq := 0, phase := .running, ran := true }
def jCancelW : Job := { jCancel with phase := .waiting, afterDone := [0] }
theorem witness_CancelsMarkAndWait (h : Obligations.CancelsMarkAndWait) :
    Completes (.cancel 1) { live with jobs := [target, jCancel] } ∧ Completes (.cancel 1) (one jCancel) ∧
    Completes (.cancel 1) { live with jobs := [target, jCancelW] } ∧ Completes (.cancel 1) (one jCancelW) :=
  ⟨⟨_, (h { live with jobs := [target, jCancel] } live 1 jCancel [] (due_of (by decide)) rfl).1 (by decide) (by decide)⟩,
   ⟨_, (h (one jCancel) _ 1 jCancel _ (due_of (by decide)) rfl).2.1 (by decide) (by decide) rfl⟩,
   ⟨_, (h { live with jobs := [target, jCancelW] } live 1 jCancelW [] (due_of (by decide)) rfl).2.2.1 rfl (by decide)⟩,
   ⟨_, (h (one jCancelW) _ 1 jCancelW _ (due_of (by decide)) rfl).2.2.2 rfl (by decide) rfl⟩⟩

theorem witness_CommandsTellTheirOwn (h : Obligations.CommandsTellTheirOwn) :
    ∃ t, share 1 2 (fun s => ([BitVec.ofNat 8 (lcCode s)], s)) (one jTime) = .ok ([2, 0], t) :=
  (h (one jTime) 0x0A04 1 jTime (due_of (by decide))).1 2 (fun s => [BitVec.ofNat 8 (lcCode s)]) (by decide) |>.elim fun t x => ⟨t, x.1⟩

/-- Ring 0 of partition 0, enabled, as `f` changes it. -/
def ringed (f : Ring → Ring) : State := { live with rings := [(0, f { Ring.reset with en := true })] }
theorem takes : live.takesWrites := ⟨rfl, by decide⟩

theorem witness_RingRegistersAct (h : Obligations.RingRegistersAct) :
    Completes (.sqTail 0 0 true 63) (ringed id) ∧ Completes (.sqTail 0 0 true 64) (ringed id) ∧ Completes (.cqHead 0 0 true 63) (ringed id) ∧
    Completes (.cqHead 0 0 false 0) (ringed id) ∧ Completes (.ringEnable 0 0) (ringed id) ∧ Completes (.ringEnable 0 0) live ∧
    Completes (.ringEnable 3 0) live ∧ Completes (.ringDisable 0 0) (ringed id) ∧
    Completes (.intModerationTimer 0 0) (ringed fun g => { g with modCount := 1 }) ∧ Completes (.msixVectorUnmask 1 7) live :=
  ⟨⟨_, (h (ringed id) 0 0 true 63 takes).1 (by decide)⟩, ⟨_, (h (ringed id) 0 0 true 64 takes).2.1 (by decide)⟩,
   ⟨_, (h (ringed id) 0 0 true 63 takes).2.2.1 (by decide)⟩, ⟨_, (h (ringed id) 0 0 false 0 takes).2.2.2.1 (by decide)⟩,
   ⟨_, (h (ringed id) 0 0 true 0 takes).2.2.2.2.1 (by decide)⟩, ⟨_, (h live 0 0 true 0 takes).2.2.2.2.2.1 (by decide) (by decide) (by decide) (by decide) (by decide) (by decide)⟩,
   ⟨_, (h live 3 0 true 0 takes).2.2.2.2.2.2.1 (by decide) (by decide)⟩, ⟨_, (h (ringed id) 0 0 true 0 takes).2.2.2.2.2.2.2.1⟩,
   ⟨_, (h (ringed fun g => { g with modCount := 1 }) 0 0 true 0 takes).2.2.2.2.2.2.2.2.1 (by decide) (by decide)⟩,
   ⟨_, (h live 1 0 true 0 takes).2.2.2.2.2.2.2.2.2 7 (.inr (by decide))⟩⟩
def fetching : State := { ringed (fun g => { g with sqTail := 2 }) with cirq := { live.cirq with fetchLast := 5 } }
def read1 (f : FetchRead → FetchRead) : State := ringed fun g => { g with reads := [f { first := 0, count := 1, discard := false, issued := 0 }] }
def nopDesc : Bytes := [1, 0x0A, 0, 2] ++ zeros 2 ++ [1] ++ zeros 57

set_option maxRecDepth 100000 in
theorem witness_DescriptorsAreFetched (h : Obligations.DescriptorsAreFetched) :
    Completes .descriptorFetch fetching ∧ Completes .descriptorFetch live ∧
    Completes (.descriptorArrival 0 0 (.data [])) (read1 fun f => { f with discard := true }) ∧ Completes (.descriptorArrival 0 0 (.failed .poisoned)) (read1 id) ∧
    Completes (.descriptorArrival 0 0 (.data nopDesc)) (read1 fun f => { f with count := 2 }) ∧ Completes (.descriptorArrival 0 0 (.data nopDesc)) (read1 id) ∧
    Completes (.fenceRelease 0 0) (ringed fun g => { g with held := [(0, nopDesc)] }) :=
  ⟨⟨_, h.1 fetching 0 0 (by decide) (by decide) (by decide) (by decide)⟩, ⟨_, h.2.1 live (by decide)⟩,
   ⟨_, (h.2.2.1 (read1 fun f => { f with discard := true }) 0 0 _ [] rfl).1 rfl _⟩, ⟨_, (h.2.2.1 (read1 id) 0 0 _ [] rfl).2.1 rfl _⟩,
   ⟨_, (h.2.2.1 (read1 fun f => { f with count := 2 }) 0 0 _ [] rfl).2.2.1 _ rfl rfl (by decide)⟩,
   ⟨_, (h.2.2.1 (read1 id) 0 0 _ [] rfl).2.2.2 _ rfl rfl rfl⟩,
   ⟨_, h.2.2.2 (ringed fun g => { g with held := [(0, nopDesc)] }) 0 0 0 _ rfl (by decide)⟩⟩

def jReady : Job := { job 0x0A01 [] [] with phase := .ready, desc := { desc 0x0A01 0 0 [] with cls := 0, deadline := 2 ^ 62 } }
def jReading : Job := { job 0x0901 [2] [] with phase := .reading, pieces := [], reads := [(0, 3, 0)], desc := desc 0x0901 3 64 [2] }
def jBlob : Job := { jReading with reads := [(blobOff false, 16, 0)] }

theorem jReady_next : nextDispatch (one jReady) = some (jReady, false, false) := by
  have h : dispatchable (one jReady) = [jReady] := by
    show List.filter _ [jReady] = _
    rw [List.filter_cons_of_pos]
    · rfl
    · cases jReady.pke <;> decide
  unfold nextDispatch
  rw [h]
  decide

theorem witness_JobsGetTheirInput (h : Obligations.JobsGetTheirInput) :
    Completes .jobDispatch (one jReady) ∧ Completes (.jobInputArrival 1 0 (.failed .unsupported)) (one jReading) ∧
    Completes (.jobInputArrival 1 0 (.data [1, 2, 3])) (one jReading) ∧ Completes (.hostReadTimeout (.input 1 0)) (one jReading) ∧
    Completes (.blobLoad 1 false (.failed .timeout) (.data [])) (one jBlob) ∧ Completes (.hostReadTimeout (.blob 1 false)) (one jBlob) ∧
    Completes (.hostReadTimeout (.descriptor 0 0)) (read1 id) :=
  ⟨⟨_, h.1 (one jReady) jReady false 0 (by decide) jReady_next (by decide) (by decide) rfl⟩,
   ⟨_, (h.2.1 (one jReading) 1 0 0 3 0 jReading rfl rfl (by decide) rfl).1 _⟩,
   ⟨_, (h.2.1 (one jReading) 1 0 0 3 0 jReading rfl rfl (by decide) rfl).2.1 _ rfl rfl⟩,
   ⟨_, (h.2.1 (one jReading) 1 0 0 3 0 jReading rfl rfl (by decide) rfl).2.2 (by decide)⟩,
   ⟨_, (h.2.2.1 (one jBlob) 1 false jBlob _ .timeout (.data []) rfl rfl rfl).1⟩,
   ⟨_, (h.2.2.1 (one jBlob) 1 false jBlob _ .timeout (.data []) rfl rfl rfl).2 (by decide)⟩,
   ⟨_, h.2.2.2 (read1 id) 0 0 _ [] rfl rfl (by decide)⟩⟩

def jQ (op : W16) (par : Bytes) : Job := { job op par [] with phase := .queued }
theorem witness_UnitsAreGranted (h : Obligations.UnitsAreGranted) :
    Completes (.newtGrant 15) (one (jQ 0x0601 [1])) ∧ Completes (.iguanaGrant 15 true) (one (jQ 0x0701 [1])) ∧
    Completes (.pinvGrant 3) (one (jQ 0x0301 [])) ∧ Completes (.unitGrant 3) (one (jQ 0x0705 [0x30])) ∧ Completes (.unitGrant 11) (one (jQ 0x0901 [2])) :=
  ⟨⟨_, (h (one (jQ 0x0601 [1])) (jQ 0x0601 [1]) false).1 15 (by decide) (by decide) (by decide) (by decide)⟩,
   ⟨_, (h (one (jQ 0x0701 [1])) (jQ 0x0701 [1]) false).2.1 15 true (by decide) (by decide) (by decide) (by decide) (by decide) (by decide) (by decide)⟩,
   ⟨_, (h (one (jQ 0x0301 [])) (jQ 0x0301 []) false).2.2.1 3 (by decide) (by decide) (by decide) (by decide)⟩,
   ⟨_, (h (one (jQ 0x0705 [0x30])) (jQ 0x0705 [0x30]) false).2.2.2.1 3 (by decide) (by decide) (by decide) (by decide) (by decide) (by decide)⟩,
   ⟨_, (h (one (jQ 0x0901 [2])) (jQ 0x0901 [2]) false).2.2.2.2 11 (by decide) (by decide) (by decide) (by decide) (by decide) (by decide)⟩⟩

def jRun : Job := { job 0x0901 [2] [] with unit := some (.hash 0) }
def jDoom : Job := { jRun with cancel := true }
def jEnded : Job := { job 0x0901 [2] [] with phase := .ended }
def jRetired : Job := { job 0x0901 [2] [] with phase := .retired }
theorem witness_JobsYieldEndAndAge (h : Obligations.JobsYieldEndAndAge) :
    Completes (.yieldPoint 1) (one jRun) ∧ Completes (.yieldPoint 1) (one jDoom) ∧
    Completes (.bankZeroiseDone 3 true) { one jRun with eng := { live.eng with big := [(3, { BigCore.idle with bank1 := .zeroising })] } } ∧
    Completes (.jobRetire 1) (one jEnded) ∧ Completes (.completionWrite 1) (one jRetired) ∧ Completes .cursorAdvance live ∧
    Completes .cursorAdvance { live with cirq := { live.cirq with cursor := 2 ^ 62 } } ∧ Completes .serviceWindow live ∧
    Completes .serviceWindow { live with cirq := { live.cirq with window := 10 ^ 12 } } :=
  ⟨⟨_, (h.1 (one jRun) 1 jRun rfl).1 _ rfl rfl rfl rfl⟩, ⟨_, (h.1 (one jDoom) 1 jDoom rfl).2.1 rfl rfl (fun _ _ e => nomatch e)⟩,
   ⟨_, (h.1 { one jRun with eng := { live.eng with big := [(3, { BigCore.idle with bank1 := .zeroising })] } } 1 jRun rfl).2.2.1 3 true (by decide)⟩,
   ⟨_, (h.1 (one jEnded) 1 jEnded rfl).2.2.2.1 rfl rfl rfl rfl rfl⟩,
   ⟨_, (h.1 (one jRetired) 1 jRetired rfl).2.2.2.2 (by decide) (by decide) (by decide)⟩,
   ⟨_, (h.2 live).1 (by decide)⟩, ⟨_, (h.2 { live with cirq := { live.cirq with cursor := 2 ^ 62 } }).2.1 (by decide)⟩,
   ⟨_, (h.2 live).2.2.1 (by decide)⟩, ⟨_, (h.2 { live with cirq := { live.cirq with window := 10 ^ 12 } }).2.2.2 (by decide)⟩⟩

/-- The state `live` with another time block. -/
def tm (f : TimeBlk → TimeBlk) : State := { live with time := f live.time }
def frame1 : TodFrame := { edge := 10 ^ 18 + 10 ^ 9, holdover := false, error := 0, at_ := 10 ^ 12 - 5 * 10 ^ 8 }
def edged : State := tm fun t => { t with src := 1, frame := some frame1, lastEdge := some (10 ^ 12 - 10 ^ 9), lastNamed := some (10 ^ 18), goodEdges := 2 }

theorem witness_TimeSourcesAct (h : Obligations.TimeSourcesAct) :
    Completes (.timePair 7) (tm id) ∧ Completes (.timePair 7) edged ∧ Completes .acceptFree (tm fun t => { t with state := .holdover }) ∧
    Completes .acceptFree (tm id) ∧
    Completes (.ptmExchangeDone (some (BitVec.ofNat 64 (10 ^ 18)))) (tm fun t => { t with ptmOpen := true, src := 2, ptmGood := 3, ptmLast := some 1000 }) ∧
    Completes (.ptmExchangeDone none) (tm fun t => { t with ptmOpen := true }) ∧ Completes .ptmRequest (tm fun t => { t with src := 2 }) ∧
    Completes .sourceLoss (tm id) ∧ Completes .slewDone (tm fun t => { t with slew := some 0 }) ∧
    Completes (.timeOfDayFrame (zeros 16)) (tm id) ∧ Completes .timePpsEdge (tm fun t => { t with src := 1 }) ∧ Completes .timePpsEdge edged ∧
    Completes .edgeReport (tm fun t => { t with src := 1, todTx := true, report := some (5, 10 ^ 11) }) ∧
    Completes (.timeCfgWrite 0x400) (tm id) ∧ Completes (.timeCfgWrite 0x400) (tm fun t => { t with lock := true }) :=
  ⟨⟨_, (h.1 (tm id)).1 7 ⟨rfl, by decide⟩ rfl⟩, ⟨_, (h.1 edged).2.1 7 ⟨rfl, by decide⟩ (by decide)⟩,
   ⟨_, (h.1 (tm fun t => { t with state := .holdover })).2.2.1 ⟨rfl, by decide⟩ rfl⟩, ⟨_, (h.1 (tm id)).2.2.2.1 ⟨rfl, by decide⟩ (by decide)⟩,
   ⟨_, (h.1 (tm fun t => { t with ptmOpen := true, src := 2, ptmGood := 3, ptmLast := some 1000 })).2.2.2.2.1 _ rfl rfl (by decide) ⟨1000, rfl, by decide⟩⟩,
   ⟨_, (h.1 (tm fun t => { t with ptmOpen := true })).2.2.2.2.2.1 rfl⟩,
   ⟨_, (h.1 (tm fun t => { t with src := 2 })).2.2.2.2.2.2.1 rfl (by decide)⟩,
   ⟨_, (h.1 (tm id)).2.2.2.2.2.2.2.1 (by decide) rfl rfl⟩,
   ⟨_, (h.1 (tm fun t => { t with slew := some 0 })).2.2.2.2.2.2.2.2 rfl rfl⟩,
   ⟨_, (h.2 (tm id)).1 _ rfl⟩, ⟨_, (h.2 (tm fun t => { t with src := 1 })).2.1 rfl rfl⟩,
   ⟨_, (h.2 edged).2.2.1 frame1 _ rfl rfl (by decide) rfl (by decide) (by decide) (by decide) (by decide) (by decide)⟩,
   ⟨_, (h.2 (tm fun t => { t with src := 1, todTx := true, report := some (5, 10 ^ 11) })).2.2.2.1 _ _ rfl (by decide) rfl rfl⟩,
   ⟨_, (h.2 (tm id)).2.2.2.2.1 0x400 ⟨rfl, by decide⟩ rfl (by decide) (by decide)⟩,
   ⟨_, (h.2 (tm fun t => { t with lock := true })).2.2.2.2.2 0x400 ⟨rfl, by decide⟩ rfl (by decide)⟩⟩

def jSweep : Job := { job 0x0205 [] [] with phase := .waitSweep }
def jSweepOn : Job := { jSweep with change := some 5 }
def jKs : Job := { job 0x0205 [] [] with phase := .waitKeystore }
def swept : State := { one jSweepOn with mas := { live.mas with nodes := [(5, { Node.empty with state := .current, gen := 1, changedAt := some 0 })] } }

theorem witness_SweepAndKeystoreAct (h : Obligations.SweepAndKeystoreAct) :
    (∃ t, exec .sweepVisit { live with mas := { live.mas with sweep := sweepVisits - 1 } } = .next t ∧ t.mas.sweep = 0) ∧
    Completes (.generationChangeCommit 1) { one jSweep with pair := { live.pair with role := 0 } } ∧
    Completes (.generationChangeCommit 1) swept ∧ Completes (.keystoreRecordWrite 1) { one jKs with pair := { live.pair with role := 0 } } ∧
    Completes (.keystoreRecordWrite 1) (one jReading) ∧ Completes (.masKsHeadWrite 255 64) live :=
  ⟨(h.1 { live with mas := { live.mas with sweep := sweepVisits - 1 } } rfl).elim fun t ht =>
     ⟨t, ht.1, by have := ht.2; rw [if_neg (by decide)] at this; rw [this]⟩,
   ⟨_, (h.2.1 { one jSweep with pair := { live.pair with role := 0 } } 1 jSweep rfl).1 rfl rfl rfl rfl rfl rfl⟩,
   ⟨_, (h.2.1 swept 1 jSweepOn rfl).2.1 rfl (by decide) (by decide)⟩,
   ⟨_, (h.2.1 { one jKs with pair := { live.pair with role := 0 } } 1 jKs rfl).2.2.1 rfl rfl rfl rfl rfl rfl⟩,
   ⟨_, (h.2.1 (one jReading) 1 jReading rfl).2.2.2 rfl⟩, ⟨_, h.2.2 live 255 64 takes⟩⟩

/-- The state `live` with other engines. -/
def eng (f : Engines → Engines) : State := { live with eng := f live.eng }
/-- The state `live` with another random service. -/
def rng (f : Rng → Rng) : State := { live with rng := f live.rng }
def src (n tries : Nat) : Source := { Source.start with state := n, tries := tries, since := 0 }

set_option maxRecDepth 100000 in
theorem witness_UnitsAndRandomServiceAct (h : Obligations.UnitsAndRandomServiceAct) :
    Completes (.pinvUnitFault 3 true 1) (eng fun e => { e with pinv := [(3, { up := true, owner := .job 1 })] }) ∧
    Completes (.iguUnitFault 15 true 1) live ∧
    Completes .newtPeriodicTest (eng id) ∧ Completes .iguPeriodicTest (eng id) ∧ Completes (.newtWinStart 0xF05) (eng id) ∧
    Completes (.iguWinStart 0x1B01) (eng id) ∧ Completes .newtWinTimeout (eng fun e => { e with newtWin := { e.newtWin with state := 2, unit := 15 } }) ∧
    Completes (.windowTestDone (.newt 15) true 0) (eng fun e => { e with newtWin := { e.newtWin with state := 2, unit := 15 } }) ∧
    Completes (.windowTestDone (.gecko 31) false 0) (eng fun e => { e with tests := [.gecko 31] }) ∧
    Completes (.rngStartupTestDone 2 true) (rng fun r => { r with state := 0 }) ∧ Completes (.rngStartupTestDone 2 false) (rng id) ∧
    Completes (.rngStartupTestDone 2 false) (rng fun r => { r with sources := [(2, src 0 2)] }) ∧
    Completes (.rngSourceFail 0 true) (rng fun r => { r with sources := [(0, src 1 0)] }) ∧
    Completes (.rngBlockClose (zeros 128)) (rng fun r => { r with sources := [(0, src 1 0), (1, src 1 0), (2, src 1 0)] }) ∧
    Completes (.rngReady (zeros 128)) { rng fun r => { r with state := 0, drbg := [], sources := [(0, src 1 0), (1, src 1 0), (2, src 1 0)] } with pwr := { live.pwr with ready := true } } ∧
    Completes .rngReseed (rng fun r => { r with drbg := [(7, { Drbg.off with up := true, pending := true })] }) ∧
    Completes (.rngCtrlRestart 1) (rng fun r => { r with sources := [(0, src 2 0)] }) :=
  ⟨⟨_, (h.1 (eng fun e => { e with pinv := [(3, { up := true, owner := .job 1 })] })).1 3 true 1 1 rfl⟩,
   ⟨_, (h.1 live).2.2.1 15 true 1 (by decide)⟩,
   ⟨_, (h.1 (eng id)).2.2.2.1 0 (by decide) (by decide) (by decide) (by decide)⟩,
   ⟨_, (h.1 (eng id)).2.2.2.2.1 0 (by decide) (by decide) (by decide) (by decide)⟩,
   ⟨_, (h.1 (eng id)).2.2.2.2.2.1 0xF05 ⟨rfl, by decide⟩ (by decide) (by decide)⟩,
   ⟨_, (h.1 (eng id)).2.2.2.2.2.2.1 0x1B01 ⟨rfl, by decide⟩ (by decide) (by decide) (by decide)⟩,
   ⟨_, (h.1 (eng fun e => { e with newtWin := { e.newtWin with state := 2, unit := 15 } })).2.2.2.2.2.2.2.1 15 rfl rfl (by decide)⟩,
   ⟨_, (h.1 (eng fun e => { e with newtWin := { e.newtWin with state := 2, unit := 15 } })).2.2.2.2.2.2.2.2.1 15 _ _ rfl rfl⟩,
   ⟨_, (h.1 (eng fun e => { e with tests := [.gecko 31] })).2.2.2.2.2.2.2.2.2 (.gecko 31) _ _ (by decide) (by decide) (by decide)⟩,
   ⟨_, ((h.2 (rng fun r => { r with state := 0 })).1 2 rfl rfl (by decide)).1 rfl⟩,
   ⟨_, ((h.2 (rng id)).1 2 rfl rfl (by decide)).2.1 (by decide)⟩,
   ⟨_, ((h.2 (rng fun r => { r with sources := [(2, src 0 2)] })).1 2 rfl rfl (by decide)).2.2 rfl⟩,
   ⟨_, (h.2 (rng fun r => { r with sources := [(0, src 1 0)] })).2.1 0 true rfl (by decide)⟩,
   ⟨_, (h.2 (rng fun r => { r with sources := [(0, src 1 0), (1, src 1 0), (2, src 1 0)] })).2.2.1 _ (.inl rfl) (by decide) rfl⟩,
   ⟨_, (h.2 { rng fun r => { r with state := 0, drbg := [], sources := [(0, src 1 0), (1, src 1 0), (2, src 1 0)] } with pwr := { live.pwr with ready := true } }).2.2.2.1 _ rfl (by decide) rfl rfl⟩,
   ⟨_, (h.2 (rng fun r => { r with drbg := [(7, { Drbg.off with up := true, pending := true })] })).2.2.2.2.1 7 (by decide) (by decide) (by decide)⟩,
   ⟨_, (h.2 (rng fun r => { r with sources := [(0, src 2 0)] })).2.2.2.2.2 0 ⟨rfl, by decide⟩ (by decide) rfl (by decide)⟩⟩

/-- The state `live` with another partition 255. -/
def p255 (f : Part → Part) : State := { live with parts := [(255, f Part.custodian)] }
def resettingPart : State := p255 fun x => { x with resetting := some { t0 := 0, cause := 1, ended := 0 } }
def serviced : State := { live with vault := { live.vault with window := some { cells := 3, until_ := 10 ^ 12, secs := 60 } } }

theorem witness_PartitionsResetAndThingsExpire (h : Obligations.PartitionsResetAndThingsExpire) :
    Completes (.vfFlr 255) live ∧ Completes (.partVfCtrlReset 255 1) live ∧ Completes (.partCtrlReset 1) { live with sys := { live.sys with partSel := 255 } } ∧
    Completes (.partResetDone 255) resettingPart ∧
    Completes (.sessionExpiry 31) { live with cust := { live.cust with sessions := [(31, some { offer := [], kem := [], ec := [], opened := 0 })] } } ∧
    Completes .cellWindowExpiry serviced ∧ Completes .custodianKeyStoreErase { live with nv := { live.nv with keyStoreErase := true } } :=
  ⟨⟨_, (h live).1 255 (by decide)⟩, ⟨_, (h live).2.2.2.1 255 1 takes (by decide)⟩,
   ⟨_, (h { live with sys := { live.sys with partSel := 255 } }).2.2.2.2.1 1 ⟨rfl, by decide⟩ (by decide) (by decide)⟩,
   ⟨_, (h resettingPart).2.2.2.2.2.1 255 _ rfl (by decide) (by decide)⟩,
   ⟨_, (h { live with cust := { live.cust with sessions := [(31, some { offer := [], kem := [], ec := [], opened := 0 })] } }).2.2.2.2.2.2.2.2.2.2.2.1 31 _ rfl (by decide)⟩,
   ⟨_, (h serviced).2.2.2.2.2.2.2.2.2.2.2.2.1 _ rfl (by decide) rfl⟩,
   ⟨_, (h { live with nv := { live.nv with keyStoreErase := true } }).2.2.2.2.2.2.2.2.2.2.2.2.2 rfl rfl⟩⟩

/-- The state `live` with another tamper controller. -/
def tmp (f : Tamper → Tamper) : State := { live with tmp := f live.tmp }
def absent : Cell := { state := 1, volts := 0, since := 0 }
def trips : Tamper → Tamper := fun t => { t with mons := [(4, { a := true, b := false, times := [] })] }
def evid : Evidence := { monitor := 4, response := 2, power := 0, burn := false, unread := true, secs := 0, stamp := 0 }

theorem witness_TamperIsAnswered (h : Obligations.TamperIsAnswered) :
    Completes (.monitorExcursion 4 true true) { live with vault := { live.vault with policy := [(4, some { n := 1, w := 0, response := 2 })] } } ∧
    Completes (.monitorExcursion 4 true true) { live with vault := { live.vault with policy := [(4, some { n := 2, w := 9, response := 2 })] } } ∧
    Completes (.monitorExcursion 4 false false) live ∧ Completes (.detectorDisagreement 5 true) live ∧ Completes (.tamperClockFault false) live ∧
    Completes (.tamperClockFault true) live ∧ Completes (.zeroiseReadbackDone false) (tmp fun t => { t with zeroising := some (3, 0, 4) }) ∧
    Completes .tmpCtrlResume live ∧ Completes .tmpCtrlResume (tmp trips) ∧ Completes .tmpCtrlEvregClear live ∧
    Completes (.tmpEvregDataRead 3) { live with nv := { live.nv with evreg := [evid] } } ∧
    Completes (.cellRemoval true) live ∧ Completes (.cellInsertion true 76) (tmp fun t => { t with cellB := absent }) ∧
    Completes (.cellSettled true) (tmp fun t => { t with cellB := { absent with state := 3, volts := 150 } }) ∧ Completes (.cellLow false 76) live ∧
    Completes .holdupExpiry { tmp (fun t => { t with holdup := some 0 }) with pwr := { live.pwr with main := false } } :=
  ⟨⟨_, ((h.1 { live with vault := { live.vault with policy := [(4, some { n := 1, w := 0, response := 2 })] } }).1 4 true true (by decide) rfl).1 (by decide)⟩,
   ⟨_, ((h.1 { live with vault := { live.vault with policy := [(4, some { n := 2, w := 9, response := 2 })] } }).1 4 true true (by decide) rfl).2 (by decide)⟩,
   ⟨_, (h.1 live).2.1 4 (by decide)⟩, ⟨_, (h.1 live).2.2.1 5 true (by decide)⟩, ⟨_, (h.1 live).2.2.2.1 (by decide) rfl⟩,
   ⟨_, (h.1 live).2.2.2.2.1 (by decide) rfl⟩, ⟨_, (h.1 (tmp fun t => { t with zeroising := some (3, 0, 4) })).2.2.2.2.2.1 _ _ _ _ (by decide) rfl⟩,
   ⟨_, (h.1 live).2.2.2.2.2.2.1 (by decide) (by decide) (by decide) rfl (by decide)⟩,
   ⟨_, (h.1 (tmp trips)).2.2.2.2.2.2.2.1 (by decide) (by decide)⟩, ⟨_, (h.1 live).2.2.2.2.2.2.2.2.1 (by decide)⟩,
   ⟨_, (h.1 { live with nv := { live.nv with evreg := [evid] } }).2.2.2.2.2.2.2.2.2 3 evid (by decide) rfl⟩,
   ⟨_, (h.2 live true).1 (by decide) (by decide)⟩, ⟨_, (h.2 (tmp fun t => { t with cellB := absent }) true).2.1 76 rfl (by decide)⟩,
   ⟨_, (h.2 (tmp fun t => { t with cellB := { absent with state := 3, volts := 150 } }) true).2.2.1 rfl (by decide)⟩,
   ⟨_, (h.2 live false).2.2.2.1 76 (by decide) (by decide)⟩,
   ⟨_, (h.2 { tmp (fun t => { t with holdup := some 0 }) with pwr := { live.pwr with main := false } } false).2.2.2.2 0 rfl rfl (by decide)⟩⟩

def dbg : State := { live with dbg := { Debug.closed with open_ := true, rights := 0x7FF, refreshed := 0 } }

set_option maxRecDepth 100000 in
theorem witness_DebugAndGuardAct (h : Obligations.DebugAndGuardAct) :
    Completes .dbgCtrlClose dbg ∧ Completes .debugSessionExpiry dbg ∧ Completes (.debugPageRefresh (zeros 20000)) dbg ∧
    Completes (.debugAccess .read 0) { dbg with dbg := { dbg.dbg with rights := 0 } } ∧ Completes (.debugAccess .read 0xFFFFFFFF) dbg ∧
    Completes (.grdCommit []) live ∧ Completes .grdCommitApply { live with grd := { live.grd with staged := some [] } } ∧
    Completes .fwBootTimeout { live with pwr := { live.pwr with ready := false } } :=
  ⟨⟨_, (h dbg).1 ⟨rfl, by decide⟩⟩, ⟨_, (h dbg).2.1 rfl (by decide)⟩, ⟨_, (h dbg).2.2.1 _ rfl (by decide) (by decide)⟩,
   ⟨_, (h { dbg with dbg := { dbg.dbg with rights := 0 } }).2.2.2.1 _ _ (.inr (.inr (by decide)))⟩,
   ⟨_, (h dbg).2.2.2.2.1 _ _ rfl (by decide) (by decide)⟩, ⟨_, (h live).2.2.2.2.2.1 _ rfl⟩,
   ⟨_, (h { live with grd := { live.grd with staged := some [] } }).2.2.2.2.2.2.1 rfl⟩,
   ⟨_, (h { live with pwr := { live.pwr with ready := false } }).2.2.2.2.2.2.2 (by decide) (by decide) (by decide)⟩⟩

def entry : Entry := { seq := 2 ^ 63, stamp := 0, part := 255, ring := 3, index := 0, opcode := 0, status := 0, digest := [] }
def searching (l : List Entry) : State := { p255 (fun x => { x with winBusy := true }) with jrn := { live.jrn with entries := l } }

theorem witness_JournalAndCountersAreServed (h : Obligations.JournalAndCountersAreServed) :
    Completes .markRaise { live with nv := { live.nv with mark := 0 } } ∧ Completes .markRaise live ∧
    Completes (.jrnHrCfgWrite 255 0) (p255 fun x => { x with jrn := { x.jrn with en := true } }) ∧ Completes (.jrnWinSeqWrite 255 0) live ∧
    Completes (.jrnSearchDone 255) (searching [entry]) ∧ Completes (.jrnSearchDone 255) (searching []) ∧ Completes (.jrnWinEntryRead 255) live ∧
    Completes .pmcClearAll live ∧ Completes (.pmcSrCfgWrite 0x104) live ∧ Completes (.pmcPDumpCfgWrite 255 0x104) (p255 id) ∧
    Completes (.pmcDump 255) (p255 fun x => { x with dump := { x.dump with en := true } }) :=
  ⟨⟨_, (h.1 { live with nv := { live.nv with mark := 0 } }).1 (by decide)⟩, ⟨_, (h.1 live).2.1 (by decide)⟩,
   ⟨_, (h.1 (p255 fun x => { x with jrn := { x.jrn with en := true } })).2.2.1 255 0 ⟨rfl, by decide⟩ (by decide) (by decide)⟩,
   ⟨_, (h.1 live).2.2.2.1 255 0 takes⟩, ⟨_, (h.1 (searching [entry])).2.2.2.2.1 255 entry (by decide) (by decide)⟩,
   ⟨_, (h.1 (searching [])).2.2.2.2.2.1 255 (by decide) (by decide)⟩, ⟨_, (h.1 live).2.2.2.2.2.2 255 takes⟩,
   (h.2 live).1 takes |>.elim fun t x => ⟨t, x.1⟩, ⟨_, (h.2 live).2.1 0x104 takes⟩, ⟨_, (h.2 (p255 id)).2.2.1 255 0x104 ⟨rfl, by decide⟩ (by decide)⟩,
   ⟨_, (h.2 (p255 fun x => { x with dump := { x.dump with en := true } })).2.2.2 255 (by decide) (by decide) (by decide)⟩⟩

/-- The state `live` with another Scree. -/
def scr (f : Scree → Scree) : State := { live with scr := f live.scr }
def item : ScreeItem := { code := 0x321, stamp := 0, cluster := 7, payload := [] }

theorem witness_ScreeIsServed (h : Obligations.ScreeIsServed) :
    Completes .screeRecordClose (scr fun c => { c with frozen := some (0, 0) }) ∧
    Completes .screeRecordClose (scr fun c => { c with thawRecord := some item }) ∧
    Completes .screeRecordClose (scr fun c => { c with fifos := [(37, { Fifo.empty with items := [item] })] }) ∧
    Completes (.tokenRefill 0xFFF) (scr fun c => { c with codes := [(0xFFF, { CodeState.reset with spent := 1 })] }) ∧
    Completes (.suppressed 0xFFF) (scr fun c => { c with codes := [(0xFFF, { CodeState.reset with episode := some (0, 1, 0, 0, 37) })] }) ∧
    Completes .scrCtrlFreeze live ∧ Completes .scrCtrlThaw live ∧ Completes .freezeMaxExpiry (scr fun c => { c with frozen := some (0, 0) }) ∧
    Completes (.scrAckWrite 7) live :=
  ⟨⟨_, (h (scr fun c => { c with frozen := some (0, 0) })).1 rfl⟩, ⟨_, (h (scr fun c => { c with thawRecord := some item })).2.1 item rfl rfl⟩,
   ⟨_, (h (scr fun c => { c with fifos := [(37, { Fifo.empty with items := [item] })] })).2.2.1 37 item [] rfl rfl (by decide) rfl⟩,
   ⟨_, (h (scr fun c => { c with codes := [(0xFFF, { CodeState.reset with spent := 1 })] })).2.2.2.1 0xFFF (by decide) (by decide)⟩,
   ⟨_, (h (scr fun c => { c with codes := [(0xFFF, { CodeState.reset with episode := some (0, 1, 0, 0, 37) })] })).2.2.2.2.1 0xFFF 0 1 37 0 0 rfl (by decide) (by decide) (by decide)⟩,
   ⟨_, (h live).2.2.2.2.2.1 (by decide) rfl⟩, ⟨_, (h live).2.2.2.2.2.2.1 (by decide)⟩,
   ⟨_, (h (scr fun c => { c with frozen := some (0, 0) })).2.2.2.2.2.2.2.1 0 0 rfl (by decide)⟩,
   ⟨_, (h live).2.2.2.2.2.2.2.2 7 (by decide)⟩⟩

/-- The state `live` with another Tarn. -/
def tarn (f : Tarn → Tarn) : State := { live with tarn := f live.tarn }
theorem sev_keeps : sevMerge 0 0 32 28 = 0 := by decide
theorem witness_TarnActs (h : Obligations.TarnActs) :
    Completes (.tarnErrorEvent 59 3 0 0) live ∧ Completes (.tarnErrorEvent 55 1 0x30 0) live ∧
    Completes (.tarnEscalation 59) (tarn fun t => { t with srcs := [(59, { TarnSrc.clear with set := true, timer := some 0 })] }) ∧
    Completes (.tarnStatusClear 0xFFFFFFFFFFFFFFFF 0) live ∧ Completes (.tarnSevWrite true 3) (tarn fun t => { t with lock := true, sev1 := 0 }) ∧
    Completes (.tarnSevWrite false 1) (tarn fun t => { t with sev0 := 0, srcs := [] }) ∧ Completes (.tarnInject 0x13B) live ∧
    Completes (.errReadbackMismatch true true) (tarn fun t => { t with errPair := some (false, true) }) :=
  ⟨⟨_, (h live).1 59 3 0 0 rfl (by decide) |>.1 (by decide)⟩, ⟨_, (h live).1 55 1 0x30 0 rfl (by decide) |>.2 (by decide) (by decide)⟩,
   ⟨_, (h (tarn fun t => { t with srcs := [(59, { TarnSrc.clear with set := true, timer := some 0 })] })).2.1 59 0 rfl rfl (by decide)⟩,
   ⟨_, (h live).2.2.1 _ 0 (by decide)⟩, ⟨_, (h (tarn fun t => { t with lock := true, sev1 := 0 })).2.2.2.1 3 (by decide) (by decide) rfl⟩,
   ⟨_, (h (tarn fun t => { t with sev0 := 0, srcs := [] })).2.2.2.2.1 1 (by decide) (by decide) (by decide) (by decide)⟩,
   ⟨_, (h live).2.2.2.2.2.1 0x13B (by decide) (by decide) (by decide)⟩,
   ⟨_, (h (tarn fun t => { t with errPair := some (false, true) })).2.2.2.2.2.2 false true true true rfl (by decide)⟩⟩

/-- The state `live` with another power controller. -/
def pwr (f : Power → Power) : State := { live with pwr := f live.pwr }
/-- The state `live` with another pair. -/
def pair (f : Pair → Pair) : State := { live with pair := f live.pair }

theorem witness_PowerActs (h : Obligations.PowerActs) :
    Completes (.perstNRelease true true true) (pwr fun p => { p with perst := true }) ∧
    Completes (.perstNRelease true true true) (pwr fun p => { p with perst := true, main := false }) ∧ Completes .perstNAssert live ∧
    Completes .powerDomainSlot (pwr fun p => { p with ready := false, slot := 57 }) ∧ Completes (.domainRegulationTimeout 59) live ∧
    Completes .startUpComplete (pwr fun p => { p with ready := false, phase := 7 }) ∧ Completes (.startFault 2) (pwr fun p => { p with ready := false }) ∧
    Completes .mainPowerLoss live ∧ Completes (.mainPowerGood true true true) (pwr fun p => { p with main := false }) ∧
    Completes (.auxChange false) live ∧ Completes (.autoOffIdle 21) (pwr fun p => { p with autoOff := true }) ∧
    Completes (.domainWake 37) { one (jQ 0x0701 [1]) with pwr := { live.pwr with domains := live.pwr.domains &&& ~~~(BitVec.ofNat 64 (2 ^ 37)) } } ∧
    Completes .domainSwitchOn (pwr fun p => { p with queue := [(59, false)] }) ∧ Completes .quiesceReqNRelease (pwr fun p => { p with qPin := true }) ∧
    Completes .pwrCtrlQuiesce live ∧ Completes .pwrCtrlUnquiesce (pwr fun p => { p with qReg := true }) ∧
    Completes .quiesceDrained { pwr (fun p => { p with quiesce := 1 }) with pair := { live.pair with state := .inStep } } ∧
    Completes .quiesceDrained { pwr (fun p => { p with quiesce := 2 }) with pair := { live.pair with role := 0 } } ∧
    Completes .quiesceMaxExpiry (pwr fun p => { p with quiesce := 1 }) :=
  ⟨⟨_, (h.1 (pwr fun p => { p with perst := true })).1 _ _ _ rfl rfl⟩,
   ⟨_, (h.1 (pwr fun p => { p with perst := true, main := false })).2.1 _ _ _ rfl rfl⟩, ⟨_, (h.1 live).2.2.1 rfl rfl⟩,
   ⟨_, (h.1 (pwr fun p => { p with ready := false, slot := 57 })).2.2.2.1 (by decide) (by decide) (by decide) (by decide)⟩,
   ⟨_, (h.1 live).2.2.2.2.1 59 rfl rfl (by decide) (by decide) (by decide)⟩,
   ⟨_, (h.1 (pwr fun p => { p with ready := false, phase := 7 })).2.2.2.2.2.1 (by decide) (by decide) (by decide) (by decide) (by decide)⟩,
   ⟨_, (h.1 (pwr fun p => { p with ready := false })).2.2.2.2.2.2.1 (by decide)⟩, ⟨_, (h.1 live).2.2.2.2.2.2.2.2.1 rfl rfl⟩,
   ⟨_, (h.1 (pwr fun p => { p with main := false })).2.2.2.2.2.2.2.2.2.1 _ _ _ rfl⟩, ⟨_, (h.1 live).2.2.2.2.2.2.2.2.2.2 false (by decide)⟩,
   ⟨_, (h.2 (pwr fun p => { p with autoOff := true })).1 21 1 (by decide) (by decide) rfl rfl (by decide) (by decide) (by decide) (by decide)⟩,
   ⟨_, (h.2 { one (jQ 0x0701 [1]) with pwr := { live.pwr with domains := live.pwr.domains &&& ~~~(BitVec.ofNat 64 (2 ^ 37)) } }).2.1 37 3 (by decide) (by decide) rfl (by decide) (by decide) (by decide)⟩,
   ⟨_, (h.2 (pwr fun p => { p with queue := [(59, false)] })).2.2.1 59 false [] rfl rfl (by decide)⟩,
   ⟨_, (h.2 (pwr fun p => { p with qPin := true })).2.2.2.2.1 rfl⟩, ⟨_, (h.2 live).2.2.2.2.2.1 (by decide) (by decide)⟩,
   ⟨_, (h.2 (pwr fun p => { p with qReg := true })).2.2.2.2.2.2.1 (by decide) rfl⟩,
   ⟨_, (h.2 { pwr (fun p => { p with quiesce := 1 }) with pair := { live.pair with state := .inStep } }).2.2.2.2.2.2.2.1 (.inl rfl) (by decide) rfl rfl rfl⟩,
   ⟨_, (h.2 { pwr (fun p => { p with quiesce := 2 }) with pair := { live.pair with role := 0 } }).2.2.2.2.2.2.2.2.1 (.inr rfl) (by decide) (by decide)⟩,
   ⟨_, (h.2 (pwr fun p => { p with quiesce := 1 })).2.2.2.2.2.2.2.2.2 rfl (by decide) (fun _ h => nomatch h)⟩⟩

set_option maxRecDepth 100000 in
theorem witness_SmbusAndRegistersAnswer (h : Obligations.SmbusAndRegistersAnswer) :
    Completes (.smbStatus true) live ∧ Completes (.smbHealth true) live ∧ Completes (.smbTemperature true) live ∧
    Completes (.smbTemperature true) (pwr fun p => { p with main := false, aux := true }) ∧ Completes (.smbHealth false) live ∧
    Completes .alertResponseRead { live with smb := { live.smb with alert := true } } ∧ Completes (.lowerWordRead 0 0x10010) live ∧
    Completes (.lowerWordRead 255 0) live ∧ Completes (.lowerWordRead 0 0x7FF002) live ∧ Completes (.registerWrite 0 0x7FF000 5 0) live ∧
    Completes (.registerWrite 0 0x10020 8 5) live ∧ Completes (.sysLockWrite 0x3FF) live ∧ Completes (.custCertSelWrite 7) live ∧ Completes .custCertDataRead live :=
  ⟨⟨_, (h.1 live rfl).1 (by decide)⟩, ⟨_, (h.1 live rfl).2.1⟩, ⟨_, (h.1 live rfl).2.2.1 rfl⟩,
   ⟨_, (h.1 (pwr fun p => { p with main := false, aux := true }) rfl).2.2.2.1 rfl⟩,
   ⟨_, (h.1 live rfl).2.2.2.2.2.2.2.1 (.smbHealth false) (by decide)⟩,
   ⟨_, (h.1 { live with smb := { live.smb with alert := true } } rfl).2.2.2.2.2.2.2.2 _ rfl (by decide) (by decide)⟩,
   ⟨_, (h.2 live 0 0x10010 (by decide) (by decide)).1 _ (by decide) rfl (by decide)⟩,
   ⟨_, (h.2 live 255 0 (by decide) (by decide)).2.1 _ (by decide) rfl (by decide)⟩,
   ⟨_, (h.2 live 0 0x7FF002 (by decide) (by decide)).2.2.2.1 (by decide) (by decide)⟩,
   ⟨_, (h.2 live 0 0x7FF000 (by decide) (by decide)).2.2.2.2.2.2.1 5 0 (by decide) (by decide) (by decide)⟩,
   ⟨_, (h.2 live 0 0x10020 (by decide) (by decide)).2.2.2.2.2.2.2.1 5 (by decide) rfl rfl takes ⟨_, rfl⟩⟩,
   ⟨_, (h.2 live 0 0 (by decide) (by decide)).2.2.2.2.2.2.2.2.1 0x3FF takes⟩, ⟨_, (h.2 live 0 0 (by decide) (by decide)).2.2.2.2.2.2.2.2.2.1 7 takes⟩,
   ⟨_, (h.2 live 0 0 (by decide) (by decide)).2.2.2.2.2.2.2.2.2.2 (by decide)⟩⟩

theorem witness_PairRoleAndLinkAct (h : Obligations.PairRoleAndLinkAct) :
    Completes .pairClaim (pair fun p => { p with state := .alone, role := 2, actOut := false, effective := false }) ∧
    Completes .claimCheck (pair fun p => { p with effective := false, inhibit := true, posB := true }) ∧
    Completes .claimCheck (pair fun p => { p with effective := false, inhibit := true }) ∧ Completes .claimCheck (pair fun p => { p with effective := false }) ∧
    Completes (.pairInhibitChange true) live ∧ Completes .handoverDrained (pair fun p => { p with handing := some 0 }) ∧
    Completes .handoverDrained (pair fun p => { p with handing := some 7 }) ∧ Completes .handoverDrained (pair fun p => { p with handing := some 7, handover := true }) ∧
    Completes .pairCtrlDetach (pair fun p => { p with state := .inStep }) ∧ Completes .pairCtrlDetach live ∧
    Completes .catchupInStep (pair fun p => { p with state := .catchingUp, cut := some 5 }) ∧ Completes (.linkTraining 7) live ∧
    Completes .linkTrainingLost live ∧ Completes .handshakeRetry (pair fun p => { p with retryAt := some 0 }) ∧
    Completes (.cert (zeros 16)) (pair fun p => { p with rxSeq := 1 }) ∧ Completes .heartbeatSend live ∧
    Completes (.sidebandCharacter 0 1) (pair fun p => { p with sidebandOk := true, sideCounter := some 63 }) ∧
    Completes (.sidebandCharacter 2 1) (pair fun p => { p with sidebandOk := true, sideCounter := some 0 }) ∧
    Completes (.pathLost true) (pair fun p => { p with sidebandOk := true }) ∧ Completes (.pathLost false) (pair fun p => { p with inbandOk := true }) ∧
    Completes .linkAckTimeout (pair fun p => { p with replay := [(1, zeros 16)], ackAt := 10 ^ 12 - 4000, trained := true }) :=
  ⟨⟨_, (h.1 (pair fun p => { p with state := .alone, role := 2, actOut := false, effective := false })).1 rfl (by decide)⟩,
   ⟨_, ((h.1 (pair fun p => { p with effective := false, inhibit := true, posB := true })).2.1 rfl rfl (by decide)).1 rfl rfl⟩,
   ⟨_, ((h.1 (pair fun p => { p with effective := false, inhibit := true })).2.1 rfl rfl (by decide)).2.1 rfl rfl⟩,
   ⟨_, ((h.1 (pair fun p => { p with effective := false })).2.1 rfl rfl (by decide)).2.2 rfl (by decide)⟩,
   ⟨_, (h.1 live).2.2.1 true (by decide)⟩,
   ⟨_, ((h.1 (pair fun p => { p with handing := some 0 })).2.2.2.2.2.1 0 rfl rfl (fun _ h => nomatch h)).1 rfl⟩,
   ⟨_, ((h.1 (pair fun p => { p with handing := some 7 })).2.2.2.2.2.1 7 rfl rfl (fun _ h => nomatch h)).2.1 (by decide) rfl⟩,
   ⟨_, ((h.1 (pair fun p => { p with handing := some 7, handover := true })).2.2.2.2.2.1 7 rfl rfl (fun _ h => nomatch h)).2.2 (by decide) rfl (fun _ h => nomatch h)⟩,
   ⟨_, (h.1 (pair fun p => { p with state := .inStep })).2.2.2.2.2.2.2.1 ⟨rfl, by decide⟩ rfl⟩,
   ⟨_, (h.1 live).2.2.2.2.2.2.2.2.1 takes (.inl rfl)⟩,
   ⟨_, (h.1 (pair fun p => { p with state := .catchingUp, cut := some 5 })).2.2.2.2.2.2.2.2.2 5 rfl rfl rfl (fun _ h => nomatch h)⟩,
   ⟨_, (h.2 live).1 7 rfl (by decide)⟩, ⟨_, (h.2 live).2.1 rfl⟩, ⟨_, (h.2 (pair fun p => { p with retryAt := some 0 })).2.2.1 0 rfl (by decide)⟩,
   ⟨_, (h.2 (pair fun p => { p with rxSeq := 1 })).2.2.2.1 (zeros 16) (by decide)⟩, ⟨_, (h.2 live).2.2.2.2.2.2.2.2.1 rfl (by decide) (by decide)⟩,
   ⟨_, ((h.2 (pair fun p => { p with sidebandOk := true, sideCounter := some 63 })).2.2.2.2.2.2.2.2.2.1 0 1 63 rfl rfl rfl).1 (by decide)⟩,
   ⟨_, ((h.2 (pair fun p => { p with sidebandOk := true, sideCounter := some 0 })).2.2.2.2.2.2.2.2.2.1 2 1 0 rfl rfl rfl).2 (by decide)⟩,
   ⟨_, (h.2 (pair fun p => { p with sidebandOk := true })).2.2.2.2.2.2.2.2.2.2.1 rfl (by decide)⟩,
   ⟨_, (h.2 (pair fun p => { p with inbandOk := true })).2.2.2.2.2.2.2.2.2.2.2.1 rfl (by decide)⟩,
   ⟨_, (h.2 (pair fun p => { p with replay := [(1, zeros 16)], ackAt := 10 ^ 12 - 4000, trained := true })).2.2.2.2.2.2.2.2.2.2.2.2 (by decide) (by decide) (by decide) rfl⟩⟩

def unsetClock : State := tm fun t => { t with state := .unset }
def slewing : State := tm fun t => { t with slew := some (-17179869) }
theorem witness_NtbCorrectionsFollowTheTable (h : Obligations.NtbCorrectionsFollowTheTable) :
    (sourceLocked (-1) unsetClock).time.ntb = BitVec.ofNat 64 (10 ^ 18 - 1) ∧ (sourceLocked 1000000 live).time.ntb = live.time.ntb ∧
    (sourceLocked 1000001 live).time.ntb = BitVec.ofNat 64 (10 ^ 18 + 1000001) ∧ (sourceLocked (-1000001) live).time.state = .holdover ∧
    (∃ t, step slewing = .next t ∧ t.time.slew = some 0) :=
  ⟨((h.1 unsetClock (-1)).1 rfl).1.trans (by decide), ((h.1 live 1000000).2 (by decide)).1 (by decide),
   (((h.1 live 1000001).2 (by decide)).2.2.2.1 rfl (by decide)).1.trans (by decide), ((h.1 live (-1000001)).2 (by decide)).2.2.2.2.1 (by decide),
   ⟨_, rfl, (h.2 slewing _ (-17179869) rfl rfl rfl rfl (by decide) (by decide) rfl).2⟩⟩

theorem witness_CheckValuesByAlgorithm (h : Obligations.CheckValuesByAlgorithm) (m : Bytes) :
    checkValue { Attrs.none with alg := chr 'A' } m = (cmac false m (zeros 16)).take 5 ∧ checkValue { Attrs.none with alg := chr 'T' } m = (blockEnc true m (zeros 8)).take 3 ∧
    checkValue { Attrs.none with alg := chr 'H' } m = (hmac 0x02 m (zeros 32)).take 5 :=
  ⟨(h _ m).1 rfl, (h _ m).2.1 rfl, (h _ m).2.2.1 rfl⟩

/-! ## Values the spec works out -/

/-- 06, worked example: from PIN 1234 and the natural PIN 3570 comes the offset 8764, and from these the PIN again. -/
theorem test_offset_generated : subDigits [1, 2, 3, 4] [3, 5, 7, 0] = [8, 7, 6, 4] := by decide
theorem test_offset_verified : addDigits [3, 5, 7, 0] [8, 7, 6, 4] = [1, 2, 3, 4] := by decide

/-- 02, worked example: after two hours of holdover from an error of 100 ns the bound is 3,600,100 ns. -/
theorem test_holdover_bound :
    errBound (tm fun t => { t with state := .holdover, lost := true, e0 := 100, lostAt := 10 ^ 9, mono := 10 ^ 9 + 7200 * 10 ^ 9 }) = 3600100 := by decide

/-- 14, worked example: with word 3 reading 0x300F the module is INVALID. -/
theorem test_partial_stage_word : lcCode { live with nv := { live.nv with stage := [(0, 0x5A5AA5A5), (1, 0x3C3CC3C3), (3, 0x300F)] } } = 0xFF := by decide

/-- 17, worked example: PCIE (bit 2) permits no DEGRADE, so its escalation leads from NOTE to FATAL. -/
theorem test_pcie_escalates_to_fatal : nextSeverity 2 1 = 3 := by decide

/-- 10, worked example, steps 1 and 2: C fails and the service goes on with two sources; then B fails and it stops. -/
theorem test_source_c_fails : (match exec (.rngSourceFail 2 true) (rng fun r => { r with sources := [(0, src 1 0), (1, src 1 0), (2, src 1 0)] }) with
    | .next t => t.rng.state | _ => 9) = 2 := by decide
theorem test_source_b_fails : (match exec (.rngSourceFail 1 false) (rng fun r => { r with state := 2, sources := [(0, src 1 0), (1, src 1 0), (2, src 2 0)] }) with
    | .next t => t.rng.state | _ => 9) = 3 := by decide

/-- 21, worked example, steps 3 and 4: ring 2 of partition 31 at 0x1080; RING_INT_CFG 0x00141082 is stored; RING_CTRL enables the ring. -/
def ring2 : State := { live with parts := [(31, Part.custodian)], rings := [(ringIx 31 2, { Ring.reset with log2 := 10 })]
                                 vault := { live.vault with parts := [(31, { VaultPart.absent with exists_ := true })] } }
set_option maxRecDepth 100000 in
theorem test_int_cfg_written : (match exec (.registerWrite 31 0x1094 4 0x00141082) ring2 with
    | .next t => (regAt t 31 0x1094).map (·.2) | _ => none) = some 0x00141082 := by decide +kernel
set_option maxRecDepth 100000 in
theorem test_ring_enabled : (match exec (.registerWrite 31 0x1098 4 1) ring2 with
    | .next t => (regAt t 31 0x10A8).map (·.2) | _ => none) = some 0x80000000 := by decide +kernel
end Sys2Proof.Tests
end

/-! ## What every command keeps, and what a step does with the queue -/

section
namespace Sys2Proof.Machine

/-- Every command carries the relation `Lasting` on, by the lemma of its own meaning. -/
theorem exec_lasting {a s : State} (c : Instr) (h : Lasting a s) : Lasts a (exec c s) :=
  match c with
  | .sqTail p ring word value => execSqTail_lasting p ring word value h
  | .cqHead p ring word value => execCqHead_lasting p ring word value h
  | .descriptorFetch => execDescriptorFetch_lasting h
  | .descriptorArrival p ring r => execDescriptorArrival_lasting p ring r h
  | .fenceRelease p ring => execFenceRelease_lasting p ring h
  | .jobDispatch => execJobDispatch_lasting h
  | .jobInputArrival seq off r => execJobInputArrival_lasting seq off r h
  | .blobLoad seq second entry blob => execBlobLoad_lasting seq second entry blob h
  | .hostReadTimeout what => execHostReadTimeout_lasting what h
  | .newtGrant core => execNewtGrant_lasting core h
  | .iguanaGrant core bank => execIguanaGrant_lasting core bank h
  | .pinvGrant unit => execPinvGrant_lasting unit h
  | .unitGrant unit => execUnitGrant_lasting unit h
  | .yieldPoint seq => execYieldPoint_lasting seq h
  | .bankZeroiseDone core bank => execBankZeroiseDone_lasting core bank h
  | .jobRetire seq => execJobRetire_lasting seq h
  | .completionWrite seq => execCompletionWrite_lasting seq h
  | .intModerationTimer p ring => execIntModerationTimer_lasting p ring h
  | .msixVectorUnmask p vector => execMsixVectorUnmask_lasting p vector h
  | .cursorAdvance => execCursorAdvance_lasting h
  | .serviceWindow => execServiceWindow_lasting h
  | .ringEnable p ring => execRingEnable_lasting p ring h
  | .ringDisable p ring => execRingDisable_lasting p ring h
  | .partCreate seq => execPartCreate_lasting seq h
  | .partDestroy seq => execPartDestroy_lasting seq h
  | .partConfigure seq => execPartConfigure_lasting seq h
  | .partFreeze seq => execPartFreeze_lasting seq h
  | .partThaw seq => execPartThaw_lasting seq h
  | .partSaveSave seq => execPartSaveSave_lasting seq h
  | .partSaveRelease seq => execPartSaveRelease_lasting seq h
  | .partSaveReissue seq => execPartSaveReissue_lasting seq h
  | .partRestoreOffer seq => execPartRestoreOffer_lasting seq h
  | .partRestoreRestore seq => execPartRestoreRestore_lasting seq h
  | .partRestoreActivate seq => execPartRestoreActivate_lasting seq h
  | .partRestoreAbort seq => execPartRestoreAbort_lasting seq h
  | .tdesSetEnable seq => execTdesSetEnable_lasting seq h
  | .tdesSetDisable seq => execTdesSetDisable_lasting seq h
  | .authChallenge seq => execAuthChallenge_lasting seq h
  | .custodianSessionOpen seq => execCustodianSessionOpen_lasting seq h
  | .custodianSessionExchange seq => execCustodianSessionExchange_lasting seq h
  | .custodianSessionClose seq => execCustodianSessionClose_lasting seq h
  | .custodianEnrol seq => execCustodianEnrol_lasting seq h
  | .masterLoad seq => execMasterLoad_lasting seq h
  | .policySetTamper seq => execPolicySetTamper_lasting seq h
  | .policySetRules seq => execPolicySetRules_lasting seq h
  | .policySetCellWindow seq => execPolicySetCellWindow_lasting seq h
  | .lcTransition seq => execLcTransition_lasting seq h
  | .fwUpdateLoad seq => execFwUpdateLoad_lasting seq h
  | .fwUpdateActivate seq => execFwUpdateActivate_lasting seq h
  | .debugCertAccept seq => execDebugCertAccept_lasting seq h
  | .attest seq => execAttest_lasting seq h
  | .pairStatusRead seq => execPairStatusRead_lasting seq h
  | .pairStatusRepair seq => execPairStatusRepair_lasting seq h
  | .pairStatusHandover seq => execPairStatusHandover_lasting seq h
  | .keyImport seq => execKeyImport_lasting seq h
  | .keyImportRestore seq => execKeyImportRestore_lasting seq h
  | .keyExport seq => execKeyExport_lasting seq h
  | .keyGenerate seq => execKeyGenerate_lasting seq h
  | .keyReplace seq => execKeyReplace_lasting seq h
  | .keyErase seq => execKeyErase_lasting seq h
  | .keyInvalidate seq => execKeyInvalidate_lasting seq h
  | .keyAttrRead seq => execKeyAttrRead_lasting seq h
  | .keyCheckValue seq => execKeyCheckValue_lasting seq h
  | .keyTranslate seq => execKeyTranslate_lasting seq h
  | .blobTableSet seq => execBlobTableSet_lasting seq h
  | .blobEvict seq => execBlobEvict_lasting seq h
  | .derivContextSet seq => execDerivContextSet_lasting seq h
  | .keystoreRingSet seq => execKeystoreRingSet_lasting seq h
  | .derivedCacheFlush seq => execDerivedCacheFlush_lasting seq h
  | .tr34Import seq => execTr34Import_lasting seq h
  | .pinTranslate seq => execPinTranslate_lasting seq h
  | .pinVerifyOffset seq => execPinVerifyOffset_lasting seq h
  | .pinVerifyPvv seq => execPinVerifyPvv_lasting seq h
  | .pinOffsetGen seq => execPinOffsetGen_lasting seq h
  | .pvvGen seq => execPvvGen_lasting seq h
  | .pinGenerate seq => execPinGenerate_lasting seq h
  | .dectabLoad seq => execDectabLoad_lasting seq h
  | .arqcVerify seq => execArqcVerify_lasting seq h
  | .arpcGenerate seq => execArpcGenerate_lasting seq h
  | .smMac seq => execSmMac_lasting seq h
  | .smEncrypt seq => execSmEncrypt_lasting seq h
  | .smPinChange seq => execSmPinChange_lasting seq h
  | .cvvGenerate seq => execCvvGenerate_lasting seq h
  | .cvvVerify seq => execCvvVerify_lasting seq h
  | .dukptInitExport seq => execDukptInitExport_lasting seq h
  | .dukptDecrypt seq => execDukptDecrypt_lasting seq h
  | .dukptEncrypt seq => execDukptEncrypt_lasting seq h
  | .dukptMacGenerate seq => execDukptMacGenerate_lasting seq h
  | .dukptMacVerify seq => execDukptMacVerify_lasting seq h
  | .encrypt seq => execEncrypt_lasting seq h
  | .decrypt seq => execDecrypt_lasting seq h
  | .macGenerate seq => execMacGenerate_lasting seq h
  | .macVerify seq => execMacVerify_lasting seq h
  | .ff1Tokenise seq => execFf1Tokenise_lasting seq h
  | .ff1Detokenise seq => execFf1Detokenise_lasting seq h
  | .pkSign seq => execPkSign_lasting seq h
  | .pkVerify seq => execPkVerify_lasting seq h
  | .pkKeypair seq => execPkKeypair_lasting seq h
  | .pkAgree seq => execPkAgree_lasting seq h
  | .kemEncaps seq => execKemEncaps_lasting seq h
  | .kemDecaps seq => execKemDecaps_lasting seq h
  | .rsaDecrypt seq => execRsaDecrypt_lasting seq h
  | .rsaEncrypt seq => execRsaEncrypt_lasting seq h
  | .curveLoad seq => execCurveLoad_lasting seq h
  | .random seq => execRandom_lasting seq h
  | .hash seq => execHash_lasting seq h
  | .hmac seq => execHmac_lasting seq h
  | .nop seq => execNop_lasting seq h
  | .fence seq => execFence_lasting seq h
  | .cancel seq => execCancel_lasting seq h
  | .timeRead seq => execTimeRead_lasting seq h
  | .journalMark seq => execJournalMark_lasting seq h
  | .timePair upper => execTimePair_lasting upper h
  | .acceptFree => execAcceptFree_lasting h
  | .timeCfgWrite value => execTimeCfgWrite_lasting value h
  | .timePpsEdge => execTimePpsEdge_lasting h
  | .timeOfDayFrame frame => execTimeOfDayFrame_lasting frame h
  | .edgeReport => execEdgeReport_lasting h
  | .ptmRequest => execPtmRequest_lasting h
  | .ptmExchangeDone master => execPtmExchangeDone_lasting master h
  | .sourceLoss => execSourceLoss_lasting h
  | .slewDone => execSlewDone_lasting h
  | .sweepVisit => execSweepVisit_lasting h
  | .generationChangeCommit seq => execGenerationChangeCommit_lasting seq h
  | .masKsHeadWrite p value => execMasKsHeadWrite_lasting p value h
  | .keystoreRecordWrite seq => execKeystoreRecordWrite_lasting seq h
  | .pinvUnitFault unit datapath info => execPinvUnitFault_lasting unit datapath info h
  | .newtCoreFault core datapath info => execNewtCoreFault_lasting core datapath info h
  | .iguUnitFault unit datapath info => execIguUnitFault_lasting unit datapath info h
  | .newtPeriodicTest => execNewtPeriodicTest_lasting h
  | .iguPeriodicTest => execIguPeriodicTest_lasting h
  | .newtWinStart value => execNewtWinStart_lasting value h
  | .iguWinStart value => execIguWinStart_lasting value h
  | .newtWinTimeout => execNewtWinTimeout_lasting h
  | .windowTestDone unit pass cycles => execWindowTestDone_lasting unit pass cycles h
  | .rngStartupTestDone source pass => execRngStartupTestDone_lasting source pass h
  | .rngSourceFail source apt => execRngSourceFail_lasting source apt h
  | .rngBlockClose raw => execRngBlockClose_lasting raw h
  | .rngReady raw => execRngReady_lasting raw h
  | .rngReseed => execRngReseed_lasting h
  | .rngCtrlRestart value => execRngCtrlRestart_lasting value h
  | .vfFlr p => execVfFlr_lasting p h
  | .pfFlr => execPfFlr_lasting h
  | .vfEnableClear => execVfEnableClear_lasting h
  | .partVfCtrlReset p value => execPartVfCtrlReset_lasting p value h
  | .partCtrlReset value => execPartCtrlReset_lasting value h
  | .partResetDone p => execPartResetDone_lasting p h
  | .busMasterEnableClear p => execBusMasterEnableClear_lasting p h
  | .busMasterEnableSet p => execBusMasterEnableSet_lasting p h
  | .d3hotEntry p => execD3hotEntry_lasting p h
  | .challengeExpiry => execChallengeExpiry_lasting h
  | .sessionExpiry custodian => execSessionExpiry_lasting custodian h
  | .cellWindowExpiry => execCellWindowExpiry_lasting h
  | .custodianKeyStoreErase => execCustodianKeyStoreErase_lasting h
  | .monitorExcursion monitor detA detB => execMonitorExcursion_lasting monitor detA detB h
  | .detectorDisagreement monitor detA => execDetectorDisagreement_lasting monitor detA h
  | .tamperClockFault clockB => execTamperClockFault_lasting clockB h
  | .zeroiseReadbackDone ok => execZeroiseReadbackDone_lasting ok h
  | .cellRemoval cellB => execCellRemoval_lasting cellB h
  | .cellInsertion cellB volts => execCellInsertion_lasting cellB volts h
  | .cellSettled cellB => execCellSettled_lasting cellB h
  | .cellLow cellB volts => execCellLow_lasting cellB volts h
  | .holdupExpiry => execHoldupExpiry_lasting h
  | .tmpCtrlResume => execTmpCtrlResume_lasting h
  | .tmpCtrlEvregClear => execTmpCtrlEvregClear_lasting h
  | .tmpEvregDataRead word => execTmpEvregDataRead_lasting word h
  | .dbgCtrlClose => execDbgCtrlClose_lasting h
  | .debugSessionExpiry => execDebugSessionExpiry_lasting h
  | .debugPageRefresh trace => execDebugPageRefresh_lasting trace h
  | .debugAccess kind address => execDebugAccess_lasting kind address h
  | .grdCommit map => execGrdCommit_lasting map h
  | .grdCommitApply => execGrdCommitApply_lasting h
  | .fwBootTimeout => execFwBootTimeout_lasting h
  | .pairClaim => execPairClaim_lasting h
  | .claimCheck => execClaimCheck_lasting h
  | .pairInhibitChange high => execPairInhibitChange_lasting high h
  | .livenessTimeout => execLivenessTimeout_lasting h
  | .linkTraining lanes => execLinkTraining_lasting lanes h
  | .handshakeRetry => execHandshakeRetry_lasting h
  | .cert frame => execCert_lasting frame h
  | .hello frame => execHello_lasting frame h
  | .keyx frame => execKeyx_lasting frame h
  | .confirm frame => execConfirm_lasting frame h
  | .heartbeat frame => execHeartbeat_lasting frame h
  | .heartbeatSend => execHeartbeatSend_lasting h
  | .sidebandCharacter counter role => execSidebandCharacter_lasting counter role h
  | .pathLost sideband => execPathLost_lasting sideband h
  | .linkAckTimeout => execLinkAckTimeout_lasting h
  | .admitFrame frame => execAdmit_lasting frame h
  | .dispatchFrame frame => execDispatchFrame_lasting frame h
  | .dataFrame frame => execDataFrame_lasting frame h
  | .randomFrame frame => execRandomFrame_lasting frame h
  | .commitFrame frame => execCommitFrame_lasting frame h
  | .doneFrame frame => execDoneFrame_lasting frame h
  | .resultFrame frame => execResultFrame_lasting frame h
  | .jack frame => execJack_lasting frame h
  | .handover frame => execHandover_lasting frame h
  | .handoverDrained => execHandoverDrained_lasting h
  | .snapshot frame => execSnapshot_lasting frame h
  | .snapshotEnd frame => execSnapshotEnd_lasting frame h
  | .catchupInStep => execCatchupInStep_lasting h
  | .detach frame => execDetach_lasting frame h
  | .pairCtrlDetach => execPairCtrlDetach_lasting h
  | .markRaise => execMarkRaise_lasting h
  | .jrnHrCfgWrite p value => execJrnHrCfgWrite_lasting p value h
  | .jrnWinSeqWrite p upper => execJrnWinSeqWrite_lasting p upper h
  | .jrnSearchDone p => execJrnSearchDone_lasting p h
  | .jrnWinEntryRead p => execJrnWinEntryRead_lasting p h
  | .screeRecordClose => execScreeRecordClose_lasting h
  | .tokenRefill code => execTokenRefill_lasting code h
  | .suppressed code => execSuppressed_lasting code h
  | .scrCtrlFreeze => execScrCtrlFreeze_lasting h
  | .scrCtrlThaw => execScrCtrlThaw_lasting h
  | .freezeMaxExpiry => execFreezeMaxExpiry_lasting h
  | .scrAckWrite upper => execScrAckWrite_lasting upper h
  | .tarnErrorEvent source kind unit info => execTarnErrorEvent_lasting source kind unit info h
  | .tarnEscalation source => execTarnEscalation_lasting source h
  | .tarnStatusClear mask gone => execTarnStatusClear_lasting mask gone h
  | .tarnSevWrite high value => execTarnSevWrite_lasting high value h
  | .tarnInject value => execTarnInject_lasting value h
  | .errReadbackMismatch pinP pinN => execErrReadbackMismatch_lasting pinP pinN h
  | .pmcClearAll => execPmcClearAll_lasting h
  | .pmcSrCfgWrite value => execPmcSrCfgWrite_lasting value h
  | .pmcPDumpCfgWrite p value => execPmcPDumpCfgWrite_lasting p value h
  | .pmcDump p => execPmcDump_lasting p h
  | .perstNRelease posB fuseOk pufOk => execPerstNRelease_lasting posB fuseOk pufOk h
  | .perstNAssert => execPerstNAssert_lasting h
  | .powerDomainSlot => execPowerDomainSlot_lasting h
  | .domainRegulationTimeout domain => execDomainRegulationTimeout_lasting domain h
  | .startUpComplete => execStartUpComplete_lasting h
  | .startFault code => execStartFault_lasting code h
  | .mainPowerLoss => execMainPowerLoss_lasting h
  | .auxChange good => execAuxChange_lasting good h
  | .autoOffIdle domain => execAutoOffIdle_lasting domain h
  | .domainWake domain => execDomainWake_lasting domain h
  | .domainSwitchOn => execDomainSwitchOn_lasting h
  | .quiesceReqNAssert => execQuiesceReqNAssert_lasting h
  | .quiesceReqNRelease => execQuiesceReqNRelease_lasting h
  | .pwrCtrlQuiesce => execPwrCtrlQuiesce_lasting h
  | .pwrCtrlUnquiesce => execPwrCtrlUnquiesce_lasting h
  | .quiesceDrained => execQuiesceDrained_lasting h
  | .quiesceMaxExpiry => execQuiesceMaxExpiry_lasting h
  | .smbStatus pec => execSmbStatus_lasting pec h
  | .smbHealth pec => execSmbHealth_lasting pec h
  | .smbTemperature pec => execSmbTemperature_lasting pec h
  | .smbEvidence pec => execSmbEvidence_lasting pec h
  | .smbInventory pec => execSmbInventory_lasting pec h
  | .smbQuiesceState pec => execSmbQuiesceState_lasting pec h
  | .alertResponseRead => execAlertResponseRead_lasting h
  | .sysLockWrite value => execSysLockWrite_lasting value h
  | .custCertSelWrite value => execCustCertSelWrite_lasting value h
  | .custCertDataRead => execCustCertDataRead_lasting h
  | .lowerWordRead p offset => execLowerWordRead_lasting p offset h
  | .registerWrite p offset size value => execRegisterWrite_lasting p offset size value h
  | .mainPowerGood posB fuseOk pufOk => execMainPowerGood_lasting posB fuseOk pufOk h
  | .linkTrainingLost => execLinkTrainingLost_lasting h
  | .d3hotExit p => execD3hotExit_lasting p h

/-- Settles O8: each of the four parts is one of the things every command keeps. -/
theorem commandsOnlyAddOutputs : Obligations.CommandsOnlyAddOutputs := by
  unfold Obligations.CommandsOnlyAddOutputs
  intro c s t ht
  have h := (exec_lasting c (Lasting.rfl' s)).keep t ht
  exact ⟨h.queue, h.mono, h.out, h.free⟩

/-- Settles O1, by the equation of `step` on a queue that is not empty. -/
theorem stepRunsFrontCommand : Obligations.StepRunsFrontCommand := by
  unfold Obligations.StepRunsFrontCommand
  intro c rest s h
  unfold step
  rw [h]

/-! ## The state after reset -/

theorem ringAt_reset (p r : Nat) : ringAt State.reset p r = Ring.reset := rfl

theorem srcAt_reset (n : Nat) : srcAt State.reset n = TarnSrc.clear := rfl

/-- The vault record of every partition but 0 is absent. -/
theorem partState_reset_absent {p : Nat} (hp : p ≠ 0) : partState State.reset p = 0 := by
  have h : existsPart State.reset p = false := by
    simp [existsPart, vaultAt, State.reset, Vault.factory, Tab.get, Ne.symm hp, VaultPart.absent]
  simp [partState, h]

/-- Settles O4: field by field from the reset values; the life-cycle code is computed from the two stage words of a module as delivered. -/
theorem resetStateIsAsStated : Obligations.ResetStateIsAsStated := by
  unfold Obligations.ResetStateIsAsStated
  refine ⟨rfl, rfl, rfl, rfl, rfl, rfl, rfl, rfl, rfl, rfl, rfl, rfl, rfl, rfl, rfl, ?lifeCycle, rfl, rfl, rfl, rfl, rfl, rfl, rfl, rfl, ?fatal, rfl,
    fun p r => ?ring, rfl, fun p hp => partState_reset_absent hp, fun n => ?source⟩
  case lifeCycle => decide
  case fatal => decide
  case ring => rw [ringAt_reset]; exact ⟨rfl, rfl, rfl, rfl⟩
  case source => rw [srcAt_reset]; rfl

end Sys2Proof.Machine
end

/-! ## What the network time clock reads of the state, and what a tick besides the time itself leaves of it -/

section
namespace Sys2Proof.Machine

/-- What the network time clock reads: the time block, and whether NTB runs (02 R20, R21). -/
def State.clock (s : State) : TimeBlk × Bool := (s.time, s.pwr.main && !s.pwr.perst)

/-- A fold whose steps leave the clock leaves it. -/
theorem foldl_clock {α : Type} {f : State → α → State} (hf : ∀ s x, (f s x).clock = s.clock) (l : List α) (s : State) :
    (l.foldl f s).clock = s.clock :=
  List.foldlRecOn l f (motive := fun t => t.clock = s.clock) rfl fun t ht x _ => (hf t x).trans ht

@[simp] theorem modPart_clock (p : Nat) (f : Part → Part) (s : State) : (modPart p f s).clock = s.clock := rfl

@[simp] theorem scree_clock (e : Ev) (s : State) : (scree e s).clock = s.clock := by
  unfold scree
  dsimp only
  repeat' split
  all_goals rfl

@[simp] theorem note_clock (c k : Nat) (l : List Nat) (s : State) : (note c k l s).clock = s.clock := scree_clock _ s

@[simp] theorem sendMsix_clock (p v : Nat) (s : State) : (sendMsix p v s).clock = s.clock := by
  unfold sendMsix
  split <;> rfl

@[simp] theorem putHost_clock (p a : Nat) (bs : Bytes) (s : State) : (putHost p a bs s).clock = s.clock := by
  unfold putHost
  split <;> rfl

@[simp] theorem pmcSample_clock (i : Nat) (h : Hit) (s : State) : (pmcSample i h s).clock = s.clock := by
  unfold pmcSample
  extract_lets free
  split
  · split
    rename_i k drawn hdraw
    have hd : drawn.clock = s.clock := by
      revert hdraw
      split
      all_goals intro e; cases e; rfl
    extract_lets bs
    split
    rename_i r ok addr _
    extract_lets stored written due
    have hw : written.clock = drawn.clock := by
      unfold written
      split
      · exact putHost_clock _ _ _ _
      · rfl
    split
    · exact (sendMsix_clock _ _ _).trans (hw.trans hd)
    · exact hw.trans hd
  · exact note_clock _ _ _ _

@[simp] theorem pmcCount_clock (h : Hit) (s : State) (i : Nat) : (pmcCount h s i).clock = s.clock := by
  unfold pmcCount
  dsimp only
  repeat' split
  · exact pmcSample_clock _ _ _
  · rfl
  · rfl

@[simp] theorem pmc_clock (h : Hit) (s : State) : (pmc h s).clock = s.clock := by
  unfold pmc
  split
  · exact foldl_clock (pmcCount_clock h) _ s
  · rfl

@[simp] theorem pmcHit_clock (code n cls : Nat) (s : State) : (pmcHit code n cls s).clock = s.clock := pmc_clock _ s

@[simp] theorem pmcJob_clock (code n stage : Nat) (j : Job) (s : State) : (pmcJob code n stage j s).clock = s.clock := pmc_clock _ s

theorem tickEntitled_clock (s : State) : (tickEntitled s).clock = s.clock :=
  foldl_clock (fun _ _ => foldl_clock (fun _ _ => modPart_clock _ _ _) _ _) _ s

theorem tickReceived_clock (s : State) : (tickReceived s).clock = s.clock := by
  refine foldl_clock (fun t j => ?_) _ s
  split <;> rfl

theorem tickIssue_clock (s : State) : (tickIssue s).clock = s.clock := by
  refine foldl_clock (fun t j => ?_) _ s
  split
  · rfl
  · exact pmcJob_clock _ _ _ _ _

theorem tickPmc_clock (s : State) : (tickPmc s).clock = s.clock := by
  unfold tickPmc
  split
  · rfl
  · refine (foldl_clock (fun t j => ?_) _ _).trans (pmcHit_clock _ _ _ s)
    repeat' split
    · rfl
    · exact pmcJob_clock _ _ _ _ _
    · exact pmcJob_clock _ _ _ _ _
    · rfl

theorem tickPressure_clock (s : State) : (tickPressure s).clock = s.clock := by
  refine foldl_clock (fun t p => ?_) _ s
  dsimp only
  split <;> rfl

theorem tickIdle_clock (s : State) : (tickIdle s).clock = s.clock := by
  refine foldl_clock (fun t j => ?_) _ s
  split <;> rfl

theorem tickVault_clock (s : State) : (tickVault s).clock = s.clock := by
  unfold tickVault
  dsimp only
  repeat' split
  all_goals rfl

theorem judgeAlert_clock (s : State) : (judgeAlert s).clock = s.clock := by
  unfold judgeAlert
  dsimp only
  split <;> rfl

/-- What a tick does besides the time itself leaves what the clock reads. -/
theorem tickRest_clock (s : State) : (tickRest s).clock = s.clock := by
  unfold tickRest
  dsimp only
  rw [judgeAlert_clock, tickVault_clock, tickPmc_clock, tickPressure_clock]
  split
  · rfl
  · rw [tickIdle_clock, tickIssue_clock, tickReceived_clock, tickEntitled_clock]

/-- A tick advances the time block by one period, which runs under main power out of reset. -/
theorem clockTick_time (s : State) : (clockTick s).time = tickTime (s.pwr.main && !s.pwr.perst) s.time := by
  have h := tickRest_clock s
  simp only [State.clock, Prod.mk.injEq] at h
  obtain ⟨ht, hr⟩ := h
  simp only [clockTick, ht, hr]

theorem clockTick_pending (s : State) : (clockTick s).pending = s.pending := (tickRest_lasting (Lasting.rfl' s)).queue

theorem step_idle {s : State} (h : s.pending = []) : step s = .next (clockTick s) := by
  unfold step
  rw [h]

/-! ## One period of time (02 R20 to R23) -/

theorem tickTime_stopped (t : TimeBlk) : tickTime false t = { t with mono := t.mono + tickNs } := rfl

theorem tickTime_mono (run : Bool) (t : TimeBlk) : (tickTime run t).mono = t.mono + tickNs := by
  cases run <;> rfl

theorem tickTime_slew (t : TimeBlk) : (tickTime true t).slew = t.slew.map fun r => r - slewPart t := rfl

/-- NTB and its fraction move on by 8 ns and the part of the slew, modulo their 96 bits. -/
theorem ntbFine_tickTime (t : TimeBlk) :
    ntbFine (tickTime true t) = ((ntbFine t + tickNs * 2 ^ 32 : Nat) + slewPart t : Int).toNat % 2 ^ 96 := by
  show 2 ^ 32 * (BitVec.ofNat 64 _).toNat + (BitVec.ofNat 32 _).toNat = _
  rw [BitVec.toNat_ofNat, BitVec.toNat_ofNat]
  generalize Int.toNat _ = n
  have : n / 2 ^ 32 % 2 ^ 64 = n % 2 ^ 96 / 2 ^ 32 := by omega
  omega

/-- The number of 2^-32 ns gives NTB and its fraction back. -/
theorem ntb_toNat_eq (t : TimeBlk) : t.ntb.toNat = ntbFine t / 2 ^ 32 := by
  have hf := t.frac.isLt
  unfold ntbFine
  omega

theorem frac_toNat_eq (t : TimeBlk) : t.frac.toNat = ntbFine t % 2 ^ 32 := by
  have hf := t.frac.isLt
  unfold ntbFine
  omega

/-- Without a slew NTB moves on by 8 ns, wrapping, and its fraction stands. -/
theorem tickTime_noSlew {t : TimeBlk} (h : t.slew = none) :
    (tickTime true t).ntb = t.ntb + 8 ∧ (tickTime true t).frac = t.frac := by
  have hp : slewPart t = 0 := by simp [slewPart, h]
  have hfine : ntbFine (tickTime true t) = (ntbFine t + 8 * 2 ^ 32) % 2 ^ 96 := by
    rw [ntbFine_tickTime, hp, Int.add_zero, Int.toNat_natCast, tickNs]
  have hf := t.frac.isLt
  unfold ntbFine at hfine
  constructor
  · apply BitVec.eq_of_toNat_eq
    show _ = (t.ntb.toNat + 8) % 2 ^ 64
    rw [ntb_toNat_eq, ntbFine, hfine]
    omega
  · apply BitVec.eq_of_toNat_eq
    rw [frac_toNat_eq, ntbFine, hfine]
    omega

/-- Settles O2: a step on an empty queue is a tick, which leaves what the clock reads but for one period of time. -/
theorem idleStepIsOneTick : Obligations.IdleStepIsOneTick := by
  unfold Obligations.IdleStepIsOneTick
  intro s hq
  refine ⟨clockTick s, step_idle hq, (clockTick_pending s).trans hq, ?_, fun hm hp hs => ?_, fun hoff => ?_⟩
  · rw [clockTick_time, tickTime_mono, tickNs]
  · rw [clockTick_time, hm, hp]
    obtain ⟨hn, hf⟩ := tickTime_noSlew hs
    refine ⟨hn, hf, ?_⟩
    exact (tickTime_slew _).trans (by rw [hs]; rfl)
  · have hrun : (s.pwr.main && !s.pwr.perst) = false := by
      rcases hoff with h | h <;> simp [h]
    rw [clockTick_time, hrun, tickTime_stopped]
    exact ⟨rfl, rfl, rfl⟩

end Sys2Proof.Machine
end

/-! ## Corrections of NTB (02 R22) -/

section
namespace Sys2Proof.Machine

theorem modTime_time (f : TimeBlk → TimeBlk) (s : State) : (modTime f s).time = f s.time := rfl

/-- A slew runs toward the offset: both are forward, or both are backward. -/
def slewToward (slew : Option Int) (off : Int) : Bool :=
  match slew with
  | none => false
  | some r => decide ((0 < r ∧ 0 < off) ∨ (r < 0 ∧ off < 0))

/-- The time block after a correction by the rows of R22. -/
def correctedTime (off : Int) (t : TimeBlk) : TimeBlk :=
  if off = 0 then { t with slew := none, slewBack := false }
  else if off.natAbs ≤ oneMs then { t with slew := some (off * 2 ^ 32), slewBack := false }
  else if 0 < off then { t with ntb := BitVec.ofInt 64 (t.ntb.toNat + off), slew := none, slewBack := false }
  else { t with slew := some (off * 2 ^ 32), slewBack := true }

theorem correct_time (off : Int) (s : State) : (correct off s).time = correctedTime off s.time := by
  unfold correct correctedTime
  repeat' split
  · rfl
  · rfl
  · exact stepNtb_time off s
  · rfl

/-- The time block after a measurement (02 R22). -/
def measuredTime (off : Int) (t : TimeBlk) : TimeBlk :=
  if slewToward t.slew off then
    { t with slew := some (off * 2 ^ 32), slewBack := t.slewBack || decide (off < -(oneMs : Int)) }
  else correctedTime off t

/-- A correction does not read the slew that ran. -/
theorem correctedTime_slewEnded (off : Int) (t : TimeBlk) :
    correctedTime off { t with slew := none, slewBack := false } = correctedTime off t := by
  unfold correctedTime
  repeat' split
  all_goals rfl

theorem measure_time (off : Int) (s : State) : (measure off s).time = measuredTime off s.time := by
  unfold measure measuredTime slewToward
  rcases hs : s.time.slew with _ | r
  · exact correct_time off s
  · simp only [decide_eq_true_eq]
    split
    · rfl
    · rw [correct_time, modTime_time, correctedTime_slewEnded]

theorem measuredTime_state (off : Int) (t : TimeBlk) : (measuredTime off t).state = t.state := by
  unfold measuredTime correctedTime
  repeat' split
  all_goals rfl

/-! What a measurement sets, row by row. -/

theorem measuredTime_toward {off : Int} {t : TimeBlk} (h : slewToward t.slew off = true) :
    measuredTime off t = { t with slew := some (off * 2 ^ 32), slewBack := t.slewBack || decide (off < -(oneMs : Int)) } := if_pos h

theorem measuredTime_away {off : Int} {t : TimeBlk} (h : slewToward t.slew off = false) : measuredTime off t = correctedTime off t := by
  simp [measuredTime, h]

theorem correctedTime_zero (t : TimeBlk) : correctedTime 0 t = { t with slew := none, slewBack := false } := rfl

theorem correctedTime_small {off : Int} (h0 : off ≠ 0) (h : off.natAbs ≤ 1000000) (t : TimeBlk) :
    correctedTime off t = { t with slew := some (off * 2 ^ 32), slewBack := false } := by
  have hms : off.natAbs ≤ oneMs := h
  rw [correctedTime, if_neg h0, if_pos hms]

theorem correctedTime_forward {off : Int} (h : 1000000 < off) (t : TimeBlk) :
    correctedTime off t = { t with ntb := BitVec.ofInt 64 (t.ntb.toNat + off), slew := none, slewBack := false } := by
  have hbig : ¬ off.natAbs ≤ oneMs := by unfold oneMs; omega
  rw [correctedTime, if_neg (by omega), if_neg hbig, if_pos (by omega)]

theorem correctedTime_backward {off : Int} (h : off < -1000000) (t : TimeBlk) :
    correctedTime off t = { t with slew := some (off * 2 ^ 32), slewBack := true } := by
  have hbig : ¬ off.natAbs ≤ oneMs := by unfold oneMs; omega
  rw [correctedTime, if_neg (by omega), if_neg hbig, if_neg (by omega)]

/-- The rows of R22 are all there are. -/
theorem offset_rows (off : Int) : off = 0 ∨ (off ≠ 0 ∧ off.natAbs ≤ 1000000) ∨ 1000000 < off ∨ off < -1000000 := by omega

theorem measuredTime_ntb {off : Int} {t : TimeBlk} (h : slewToward t.slew off = true ∨ off.natAbs ≤ 1000000 ∨ off < 0) :
    (measuredTime off t).ntb = t.ntb := by
  cases ht : slewToward t.slew off with
  | true => rw [measuredTime_toward ht]
  | false =>
    rw [measuredTime_away ht]
    rcases offset_rows off with rfl | ⟨h0, hs⟩ | hf | hb
    · rw [correctedTime_zero]
    · rw [correctedTime_small h0 hs]
    · have := h.resolve_left (by simp [ht])
      omega
    · rw [correctedTime_backward hb]

theorem measuredTime_slew {off : Int} {t : TimeBlk} (h0 : off ≠ 0) (h : slewToward t.slew off = true ∨ off ≤ 1000000) :
    (measuredTime off t).slew = some (off * 2 ^ 32) := by
  cases ht : slewToward t.slew off with
  | true => rw [measuredTime_toward ht]
  | false =>
    rw [measuredTime_away ht]
    rcases offset_rows off with rfl | ⟨h0, hs⟩ | hf | hb
    · exact absurd rfl h0
    · rw [correctedTime_small h0 hs]
    · have := h.resolve_left (by simp [ht])
      omega
    · rw [correctedTime_backward hb]

/-- An offset of more than 1 ms backward makes a backward slew of what runs. -/
theorem measuredTime_slewBack_of_backward {off : Int} (hb : off < -1000000) (t : TimeBlk) : (measuredTime off t).slewBack = true := by
  cases ht : slewToward t.slew off with
  | true =>
    have hd : off < -(oneMs : Int) := hb
    simp [measuredTime_toward ht, hd]
  | false => rw [measuredTime_away ht, correctedTime_backward hb]

/-- Where no slew runs toward it, any other offset ends a backward slew. -/
theorem measuredTime_slewBack_of_not_backward {off : Int} {t : TimeBlk} (ht : slewToward t.slew off = false) (h : -1000000 ≤ off) :
    (measuredTime off t).slewBack = false := by
  rw [measuredTime_away ht]
  rcases offset_rows off with rfl | ⟨h0, hs⟩ | hf | hb
  · rw [correctedTime_zero]
  · rw [correctedTime_small h0 hs]
  · rw [correctedTime_forward hf]
  · omega

/-! ## A source that meets its lock condition (02 R32) -/

@[simp] theorem setTimeState_state (n : NtbState) (s : State) : (setTimeState n s).time.state = n := (setTimeState_time n s).1
@[simp] theorem setTimeState_ntb (n : NtbState) (s : State) : (setTimeState n s).time.ntb = s.time.ntb := (setTimeState_time n s).2.1
@[simp] theorem setTimeState_slew (n : NtbState) (s : State) : (setTimeState n s).time.slew = s.time.slew := (setTimeState_time n s).2.2.1

/-- The first setting is a step to the source's value. -/
theorem sourceLocked_unset {s : State} (h : s.time.state = .unset) (off : Int) :
    (sourceLocked off s).time.ntb = BitVec.ofInt 64 (s.time.ntb.toNat + off) ∧ (sourceLocked off s).time.slew = none ∧
      (sourceLocked off s).time.state = .locked := by
  simp [sourceLocked, h, modTime_time]

/-- Once NTB has been set, a locked source measures; NTB is then in HOLDOVER while a backward slew is left, else LOCKED. -/
theorem sourceLocked_set {s : State} (h : s.time.state ≠ .unset) (off : Int) :
    (sourceLocked off s).time.ntb = (measuredTime off s.time).ntb ∧ (sourceLocked off s).time.slew = (measuredTime off s.time).slew ∧
      (sourceLocked off s).time.state =
        if (if s.time.state = .free then decide (off < -1000000) else (measuredTime off s.time).slewBack) then .holdover else .locked := by
  unfold sourceLocked
  cases hst : s.time.state with
  | unset => exact absurd hst h
  | locked =>
    have hm : (measuredTime off s.time).state = .locked := (measuredTime_state off s.time).trans hst
    cases hb : (measuredTime off s.time).slewBack <;> simp [measure_time, modTime_time, hb, hm]
  | holdover =>
    dsimp -zeta only
    extract_lets noted ended
    have hn : noted.time = s.time := by
      unfold noted
      split
      · exact note_time _ _ _ _
      · rfl
    have he : ended.time = { measuredTime off s.time with lost := false } := by
      unfold ended
      rw [modTime_time, measure_time, hn]
    have hm : (measuredTime off s.time).state = .holdover := (measuredTime_state off s.time).trans hst
    cases hb : (measuredTime off s.time).slewBack <;> simp [he, hb, hm]
  | free =>
    by_cases hb : off < -1000000
    · simp [measure_time, modTime_time, oneMs, hb]
    · simp [measure_time, modTime_time, oneMs, hb]

/-! ## One tick of a slew (02 R22) -/

/-- While a whole part or more remains, a period takes a whole part, toward the source. -/
theorem slewPart_whole {t : TimeBlk} {r : Int} (h : t.slew = some r) (hr : 17179869 ≤ r.natAbs) :
    slewPart t = if 0 ≤ r then 17179869 else -17179869 := by
  have hmin : Nat.min slewStep r.natAbs = 17179869 := Nat.min_eq_left hr
  simp only [slewPart, h, hmin]
  rfl

/-- Short of its end, the 96-bit number NTB and its fraction make does not wrap in a period. -/
theorem ntbFine_tickTime_slew {t : TimeBlk} (hn : t.ntb.toNat < 2 ^ 64 - 16) (hd : (slewPart t).natAbs ≤ 17179869) :
    (ntbFine (tickTime true t) : Int) = ntbFine t + 8 * 2 ^ 32 + slewPart t := by
  have hf := t.frac.isLt
  rw [ntbFine_tickTime]
  simp only [ntbFine, tickNs]
  omega

/-- Settles O10: the rows of R22 for each state of NTB and each offset, and one tick of a slew. -/
theorem ntbCorrectionsFollowTheTable : Obligations.NtbCorrectionsFollowTheTable := by
  unfold Obligations.NtbCorrectionsFollowTheTable
  constructor
  · intro s off
    extract_lets t same
    have hsame : same = slewToward s.time.slew off := rfl
    rw [hsame]
    refine ⟨fun hu => sourceLocked_unset hu off, fun hset => ?_⟩
    obtain ⟨hntb, hslew, hstate⟩ := sourceLocked_set hset off
    refine ⟨fun h => hntb.trans (measuredTime_ntb h), fun hs h0 => ?ends, fun h0 h => hslew.trans (measuredTime_slew h0 h),
      fun hs hf => ?forward, fun hb => ?backward, fun hs hb hl => ?stays⟩
    case ends => rw [hslew, measuredTime_away hs, h0, correctedTime_zero]
    case forward =>
      have hm := (measuredTime_away hs).trans (correctedTime_forward hf s.time)
      exact ⟨hntb.trans (by rw [hm]), hslew.trans (by rw [hm])⟩
    case backward => simp [t, hstate, hb, measuredTime_slewBack_of_backward hb]
    case stays => simp [t, hstate, hl, measuredTime_slewBack_of_not_backward hs hb]
  · intro s t r hq hm hp hs hr hn ht
    extract_lets d
    have hpart : slewPart s.time = d := slewPart_whole hs hr
    have hd : d.natAbs ≤ 17179869 := by unfold d; split <;> decide
    have htime : t.time = tickTime true s.time := by
      rw [step_idle hq] at ht
      cases ht
      rw [clockTick_time, hm, hp]
      rfl
    rw [htime]
    constructor
    · have := ntbFine_tickTime_slew hn (hpart ▸ hd)
      rw [hpart] at this
      simpa [ntbFine] using this
    · rw [tickTime_slew, hs, hpart]
      rfl

end Sys2Proof.Machine
end

/-! ## Fields of a run of bytes (00 R6) -/

section
namespace Sys2Proof

@[simp] theorem length_leBytes (n v : Nat) : (leBytes n v).length = n := by
  induction n generalizing v with
  | zero => rfl
  | succ n ih => simp [leBytes, ih]

theorem leNat_leBytes (n v : Nat) : leNat (leBytes n v) = v % 256 ^ n := by
  induction n generalizing v with
  | zero => simp [leBytes, leNat, Nat.mod_one]
  | succ n ih =>
    have h : v % 256 ^ (n + 1) = v % 256 + 256 * (v / 256 % 256 ^ n) := by rw [Nat.pow_succ', Nat.mod_mul]
    rw [leBytes, leNat, ih, BitVec.toNat_ofNat, h]

@[simp] theorem length_slice (bs : Bytes) (i n : Nat) : (slice bs i n).length = n := by simp [slice]

/-- The bytes that stand between others, at their place. -/
theorem slice_between (a b c : Bytes) : slice (a ++ b ++ c) a.length b.length = b := by
  apply List.ext_getElem (length_slice _ _ _)
  intro k _ hk
  simp [slice, byteAt, List.getD_eq_getElem?_getD, List.getElem?_append, hk]

/-- A little-endian field reads back what was written at its place. -/
theorem leField_between (a c : Bytes) (n v : Nat) : leField (a ++ leBytes n v ++ c) a.length n = v % 256 ^ n := by
  have h := slice_between a (leBytes n v) c
  rw [length_leBytes] at h
  rw [leField, h, leNat_leBytes]

/-- Bytes of the length wanted are neither cut nor filled. -/
theorem fit_length (bs : Bytes) : fit bs.length bs = bs := by
  have h := slice_between [] bs []
  rwa [List.nil_append, List.append_nil] at h

end Sys2Proof
end

/-! ## What an own job shares (log entry 32) -/

section
namespace Sys2Proof.Machine

/-- `t` is `s` but for the frames sent: the link's own state and what has left the module. -/
def FramesOnly (s t : State) : Prop := ∃ p o, t = { s with pair := p, out := o }

theorem FramesOnly.refl (s : State) : FramesOnly s s := ⟨s.pair, s.out, rfl⟩

theorem FramesOnly.trans {s t u : State} (h : FramesOnly s t) (k : FramesOnly t u) : FramesOnly s u := by
  obtain ⟨_, _, rfl⟩ := h
  obtain ⟨p, o, rfl⟩ := k
  exact ⟨p, o, rfl⟩

theorem sendFrame_framesOnly (type : Nat) (payload : Bytes) (s : State) : FramesOnly s (sendFrame type payload s) := by
  unfold sendFrame
  generalize (if type ≤ 4 then !s.pair.trained else !s.pair.session) = silent
  split
  · exact .refl s
  · extract_lets +onlyGivenNames f
    split
    · exact ⟨_, s.out, rfl⟩
    · extract_lets +onlyGivenNames sent
      have hsent (u : State) : FramesOnly u (sent u) := by
        unfold sent
        split
        · exact ⟨u.pair, _, rfl⟩
        · exact .refl u
      exact .trans ⟨_, s.out, rfl⟩ (hsent _)

theorem sendRandom_framesOnly (q inst off : Nat) (bs : Bytes) (s : State) : FramesOnly s (sendRandom q inst off bs s) := by
  unfold sendRandom
  split
  · exact .refl s
  · exact List.foldlRecOn _ _ (.refl s) fun t ht _ _ => ht.trans (sendFrame_framesOnly _ _ t)

/-- `t` keeps all of `s` that an own job's sharing keeps: everything but the jobs, the link and what has left the module. -/
def JobsAndFramesOnly (s t : State) : Prop := ∃ js p o, t = { s with jobs := js, pair := p, out := o }

theorem FramesOnly.modJob {s t : State} (h : FramesOnly s t) (q : Nat) (f : Job → Job) : JobsAndFramesOnly s (modJob q f t) := by
  obtain ⟨p, o, rfl⟩ := h
  exact ⟨_, p, o, rfl⟩

/-- An own job takes the bytes from its own module, and tells the standby of them. -/
theorem share_own {s : State} {q : Nat} {j : Job} (hj : findJob s q = some j) (hown : j.fwd = false) {n : Nat} (hn : 0 < n)
    (f : State → Bytes) : ∃ t, share q n (fun s => (f s, s)) s = .ok (fit n (f s), t) ∧ JobsAndFramesOnly s t := by
  refine ⟨_, ?_, (sendRandom_framesOnly q j.part j.randomOff (fit n (f s)) s).modJob q fun x => { x with randomOff := x.randomOff + n }⟩
  simp [share, hj, hown, Nat.ne_of_gt hn]

/-! ## The clock a command reads (02 R34 to R36) -/

theorem NtbState.code_lt (n : NtbState) : n.code < 4 := by cases n <;> decide

/-- TIME_ERR_BOUND is a word of 32 bits. -/
theorem errBound_lt (s : State) : errBound s < 2 ^ 32 := by
  have hmin (x : Nat) : Nat.min 0xFFFFFFFF x < 2 ^ 32 := Nat.lt_of_le_of_lt (Nat.min_le_left _ x) (by decide)
  unfold errBound
  dsimp only
  cases s.time.state with
  | unset => exact (by decide : 0xFFFFFFFF < 2 ^ 32)
  | free => exact (by decide : 0xFFFFFFFF < 2 ^ 32)
  | locked => exact hmin _
  | holdover => exact hmin _

/-- The 21 bytes of the clock, as `readClock` shares them. -/
def clockBytes (s : State) : Bytes :=
  leBytes 8 (ntbNow s) ++ [BitVec.ofNat 8 s.time.state.code] ++ leBytes 4 (errBound s) ++ leBytes 8 (s.time.firstSet.getD (2 ^ 64 - 1))

theorem length_clockBytes (s : State) : (clockBytes s).length = 21 := by simp [clockBytes]

theorem clockBytes_t (s : State) : leField (clockBytes s) 0 8 = ntbNow s := by
  have h := leField_between [] ([BitVec.ofNat 8 s.time.state.code] ++ leBytes 4 (errBound s) ++ leBytes 8 (s.time.firstSet.getD (2 ^ 64 - 1)))
    8 (ntbNow s)
  have hlt : ntbNow s < 256 ^ 8 := s.time.ntb.isLt
  rw [Nat.mod_eq_of_lt hlt] at h
  simpa [clockBytes] using h

theorem clockBytes_state (s : State) : (byteAt (clockBytes s) 8).toNat = s.time.state.code := by
  have hlt : s.time.state.code < 256 := Nat.lt_trans s.time.state.code_lt (by decide)
  simp [clockBytes, byteAt, List.getD_eq_getElem?_getD, Nat.mod_eq_of_lt hlt]

theorem clockBytes_bound (s : State) : leField (clockBytes s) 9 4 = errBound s := by
  have h := leField_between (leBytes 8 (ntbNow s) ++ [BitVec.ofNat 8 s.time.state.code]) (leBytes 8 (s.time.firstSet.getD (2 ^ 64 - 1)))
    4 (errBound s)
  have hlt : errBound s < 256 ^ 4 := errBound_lt s
  rw [Nat.mod_eq_of_lt hlt] at h
  simpa [clockBytes] using h

/-- Clearing the two lowest bits is shifting them out and back. -/
theorem clearLow_eq (x : W64) : x &&& ~~~(3 : W64) = (x >>> 2) <<< 2 := by
  have hmask : ∀ i < 64, (~~~(3 : W64)).getLsbD i = decide (2 ≤ i) := by decide
  apply BitVec.eq_of_getLsbD_eq
  intro i hi
  rw [BitVec.getLsbD_and, hmask i hi, BitVec.getLsbD_shiftLeft, BitVec.getLsbD_ushiftRight]
  by_cases h : 2 ≤ i
  · simp [hi, h, Nat.not_lt.2 h]
  · simp [h, Nat.lt_of_not_le h]

/-- The stamp of R36 as a number: T with its two lowest bits replaced by the state. -/
theorem stamp_toNat (s : State) : (stamp s).toNat = ntbNow s / 4 * 4 + s.time.state.code := by
  have hc := s.time.state.code_lt
  have hT := s.time.ntb.isLt
  have hlow : (s.time.ntb.toNat >>> 2) <<< 2 < 2 ^ 64 := by
    rw [Nat.shiftRight_eq_div_pow, Nat.shiftLeft_eq]
    omega
  rw [stamp, clearLow_eq, BitVec.toNat_or, BitVec.toNat_shiftLeft, BitVec.toNat_ushiftRight, BitVec.toNat_ofNat, Nat.mod_eq_of_lt hlow,
    Nat.mod_eq_of_lt (by omega), ← Nat.shiftLeft_add_eq_or_of_lt hc, Nat.shiftRight_eq_div_pow, Nat.shiftLeft_eq]
  rfl

/-- An own job reads its module's clock. -/
theorem readClock_own {s : State} {q : Nat} {j : Job} (hj : findJob s q = some j) (hown : j.fwd = false) :
    ∃ c t, readClock q s = .ok (c, t) ∧ JobsAndFramesOnly s t ∧ c.t = ntbNow s ∧ c.state = s.time.state.code ∧ c.bound = errBound s := by
  obtain ⟨t, ht, hkept⟩ := share_own hj hown (by decide : 0 < 21) clockBytes
  rw [← length_clockBytes s, fit_length, length_clockBytes] at ht
  exact ⟨_, t, Cmd.bind_ok ht, hkept, clockBytes_t s, clockBytes_state s, clockBytes_bound s⟩

/-- Settles O41: an own job shares its module's bytes and sends frames, and the clock is 21 of these bytes. -/
theorem commandsTellTheirOwn : Obligations.CommandsTellTheirOwn := by
  unfold Obligations.CommandsTellTheirOwn
  intro s op q j hdue kept
  have hkept {t : State} (h : JobsAndFramesOnly s t) : kept t := by
    obtain ⟨_, _, _, rfl⟩ := h
    exact ⟨rfl, rfl, rfl, rfl, rfl, rfl, rfl, rfl⟩
  have hfound : findJob s j.seq = some j := hdue.seq ▸ hdue.found
  refine ⟨fun n f hn => ?_, ?_⟩
  · obtain ⟨t, ht, h⟩ := share_own hfound hdue.own hn f
    exact ⟨t, ht, hkept h⟩
  · obtain ⟨c, t, hread, h, hT, hst, hb⟩ := readClock_own hfound hdue.own
    refine ⟨c, t, hread, hkept h, hT, hst, hb, ?_⟩
    rw [Clock.stamp, hT, hst, stamp_toNat]

end Sys2Proof.Machine
end

/-! ## How a due command ends (03 R73, 04 R77) -/

section
namespace Sys2Proof.Machine

variable {s t : State} {op : W16} {q : Nat} {j : Job}

/-- The result of a due command's run is carried into the state that the run leaves. -/
theorem Due.runOp_ok (h : Due s op q j) (sel : Job → Bool) (hs : sel j = true) {f : Job → Cmd Run} {r : Run} (hf : f j s = .ok (r, t)) :
    Machine.runOp op sel f q s = complete j r t := by
  rw [h.runOp sel hs, hf, finish_ok]

/-- A due command whose run holds waits in the state that the run leaves (03 R65). -/
theorem Due.runOp_hold (h : Due s op q j) (sel : Job → Bool) (hs : sel j = true) {f : Job → Cmd Run} (hf : f j s = .error (.hold t)) :
    Machine.runOp op sel f q s = modJob q (fun x => { x with phase := .waiting }) t := by
  rw [h.runOp sel hs, hf, ← h.seq, finish]

/-- The result of a due command's pure run is carried into the state itself. -/
theorem Due.runPure_ok (h : Due s op q j) {f : State → Job → Except W16 Run} {r : Run} (hf : f s j = .ok r) :
    Machine.runPure op f q s = complete j r s := by
  rw [h.runPure, hf, finish_ok]

/-- A result whose output does not fit ends its job with ST_FORMAT (04 R77). -/
theorem complete_overlong {r : Run} (hd : j.doom = none) (hl : j.desc.outCap < r.out.length) : complete j r s = failedWith j stFormat s := by
  simp only [complete, hd, if_pos hl, failedWith]

/-! ## NOP, JOURNAL_MARK and FENCE (03 R65, R73, R74) -/

theorem emptyRun_ok (s : State) (h : j.desc.inLen = 0) : emptyRun s j = .ok (Run.output []) := by
  rw [emptyRun, noInput_ok h]
  rfl

/-- An empty output fits in every output buffer. -/
theorem complete_empty (hd : j.doom = none) : complete j (Run.output []) s = endedWith j stOk [] s := complete_output hd (Nat.zero_le _)

/-- A due command without input or output ends with ST_OK. -/
theorem Due.emptyRun_ends (h : Due s op q j) (hin : j.desc.inLen = 0) : Machine.runPure op emptyRun q s = endedWith j stOk [] s :=
  (h.runPure_ok (emptyRun_ok s hin)).trans (complete_empty h.doom)

/-- With no earlier job left, a FENCE gives its empty result. -/
theorem fenceRun_ok (hin : j.desc.inLen = 0) (he : earlierJobs s j = []) : fenceRun j s = .ok (Run.output [], s) := by
  simp [fenceRun, noInput_ok hin, he]

/-- While an earlier job is left, a FENCE of the module's own holds. -/
theorem fenceRun_hold (hin : j.desc.inLen = 0) (hown : j.fwd = false) (he : earlierJobs s j ≠ []) : fenceRun j s = .error (.hold s) := by
  simp [fenceRun, noInput_ok hin, hown, he]

/-- Settles O18: the empty run ends a due job with ST_OK, a FENCE holds while an earlier job is left, and an output ends a job by whether it fits. -/
theorem emptyCommandsEnd : Obligations.EmptyCommandsEnd := by
  unfold Obligations.EmptyCommandsEnd
  refine ⟨fun s q j hin => ⟨fun h => ?nop, fun h => ?mark, fun h he => ?ends, fun h he => ?waits⟩, fun s j b hd => ?result⟩
  case nop => exact congrArg done (h.emptyRun_ends hin)
  case mark => exact congrArg done (h.emptyRun_ends hin)
  case ends => exact congrArg done ((h.runOp_ok anyJob rfl (fenceRun_ok hin he)).trans (complete_empty h.doom))
  case waits => exact congrArg done (h.runOp_hold anyJob rfl (fenceRun_hold hin h.own he))
  case result =>
    split
    next hfits => exact complete_output hd hfits
    next hlong => exact complete_overlong hd (Nat.lt_of_not_le hlong)

end Sys2Proof.Machine
end

/-! ## TIME_READ, RANDOM, HASH and HMAC (03 R73, 09 R263, 10 R296, R299) -/

section
namespace Sys2Proof.Machine

variable {s t : State} {j : Job}

/-- TIME_READ gives the stamp and the bound of the clock it reads. -/
theorem timeReadRun_ok {c : Clock} (hin : j.desc.inLen = 0) (hc : readClock j.seq s = .ok (c, t)) :
    timeReadRun j s = .ok (Run.output (leBytes 8 c.stamp ++ leBytes 8 c.bound), t) := by
  simp [timeReadRun, noInput_ok hin, hc]

theorem randomRun_noIn_ok (hin : j.desc.inLen = 0) : randomRun.noIn j = .ok () := by simp [randomRun.noIn, hin]

/-- A RANDOM that asks for no reseed, or whose reseed has been done, gives what it draws. -/
theorem randomRun_ok {b : Bytes} (hin : j.desc.inLen = 0)
    (hr : bitOf (j.desc.par 56) 0 = false ∨ instServes s j.part = true ∧ j.seq ∉ s.rng.explicit ∧ j.phase ≠ .running)
    (hd : draw j.seq j.part j.desc.outCap s = .ok (b, t)) : randomRun j s = .ok (Run.output b, t) := by
  rcases hr with hplain | ⟨hserves, hlisted, hwaited⟩
  · simp [randomRun, randomRun_noIn_ok hin, hplain, hd]
  · cases hb : bitOf (j.desc.par 56) 0 && !j.fwd <;> simp [randomRun, randomRun_noIn_ok hin, hb, hserves, hlisted, hwaited, hd]

/-- As it first runs, a RANDOM that asks for a reseed is listed for one and holds. -/
theorem randomRun_hold (hin : j.desc.inLen = 0) (hown : j.fwd = false) (hask : bitOf (j.desc.par 56) 0 = true)
    (hserves : instServes s j.part = true) (hlisted : j.seq ∉ s.rng.explicit) (hfirst : j.phase = .running) :
    randomRun j s = .error (.hold (modRng (fun r => { r with explicit := r.explicit ++ [j.seq] }) s)) := by
  simp [randomRun, randomRun_noIn_ok hin, hown, hask, hserves, hlisted, hfirst]

/-- HMAC gives its code under key A, whole or cut. -/
theorem hmacRun_ok {a : Binding} (s : State) (ha : j.keyA = some a) :
    hmacRun s j = .ok (Run.output ((hmac (j.desc.par 56) a.material j.input).take
      (if j.desc.par 57 = 0 then digestLen (j.desc.par 56) else j.desc.par 57))) := by
  rw [hmacRun, ha]
  rfl

/-- Settles O28: each command's run gives its output, or holds, from a due job. -/
theorem timeRandomAndHashesAnswer : Obligations.TimeRandomAndHashesAnswer := by
  unfold Obligations.TimeRandomAndHashesAnswer
  refine ⟨fun s t q j hin => ⟨fun c h hc => ?time, fun b h hr hd => ?drawn, fun h hask hserves hlisted hfirst => ?asks⟩,
    fun s q j => ⟨fun h => ?hash, fun a h ha => ?hmac⟩⟩
  case time => exact congrArg done (h.runOp_ok anyJob rfl (timeReadRun_ok hin hc))
  case drawn => exact congrArg done (h.runOp_ok anyJob rfl (randomRun_ok hin hr hd))
  case asks =>
    have hrun := h.runOp_hold anyJob rfl (randomRun_hold hin h.own hask hserves hlisted hfirst)
    rw [h.seq] at hrun
    exact congrArg done hrun
  case hash => exact congrArg done (h.runPure_ok rfl)
  case hmac => exact congrArg done (h.runPure_ok (hmacRun_ok s ha))

end Sys2Proof.Machine
end

/-! ## Rings, moderation and vectors (03 R48 to R62) -/

section
namespace Sys2Proof.Machine

variable {s : State}

/-- A module that takes writes serves them. -/
theorem served_takesWrites (h : s.takesWrites) (n : Next) : served s n = n := if_pos h

/-- Only the ring set that stands there decides what a change of it does. -/
theorem modRing_congr {p r : Nat} {f g : Ring → Ring} (h : f (ringAt s p r) = g (ringAt s p r)) : modRing p r f s = modRing p r g s :=
  congrArg (fun x => { s with rings := Tab.set Ring.reset s.rings (ringIx p r) x }) h

/-- The doorbell write of a value is one R53 takes: an aligned word, in range, at an enabled ring. -/
def DoorbellTaken (word : Bool) (v : W32) (g : Ring) : Prop := word = true ∧ v.toNat < g.size ∧ g.en = true

theorem not_doorbellTaken_iff {word : Bool} {v : W32} {g : Ring} :
    (¬ DoorbellTaken word v g) ↔ ((!word) = true ∨ g.size ≤ v.toNat ∨ (!g.en) = true) := by
  unfold DoorbellTaken
  cases word <;> cases g.en <;> simp

/-- A doorbell write that is taken changes its index alone. -/
theorem modRing_doorbellTaken {p r : Nat} {word : Bool} {v : W32} (f : Ring → Ring) (h : DoorbellTaken word v (ringAt s p r)) :
    modRing p r (fun g => if !word ∨ g.size ≤ v.toNat ∨ !g.en then { g with dbErr := true } else f g) s = modRing p r f s :=
  modRing_congr (if_neg fun hn => not_doorbellTaken_iff.2 hn h)

/-- Any other doorbell write sets DB_ERR alone. -/
theorem modRing_doorbellIgnored {p r : Nat} {word : Bool} {v : W32} (f : Ring → Ring) (h : ¬ DoorbellTaken word v (ringAt s p r)) :
    modRing p r (fun g => if !word ∨ g.size ≤ v.toNat ∨ !g.en then { g with dbErr := true } else f g) s =
      modRing p r (fun g => { g with dbErr := true }) s :=
  modRing_congr (if_pos (not_doorbellTaken_iff.1 h))

section RegisterWrites
variable {p : Fin 256} {r : Fin 16} {word : Bool} {v : W32} (hw : s.takesWrites)
include hw

theorem execSqTail_taken (h : DoorbellTaken word v (ringAt s p r)) :
    execSqTail p r word v s = done (modRing p r (fun g => { g with sqTail := v.toNat }) s) := by
  rw [execSqTail, served_takesWrites hw, modRing_doorbellTaken _ h]

theorem execSqTail_ignored (h : ¬ DoorbellTaken word v (ringAt s p r)) :
    execSqTail p r word v s = done (modRing p r (fun g => { g with dbErr := true }) s) := by
  rw [execSqTail, served_takesWrites hw, modRing_doorbellIgnored _ h]

theorem execCqHead_taken (h : DoorbellTaken word v (ringAt s p r)) :
    execCqHead p r word v s = done (modRing p r (fun g => { g with cqHead := v.toNat }) s) := by
  rw [execCqHead, served_takesWrites hw, modRing_doorbellTaken _ h]

theorem execCqHead_ignored (h : ¬ DoorbellTaken word v (ringAt s p r)) :
    execCqHead p r word v s = done (modRing p r (fun g => { g with dbErr := true }) s) := by
  rw [execCqHead, served_takesWrites hw, modRing_doorbellIgnored _ h]

/-- A ring that is enabled stays as it is (log entry 75). -/
theorem execRingEnable_enabled (h : (ringAt s p r).en = true) : execRingEnable p r s = done s := by
  rw [execRingEnable, served_takesWrites hw]
  exact congrArg done (if_pos h)

/-- A ring that is not is enabled with its indices at 0 if R48 lets it run, and has CFG_ERR set if not. -/
theorem execRingEnable_disabled (h : (ringAt s p r).en = false) :
    execRingEnable p r s = done (
      if 6 ≤ (ringAt s p r).log2 ∧ (ringAt s p r).log2 ≤ 16 ∧ existsPart s p = true ∧ s.pwr.ready = true ∧ ringIdle s p r = true then
        modRing p r (fun g => { g with en := true, sqHead := 0, sqTail := 0, cqTail := 0, cqHead := 0, phase := true, reserved := 0 }) s
      else modRing p r (fun g => { g with cfgErr := true }) s) := by
  rw [execRingEnable, served_takesWrites hw]
  exact congrArg done (if_neg (by simp [h]))

theorem execRingDisable_next : execRingDisable p r s = done (modRing p r (fun g => { g with en := false }) s) := by
  rw [execRingDisable, served_takesWrites hw]

end RegisterWrites

/-- A moderation period that has run out sends the ring's message (R62). -/
theorem execIntModerationTimer_runOut {p : Fin 256} {r : Fin 16} (hc : (ringAt s p r).modCount ≠ 0)
    (ht : (ringAt s p r).modFirst + 1000 * (ringAt s p r).timer ≤ s.time.mono) :
    execIntModerationTimer p r s = done (ringMessage p r s) := by
  simp only [execIntModerationTimer, if_pos (And.intro hc ht)]

/-- A vector that the function has is unmasked, and sends what is pending (R61). -/
theorem execMsixVectorUnmask_has {p : Fin 256} {v : Fin 64} (hv : p.val = 0 ∨ v.val < 8) :
    execMsixVectorUnmask p v s = done (
      let t := { s with msix := Tab.modify Vector_.reset s.msix (64 * p.val + v.val) fun x => { x with mask := false, pend := false } }
      if (vectorAt s p v).mask = true ∧ (vectorAt s p v).pend = true then emit (.msix p v) t else t) := by
  have hhas : ¬ (p.val ≠ 0 ∧ 8 ≤ v.val) := by omega
  simp only [execMsixVectorUnmask, if_neg hhas, Bool.and_eq_true]

/-- Settles O42: each write of a ring's register by the case it falls in, the message at the end of a moderation period, and an unmasked vector. -/
theorem ringRegistersAct : Obligations.RingRegistersAct := by
  unfold Obligations.RingRegistersAct
  intro s p r word v hw
  refine ⟨execSqTail_taken hw, execSqTail_ignored hw, execCqHead_taken hw, execCqHead_ignored hw, execRingEnable_enabled hw,
    fun hoff hlo hhi hpart hready hidle => ?enabled, fun hoff hnot => ?refused, execRingDisable_next hw, execIntModerationTimer_runOut,
    fun _ => execMsixVectorUnmask_has⟩
  case enabled => exact (execRingEnable_disabled hw hoff).trans (congrArg done (if_pos ⟨hlo, hhi, hpart, hready, hidle⟩))
  case refused => exact (execRingEnable_disabled hw hoff).trans (congrArg done (if_neg hnot))

end Sys2Proof.Machine
end

/-! ## The fetch of descriptors (03 R51 to R55, 04 R94) -/

section
namespace Sys2Proof.Machine

variable {s : State}

/-- The partition served last does not keep its turn (04 R94). -/
def TurnOver (s : State) : Prop := decide (s.cirq.fetchLast ∈ fetchParts s ∧ 0 < (partAt s s.cirq.fetchLast).deficit) = false

/-- Partition `p` comes to its turn: its weight is added to its deficit (04 R94; log entry 27). -/
def turnOf (p : Nat) (s : State) : State :=
  let t := modPart p (fun x => { x with deficit := x.deficit + x.cfg.weight }) s
  { t with cirq := { t.cirq with fetchLast := p } }

/-- Ring `r` of partition `p` comes to its turn. -/
def ringTurn (p r : Nat) (s : State) : State := modPart p (fun x => { x with ringLast := r }) s

/-- The read of the next descriptors of a ring goes out, and their slots are reserved (03 R54). -/
def readIssued (p r : Nat) (s : State) : State :=
  let g := ringAt s p r
  let n := fetchCount s p r
  modRing p r (fun g => { g with
    reads := g.reads ++ [{ first := g.sqHead, count := n, discard := false, issued := s.time.mono }]
    sqHead := (g.sqHead + n) % g.size, reserved := g.reserved + n })
    (modPart p (fun x => { x with deficit := x.deficit - n }) (emit (.hostRead p (g.sqBase.toNat + 64 * g.sqHead) (64 * n)) s))

/-- The next partition in turn reads from its next ring in turn, when both of that ring's arrays lie inside the window. -/
theorem execDescriptorFetch_reads {p r : Nat} (hover : TurnOver s) (hp : nextAfter 256 s.cirq.fetchLast (fetchParts s) = some p)
    (hr : nextAfter 16 (partAt (turnOf p s) p).ringLast (fetchRings (turnOf p s) p) = some r)
    (hin : ringsInside (ringTurn p r (turnOf p s)) p r = true) :
    execDescriptorFetch s = done (readIssued p r (ringTurn p r (turnOf p s))) := by
  have hkeep : ((fetchParts s).contains s.cirq.fetchLast && decide (0 < (partAt s s.cirq.fetchLast).deficit)) = false := by
    simpa only [TurnOver, List.contains_eq_mem, Bool.decide_and] using hover
  simp only [turnOf] at hr
  simp only [ringTurn, turnOf] at hin
  simp only [execDescriptorFetch, hkeep, Bool.false_eq_true, if_false, hp, hr, hin, Bool.not_true]
  rfl

theorem nextAfter_nil (n last : Nat) : nextAfter n last [] = none := by simp [nextAfter]

/-- With no ring to fetch from, nothing is read. -/
theorem execDescriptorFetch_none (h : fetchParts s = []) : execDescriptorFetch s = done s := by
  simp [execDescriptorFetch, h, nextAfter_nil]

/-! ## The arrival of descriptors (03 R51, R54) -/

section Arrival
variable {p : Fin 256} {r : Fin 16} {f : FetchRead} {rest : List FetchRead} (hreads : (ringAt s p r).reads = f :: rest)
include hreads

/-- What a read brings that counts for nothing is dropped. -/
theorem execDescriptorArrival_discarded (hd : f.discard = true) (x : ReadResult) :
    execDescriptorArrival p r x s = done (modRing p r (fun x => { x with reads := rest, reserved := x.reserved - f.count }) s) := by
  simp only [execDescriptorArrival, hreads, hd, if_true]

theorem execDescriptorArrival_failed (hd : f.discard = false) (c : ReadFail) :
    execDescriptorArrival p r (.failed c) s = done (failRead p r (ringAt s p r) f.count s) := by
  simp only [execDescriptorArrival, hreads, hd, Bool.false_eq_true, if_false]

/-- A descriptor is held on its ring while its read goes on, and what may be taken in is. -/
theorem execDescriptorArrival_more {bs : Bytes} (hd : f.discard = false) (hlen : bs.length = 64) (hmore : 1 < f.count) :
    execDescriptorArrival p r (.data bs) s = done (
      let t := modRing p r (fun x => { x with
        reads := { f with first := f.first + 1, count := f.count - 1 } :: rest, held := x.held ++ [(f.first, bs)] }) (countRead 64 0x20 0 s)
      releaseHeldDescs p r (ringAt t p r).held.length t) := by
  have hleft : f.count - 1 ≠ 0 := by omega
  simp only [execDescriptorArrival, hreads, hd, hlen, Bool.false_eq_true, if_false, if_neg hleft, ne_eq, not_true_eq_false]

/-- With the last descriptor of a read the latency of the read is noted. -/
theorem execDescriptorArrival_last {bs : Bytes} (hd : f.discard = false) (hlen : bs.length = 64) (hlast : f.count = 1) :
    execDescriptorArrival p r (.data bs) s = done (
      let t := modRing p r (fun x => { x with reads := rest, held := x.held ++ [(f.first, bs)] }) (noteRead f.issued (countRead 64 0x20 0 s))
      releaseHeldDescs p r (ringAt t p r).held.length t) := by
  have hleft : f.count - 1 = 0 := by omega
  simp only [execDescriptorArrival, hreads, hd, hlen, Bool.false_eq_true, if_false, if_pos hleft, ne_eq, not_true_eq_false]

end Arrival

/-- A ring's only waiting descriptor is taken in once it may be (03 R64). -/
theorem execFenceRelease_single {p : Fin 256} {r : Fin 16} {i : Nat} {b : Bytes} (hheld : (ringAt s p r).held = [(i, b)])
    (hmay : mayTake s p r b = true) : execFenceRelease p r s = done (takeIn p r i b (modRing p r (fun g => { g with held := [] }) s)) := by
  simp only [execFenceRelease, hheld, List.length_singleton, releaseHeldDescs, if_pos hmay]

/-- Settles O43: the read of the ring in turn, what each arrival brings, and the release of a waiting descriptor. -/
theorem descriptorsAreFetched : Obligations.DescriptorsAreFetched := by
  unfold Obligations.DescriptorsAreFetched
  refine ⟨?fetch, fun s h => ?none, fun s p r f rest hreads => ?arrival,
    fun s p r i b hheld hmay => ?release⟩
  case fetch => exact fun s p r hover hp => execDescriptorFetch_reads hover hp
  case none => exact execDescriptorFetch_none h
  case arrival =>
    exact ⟨execDescriptorArrival_discarded hreads, execDescriptorArrival_failed hreads, fun _ => execDescriptorArrival_more hreads,
      fun _ => execDescriptorArrival_last hreads⟩
  case release => exact execFenceRelease_single hheld hmay

end Sys2Proof.Machine
end

/-! ## Yield points and banks (04 R96, 09 R271) -/

section
namespace Sys2Proof.Machine

variable {s : State} {q : Nat} {j : Job}

/-- A yield point has been counted. -/
def yielded (q : Nat) (s : State) : State := modJob q (fun x => { x with yields := x.yields + 1 }) s

/-- The job that goes on is compared with those that wait for its unit. -/
theorem execYieldPoint_goesOn {u : UnitRef} (hj : findJob s q = some j) (hmay : j.mayYield = true) (hd : j.doomed = false)
    (hphase : j.phase = .running) (hu : j.unit = some u) : execYieldPoint q s = done (yieldSwitch j u (yielded q s)) := by
  simp only [execYieldPoint, hj, hmay, hd, hphase, hu, Bool.not_true, Bool.false_eq_true, if_false]
  rfl

/-- A job that is to end and holds no Iguana bank ends here. -/
theorem execYieldPoint_ends (hj : findJob s q = some j) (hmay : j.mayYield = true) (hd : j.doomed = true)
    (hu : ∀ n b, j.unit ≠ some (.iguana n b)) : execYieldPoint q s = done (endIfDoomed q (yielded q s)) := by
  simp only [execYieldPoint, hj, hmay, hd, Bool.not_true, Bool.false_eq_true, if_false, if_true]
  rfl

/-- A bank whose zeroisation is over is free, and its core goes on. -/
theorem execBankZeroiseDone_zeroised {c : Fin 16} {b : Bool} (h : (bigAt s c).bank b = .zeroising) :
    execBankZeroiseDone c b s = done (
      let t := modBig c (BigCore.setBank b .free) s
      if (bigAt t c).bank0 = .free ∧ (bigAt t c).bank1 = .free then iguWindowTake c t else settleCore c t) := by
  simp only [execBankZeroiseDone, h, ne_eq, not_true_eq_false, if_false]
  exact (apply_ite done _ _ _).symm

/-! ## Retirement and completion (03 R58 to R62, 04 R78, 16 R449) -/

/-- A job as it retires with the result of its own run. -/
def retiredJob (j : Job) : Job :=
  { j with phase := .retired, thread := none, keyA := none, keyB := none, pieces := [], cancel := false, doom := none }

/-- A job with no other end set retires with its own result: what it holds is released, DONE goes to the standby, its final status is
journalled and its flow goes on. -/
theorem execJobRetire_own (hj : findJob s q = some j) (hphase : j.phase = .ended) (hd : j.doom = none) (hcopied : j.copied = false)
    (hs : j.suppressed = false) (hi : j.inherited = false) :
    execJobRetire q s = done (
      let t := freeHeld ((List.range 16).foldl (fun s n => settleCore n s) (dropHolds q (modJob q (fun _ => retiredJob j) s)))
      let t := jrnFinal q j.status j.desc.noJournal (sendDone (retiredJob j) (modRng (fun r => { r with explicit := r.explicit.filter (· != q) }) t))
      progressAll (fun k => k.reads.isEmpty) (flowAdvance j.part j.desc.flow t.jobs.length t)) := by
  simp [execJobRetire, retiredJob, modRng, hj, hphase, hd, hcopied, hs, hi]

/-- A retired job that nothing holds back has its completion written; on a pair it may stay as a lagging job (15 R432). -/
theorem execCompletionWrite_retired (hr : ∀ k ∈ s.refused, k.seq ≠ q) (hj : findJob s q = some j) (hmay : mayComplete s j = true) :
    execCompletionWrite q s = done (
      let t := writeCompletion j (needsJack (noteAll j.events s) j) (noteAll j.events s)
      if forwardsJob t q && !j.resulted then flowAdvance j.part j.desc.flow t.jobs.length
          (completed j.part j.ring q (modJob q (fun x => { x with phase := .lag, events := [] }) t))
      else jobGone j t) := by
  have hnone : s.refused.find? (fun k => k.seq == q) = none := List.find?_eq_none.2 fun k hk => by simpa using hr k hk
  simp only [execCompletionWrite, hnone, hj, hmay, Bool.not_true, Bool.false_eq_true, if_false]

/-! ## The calendar and the service window (04 R84 to R87, R98) -/

theorem execCursorAdvance_crossing (h : s.cirq.cursor < bucketOf (ntbNow s)) :
    execCursorAdvance s = done (moveFar 32 (leaveBuckets { s with cirq := { s.cirq with cursor := s.cirq.cursor + 256 } })) :=
  if_neg (Nat.not_le.2 h)

theorem execCursorAdvance_notDue (h : bucketOf (ntbNow s) ≤ s.cirq.cursor) : execCursorAdvance s = done s := if_pos h

theorem execServiceWindow_ends (h : s.cirq.window + 1000000 ≤ s.time.mono) :
    execServiceWindow s = done { s with
      cirq := { s.cirq with window := s.time.mono / 1000000 * 1000000 }
      parts := s.parts.map fun x => (x.1, { x.2 with entitled := [], received := [], weightWin := x.2.cfg.weight }) } :=
  if_neg (by omega)

theorem execServiceWindow_notDue (h : s.time.mono < s.cirq.window + 1000000) : execServiceWindow s = done s := if_pos (by omega)

/-- Settles O46: a job's yield points, its bank, its retirement and its completion; the cursor and the service window, due and not due. -/
theorem jobsYieldEndAndAge : Obligations.JobsYieldEndAndAge := by
  unfold Obligations.JobsYieldEndAndAge
  refine ⟨fun s q j hj => ⟨?goesOn, ?ends, ?bank, ?retires, ?completes⟩, fun s => ⟨?crossing, ?inBucket, ?windowEnds, ?inWindow⟩⟩
  case goesOn => exact fun _ hmay hd hphase hu => execYieldPoint_goesOn hj hmay hd hphase hu
  case ends => exact fun hmay hd hu => execYieldPoint_ends hj hmay hd hu
  case bank => exact fun _ _ h => execBankZeroiseDone_zeroised h
  case retires => exact fun hphase hd hcopied hs hi => execJobRetire_own hj hphase hd hcopied hs hi
  case completes => exact fun hr hmay _ => execCompletionWrite_retired hr hj hmay
  case crossing => exact execCursorAdvance_crossing
  case inBucket => exact execCursorAdvance_notDue
  case windowEnds => exact execServiceWindow_ends
  case inWindow => exact execServiceWindow_notDue

end Sys2Proof.Machine
end

/-! ## Grants of units (04 R94, R96; 06 R150; 08 R213; 09 R250, R271) -/

section
namespace Sys2Proof.Machine

variable {s : State} {j : Job} {f : Bool}

/-- A free core in service takes the request the class 1 arbiter puts first among those it may serve (08 R213, R232). -/
theorem execNewtGrant_granted {c : Fin 16} (hup : (newtAt s c).up = true) (hfree : (newtAt s c).owner = .free)
    (hon : domainOn s (21 + c) = true) (hfirst : nextFor s 1 (newtEligible s c) = some (j, f)) :
    execNewtGrant c s = done (takeUnit j f (.newt c) (modNewt c (fun c => { c with owner := .job j.seq }) s)) := by
  have hserves : execNewtGrant c s = _ := if_neg (by simp [hup, hfree, hon])
  simp only [hserves, hfirst]

/-- A free PIN vault unit in service takes the first class 2 request, and its segment is counted (06 R150). -/
theorem execPinvGrant_granted {u : Fin 4} (hup : (pinvAt s u).up = true) (hfree : (pinvAt s u).owner = .free)
    (hon : domainOn s (17 + u) = true) (hfirst : nextFor s 2 (waitingFor s 2) = some (j, f)) :
    execPinvGrant u s = done (pmcJob 0x0C 1 5 j (takeUnit j f (.pinv u) (modPinv u (fun e => { e with owner := .job j.seq }) s))) := by
  have hserves : execPinvGrant u s = _ := if_neg (by simp [hup, hfree, hon])
  simp only [hserves, hfirst]

section Iguana
variable {c : BigCore} (h0 : c.bank0 = .free) (h1 : c.bank1 = .free)
include h0 h1

theorem bank_of_banksFree (b : Bool) : c.bank b = .free := by
  cases b
  · exact h0
  · exact h1

theorem parkedBank_of_banksFree : parkedBank c = none := by simp only [parkedBank, h0, h1]

theorem bankBusy_of_banksFree : bankBusy c = false := by simp only [bankBusy, h0, h1]

end Iguana

/-- A big-number core in service with both banks free takes the first class 3 request into the bank named, with no parked job to compare (09 R271). -/
theorem execIguanaGrant_banksFree {c : Fin 16} (b : Bool) (hup : (bigAt s c).up = true) (hon : domainOn s (37 + c) = true)
    (hwindow : (bigAt s c).window = false) (htest : testWaits s c = false) (h0 : (bigAt s c).bank0 = .free)
    (h1 : (bigAt s c).bank1 = .free) (hfirst : nextFor s 3 (waitingFor s 3) = some (j, f)) :
    execIguanaGrant c b s = done (takeUnit j f (.iguana c b)
      (modBig c (fun c => { BigCore.setBank b (.running j.seq) c with active := b }) s)) := by
  have hserves : execIguanaGrant c b s = _ :=
    if_neg (by simp [hup, hon, hwindow, htest, bank_of_banksFree h0 h1, bankBusy_of_banksFree h0 h1])
  simp only [hserves, parkedBank_of_banksFree h0 h1, List.nil_append, hfirst]

/-- Units 0 to 3 of UNIT_GRANT are the lattice units, which serve class 4 (09 R250). -/
theorem execUnitGrant_lattice {u : Fin 12} (hu : u.val < 4) (hup : (latAt s u).up = true) (hfree : (latAt s u).owner = .free)
    (hon : domainOn s (53 + u) = true) (htest : testWaits s (16 + u) = false) (hfirst : nextFor s 4 (waitingFor s 4) = some (j, f)) :
    execUnitGrant u s = done (takeUnit j f (.lattice u) (modLat u (fun e => { e with owner := .job j.seq }) s)) := by
  have hserves : execUnitGrant u s = _ := if_neg (by simp [hu, hup, hfree, hon, htest])
  simp only [hserves, if_pos hu, hfirst]

/-- Units 4 to 11 of UNIT_GRANT are the hash units, four to a domain, which serve class 5 (09 R250). -/
theorem execUnitGrant_hash {u : Fin 12} (hu : 4 ≤ u.val) (hup : (hashAt s (u - 4)).up = true) (hfree : (hashAt s (u - 4)).owner = .free)
    (hon : domainOn s (57 + (u - 4) / 4) = true) (htest : testWaits s (16 + u) = false)
    (hfirst : nextFor s 5 (waitingFor s 5) = some (j, f)) :
    execUnitGrant u s = done (takeUnit j f (.hash (u - 4)) (modHash (u - 4) (fun e => { e with owner := .job j.seq }) s)) := by
  have hlattice : ¬ u.val < 4 := Nat.not_lt.2 hu
  have hserves : execUnitGrant u s = _ := if_neg (by simp [hlattice, hup, hfree, hon, htest])
  simp only [hserves, if_neg hlattice, hfirst]

/-- Settles O45: a free Newt core, Iguana core, PIN vault, lattice or hash unit in service takes the request its class arbiter puts first. -/
theorem unitsAreGranted : Obligations.UnitsAreGranted := by
  unfold Obligations.UnitsAreGranted
  intro s j f
  refine ⟨?newt, ?iguana, ?pinVault, ?lattice, ?hash⟩
  case newt => exact fun _ => execNewtGrant_granted
  case iguana => exact fun _ => execIguanaGrant_banksFree
  case pinVault => exact fun _ => execPinvGrant_granted
  case lattice => exact fun _ => execUnitGrant_lattice
  case hash => exact fun _ => execUnitGrant_hash

end Sys2Proof.Machine
end

/-! ## Check values (05 R117) -/

section
namespace Sys2Proof.Machine

variable {a : Attrs}

theorem checkValue_aes (m : Bytes) (h : a.alg = chr 'A') : checkValue a m = (cmac false m (zeros 16)).take 5 := if_pos h

theorem checkValue_tdes (m : Bytes) (h : a.alg = chr 'T') : checkValue a m = (blockEnc true m (zeros 8)).take 3 := by
  have hA : a.alg ≠ chr 'A' := by rw [h]; decide
  rw [checkValue, if_neg hA, if_pos h]

theorem checkValue_hmac (m : Bytes) (h : a.alg = chr 'H') : checkValue a m = (hmac 0x02 m (zeros 32)).take 5 := by
  have hA : a.alg ≠ chr 'A' := by rw [h]; decide
  have hT : a.alg ≠ chr 'T' := by rw [h]; decide
  rw [checkValue, if_neg hA, if_neg hT, if_pos h]

/-- Hash code 0x02 is SHA-256 (09 R256). -/
theorem digest_sha256 (b : Bytes) : digest 0x02 b = sha256B b := rfl

theorem checkValue_pair (m : Bytes) (hA : a.alg ≠ chr 'A') (hT : a.alg ≠ chr 'T') (hH : a.alg ≠ chr 'H') :
    checkValue a m = (sha256B (publicKey a.code m)).take 5 := by
  rw [checkValue, if_neg hA, if_neg hT, if_neg hH, digest_sha256]

/-- Settles O11: each algorithm's row of R117. -/
theorem checkValuesByAlgorithm : Obligations.CheckValuesByAlgorithm := by
  unfold Obligations.CheckValuesByAlgorithm
  exact fun a m => ⟨checkValue_aes m, checkValue_tdes m, checkValue_hmac m, checkValue_pair m⟩

end Sys2Proof.Machine
end

/-! ## What is read after a commit (05 R143; 12 R356, R358; 15 R425) -/

section
namespace Sys2Proof

/-- A table into which an entry has been put is not empty. -/
theorem Tab.set_ne_nil {α : Type} [DecidableEq α] {dflt v : α} (t : Tab α) (k : Nat) (hv : v ≠ dflt) : Tab.set dflt t k v ≠ [] := by
  intro h
  have hget := Tab.get_set_self (t := t) (k := k) hv
  rw [h] at hget
  exact hv hget.symm

namespace Machine

variable {s : State} {i p q : Nat}

/-- A partition changed to something an absent one is not reads as it was changed. -/
theorem partAt_modPart {f : Part → Part} (h : f (partAt s p) ≠ Part.reset) : partAt (modPart p f s) p = f (partAt s p) :=
  Tab.get_set_self h

theorem nodeAt_setNode {n : Node} (h : n ≠ Node.empty) : nodeAt (setNode i n s) i = n := Tab.get_set_self h

/-- A change of a partition that puts an entry into one of its tables, none of which an absent partition has, is read there. -/
theorem entry_modPart {α : Type} [DecidableEq α] {x : α} {f : Part → Part} (table : Part → Tab (Option α)) (habsent : table Part.reset = [])
    (hf : table (f (partAt s p)) = Tab.set none (table (partAt s p)) i (some x)) :
    Tab.get none (table (partAt (modPart p f s) p)) i = some x := by
  have hput := Option.some_ne_none x
  have hlisted : f (partAt s p) ≠ Part.reset := fun h => Tab.set_ne_nil _ i hput (hf.symm.trans ((congrArg table h).trans habsent))
  rw [partAt_modPart hlisted, hf, Tab.get_set_self hput]

/-- A custodian committed with the key its digest is of is enrolled. -/
theorem enrolled_of_custodian {c : Custodian} {pub : Bytes} (hdigest : sha384B pub = c.digest) (hpub : pub ≠ []) :
    enrolled (applyCommit q s (.custodian i (some c) pub)) i = some c := by
  have hentry : custEntry (applyCommit q s (.custodian i (some c) pub)) i = some c := Tab.get_set_self (Option.some_ne_none c)
  have hkey : custPub (applyCommit q s (.custodian i (some c) pub)) i = pub := Tab.get_set_self hpub
  simp only [enrolled, hentry, hkey, hdigest, if_true]

/-- A freed slot is empty but for its generation, its owner and the mark of its change. -/
theorem nodeAt_eraseNode (g o : Nat) :
    nodeAt (eraseNode i g o s) i = { Node.empty with gen := g, owner := o, changedAt := some (changeMark (holdExt i s)) } :=
  nodeAt_setNode fun h => Option.some_ne_none _ (congrArg Node.changedAt h)

/-- Settles O16: each commit's own read. -/
theorem commitsTakeEffect : Obligations.CommitsTakeEffect := by
  unfold Obligations.CommitsTakeEffect
  refine fun s q p i => ⟨fun _ => ?ctx, fun _ => ?curve, fun _ => ?dectab, fun _ _ => enrolled_of_custodian, fun _ => rfl, fun _ => rfl,
    fun g o => ?freed⟩
  case ctx => exact entry_modPart Part.ctxs rfl rfl
  case curve => exact entry_modPart Part.curves rfl rfl
  case dectab => exact entry_modPart Part.dectabs rfl rfl
  case freed =>
    rw [applyCommit, nodeAt_eraseNode]
    exact ⟨rfl, rfl, rfl⟩

end Machine
end Sys2Proof
end

/-! ## The gates of a waiting commit, the sweep and the keystore ring (05 R135, R137, R144) -/

section
namespace Sys2Proof.Machine

variable {s : State} {q : Nat} {j : Job}

section Gates
variable (hj : findJob s q = some j) (htarget : targetGone s j = false)
include hj htarget

/-- A commit that neither a pass, the keystore ring nor the pair holds back takes effect. -/
theorem gates_open (hpass : changeWaits s j.change = false) (hring : ksReady s j.subject (ksChanges s j) = true)
    (hown : forwardsJob s q = false) (hstream : streaming s = false) : gates q s = commitJob q s := by
  simp [gates, hj, htarget, hpass, hring, hown, hstream]

/-- A change of generation waits for a full pass (R144). -/
theorem gates_waitSweep (hpass : changeWaits s j.change = true) : gates q s = modJob q (fun x => { x with phase := .waitSweep }) s := by
  simp [gates, hj, htarget, hpass]

end Gates

theorem execGenerationChangeCommit_waitSweep (hj : findJob s q = some j) (hphase : j.phase = .waitSweep) :
    execGenerationChangeCommit q s = done (gates q s) := by
  simp only [execGenerationChangeCommit, hj, hphase, if_true]

theorem execKeystoreRecordWrite_waitKeystore (hj : findJob s q = some j) (hphase : j.phase = .waitKeystore) :
    execKeystoreRecordWrite q s = done (gates q s) := by
  simp only [execKeystoreRecordWrite, hj, hphase, if_true]

theorem execKeystoreRecordWrite_reading (hj : findJob s q = some j) (hphase : j.phase = .reading) :
    execKeystoreRecordWrite q s = done (progress q s) := by
  simp [execKeystoreRecordWrite, hj, hphase]

/-- What the sweep does at the place it has come to: nodes first, then cache entries. -/
def sweepHere (s : State) : State := if s.mas.sweep < 131072 then sweepNode s.mas.sweep s else sweepEntry (s.mas.sweep - 131072) s

/-- A visit before the last of a pass moves on to the next place. -/
theorem execSweepVisit_goesOn (hready : s.pwr.ready = true) (hmore : s.mas.sweep + 1 < sweepVisits) :
    execSweepVisit s = done { sweepHere s with mas := { (sweepHere s).mas with sweep := s.mas.sweep + 1 } } := by
  simp [execSweepVisit, sweepHere, hready, hmore]

/-- The last visit of a pass counts it and starts the next. -/
theorem execSweepVisit_last (hready : s.pwr.ready = true) (hlast : ¬ s.mas.sweep + 1 < sweepVisits) :
    execSweepVisit s = done { sweepHere s with mas := { (sweepHere s).mas with sweep := 0, passes := (sweepHere s).mas.passes + 1 } } := by
  simp [execSweepVisit, sweepHere, hready, hlast]

/-- A head written to an aligned offset inside an enabled ring is taken (R137). -/
theorem execMasKsHeadWrite_takesWrites (hw : s.takesWrites) (p : Fin 256) (v : W32) :
    execMasKsHeadWrite p v s = done (
      if (partAt s p).ks.en = true ∧ bitsOf v.toNat 29 0 % 64 = 0 ∧ bitsOf v.toNat 29 0 < 2 ^ (partAt s p).ks.log2 then
        modPart p (fun x => { x with ks := { x.ks with head := bitsOf v.toNat 29 0 } }) s
      else s) := by
  rw [execMasKsHeadWrite, served_takesWrites hw]
  exact (apply_ite done _ _ _).symm

/-- Settles O48: a sweep visit inside and at the end of a pass, the gates of the commits that wait, and the ring's head. -/
theorem sweepAndKeystoreAct : Obligations.SweepAndKeystoreAct := by
  unfold Obligations.SweepAndKeystoreAct
  refine ⟨fun s hready => ?sweep, fun s q j hj => ⟨?swept, ?unswept, ?space, ?reading⟩, fun s p v hw => ?head⟩
  case sweep =>
    by_cases hmore : s.mas.sweep + 1 < sweepVisits
    · exact ⟨_, execSweepVisit_goesOn hready hmore, by rw [if_pos hmore]; rfl⟩
    · exact ⟨_, execSweepVisit_last hready hmore, by rw [if_neg hmore]; rfl⟩
  case swept =>
    exact fun hphase htarget hpass hring hown hstream =>
      (execGenerationChangeCommit_waitSweep hj hphase).trans (congrArg done (gates_open hj htarget hpass hring hown hstream))
  case unswept =>
    exact fun hphase htarget hpass => (execGenerationChangeCommit_waitSweep hj hphase).trans (congrArg done (gates_waitSweep hj htarget hpass))
  case space =>
    exact fun hphase htarget hpass hring hown hstream =>
      (execKeystoreRecordWrite_waitKeystore hj hphase).trans (congrArg done (gates_open hj htarget hpass hring hown hstream))
  case reading => exact execKeystoreRecordWrite_reading hj
  case head => exact execMasKsHeadWrite_takesWrites hw p v

end Sys2Proof.Machine
end

/-! ## A due command that fails, and one that only ends (03 R72, 04 R77) -/

section
namespace Sys2Proof.Machine

variable {s t : State} {op : W16} {q : Nat} {j : Job}

/-- A due command whose run fails ends with its status, from the state that the run leaves. -/
theorem Due.runOp_fail (h : Due s op q j) (sel : Job → Bool) (hs : sel j = true) {f : Job → Cmd Run} {st : W16}
    (hf : f j s = .error (.fail st t)) : Machine.runOp op sel f q s = failedWith j st t := by
  rw [h.runOp sel hs, hf, failed_eq h.doom]

/-- A due command whose run gives no output and changes nothing through the gates ends with ST_OK in the state that the run leaves. -/
theorem Due.runOp_ends (h : Due s op q j) {f : Job → Cmd Run} (hf : f j s = .ok (Run.output [], t)) :
    Machine.runOp op anyJob f q s = endedWith j stOk [] t :=
  (h.runOp_ok anyJob rfl hf).trans (complete_empty h.doom)

end Sys2Proof.Machine
end

/-! ## What the key commands share (05 R108, R111, R114, R123) -/

section
namespace Sys2Proof

theorem length_fit (n : Nat) (bs : Bytes) : (fit n bs).length = n := length_slice bs 0 n

namespace Machine

variable {s : State} {j : Job}

@[simp] theorem bound_some (b : Binding) : bound (some b) = .ok b := rfl

/-- A command that changes key A finds its node while that is current at the generation bound (log entry 30). -/
theorem target_ok {b : Binding} (hA : j.keyA = some b) (hstate : (nodeAt s b.node).state = .current) (hgen : (nodeAt s b.node).gen = b.gen) :
    target s j = .ok (b.node, nodeAt s b.node) := by
  simp [target, hA, hstate, hgen, Bind.bind, Except.bind, Pure.pure, Except.pure]

/-- A partition with a vault master has a blob protection key (R108). -/
theorem kbpkNeed_ok {p : Nat} (hmaster : (vaultAt s p).master.isSome = true) : kbpkNeed s p = .ok (kbpk s p) := by
  rw [kbpkNeed, hmaster]
  rfl

/-- A partition with a vault master has it as a parent (R123). -/
theorem masterRef_ok {p : Nat} (hmaster : (vaultAt s p).master.isSome = true) : masterRef s p = .ok (.master (vaultAt s p).gen) := by
  rw [masterRef, hmaster]
  rfl

theorem depthOk_iff {parent : ParentRef} : depthOk s parent = true ↔ parentDepth s parent < 8 := by
  rw [depthOk, decide_eq_true_iff, Nat.succ_le_iff]

/-- An own job takes the lowest free slots of its module (R111, R114). -/
theorem place_ok {len i e c : Nat} (hown : j.fwd = false) (hplace : placeNode s j.part len = .ok (i, e, c)) :
    place j len s = .ok (⟨i, slotGen s i, e, c⟩, s) := by
  simp [place, ownPlace, hown, hplace]

theorem place_fail {len : Nat} {st : W16} (hown : j.fwd = false) (hplace : placeNode s j.part len = .error st) :
    place j len s = .error (.fail st s) := by
  simp [place, ownPlace, hown, hplace]

end Machine
end Sys2Proof
end

/-! ## KEY_EXPORT, KEY_TRANSLATE, KEY_ATTR_READ and KEY_CHECK_VALUE (05 R117, R120, R130, R148) -/

section
namespace Sys2Proof.Machine

variable {s t : State} {j : Job} {a b : Binding}

/-- KEY_EXPORT wraps key A, which may be no stronger than key B (R120). -/
theorem keyExportRun_ok {out : Bytes} (hA : j.keyA = some a) (hB : j.keyB = some b) (hin : j.desc.inLen = 0)
    (hmay : mayWrap b.material a.attrs a.material.length = true)
    (hwrap : wrapOut j.seq j.part b.material a.attrs a.count a.parent a.persistent a.named a.check a.material s = .ok (out, t)) :
    keyExportRun j s = .ok (Run.output out, t) := by
  simp [keyExportRun, noInput_ok hin, hA, hB, hmay, hwrap]

section Translate
variable (hA : j.keyA = some a) (hB : j.keyB = some b)
include hA hB

theorem keyTranslateRun_unread {st : W16} (hread : readBlock s j.part a.material j.input = .error st) :
    keyTranslateRun j s = .error (.fail st s) := by
  simp [keyTranslateRun, hA, hB, hread]

variable {kb : KeyBlock} {u : Attrs} (hread : readBlock s j.part a.material j.input = .ok (kb, u))
include hread

/-- A key that is not exportable, or is stronger than key B, is not translated (R120). -/
theorem keyTranslateRun_refused
    (hmay : ¬ (exportable u = true ∧ hasBit u mExport = true ∧ mayWrap b.material u kb.key.length = true)) :
    keyTranslateRun j s = .error (.fail stKeyUsage s) := by
  have hno : (exportable u && hasBit u mExport && mayWrap b.material u kb.key.length) = false := by simpa [and_assoc] using hmay
  simp [keyTranslateRun, hA, hB, hread, hno]

/-- Any other is wrapped under key B with its block's counter and parent (log entry 36). -/
theorem keyTranslateRun_permitted
    (hmay : exportable u = true ∧ hasBit u mExport = true ∧ mayWrap b.material u kb.key.length = true) :
    keyTranslateRun j s = (do
      let out ← wrapOut j.seq j.part b.material u ((kb.z.map (·.gcm)).getD 0) ((kb.z.map (·.parent)).getD (.node a.node a.gen)) false 0
        (checkValue u kb.key) kb.key
      return Run.output out : Cmd Run) s := by
  obtain ⟨hexp, hbit, hwrap⟩ := hmay
  cases hz : kb.z <;> simp [keyTranslateRun, hA, hB, hread, hexp, hbit, hwrap, hz]

end Translate

/-- KEY_ATTR_READ gives bytes 0 to 63 of the node as bound (R148). -/
theorem keyAttrRun_ok (hA : j.keyA = some a) (hin : j.desc.inLen = 0) : keyAttrRun s j = .ok (Run.output a.image) := by
  rw [keyAttrRun, noInput_ok hin, hA]
  rfl

/-- KEY_CHECK_VALUE gives the check value as bound with its length before it (R117). -/
theorem keyCheckRun_ok (hA : j.keyA = some a) (hin : j.desc.inLen = 0) :
    keyCheckRun s j = .ok (Run.output (BitVec.ofNat 8 a.check.length :: fit 7 a.check)) := by
  rw [keyCheckRun, noInput_ok hin, hA]
  rfl

/-- Settles O20: the run of each command, from a due job. -/
theorem keysComeOut : Obligations.KeysComeOut := by
  unfold Obligations.KeysComeOut
  refine ⟨fun s t q j a b out hA hB => ⟨fun h hin hmay hwrap => ?exported, fun h => ?translated⟩,
    fun s q j a hA hin => ⟨fun h hfits => ?image, fun h hfits => ?check⟩⟩
  case exported => exact congrArg done (h.runOp_ok anyJob rfl (keyExportRun_ok hA hB hin hmay hwrap))
  case translated =>
    refine congrArg done ?_
    cases hread : readBlock s j.part a.material j.input with
    | error st => exact h.runOp_fail anyJob rfl (keyTranslateRun_unread hA hB hread)
    | ok x =>
      obtain ⟨kb, u⟩ := x
      dsimp only
      split
      next hno => exact h.runOp_fail anyJob rfl (keyTranslateRun_refused hA hB hread hno)
      next hmay => exact (h.runOp anyJob rfl _).trans (congrArg (finish j · s) (keyTranslateRun_permitted hA hB hread (not_not.1 hmay)))
  case image => exact congrArg done ((h.runPure_ok (keyAttrRun_ok hA hin)).trans (complete_output h.doom hfits))
  case check =>
    refine congrArg done ((h.runPure_ok (keyCheckRun_ok hA hin)).trans (complete_output h.doom ?_))
    rwa [List.length_cons, length_fit]

end Sys2Proof.Machine
end

/-! ## KEY_REPLACE, KEY_ERASE and KEY_INVALIDATE (05 R141 to R143) -/

section
namespace Sys2Proof.Machine

variable {s : State} {j : Job} {b : Binding}

section Change
variable {n : Node} (htarget : target s j = .ok (b.node, n))
include htarget

/-- KEY_ERASE frees the node, a generation on (R143). -/
theorem keyEraseRun_ok (hin : j.desc.inLen = 0) :
    keyEraseRun s j = .ok { Run.output [] with commits := [.freeNode b.node (nextGen n.gen) n.owner], change := some b.node, drain := .bound } := by
  rw [keyEraseRun, noInput_ok hin, htarget]
  rfl

/-- KEY_INVALIDATE moves the node's generation on (R142). -/
theorem keyInvalidateRun_ok (hin : j.desc.inLen = 0) :
    keyInvalidateRun s j = .ok { Run.output (leBytes 4 (nodeHandle b.node (nextGen n.gen)).toNat) with
      commits := [.node b.node { n with gen := nextGen n.gen }], change := some b.node, drain := .bound } := by
  rw [keyInvalidateRun, noInput_ok hin, htarget]
  rfl

end Change

/-- The input of KEY_REPLACE gives a check value of 3 or 5 bytes, zero bytes to its eighth, and a key block (R148). -/
structure ReplaceInput (b : Bytes) : Prop where
  /-- There is more than the check value. -/
  long : 9 ≤ b.length
  /-- The length of the check value. -/
  len : (byteAt b 0).toNat = 3 ∨ (byteAt b 0).toNat = 5
  /-- The bytes after it. -/
  zero : zeroAt b (1 + (byteAt b 0).toNat) 8 = true

/-- The KEK of KEY_REPLACE and the parent its node gets: key B, or else the blob protection key and the vault master (R123, R141). -/
structure ReplaceKek (s : State) (j : Job) (kek : Bytes) (parent : ParentRef) : Prop where
  /-- Under key B. -/
  named : ∀ k, j.keyB = some k → kek = k.material ∧ parent = .node k.node k.gen
  /-- Without it. -/
  master : j.keyB = none → (vaultAt s j.part).master.isSome = true ∧ kek = kbpk s j.part ∧ parent = .master (vaultAt s j.part).gen

/-- KEY_REPLACE has found node `i` as `n`, its input is well-formed, and the parent it names may have children (R123, R141). -/
structure ReplaceReady (s : State) (j : Job) (i : Nat) (n : Node) (kek : Bytes) (parent : ParentRef) : Prop
    extends ReplaceInput j.input, ReplaceKek s j kek parent where
  /-- The node to change. -/
  target : target s j = .ok (i, n)
  /-- The depth of the parent. -/
  depth : parentDepth s parent < 8

/-- A block may replace a node's material: usage, algorithm, mode of use and exportability stay (R141). -/
def SameUse (a : Attrs) (n : Node) : Prop :=
  a.usage = n.attrs.usage ∧ a.alg = n.attrs.alg ∧ a.mode = n.attrs.mode ∧ a.exp = n.attrs.exp

/-- What KEY_REPLACE does with a block that fits: its slots are placed, and node `i` is committed with the new material (R141). -/
def replaceWith (j : Job) (i : Nat) (n : Node) (depth : Nat) (parent : ParentRef) (kb : KeyBlock) (a : Attrs) : Cmd Run := do
  let f ← placeExt j 0 (extSlots kb.key.length) []
  return { Run.output (keyResult (nodeHandle i (nextGen n.gen)) (checkValue a kb.key)) with
    commits := [.node i { n with
      gen := nextGen n.gen, attrs := { n.attrs with code := a.code }, depth := depth, parent := parent, extFirst := f,
      extCount := extSlots kb.key.length, check := checkValue a kb.key, material := kb.key }],
    change := some i, drain := .node i n.gen }

theorem sameUse_iff {a : Attrs} {n : Node} :
    (a.usage == n.attrs.usage && a.alg == n.attrs.alg && a.mode == n.attrs.mode && a.exp == n.attrs.exp) = true ↔ SameUse a n := by
  simp [SameUse, and_assoc]

section Replace
variable {i : Nat} {n : Node} {kek : Bytes} {parent : ParentRef} (h : ReplaceReady s j i n kek parent)
include h

/-- With a well-formed input, KEY_REPLACE takes the block under the KEK, and compares its use and its check value (R141). -/
theorem keyReplaceRun_eq :
    keyReplaceRun j s = (do
      let (kb, a) ← Cmd.of (takeBlock s j.part kek (j.input.drop 8))
      Cmd.need (a.usage == n.attrs.usage && a.alg == n.attrs.alg && a.mode == n.attrs.mode && a.exp == n.attrs.exp) stKeyUsage
      Cmd.need (checkValue a kb.key == slice j.input 1 (byteAt j.input 0).toNat) stKeyVerifyFail
      replaceWith j i n (parentDepth s parent + 1) parent kb a : Cmd Run) s := by
  have hlen : ((byteAt j.input 0).toNat == 3 || (byteAt j.input 0).toNat == 5) = true := by simpa using h.len
  cases hB : j.keyB with
  | none =>
    obtain ⟨hmaster, rfl, rfl⟩ := h.master hB
    simp [keyReplaceRun, replaceWith, h.target, h.long, hlen, h.zero, hB, kbpkNeed_ok hmaster, masterRef_ok hmaster, depthOk_iff.2 h.depth]
  | some k =>
    obtain ⟨rfl, rfl⟩ := h.named k hB
    simp [keyReplaceRun, replaceWith, h.target, h.long, hlen, h.zero, hB, depthOk_iff.2 h.depth]

theorem keyReplaceRun_untaken {st : W16} (htake : takeBlock s j.part kek (j.input.drop 8) = .error st) :
    keyReplaceRun j s = .error (.fail st s) := by
  simp [keyReplaceRun_eq h, htake]

variable {kb : KeyBlock} {a : Attrs} (htake : takeBlock s j.part kek (j.input.drop 8) = .ok (kb, a))
include htake

theorem keyReplaceRun_otherUse (huse : ¬ SameUse a n) : keyReplaceRun j s = .error (.fail stKeyUsage s) := by
  rw [keyReplaceRun_eq h, htake, Cmd.bind_apply, Cmd.of_ok]
  simp only [Cmd.bind_apply, Bool.eq_false_iff.2 (mt sameUse_iff.1 huse), Cmd.need_false]

variable (huse : SameUse a n)
include huse

theorem keyReplaceRun_otherKey (hcheck : checkValue a kb.key ≠ slice j.input 1 (byteAt j.input 0).toNat) :
    keyReplaceRun j s = .error (.fail stKeyVerifyFail s) := by
  rw [keyReplaceRun_eq h, htake, Cmd.bind_apply, Cmd.of_ok]
  simp only [Cmd.bind_apply, sameUse_iff.2 huse, beq_eq_false_iff_ne.2 hcheck, Cmd.need_true, Cmd.need_false]

theorem keyReplaceRun_replaces (hcheck : checkValue a kb.key = slice j.input 1 (byteAt j.input 0).toNat) :
    keyReplaceRun j s = replaceWith j i n (parentDepth s parent + 1) parent kb a s := by
  rw [keyReplaceRun_eq h, htake, Cmd.bind_apply, Cmd.of_ok]
  simp only [Cmd.bind_apply, sameUse_iff.2 huse, beq_iff_eq.2 hcheck, Cmd.need_true]

end Replace

end Sys2Proof.Machine
end

/-! ## BLOB_TABLE_SET, BLOB_EVICT, KEYSTORE_RING_SET, DERIVED_CACHE_FLUSH and DERIV_CONTEXT_SET (05 R128, R131 to R133, R135, R148) -/

section
namespace Sys2Proof.Machine

variable {s : State} {j : Job}

/-- BLOB_TABLE_SET names a table the partition may have, and evicts what was loaded (R131). -/
theorem blobTableRun_ok (hlen : j.input.length = 16) (hzero : zeroAt j.input 12 16 = true)
    (hquota : leField j.input 8 4 ≤ (partAt s j.part).cfg.blobs) :
    blobTableRun j s = .ok (Run.output [],
      modPart j.part (fun x => { x with blobTable := some (leField j.input 0 8, leField j.input 8 4) }) (evictAll j.part s)) := by
  simp [blobTableRun, hlen, hzero, hquota]

/-- BLOB_EVICT evicts the loaded copies of its entry (R132). -/
theorem blobEvictRun_ok {t n : Nat} (hin : j.desc.inLen = 0) (htype : hType j.desc.keyA = 1) (htable : (partAt s j.part).blobTable = some (t, n))
    (hindex : hIndex j.desc.keyA < n) :
    blobEvictRun j s = .ok (Run.output [],
      (s.mas.blobs.filter fun b => b.part == j.part && b.blob == hIndex j.desc.keyA).foldl (fun s b => evictBlob b s) s) := by
  have hnamed : (j.desc.keyA != 0#32) = true := bne_iff_ne.2 fun h => absurd (h ▸ htype) (by decide)
  simp [blobEvictRun, noInput_ok hin, hnamed, htype, htable, hindex]

/-- KEYSTORE_RING_SET sets a ring of 2^16 to 2^30 bytes at a page inside the partition's window, or removes the ring (R133, R135). -/
theorem keystoreRingRun_ok (hlen : j.input.length = 24) (hzero : zeroAt j.input 9 16 = true)
    (hring : leField j.input 0 8 = 0 ∨ 16 ≤ (byteAt j.input 8).toNat ∧ (byteAt j.input 8).toNat ≤ 30 ∧ leField j.input 0 8 % 4096 = 0 ∧
      inWindow (partAt s j.part).cfg j.part (leField j.input 0 8) (2 ^ (byteAt j.input 8).toNat) = true) :
    keystoreRingRun j s = .ok (Run.output [], modPart j.part (fun x => { x with ks := {
      en := leField j.input 0 8 != 0, base := leField j.input 0 8, log2 := if leField j.input 0 8 = 0 then 0 else (byteAt j.input 8).toNat,
      seq := leField j.input 16 8, head := 0, tail := 0 } }) s) := by
  rcases hring with hoff | ⟨hlo, hhi, hpage, hwindow⟩
  · simp [keystoreRingRun, hlen, hzero, hoff]
  · simp [keystoreRingRun, hlen, hzero, hlo, hhi, hpage, hwindow]

theorem cacheFlushRun_ok (hin : j.desc.inLen = 0) : cacheFlushRun j s = .ok (Run.output [], flushCache j.part s) := by
  simp [cacheFlushRun, noInput_ok hin]

/-- The input of DERIV_CONTEXT_SET: 48 bytes, a label of at most 32, zero bytes elsewhere (R148). -/
structure CtxInput (b : Bytes) : Prop where
  /-- Its length. -/
  len : b.length = 48
  /-- The byte after the length of the key. -/
  zero5 : byteAt b 5 = 0
  /-- The length of the label. -/
  label : (byteAt b 8).toNat ≤ 32
  /-- The bytes before the label. -/
  zero9 : zeroAt b 9 16 = true
  /-- The bytes after it. -/
  zeroEnd : zeroAt b (16 + (byteAt b 8).toNat) 48 = true

/-- DERIV_CONTEXT_SET commits a context with attributes no wider than the parent's (R128). -/
theorem ctxSetRun_ok {p : Binding} {a : Attrs} (hA : j.keyA = some p) (hform : CtxInput j.input)
    (hattrs : symAttrs (BitVec.ofNat 16 (beField j.input 0 2)) (byteAt j.input 2) (byteAt j.input 3) (chr 'N') (byteAt j.input 4).toNat
      (leField j.input 6 2) 0 0 (chars2 '0' '0') = .ok a)
    (hmode : modeWithin a.mode p.attrs.mode = true) (hlength : (byteAt j.input 4).toNat ≤ p.material.length)
    (hmask : hasBit p.attrs a.mask.toNat = true) :
    ctxSetRun s j = .ok { Run.output (leBytes 4 (2 ^ 31 + leField j.desc.params 0 4)) with
      commits := [.ctx j.part (leField j.desc.params 0 4)
        { parent := p.handle, attrs := a, length := (byteAt j.input 4).toNat, label := slice j.input 16 (byteAt j.input 8).toNat }] } := by
  simp [ctxSetRun, hA, hform.len, hform.zero5, hform.label, hform.zero9, hform.zeroEnd, hattrs, hmode, hlength, hmask, Bind.bind, Except.bind,
    Pure.pure, Except.pure]

/-- Settles O21: the run of each command, from a due job. -/
theorem keysChange : Obligations.KeysChange := by
  unfold Obligations.KeysChange
  refine ⟨fun s q j b hA hstate hgen => ?nodes, fun s q j => ⟨fun h hlen hzero hquota => ?table, fun t n h hin htype htable hindex => ?evicts,
    fun h hlen hzero hring => ?ring, fun h hin => ?flush, fun p a h hA hlen h5 hl h9 hend hattrs hmode hlength hmask => ?context⟩⟩
  case nodes =>
    have htarget := target_ok hA hstate hgen
    refine ⟨fun h hin => ?erased, fun h hin => ?invalidated, fun kek parent h hlong hlen hzero hnamed hmaster hdepth => ?replaced⟩
    case erased => exact congrArg done (h.runPure_ok (keyEraseRun_ok htarget hin))
    case invalidated => exact congrArg done (h.runPure_ok (keyInvalidateRun_ok htarget hin))
    case replaced =>
      have hready : ReplaceReady s j b.node (nodeAt s b.node) kek parent := ⟨⟨hlong, hlen, hzero⟩, ⟨hnamed, hmaster⟩, htarget, hdepth⟩
      refine congrArg done ?_
      cases htake : takeBlock s j.part kek (j.input.drop 8) with
      | error st => exact h.runOp_fail anyJob rfl (keyReplaceRun_untaken hready htake)
      | ok x =>
        obtain ⟨kb, a⟩ := x
        dsimp only
        split
        next huse => exact h.runOp_fail anyJob rfl (keyReplaceRun_otherUse hready htake huse)
        next huse =>
          have huse : SameUse a (nodeAt s b.node) := not_not.1 huse
          split
          next hcheck => exact h.runOp_fail anyJob rfl (keyReplaceRun_otherKey hready htake huse hcheck)
          next hcheck =>
            have hrun := keyReplaceRun_replaces hready htake huse (not_not.1 hcheck)
            exact (h.runOp anyJob rfl _).trans (congrArg (finish j · s) hrun)
  case table => exact congrArg done (h.runOp_ends (blobTableRun_ok hlen hzero hquota))
  case evicts => exact congrArg done (h.runOp_ends (blobEvictRun_ok hin htype htable hindex))
  case ring => exact congrArg done (h.runOp_ends (keystoreRingRun_ok hlen hzero hring))
  case flush => exact congrArg done (h.runOp_ends (cacheFlushRun_ok hin))
  case context => exact congrArg done (h.runPure_ok (ctxSetRun_ok hA ⟨hlen, h5, hl, h9, hend⟩ hattrs hmode hlength hmask))

end Sys2Proof.Machine
end

/-! ## KEY_IMPORT under key A and KEY_GENERATE (05 R111, R123, R148; 10 R296) -/

section
namespace Sys2Proof.Machine

variable {s : State} {j : Job}

section Import
variable {k : Binding} (hA : j.keyA = some k)
include hA

theorem keyImportRun_untaken {st : W16} (htake : takeBlock s j.part k.material j.input = .error st) :
    keyImportRun j s = .error (.fail st s) := by
  simp [keyImportRun, hA, htake]

variable {kb : KeyBlock} {a : Attrs} (htake : takeBlock s j.part k.material j.input = .ok (kb, a)) (hown : j.fwd = false)
  (hdepth : parentDepth s (.node k.node k.gen) < 8)
include htake hown hdepth

theorem keyImportRun_unplaced {st : W16} (hplace : placeNode s j.part kb.key.length = .error st) :
    keyImportRun j s = .error (.fail st s) := by
  simp [keyImportRun, newNode, hA, htake, depthOk_iff.2 hdepth, place_fail hown hplace]

/-- KEY_IMPORT puts the block's key into the lowest free slots as a node under key A (R148). -/
theorem keyImportRun_ok {i e c : Nat} (hplace : placeNode s j.part kb.key.length = .ok (i, e, c)) :
    keyImportRun j s = .ok (Run.creates i (nodeFor s j.part ⟨i, slotGen s i, e, c⟩ (bitOf (j.desc.par 56) 0) a (.node k.node k.gen)
      ((kb.z.map (·.gcm)).getD 0) kb.key) [], s) := by
  simp [keyImportRun, newNode, hA, htake, depthOk_iff.2 hdepth, place_ok hown hplace]

end Import

/-- The KEK of KEY_GENERATE: key B, or else the blob protection key where the output goes on with the key's block (R148). -/
structure GenerateKek (s : State) (j : Job) (kek : Bytes) : Prop where
  /-- Without key B. -/
  own : j.keyB = none → kek = if bitOf (j.desc.par 56) 1 then kbpk s j.part else []
  /-- Under key B. -/
  named : ∀ b, j.keyB = some b → kek = b.material

/-- A job that asks for the block of the key it generates has room for it, and a key B may wrap the key (R120, R148). -/
def BlockAllowed (j : Job) (kek : Bytes) (a : Attrs) : Prop :=
  bitOf (j.desc.par 56) 1 = true → 16 + blockLen (byteAt j.input 5).toNat ≤ j.desc.outCap ∧
    (j.keyB.isSome = true → exportable a = true ∧ mayWrap kek a (byteAt j.input 5).toNat = true)

/-- What KEY_GENERATE does once its template and its KEK are judged: a place, a draw, a node, and the node's block if it is asked for. -/
def generateNode (j : Job) (a : Attrs) (kek : Bytes) (parent : ParentRef) : Cmd Run := do
  let w ← place j (byteAt j.input 5).toNat
  let m ← draw j.seq 256 (byteAt j.input 5).toNat
  let n := nodeFor (← get) j.part w (bitOf (j.desc.par 56) 0) a parent 0 m
  let block ← (if bitOf (j.desc.par 56) 1 then wrapOut j.seq j.part kek a 0 parent n.persistent (nodeHandle w.index n.gen) n.check m else pure [])
  return Run.creates w.index n block

/-- KEY_GENERATE makes its node under the vault master (R148). -/
theorem keyGenerateRun_eq {a : Attrs} {kek : Bytes} (htemplate : genTemplate j.input = .ok a)
    (hmaster : (vaultAt s j.part).master.isSome = true) (hkek : GenerateKek s j kek) (hblock : BlockAllowed j kek a) :
    keyGenerateRun j s = generateNode j a kek (.master (vaultAt s j.part).gen) s := by
  have hparent := masterRef_ok hmaster
  have hdepth : depthOk s (.master (vaultAt s j.part).gen) = true := depthOk_iff.2 (Nat.zero_lt_succ 7)
  cases hbit : bitOf (j.desc.par 56) 1 with
  | false => cases hB : j.keyB <;> simp [keyGenerateRun, generateNode, htemplate, hB, hbit, hparent, hdepth]
  | true =>
    obtain ⟨hfits, hmay⟩ := hblock hbit
    cases hB : j.keyB with
    | none =>
      obtain rfl := (hkek.own hB).trans (if_pos hbit)
      simp [keyGenerateRun, generateNode, htemplate, hB, hbit, kbpkNeed_ok hmaster, hparent, hfits, hdepth]
    | some b =>
      obtain rfl := hkek.named b hB
      obtain ⟨hexp, hstrength⟩ := hmay (by rw [hB]; rfl)
      simp [keyGenerateRun, generateNode, htemplate, hB, hbit, hexp, hstrength, hparent, hfits, hdepth]

/-- The node takes the lowest free slots with the bytes drawn as its material (R111, R148; 10 R296). -/
theorem generateNode_ok {s₁ s₂ : State} {a : Attrs} {kek m block : Bytes} {parent : ParentRef} {i e c : Nat} (hown : j.fwd = false)
    (hplace : placeNode s j.part (byteAt j.input 5).toNat = .ok (i, e, c))
    (hdraw : draw j.seq 256 (byteAt j.input 5).toNat s = .ok (m, s₁)) :
    let n := nodeFor s₁ j.part ⟨i, slotGen s i, e, c⟩ (bitOf (j.desc.par 56) 0) a parent 0 m
    (if bitOf (j.desc.par 56) 1 then wrapOut j.seq j.part kek a 0 parent n.persistent (nodeHandle i n.gen) n.check m else pure []) s₁ =
      .ok (block, s₂) →
    generateNode j a kek parent s = .ok (Run.creates i n block, s₂) := fun hwrap =>
  (Cmd.bind_ok (place_ok hown hplace)).trans ((Cmd.bind_ok hdraw).trans ((Cmd.bind_ok (Cmd.get_apply s₁)).trans (Cmd.bind_ok hwrap)))

end Sys2Proof.Machine
end

/-! ## KEY_IMPORT with handle A zero: the return of a keystore record (05 R139, R147) -/

section
namespace Sys2Proof.Machine

/-- A record's handle names a resident node at a generation that a node may have (R112, R113). -/
def RecordHandle (h : W32) : Prop := hType h = 0 ∧ 1 ≤ hNode h ∧ hNode h < 0x1C000 ∧ 1 ≤ hGen h ∧ hGen h ≤ 8191

theorem recordHandle_iff {h : W32} :
    (hType h == 0 && decide (1 ≤ hNode h ∧ hNode h < 0x1C000 ∧ 1 ≤ hGen h ∧ hGen h ≤ 8191)) = true ↔ RecordHandle h := by
  simp only [RecordHandle, Bool.and_eq_true, beq_iff_eq, decide_eq_true_eq]

/-- The node of a record stands in its slot already: current, at the record's generation, of the partition, with the key's check value. -/
def RecordStands (s : State) (p : Nat) (h : W32) (check : Bytes) : Prop :=
  (nodeAt s (hNode h)).state = .current ∧ (nodeAt s (hNode h)).gen = hGen h ∧ (nodeAt s (hNode h)).owner = p ∧
    (nodeAt s (hNode h)).check = check

theorem recordStands_iff {s : State} {p : Nat} {h : W32} {check : Bytes} :
    ((nodeAt s (hNode h)).state == .current && (nodeAt s (hNode h)).gen == hGen h && (nodeAt s (hNode h)).owner == p &&
      (nodeAt s (hNode h)).check == check) = true ↔ RecordStands s p h check := by
  simp only [RecordStands, Bool.and_eq_true, beq_iff_eq, and_assoc]

/-- A free slot that is not for this partition to take: in a range reserved by another, or about to be taken (R111). -/
def SlotKept (s : State) (p i : Nat) : Prop := foreignSlot s p i = true ∨ ∃ r ∈ pendingSlots s, r.1 ≤ i ∧ i < r.1 + r.2

theorem not_slotKept_iff {s : State} {p i : Nat} :
    (!foreignSlot s p i && !((pendingSlots s).any fun r => decide (r.1 ≤ i ∧ i < r.1 + r.2))) = true ↔ ¬ SlotKept s p i := by
  simp only [SlotKept, ← Bool.not_or, Bool.not_eq_true', Bool.eq_false_iff, ne_eq, Bool.or_eq_true, List.any_eq_true, decide_eq_true_eq]

/-- What the restore does with a record whose slot is free: its extension slots are placed, and the node returns to its slot (R139). -/
def returnNode (s : State) (j : Job) (kb : KeyBlock) (a : Attrs) (z : ZBlock) : Cmd Run := do
  let f ← placeExt j 1 (extSlots kb.key.length) [(hNode z.handle, 1)]
  return Run.creates (hNode z.handle) {
    state := .current, gen := hGen z.handle, owner := j.part, persistent := z.persistent, attrs := a, depth := parentDepth s z.parent + 1,
    parent := z.parent, gcm := z.gcm, gcmRes := z.gcm, extFirst := f, extCount := extSlots kb.key.length, check := checkValue a kb.key,
    material := kb.key, exhausted := false, changedAt := none } []

/-- The input of a restore is a block under the blob protection key that holds a record (R139). -/
structure RecordRead (s : State) (j : Job) (kb : KeyBlock) (a : Attrs) (z : ZBlock) : Prop where
  /-- There is a blob protection key. -/
  master : (vaultAt s j.part).master.isSome = true
  /-- The block unwraps. -/
  taken : takeBlock s j.part (kbpk s j.part) j.input = .ok (kb, a)
  /-- Its Zalilys block. -/
  record : kb.z = some z

/-- The record may return: its handle is a resident node's, and its chain of parents holds (R124, R139). -/
structure RecordJudged (s : State) (j : Job) (kb : KeyBlock) (a : Attrs) (z : ZBlock) : Prop extends RecordRead s j kb a z where
  /-- Its handle. -/
  handle : RecordHandle z.handle
  /-- Its chain. -/
  chain : chainOk s j.part 9 z.parent = true

section Restore
variable {s : State} {j : Job} {kb : KeyBlock} {a : Attrs} {z : ZBlock}

theorem keyRestoreRun_untaken {st : W16} (hmaster : (vaultAt s j.part).master.isSome = true)
    (htake : takeBlock s j.part (kbpk s j.part) j.input = .error st) : keyRestoreRun j s = .error (.fail st s) := by
  simp [keyRestoreRun, kbpkNeed_ok hmaster, htake]

/-- A block without a Zalilys block is no record. -/
theorem keyRestoreRun_noRecord (hmaster : (vaultAt s j.part).master.isSome = true)
    (htake : takeBlock s j.part (kbpk s j.part) j.input = .ok (kb, a)) (hz : kb.z = none) : keyRestoreRun j s = .error (.fail stFormat s) := by
  simp [keyRestoreRun, kbpkNeed_ok hmaster, htake, hz, Cmd.some?]

theorem keyRestoreRun_badHandle (h : RecordRead s j kb a z) (hhandle : ¬ RecordHandle z.handle) :
    keyRestoreRun j s = .error (.fail stFormat s) := by
  simp only [keyRestoreRun, Cmd.bind_apply, Cmd.get_apply, kbpkNeed_ok h.master, Cmd.of_ok, h.taken, h.record, Cmd.some?_some,
    Bool.eq_false_iff.2 (mt recordHandle_iff.1 hhandle), Cmd.need_false]

theorem keyRestoreRun_brokenChain (h : RecordRead s j kb a z) (hhandle : RecordHandle z.handle) (hchain : chainOk s j.part 9 z.parent = false) :
    keyRestoreRun j s = .error (.fail stKeyGone s) := by
  simp only [keyRestoreRun, Cmd.bind_apply, Cmd.get_apply, kbpkNeed_ok h.master, Cmd.of_ok, h.taken, h.record, Cmd.some?_some,
    recordHandle_iff.2 hhandle, hchain, Cmd.need_true, Cmd.need_false]

variable (h : RecordJudged s j kb a z)
include h

section Occupied
variable (hslot : (nodeAt s (hNode z.handle)).state ≠ .free)
include hslot

/-- A record whose slot holds a node: the two are compared (R139). -/
theorem keyRestoreRun_occupied :
    keyRestoreRun j s = (do
      Cmd.need ((nodeAt s (hNode z.handle)).state == .current && (nodeAt s (hNode z.handle)).gen == hGen z.handle &&
        (nodeAt s (hNode z.handle)).owner == j.part && (nodeAt s (hNode z.handle)).check == checkValue a kb.key) stKeyVerifyFail
      return Run.output (keyResult z.handle (checkValue a kb.key)) : Cmd Run) s := by
  simp only [keyRestoreRun, Cmd.bind_apply, Cmd.get_apply, kbpkNeed_ok h.master, Cmd.of_ok, h.taken, h.record, Cmd.some?_some,
    recordHandle_iff.2 h.handle, h.chain, Cmd.need_true, if_pos hslot]

theorem keyRestoreRun_stands (hstands : RecordStands s j.part z.handle (checkValue a kb.key)) :
    keyRestoreRun j s = .ok (Run.output (keyResult z.handle (checkValue a kb.key)), s) := by
  rw [keyRestoreRun_occupied h hslot, recordStands_iff.2 hstands]
  rfl

theorem keyRestoreRun_otherNode (hstands : ¬ RecordStands s j.part z.handle (checkValue a kb.key)) :
    keyRestoreRun j s = .error (.fail stKeyVerifyFail s) := by
  rw [keyRestoreRun_occupied h hslot, Bool.eq_false_iff.2 (mt recordStands_iff.1 hstands)]
  rfl

end Occupied

section Free
variable (hslot : (nodeAt s (hNode z.handle)).state = .free)
include hslot

/-- A record whose slot is free: the slot must be for the partition to take, and the node at a depth it may have (R111, R123, R139). -/
theorem keyRestoreRun_free :
    keyRestoreRun j s = (do
      Cmd.need (!foreignSlot s j.part (hNode z.handle) &&
        !((pendingSlots s).any fun r => decide (r.1 ≤ hNode z.handle ∧ hNode z.handle < r.1 + r.2))) stKeyVerifyFail
      Cmd.need (depthOk s z.parent) stKeyUsage
      returnNode s j kb a z : Cmd Run) s := by
  simp only [keyRestoreRun, returnNode, Cmd.bind_apply, Cmd.get_apply, kbpkNeed_ok h.master, Cmd.of_ok, h.taken, h.record, Cmd.some?_some,
    recordHandle_iff.2 h.handle, h.chain, Cmd.need_true, if_neg (not_not.2 hslot)]

theorem keyRestoreRun_slotKept (hkept : SlotKept s j.part (hNode z.handle)) : keyRestoreRun j s = .error (.fail stKeyVerifyFail s) := by
  rw [keyRestoreRun_free h hslot, Bool.eq_false_iff.2 fun hfree => not_slotKept_iff.1 hfree hkept]
  rfl

variable (hkept : ¬ SlotKept s j.part (hNode z.handle))
include hkept

theorem keyRestoreRun_tooDeep (hdepth : 8 ≤ parentDepth s z.parent) : keyRestoreRun j s = .error (.fail stKeyUsage s) := by
  rw [keyRestoreRun_free h hslot, not_slotKept_iff.2 hkept, Bool.eq_false_iff.2 fun hfits => Nat.not_lt.2 hdepth (depthOk_iff.1 hfits)]
  rfl

theorem keyRestoreRun_returns (hdepth : parentDepth s z.parent < 8) : keyRestoreRun j s = returnNode s j kb a z s := by
  rw [keyRestoreRun_free h hslot, not_slotKept_iff.2 hkept, depthOk_iff.2 hdepth]
  rfl

end Free

end Restore

end Sys2Proof.Machine
end

/-! ## Keys become nodes -/

section
namespace Sys2Proof.Machine

/-- Settles O19: the run of each command by the branch it takes, from a due job. -/
theorem keysBecomeNodes : Obligations.KeysBecomeNodes := by
  unfold Obligations.KeysBecomeNodes
  refine ⟨fun s q j k h hne hA hdepth => ?imported,
    fun s s₁ s₂ q j a kek m block i e c h htemplate hmaster hown hnamed hblock hplace hdraw hwrap => ?generated,
    fun s q j h hzero hmaster => ?restored⟩
  case imported =>
    refine congrArg done ?_
    have hsel : (j.desc.keyA != 0) = true := bne_iff_ne.2 hne
    cases htake : takeBlock s j.part k.material j.input with
    | error st => exact h.runOp_fail _ hsel (keyImportRun_untaken hA htake)
    | ok x =>
      obtain ⟨kb, a⟩ := x
      dsimp only
      cases hplace : placeNode s j.part kb.key.length with
      | error st => exact h.runOp_fail _ hsel (keyImportRun_unplaced hA htake h.own hdepth hplace)
      | ok y => exact h.runOp_ok _ hsel (keyImportRun_ok hA htake h.own hdepth hplace)
  case generated =>
    have hrun := keyGenerateRun_eq htemplate hmaster ⟨hown, hnamed⟩ hblock
    exact congrArg done (h.runOp_ok anyJob rfl (hrun.trans (generateNode_ok h.own hplace hdraw hwrap)))
  case restored =>
    refine congrArg done ?_
    have hsel : (j.desc.keyA == 0) = true := beq_iff_eq.2 hzero
    cases htake : takeBlock s j.part (kbpk s j.part) j.input with
    | error st => exact h.runOp_fail _ hsel (keyRestoreRun_untaken hmaster htake)
    | ok x =>
      obtain ⟨kb, a⟩ := x
      dsimp only
      cases hz : kb.z with
      | none => exact h.runOp_fail _ hsel (keyRestoreRun_noRecord hmaster htake hz)
      | some z =>
        have hread : RecordRead s j kb a z := ⟨hmaster, htake, hz⟩
        dsimp only
        split
        next hhandle => exact h.runOp_fail _ hsel (keyRestoreRun_badHandle hread hhandle)
        next hhandle =>
        have hhandle : RecordHandle z.handle := not_not.1 hhandle
        split
        next hchain => exact h.runOp_fail _ hsel (keyRestoreRun_brokenChain hread hhandle hchain)
        next hchain =>
        have hjudged : RecordJudged s j kb a z := ⟨hread, hhandle, Bool.of_not_eq_false hchain⟩
        split
        next hslot =>
          split
          next hstands => exact h.runOp_ok _ hsel (keyRestoreRun_stands hjudged hslot hstands)
          next hstands => exact h.runOp_fail _ hsel (keyRestoreRun_otherNode hjudged hslot hstands)
        next hslot =>
        have hslot : (nodeAt s (hNode z.handle)).state = .free := not_not.1 hslot
        split
        next hkept => exact h.runOp_fail _ hsel (keyRestoreRun_slotKept hjudged hslot hkept)
        next hkept =>
        split
        next hdepth => exact h.runOp_fail _ hsel (keyRestoreRun_tooDeep hjudged hslot hkept hdepth)
        next hdepth =>
        exact (h.runOp _ hsel _).trans (congrArg (finish j · s) (keyRestoreRun_returns hjudged hslot hkept (Nat.not_le.1 hdepth)))

end Sys2Proof.Machine
end

/-! ## Nibbles and the bytes that hold them (06 R156) -/

section
namespace Sys2Proof

/-- An even number of nibbles reads back from the bytes that pack it. -/
theorem nibbles_packNibbles {l : List Nat} (heven : Even l.length) (hl : ∀ d ∈ l, d < 16) : nibbles (packNibbles l) = l := by
  induction l using packNibbles.induct with
  | case1 => rfl
  | case2 a => exact absurd heven (by simp)
  | case3 a b r ih =>
    have ha : a < 16 := hl a (by simp)
    have hb : b < 16 := hl b (by simp)
    have hr : nibbles (packNibbles r) = r :=
      ih (by simpa [Nat.even_add_one] using heven) fun d hd => hl d (by simp [hd])
    have hbyte : (BitVec.ofNat 8 (16 * a + b)).toNat = 16 * a + b := by
      rw [BitVec.toNat_ofNat]
      omega
    rw [packNibbles, nibbles, hr, hbyte]
    congr 1
    · omega
    · congr 1
      omega

/-- Bytes hold what is put after a whole number of them on its own. -/
theorem packNibbles_append {a : List Nat} (heven : Even a.length) (b : List Nat) : packNibbles (a ++ b) = packNibbles a ++ packNibbles b := by
  induction a using packNibbles.induct with
  | case1 => rfl
  | case2 x => exact absurd heven (by simp)
  | case3 x y r ih => simp [packNibbles, ih (by simpa [Nat.even_add_one] using heven)]

theorem length_nibbles (bs : Bytes) : (nibbles bs).length = 2 * bs.length := by
  induction bs with
  | nil => rfl
  | cons b bs ih => simp [nibbles, ih]; omega

/-- The nibbles of the first bytes of a run are the run's first nibbles. -/
theorem nibbles_slice_packNibbles {a : List Nat} (n : Nat) (hn : a.length = 2 * n) (ha : ∀ d ∈ a, d < 16) (b : List Nat) :
    nibbles (slice (packNibbles (a ++ b)) 0 n) = a := by
  have heven : Even a.length := ⟨n, by omega⟩
  have hlen : (packNibbles a).length = n := by
    have := length_nibbles (packNibbles a)
    rw [nibbles_packNibbles heven ha] at this
    omega
  have hslice := slice_between [] (packNibbles a) (packNibbles b)
  rw [List.length_nil, List.nil_append, hlen] at hslice
  rw [packNibbles_append heven, hslice, nibbles_packNibbles heven ha]

end Sys2Proof
end

/-! ## PIN fields (06 R156, R158) -/

section
namespace Sys2Proof.Machine

/-- The fill nibbles of a PIN of `n` digits in the first eight bytes of a field. -/
def fillNibbles (fmt n : Nat) (fill : List Nat) : List Nat :=
  match fmt with
  | 1 | 3 => fill.take (14 - n)
  | 4 => List.replicate (14 - n) 10
  | _ => List.replicate (14 - n) 15

/-- A field begins with its format, the length, the PIN and its fill (R156). -/
theorem pinField_eq (fmt : Nat) (pin fill : List Nat) :
    ∃ rest, pinField fmt pin fill = packNibbles ((fmt :: pin.length :: pin ++ fillNibbles fmt pin.length fill) ++ rest) := by
  unfold pinField fillNibbles
  split
  · exact ⟨[], by simp⟩
  · exact ⟨[], by simp⟩
  · exact ⟨fill.take 16, rfl⟩
  · exact ⟨[], by simp⟩

/-- The fill nibbles that R158 takes in a field of a format. -/
def FillOk (fmt : Nat) (fill : List Nat) : Prop :=
  (fmt = 0 ∨ fmt = 2 → ∀ d ∈ fill, d = 15) ∧ (fmt = 3 → ∀ d ∈ fill, 10 ≤ d) ∧ (fmt = 4 → ∀ d ∈ fill, d = 10)

theorem fillNibbles_ok {fmt n : Nat} {fill : List Nat} (h3 : fmt = 3 → ∀ d ∈ fill, 10 ≤ d) : FillOk fmt (fillNibbles fmt n fill) := by
  refine ⟨?_, ?_, ?_⟩
  · rintro (rfl | rfl) d hd <;> exact List.eq_of_mem_replicate hd
  · rintro rfl d hd
    exact h3 rfl d (List.mem_of_mem_take hd)
  · rintro rfl d hd
    exact List.eq_of_mem_replicate hd

theorem length_fillNibbles {fmt n : Nat} {fill : List Nat} (hlen : 16 ≤ fill.length) : (fillNibbles fmt n fill).length = 14 - n := by
  unfold fillNibbles
  split <;> simp
  all_goals omega

theorem fillNibbles_lt {fmt n : Nat} {fill : List Nat} (hfill : ∀ d ∈ fill, d < 16) : ∀ d ∈ fillNibbles fmt n fill, d < 16 := by
  intro d hd
  unfold fillNibbles at hd
  split at hd
  · exact hfill d (List.mem_of_mem_take hd)
  · exact hfill d (List.mem_of_mem_take hd)
  · rw [List.eq_of_mem_replicate hd]
    decide
  · rw [List.eq_of_mem_replicate hd]
    decide

/-- A field that begins with its format, the length, the PIN and a fill of the format passes R158. -/
theorem pinOf_eq_some {fmt : Nat} {field : Bytes} {pin fill : List Nat} (hfmt : fmt ≤ 4)
    (hfield : nibbles (slice field 0 8) = fmt :: pin.length :: pin ++ fill) (h4 : 4 ≤ pin.length) (h12 : pin.length ≤ 12)
    (hpin : ∀ d ∈ pin, d ≤ 9) (hfill : FillOk fmt fill) : pinOf fmt field = some pin := by
  have htake : ((fmt :: pin.length :: pin ++ fill).drop 2).take pin.length = pin := List.take_left
  have hdrop : (fmt :: pin.length :: pin ++ fill).drop (2 + pin.length) = fill := by
    rw [← List.drop_drop]
    exact List.drop_left
  obtain ⟨h02, h3, hten⟩ := hfill
  simp only [pinOf, hfield, List.cons_append, List.getD_cons_zero, List.getD_cons_succ] at htake hdrop ⊢
  rw [htake, hdrop]
  refine if_pos ⟨trivial, h4, h12, by simpa using hpin, ?_⟩
  interval_cases fmt
  · simpa using h02 (.inl rfl)
  · rfl
  · simpa using h02 (.inr rfl)
  · simpa using h3 rfl
  · simpa using hten rfl

/-- Settles O24: the first sixteen nibbles of a field are the format, the length, the PIN and a fill that R158 takes. -/
theorem pinFieldsReadBack : Obligations.PinFieldsReadBack := by
  unfold Obligations.PinFieldsReadBack
  intro fmt pin fill hfmt h4 h12 hpin hlen hfill h3
  obtain ⟨rest, hfield⟩ := pinField_eq fmt pin fill
  refine pinOf_eq_some hfmt ?_ h4 h12 hpin (fillNibbles_ok (n := pin.length) h3)
  rw [hfield]
  refine nibbles_slice_packNibbles 8 ?length ?nibble rest
  case length =>
    rw [List.length_append, length_fillNibbles hlen]
    simp only [List.length_cons]
    omega
  case nibble =>
    simp only [List.cons_append, List.forall_mem_cons, List.forall_mem_append]
    exact ⟨by omega, by omega, fun d hd => by have := hpin d hd; omega, fillNibbles_lt hfill⟩

end Sys2Proof.Machine
end

/-! ## What the PIN commands share (06 R158, R163, R177) -/

section
namespace Sys2Proof.Machine

variable {s t : State} {op : W16} {q : Nat} {j : Job}

/-- The PIN format in parameter byte 56, under a key (R156). -/
abbrev format56 (j : Job) (k : Binding) : Nat := pinFormat (j.desc.par 56) (isTdes k.attrs)

/-- The PIN format in parameter byte 57, under a key (R156). -/
abbrev format57 (j : Job) (k : Binding) : Nat := pinFormat (j.desc.par 57) (isTdes k.attrs)

/-- An account field that a command uses gives a PAN of 12 to 19 digits (06 R163). -/
theorem account_length {b : Bytes} {pan : List Nat} (h : account b true = .ok pan) : 12 ≤ pan.length ∧ pan.length ≤ 19 := by
  dsimp only [account] at h
  split at h
  next hform =>
    obtain ⟨_, hlen, _⟩ := hform
    obtain rfl := Except.ok.inj h
    have hnib : (nibbles (slice b 1 10)).length = 20 := by rw [length_nibbles, length_slice]
    rw [List.length_take, hnib]
    rcases hlen with hlen | ⟨_, hno⟩
    · omega
    · cases hno
  next => cases h

/-- A last test of a run ends it with its status, or lets it give its result. -/
theorem finish_need (hd : j.doom = none) {b : Bool} {p : Prop} [Decidable p] (hb : b = true ↔ p) (st : W16) (r : Run) :
    finish j ((do Cmd.need b st; return r : Cmd Run) t) s = if p then complete j r t else failedWith j st t := by
  cases b
  · exact (failed_eq hd).trans (if_neg (mt hb.2 Bool.false_ne_true)).symm
  · exact (if_pos (hb.1 rfl)).symm

/-- A due command whose run comes to a last test ends by it. -/
theorem Due.runOp_need (h : Due s op q j) {f : Job → Cmd Run} {b : Bool} {p : Prop} [Decidable p] {st : W16} {r : Run}
    (hf : f j s = (do Cmd.need b st; return r : Cmd Run) t) (hb : b = true ↔ p) :
    Machine.runOp op anyJob f q s = if p then complete j r t else failedWith j st t := by
  rw [h.runOp anyJob rfl, hf]
  exact finish_need h.doom hb st r

section PinIn
variable {fmt : Nat} {key : Bytes} {pan : List Nat} {k : List Nat → Cmd Run}

/-- A run that deciphers its block goes on with the PIN it finds in it. -/
theorem Due.runOp_pin (h : Due s op q j) {f : Job → Cmd Run} (hf : f j s = (pinIn j fmt key pan >>= k) t) {pin : List Nat}
    (hpin : pinOf fmt (pinDec fmt key (slice j.input 0 16) pan) = some pin) :
    Machine.runOp op anyJob f q s = finish j (k pin t) s := by
  rw [h.runOp anyJob rfl, hf, pinIn, hpin]
  rfl

/-- A block that holds no PIN ends the command with ST_FORMAT and event 0x141 (R158). -/
theorem Due.runOp_noPin (h : Due s op q j) {f : Job → Cmd Run} (hf : f j s = (pinIn j fmt key pan >>= k) t)
    (hpin : pinOf fmt (pinDec fmt key (slice j.input 0 16) pan) = none) :
    Machine.runOp op anyJob f q s = failedWith j stFormat (note 0x141 5 [j.part, op.toNat] t) := by
  rw [h.runOp anyJob rfl, hf, pinIn, hpin, ← h.opcode]
  exact failed_eq h.doom

end PinIn

end Sys2Proof.Machine
end

/-! ## PIN_TRANSLATE and PIN_GENERATE (06 R165, R166, R171) -/

section
namespace Sys2Proof.Machine

variable {s s₁ s₂ : State} {j : Job} {a b : Binding} {pan fill : List Nat}

/-- The key that deciphers the input block of PIN_TRANSLATE, and the state once it is at hand: key A, or under a base derivation key the PIN
working key of the transaction (R165). -/
structure TranslateKey (s s₁ : State) (j : Job) (a : Binding) (ka : Bytes) : Prop where
  /-- A PIN key. -/
  plain : (a.attrs.usage == chars2 'B' '0') = false → ka = a.material ∧ s₁ = s
  /-- A base derivation key. -/
  dukpt : (a.attrs.usage == chars2 'B' '0') = true →
    counterOk (isTdes a.attrs) (ksnCounter (isTdes a.attrs) (slice j.input 16 12)) = true ∧
      ∃ k, transactionKey j a (slice j.input 16 12) (ksnCounter (isTdes a.attrs) (slice j.input 16 12)) s = .ok (k, s₁) ∧
        ka = pinWorking a k (slice j.input 16 12) (ksnCounter (isTdes a.attrs) (slice j.input 16 12))

theorem checkCounter_ok {tdes : Bool} {ksn : Bytes} (h : counterOk tdes (ksnCounter tdes ksn) = true) (s : State) :
    checkCounter j tdes ksn s = .ok (ksnCounter tdes ksn, s) := by
  simp [checkCounter, h]

/-- How PIN_TRANSLATE comes by that key. -/
def translateKey (j : Job) (a : Binding) : Cmd Bytes :=
  if a.attrs.usage == chars2 'B' '0' then do
    let c ← checkCounter j (isTdes a.attrs) (slice j.input 16 12)
    return pinWorking a (← transactionKey j a (slice j.input 16 12) c) (slice j.input 16 12) c
  else pure a.material

theorem translateKey_ok {ka : Bytes} (h : TranslateKey s s₁ j a ka) : translateKey j a s = .ok (ka, s₁) := by
  unfold translateKey
  cases hb0 : a.attrs.usage == chars2 'B' '0' with
  | false =>
    obtain ⟨rfl, rfl⟩ := h.plain hb0
    rfl
  | true =>
    obtain ⟨hcount, k, htrans, rfl⟩ := h.dukpt hb0
    simp [checkCounter_ok hcount, htrans]

/-- The input of PIN_TRANSLATE is well-formed for its formats, and its output fits (R162, R163, R166). -/
structure TranslateInput (j : Job) (a : Binding) (fin fout : Nat) (pan : List Nat) : Prop where
  /-- Length and reserved bytes, by the kind of key A. -/
  head : headerOk j.input 40 (if a.attrs.usage == chars2 'B' '0' then (if isTdes a.attrs then 10 else 12) else 0) (some fin) 40 40 = true
  /-- Only a block of format 1 becomes one of format 1. -/
  formats : fout = 1 → fin = 1
  /-- The account field. -/
  account : account (slice j.input 28 12) (fin != 1 || fout != 1) = .ok pan
  /-- The output block. -/
  fits : pinSize fout ≤ j.desc.outCap

/-- With a well-formed input, its key at hand and a fill drawn, PIN_TRANSLATE turns to the block. -/
theorem pinTranslateRun_eq {ka : Bytes} (hA : j.keyA = some a) (hB : j.keyB = some b)
    (hin : TranslateInput j a (format56 j a) (format57 j b) pan)
    (hkey : TranslateKey s s₁ j a ka) (hfill : drawFill j (format57 j b) 10 s₁ = .ok (fill, s₂)) :
    pinTranslateRun j s = (pinIn j (format56 j a) ka pan >>= fun pin =>
      pure (Run.output (pinEnc (format57 j b) b.material (pinField (format57 j b) pin fill) pan))) s₂ := by
  obtain ⟨hhead, hformats, hpan, hfits⟩ := hin
  have hformats : (!(format56 j a != 1 && format57 j b == 1)) = true := by
    simpa [imp_iff_not_or, or_comm] using hformats
  have hkey := translateKey_ok hkey
  rw [translateKey] at hkey
  simp only [pinTranslateRun, Cmd.bind_apply, hA, hB, bound_some, Cmd.of_ok, hhead, Cmd.need_true, hkey, hformats, hpan, hfits, decide_true,
    hfill, Cmd.pure_apply]

/-- The input of PIN_GENERATE is well-formed for its output format, and its output fits (R171). -/
structure GenerateInput (j : Job) (fout : Nat) (pan : List Nat) : Prop where
  /-- Its length. -/
  len : j.input.length = 40
  /-- The bytes before the account field. -/
  zero : zeroAt j.input 0 28 = true
  /-- The account field. -/
  account : account (slice j.input 28 12) (fout != 1) = .ok pan
  /-- The output block. -/
  fits : pinSize fout ≤ j.desc.outCap

/-- PIN_GENERATE draws its digits and its fill, and gives the PIN's block (R171). -/
theorem pinGenerateRun_eq (hB : j.keyB = some b) (hin : GenerateInput j (format56 j b) pan) :
    pinGenerateRun j s = (do
      let ds ← drawKept j.seq j.part 250 64 (j.desc.par 57)
      let fill ← drawFill j (format56 j b) (14 - j.desc.par 57)
      return Run.output (pinEnc (format56 j b) b.material
        (pinField (format56 j b) ((ds.take (j.desc.par 57)).map (· % 10)) fill) pan) : Cmd Run) s := by
  obtain ⟨hlen, hzero, hpan, hfits⟩ := hin
  simp [pinGenerateRun, hB, hlen, hzero, hpan, hfits]

end Sys2Proof.Machine
end

/-! ## Offsets and PIN verification values (06 R167 to R170) -/

section
namespace Sys2Proof.Machine

variable {s : State} {j : Job} {a b : Binding} {pan : List Nat}

/-- The natural PIN of an offset command: under key B, by the partition's table (R167). -/
def naturalOf (s : State) (j : Job) (b : Binding) : List Nat :=
  naturalPin b.material (slice j.input 40 8) ((Tab.get none (partAt s j.part).dectabs (j.desc.par 58)).getD []) (j.desc.par 57)

section Offset
variable (hA : j.keyA = some a) (hB : j.keyB = some b) (hpan : account (slice j.input 28 12) (format56 j a != 1) = .ok pan)
include hA hB hpan

/-- With a well-formed input, PIN_VERIFY_OFFSET compares the PIN of its block with the natural PIN moved by the offset (R167). -/
theorem verifyOffsetRun_eq (hhead : headerOk j.input 56 0 (some (format56 j a)) 54 56 = true)
    (hdigits : ∀ d ∈ (nibbles (slice j.input 48 6)).take (j.desc.par 57), d ≤ 9)
    (hfill : ∀ d ∈ (nibbles (slice j.input 48 6)).drop (j.desc.par 57), d = 15) :
    verifyOffsetRun j s = (pinIn j (format56 j a) a.material pan >>= fun pin => do
      Cmd.need (pin.length == j.desc.par 57 &&
        addDigits (naturalOf s j b) ((nibbles (slice j.input 48 6)).take (j.desc.par 57)) == pin) stVerifyFail
      return Run.output []) s := by
  have hoff : (((nibbles (slice j.input 48 6)).take (j.desc.par 57)).all (· ≤ 9) &&
      ((nibbles (slice j.input 48 6)).drop (j.desc.par 57)).all (· == 15)) = true := by
    simpa using ⟨hdigits, hfill⟩
  simp only [verifyOffsetRun, offsetStart, naturalOf, bind_assoc, pure_bind]
  simp only [Cmd.bind_apply, hA, hB, bound_some, Cmd.of_ok, hhead, hpan, hoff, Bool.false_eq_true, if_false, Bool.false_or, Cmd.need_true,
    Cmd.get_apply]

/-- With a well-formed input, PIN_OFFSET_GEN takes the natural PIN from the PIN of its block (R168). -/
theorem offsetGenRun_eq (hhead : headerOk j.input 48 0 (some (format56 j a)) 48 48 = true) :
    offsetGenRun j s = (pinIn j (format56 j a) a.material pan >>= fun pin => do
      Cmd.need (pin.length == j.desc.par 57) stFormat
      return Run.output (packDigits 6 (subDigits pin (naturalOf s j b)))) s := by
  simp only [offsetGenRun, offsetStart, naturalOf, bind_assoc, pure_bind]
  simp [hA, hB, hhead, hpan]

end Offset

section Pvv
variable (hA : j.keyA = some a) (hB : j.keyB = some b) (hpan : account (slice j.input 28 12) true = .ok pan)
include hA hB hpan

/-- With a well-formed input, PIN_VERIFY_PVV compares the PVV of its block's PIN with the one given (R170). -/
theorem verifyPvvRun_eq (hhead : headerOk j.input 48 0 (some (format56 j a)) 42 48 = true)
    (hwant : ∀ d ∈ nibbles (slice j.input 40 2), d ≤ 9) :
    verifyPvvRun j s = (pinIn j (format56 j a) a.material pan >>= fun pin => do
      Cmd.need (pvvOf b.material pan (j.desc.par 57) pin == nibbles (slice j.input 40 2)) stVerifyFail
      return Run.output []) s := by
  have hwant : (nibbles (slice j.input 40 2)).all (· ≤ 9) = true := by simpa using hwant
  simp only [verifyPvvRun, pvvStart, bind_assoc, pure_bind]
  simp [hA, hB, hhead, hpan, hwant]

/-- With a well-formed input, PVV_GEN gives the PVV of its block's PIN (R169). -/
theorem pvvGenRun_eq (hhead : headerOk j.input 40 0 (some (format56 j a)) 40 40 = true) :
    pvvGenRun j s = (pinIn j (format56 j a) a.material pan >>= fun pin =>
      pure (Run.output (packDigits 2 (pvvOf b.material pan (j.desc.par 57) pin)))) s := by
  simp only [pvvGenRun, pvvStart, bind_assoc, pure_bind]
  simp [hA, hB, hhead, hpan]

end Pvv

/-! ## What the PIN commands answer -/

/-- PVV_GEN gives the PVV of the PIN in its block, or ends with ST_FORMAT and event 0x141. -/
theorem Due.pvvGen {q : Nat} (h : Due s 0x0305 q j) (hA : j.keyA = some a) (hB : j.keyB = some b)
    (hhead : headerOk j.input 40 0 (some (format56 j a)) 40 40 = true)
    (hpan : account (slice j.input 28 12) true = .ok pan) :
    exec (.pvvGen q) s = .next (match pinOf (format56 j a)
        (pinDec (format56 j a) a.material (slice j.input 0 16) pan) with
      | some pin => complete j (Run.output (packDigits 2 (pvvOf b.material pan (j.desc.par 57) pin))) s
      | none => failedWith j stFormat (note 0x141 5 [j.part, 0x0305] s)) := by
  have hrun := pvvGenRun_eq (s := s) hA hB hpan hhead
  refine congrArg done ?_
  split
  next pin hpin => exact h.runOp_pin hrun hpin
  next hno => exact h.runOp_noPin hrun hno

/-- The rightmost digits of a PAN that has more of them need no fill. -/
theorem lastDigits_of_le {n : Nat} {ds : List Nat} (h : n ≤ ds.length) : lastDigits n ds = ds.drop (ds.length - n) := by
  rw [lastDigits, Nat.sub_eq_zero_of_le h]
  rfl

/-- Settles O12: PVV_GEN gives the PVV of its block's PIN, whose PAN is long enough to need no fill. -/
theorem pvvFollowsItsMethod : Obligations.PvvFollowsItsMethod := by
  unfold Obligations.PvvFollowsItsMethod
  intro s q j a b pan h hA hB inp fin hhead hpan
  have hbody : 11 ≤ (panBody pan).length := by
    have := account_length hpan
    rw [panBody, List.length_take]
    omega
  have hexec := h.pvvGen hA hB hhead hpan
  simp only [pvvOf, lastDigits_of_le hbody] at hexec
  exact hexec

/-- Settles O25: each command's run comes to the deciphered PIN, which it compares or turns into its output. -/
theorem pinCommandsAnswer : Obligations.PinCommandsAnswer := by
  unfold Obligations.PinCommandsAnswer
  refine ⟨fun s s₁ s₂ q j b pan fill hB => ⟨?translate, ?generate⟩, fun s q j a b pan hA hB => ⟨?verifyOffset, ?offsetGen, ?verifyPvv, ?pvvGen⟩⟩
  case translate =>
    intro a ka h hA inp tdes b0 fin fout ksn hhead hplain hdukpt hformats hpan hfits hfill
    have hrun := pinTranslateRun_eq hA hB ⟨hhead, hformats, hpan, hfits⟩ ⟨hplain, hdukpt⟩ hfill
    refine congrArg done ?_
    split
    next pin hpin => exact h.runOp_pin hrun hpin
    next hno => exact h.runOp_noPin hrun hno
  case generate =>
    intro h fout l hlen hzero hpan hfits
    exact congrArg done ((h.runOp anyJob rfl _).trans (congrArg (finish j · s) (pinGenerateRun_eq hB ⟨hlen, hzero, hpan, hfits⟩)))
  case verifyOffset =>
    intro h hhead hpan hdigits hfill
    have hrun := verifyOffsetRun_eq (s := s) hA hB hpan hhead hdigits hfill
    rw [h.opcode]
    refine congrArg done ?_
    split
    next pin hpin => exact (h.runOp_pin hrun hpin).trans (finish_need h.doom (by simp [naturalOf]) _ _)
    next hno => exact h.runOp_noPin hrun hno
  case offsetGen =>
    intro h hhead hpan
    have hrun := offsetGenRun_eq (s := s) hA hB hpan hhead
    rw [h.opcode]
    refine congrArg done ?_
    split
    next pin hpin => exact (h.runOp_pin hrun hpin).trans (finish_need h.doom beq_iff_eq _ _)
    next hno => exact h.runOp_noPin hrun hno
  case verifyPvv =>
    intro h hhead hpan hwant
    have hrun := verifyPvvRun_eq (s := s) hA hB hpan hhead hwant
    rw [h.opcode]
    refine congrArg done ?_
    split
    next pin hpin => exact (h.runOp_pin hrun hpin).trans (finish_need h.doom beq_iff_eq _ _)
    next hno => exact h.runOp_noPin hrun hno
  case pvvGen =>
    intro h hhead hpan
    rw [h.opcode]
    exact h.pvvGen hA hB hhead hpan

end Sys2Proof.Machine
end

/-! ## DECTAB_LOAD and card verification values (06 R172 to R176) -/

section
namespace Sys2Proof.Machine

variable {s : State} {j : Job}

section Dectab
variable {b : Binding} (hB : j.keyB = some b) (hlen : j.input.length = 40) (hzero : zeroAt j.input 4 8 = true)
  (htdes : isTdes b.attrs = true → zeroAt j.input 32 40 = true)
include hB hlen hzero htdes

/-- With a well-formed input, DECTAB_LOAD judges the MAC and then the table, which it commits (R172, R173; log entry 42). -/
theorem finish_dectabRun (hd : j.doom = none) :
    finish j (dectabRun j s) s =
      if cmac (isTdes b.attrs) b.material ([BitVec.ofNat 8 j.part, BitVec.ofNat 8 (j.desc.par 56)] ++ slice j.input 8 16) ≠
          slice j.input 24 (blockSize (isTdes b.attrs)) then
        failedWith j stVerifyFail (note 0x143 5 [j.part, j.desc.par 56, 1] s)
      else if tableOk (slice j.input 8 16) then
        complete j { Run.output [] with
          commits := [.dectab j.part (j.desc.par 56) (slice j.input 8 16)],
          events := [⟨0x142, 5, [j.part, j.desc.par 56, sha256Word (slice j.input 8 16)]⟩] } s
      else failedWith j stFormat (note 0x143 5 [j.part, j.desc.par 56, 2] s) := by
  have hform : (zeroAt j.input 4 8 && (!isTdes b.attrs || zeroAt j.input 32 40)) = true := by
    rw [hzero]
    cases ht : isTdes b.attrs
    · rfl
    · exact htdes ht
  simp only [dectabRun, Cmd.bind_apply, hlen, hB, bound_some, Cmd.of_ok, hform, Cmd.need_true, beq_self_eq_true]
  split
  · exact failed_eq hd
  · cases htable : tableOk (slice j.input 8 16)
    · exact failed_eq hd
    · rfl

end Dectab

/-- The month of an expiry in bytes 12 and 13, YYMM (R175). -/
def expiryMonth (b : Bytes) : Nat := 10 * (nibbles (slice b 12 2)).getD 2 0 + (nibbles (slice b 12 2)).getD 3 0

/-- The fields of a card verification input are well-formed (R175, R176): the account field, the expiry, and the service code of the value kind. -/
structure CvvInput (j : Job) (pan svc : List Nat) : Prop where
  /-- The account field. -/
  account : account (slice j.input 0 12) true = .ok pan
  /-- The expiry is decimal. -/
  digits : ∀ d ∈ nibbles (slice j.input 12 2), d ≤ 9
  /-- Its month. -/
  month : 1 ≤ expiryMonth j.input ∧ expiryMonth j.input ≤ 12
  /-- The service code. -/
  service : if j.desc.par 56 = 0 then cvvField (slice j.input 14 2) = some svc
    else zeroAt j.input 14 16 = true ∧ svc = if j.desc.par 56 = 1 then [0, 0, 0] else [9, 9, 9]

/-- The service code of the value kind, as a run reads it. -/
theorem CvvInput.service_eq {pan svc : List Nat} (h : CvvInput j pan svc) :
    (if j.desc.par 56 = 0 then cvvField (slice j.input 14 2)
      else if zeroAt j.input 14 16 then some (if j.desc.par 56 = 1 then [0, 0, 0] else [9, 9, 9]) else none) = some svc := by
  have hservice := h.service
  split at hservice
  next hkind => rw [if_pos hkind, hservice]
  next hkind =>
    obtain ⟨hzero, rfl⟩ := hservice
    rw [if_neg hkind, if_pos hzero]

/-- With a well-formed input, both commands compute the value of the account, the expiry and the service code (R175). -/
theorem cvvStart_ok {a : Binding} {pan svc want : List Nat} (hA : j.keyA = some a) (h : CvvInput j pan svc) (verify : Bool)
    (hlen : j.input.length = if verify then 18 else 16) (hwant : (if verify then cvvField (slice j.input 16 2) else some []) = some want) :
    cvvStart j verify s = .ok ((cvvOf (isTdes a.attrs) a.material (pan ++ nibbles (slice j.input 12 2) ++ svc), want), s) := by
  have hexpiry : ((nibbles (slice j.input 12 2)).all (· ≤ 9) && decide (1 ≤ expiryMonth j.input ∧ expiryMonth j.input ≤ 12)) = true := by
    rw [decide_eq_true h.month, Bool.and_true]
    simpa using h.digits
  rw [expiryMonth] at hexpiry
  simp only [cvvStart, Cmd.bind_apply, hA, bound_some, Cmd.of_ok, hlen, beq_self_eq_true, Cmd.need_true, h.account, hexpiry, h.service_eq, hwant,
    Cmd.some?_some, Cmd.pure_apply]

theorem cvvGenerateRun_ok {a : Binding} {pan svc : List Nat} (hA : j.keyA = some a) (h : CvvInput j pan svc) (hlen : j.input.length = 16) :
    cvvGenerateRun j s = .ok (Run.output (packDigits 2 (cvvOf (isTdes a.attrs) a.material (pan ++ nibbles (slice j.input 12 2) ++ svc))), s) :=
  Cmd.bind_ok (cvvStart_ok hA h false hlen rfl)

theorem cvvVerifyRun_eq {a : Binding} {pan svc want : List Nat} (hA : j.keyA = some a) (h : CvvInput j pan svc) (hlen : j.input.length = 18)
    (hwant : cvvField (slice j.input 16 2) = some want) :
    cvvVerifyRun j s = (do
      Cmd.need (cvvOf (isTdes a.attrs) a.material (pan ++ nibbles (slice j.input 12 2) ++ svc) == want) stVerifyFail
      return Run.output [] : Cmd Run) s :=
  Cmd.bind_ok (cvvStart_ok hA h true hlen hwant)

/-- Settles O13: CVV_GENERATE gives the value of its input's fields, and the value's scan is the spec's. -/
theorem cardValueFollowsItsMethod : Obligations.CardValueFollowsItsMethod := by
  unfold Obligations.CardValueFollowsItsMethod
  intro s q j a pan svc h hA hlen hpan ex month hdigits h1 h12 hkind0 hkind ds r v
  have hin : CvvInput j pan svc := by
    refine ⟨hpan, hdigits, ⟨h1, h12⟩, ?_⟩
    split
    next h0 => exact hkind0 h0
    next h0 => exact hkind h0
  exact congrArg done (h.runOp_ok anyJob rfl (cvvGenerateRun_ok hA hin hlen))

end Sys2Proof.Machine
end

/-! ## Chip cryptograms and secure messaging (07 R183 to R191) -/

section
namespace Sys2Proof.Machine

variable {s s₁ : State} {j : Job} {a : Binding} {pan psn : List Nat} {atc mk : Bytes}

/-- The key of the two cryptogram commands: the card's own, or its session key (R183). -/
def arqcKey (j : Job) (a : Binding) (mk atc : Bytes) : Bytes := if j.desc.par 56 = 1 then mk else sessionKey (isTdes a.attrs) mk atc

/-- The cryptogram that ARQC_VERIFY compares (R188). -/
def arqcOf (j : Job) (a : Binding) (mk atc : Bytes) : Bytes :=
  (cardMac (isTdes a.attrs) (arqcKey j a mk atc) (j.input.drop 40) (if bitOf (byteAt j.input 13).toNat 0 then 1 else 2)).take 8

/-- With a well-formed input, both cryptogram commands give the ARPC, ARQC_VERIFY once the cryptogram is found right (R187 to R189). -/
theorem arqcRun_eq {verify : Bool} (hA : j.keyA = some a) (hmk : cardMaster j a pan psn s = .ok (mk, s₁))
    (hemv : emvHeader j.input = .ok (pan, psn, atc)) (hform : arqcForm j.input verify (j.desc.par 57) = true) :
    arqcRun verify j s = (do
      Cmd.need (!verify || arqcOf j a mk atc == slice j.input 16 8) stVerifyFail
      return Run.output (arpcOf (isTdes a.attrs) (arqcKey j a mk atc) j.input (j.desc.par 57)) : Cmd Run) s₁ := by
  simp only [arqcRun, arqcOf, arqcKey, Cmd.bind_apply, hA, bound_some, Cmd.of_ok, hform, Cmd.need_true, hemv, hmk]

theorem cardSession_ok (hmk : cardMaster j a pan psn s = .ok (mk, s₁)) :
    cardSession j a pan psn atc s = .ok (sessionKey (isTdes a.attrs) mk atc, s₁) := by
  simp [cardSession, hmk]

/-- The input of SM_MAC is well-formed but for its MAC field (R190). -/
structure SmMacInput (j : Job) (pan psn : List Nat) (atc : Bytes) : Prop where
  /-- Its length. -/
  len : 33 ≤ j.input.length ∧ j.input.length ≤ 32 + 4096
  /-- The bytes after the length of the MAC. -/
  zero : zeroAt j.input 17 24 = true
  /-- The header. -/
  header : emvHeader j.input = .ok (pan, psn, atc)
  /-- The length of the MAC. -/
  macLen : 4 ≤ (byteAt j.input 16).toNat ∧ (byteAt j.input 16).toNat ≤ 8
  /-- The bytes after the MAC. -/
  rest : zeroAt j.input (24 + (byteAt j.input 16).toNat) 32 = true

/-- The MAC of SM_MAC (R190). -/
def smMacOf (j : Job) (a : Binding) (mk atc : Bytes) : Bytes :=
  (cardMac (isTdes a.attrs) (sessionKey (isTdes a.attrs) mk atc) (j.input.drop 32) 2).take (byteAt j.input 16).toNat

section SmMac
variable (hA : j.keyA = some a) (hin : SmMacInput j pan psn atc)
include hA hin

/-- SM_MAC as it verifies compares the MAC with the one given. -/
theorem smMacRun_verify (hmk : cardMaster j a pan psn s = .ok (mk, s₁)) (hkind : j.desc.par 56 = 1) :
    smMacRun j s = (do
      Cmd.need (smMacOf j a mk atc == slice j.input 24 (byteAt j.input 16).toNat) stVerifyFail
      return Run.output [] : Cmd Run) s₁ := by
  obtain ⟨hlen, hzero, hemv, hmac, hrest⟩ := hin
  simp [smMacRun, smMacOf, hA, hkind, hlen, hzero, hemv, hmac, hrest, cardSession_ok hmk]

/-- SM_MAC as it generates gives the MAC, where the MAC field is zero and the MAC fits. -/
theorem smMacRun_generate (hmk : cardMaster j a pan psn s = .ok (mk, s₁)) (hkind : j.desc.par 56 ≠ 1) (hfield : zeroAt j.input 24 32 = true)
    (hfits : (byteAt j.input 16).toNat ≤ j.desc.outCap) : smMacRun j s = .ok (Run.output (smMacOf j a mk atc), s₁) := by
  have hkind : (j.desc.par 56 == 1) = false := beq_false_of_ne hkind
  obtain ⟨hlen, hzero, hemv, hmac, hrest⟩ := hin
  simp [smMacRun, smMacOf, hA, hkind, hlen, hzero, hemv, hmac, hrest, hfield, hfits, cardSession_ok hmk]

/-- SM_MAC as it generates refuses any other input before it derives a key. -/
theorem smMacRun_refused (hkind : j.desc.par 56 ≠ 1)
    (hno : ¬ (zeroAt j.input 24 32 = true ∧ (byteAt j.input 16).toNat ≤ j.desc.outCap)) : smMacRun j s = .error (.fail stFormat s) := by
  have hkind : (j.desc.par 56 == 1) = false := beq_false_of_ne hkind
  obtain ⟨hlen, hzero, hemv, hmac, hrest⟩ := hin
  cases hfield : zeroAt j.input 24 32 with
  | false => simp [smMacRun, hA, hkind, hlen, hzero, hfield]
  | true =>
    have hlong : ¬ (byteAt j.input 16).toNat ≤ j.desc.outCap := fun hfits => hno ⟨hfield, hfits⟩
    simp [smMacRun, hA, hkind, hlen, hzero, hemv, hmac, hrest, hfield, hlong]

end SmMac

/-- SM_ENCRYPT gives its data, padded, in CBC under the session key (R190). -/
theorem smEncryptRun_ok (hA : j.keyA = some a) (hmk : cardMaster j a pan psn s = .ok (mk, s₁))
    (hemv : emvHeader j.input = .ok (pan, psn, atc)) (hlen : 17 ≤ j.input.length ∧ j.input.length ≤ 16 + 4080)
    (hfits : (padTo (blockSize (isTdes a.attrs)) (j.input.drop 16 ++ [0x80])).length ≤ j.desc.outCap) :
    smEncryptRun j s = .ok (Run.output (cbcEnc (isTdes a.attrs) (sessionKey (isTdes a.attrs) mk atc) (zeros (blockSize (isTdes a.attrs)))
      (padTo (blockSize (isTdes a.attrs)) (j.input.drop 16 ++ [0x80]))), s₁) := by
  simp only [smEncryptRun, Cmd.bind_apply, hA, bound_some, Cmd.of_ok, hlen, and_self, decide_true, Cmd.need_true, hemv, hfits, cardSession_ok hmk,
    Cmd.pure_apply]

/-- The data of SM_PIN_CHANGE: the new PIN's field under the card's own key, padded (R191). -/
def pinChangeData (mk : Bytes) (pin : List Nat) : Bytes := xorBytes (pinField 2 pin []) (zeros 4 ++ slice mk 4 4) ++ [0x80] ++ zeros 7

/-- With a well-formed input, SM_PIN_CHANGE enciphers the new PIN under the session key (R191). -/
theorem smPinChangeRun_eq {b : Binding} (hA : j.keyA = some a) (hB : j.keyB = some b) (hmk : cardMaster j a pan psn s = .ok (mk, s₁))
    (hhead : headerOk j.input 48 0 (some (format56 j b)) 44 48 = true) (hzero : byteAt j.input 41 = 0)
    (hpan : account (slice j.input 28 12) true = .ok pan) (hpsn : psnOf (byteAt j.input 40) = .ok psn) :
    smPinChangeRun j s = (pinIn j (format56 j b) b.material pan >>= fun pin => pure (Run.output
      (if isTdes a.attrs then cbcEnc true (sessionKey (isTdes a.attrs) mk (slice j.input 42 2)) (zeros 8) (pinChangeData mk pin)
        else blockEnc false (sessionKey (isTdes a.attrs) mk (slice j.input 42 2)) (pinChangeData mk pin)))) s₁ := by
  simp [smPinChangeRun, pinChangeData, hA, hB, hhead, hzero, hpan, hpsn, hmk]

/-- Settles O26: each command's run, from a due job. -/
theorem cardCommandsAnswer : Obligations.CardCommandsAnswer := by
  unfold Obligations.CardCommandsAnswer
  refine ⟨fun s q j => ⟨?dectab, ?cardValue⟩, ?cardKeys⟩
  case dectab =>
    intro b h hB hlen hzero htdes
    exact congrArg done ((h.runOp anyJob rfl _).trans (finish_dectabRun hB hlen hzero htdes h.doom))
  case cardValue =>
    intro a pan svc want hA hpan ex month v hdigits h1 h12 hservice
    have hin : CvvInput j pan svc := ⟨hpan, hdigits, ⟨h1, h12⟩, hservice⟩
    exact ⟨fun h hlen => congrArg done (h.runOp_ok anyJob rfl (cvvGenerateRun_ok hA hin hlen)),
      fun h hlen hwant => congrArg done (h.runOp_need (cvvVerifyRun_eq hA hin hlen hwant) beq_iff_eq)⟩
  case cardKeys =>
  intro s s₁ q j a pan psn atc mk hA inp tdes hmk
  refine ⟨?cryptogram, ?messaging, ?pinChange⟩
  case cryptogram =>
    intro sk ac hemv
    exact ⟨fun h hform => congrArg done (h.runOp_need (arqcRun_eq hA hmk hemv hform) beq_iff_eq),
      fun h hform => congrArg done (h.runOp_ok anyJob rfl (arqcRun_eq hA hmk hemv hform))⟩
  case messaging =>
    intro sk hemv
    refine ⟨?mac, ?encrypt⟩
    case encrypt =>
      intro data h h17 h4096 hfits
      exact congrArg done (h.runOp_ok anyJob rfl (smEncryptRun_ok hA hmk hemv ⟨h17, h4096⟩ hfits))
    intro l m h h33 h4128 hzero h4 h8 hrest
    have hin : SmMacInput j pan psn atc := ⟨⟨h33, h4128⟩, hzero, hemv, ⟨h4, h8⟩, hrest⟩
    refine congrArg done ?_
    split
    next hkind => exact h.runOp_need (smMacRun_verify hA hin hmk hkind) beq_iff_eq
    next hkind =>
      split
      next hfits => exact h.runOp_ok anyJob rfl (smMacRun_generate hA hin hmk hkind hfits.1 hfits.2)
      next hno => exact h.runOp_fail anyJob rfl (smMacRun_refused hA hin hkind hno)
  case pinChange =>
    intro b hB fin sk d h hhead hzero hpan hpsn
    have hrun := smPinChangeRun_eq hA hB hmk hhead hzero hpan hpsn
    refine congrArg done ?_
    split
    next pin hpin => exact h.runOp_pin hrun hpin
    next hno => exact h.runOp_noPin hrun hno

end Sys2Proof.Machine
end

/-! ## Faults and tests of units (06 R155; 08 R236 to R238; 09 R275, R276; 17 R477, R480) -/

section
namespace Sys2Proof.Machine

variable {s : State}

/-- A fault of a PIN vault unit at work ends its job with ST_ENGINE_FAULT (06 R155). -/
theorem execPinvUnitFault_job {u : Fin 4} {q : Nat} (howner : (pinvAt s u).owner = .job q) (d : Bool) (i : W32) :
    execPinvUnitFault u d i s =
      done (note 0x144 5 [u, i.toNat] (tarnRaise 19 (if d then 2 else 1) u i false (endJob q stEngineFault .yielded s))) := by
  simp only [execPinvUnitFault, howner]

/-- After a fault of a big-number core, its other bank goes on (09 R275). -/
theorem execIguUnitFault_core {c : Fin 28} (hc : c.val < 16) (d : Bool) (i : W32) :
    execIguUnitFault c d i s = done (settleCore c (note 0x1A1 (10 + c.val / 4)
      ([c.val, i.toNat] ++ endedNow (s.jobs.filter fun j => j.holds (.igu c)) (unitFault (.igu c) (fun j => !j.parked) d i s))
      (unitFault (.igu c) (fun j => !j.parked) d i s))) := by
  simp only [execIguUnitFault, if_pos hc]

/-- Going around from `c`, the search finds `c` itself first. -/
theorem find?_around {n c : Nat} {up : Nat → Bool} (hc : c < n) (hup : up c = true) :
    ((List.range n).map fun k => (c + k) % n).find? up = some c := by
  obtain ⟨m, rfl⟩ := Nat.exists_eq_add_one_of_ne_zero (Nat.ne_of_gt (Nat.zero_lt_of_lt hc))
  rw [List.range_succ_eq_map, List.map_cons, Nat.add_zero, Nat.mod_eq_of_lt hc]
  exact List.find?_cons_of_pos hup

/-- Once ST_PERIOD has passed, a core in service whose turn it is is tested through the window (08 R236; log entry 46). -/
theorem execNewtPeriodicTest_due {c : Fin 16} (hup : (newtAt s c).up = true) (hnext : s.eng.newtNext = c.val)
    (hpast : s.eng.newtLast + stPeriod s.eng.newtPeriod ≤ s.time.mono) (hidle : s.eng.newtWin.busy = false) :
    execNewtPeriodicTest s = done (newtWindowAsk c 3 { s with eng := { s.eng with newtNext := (c.val + 1) % 16, newtLast := s.time.mono } }) := by
  have hdue : execNewtPeriodicTest s = _ := if_neg (by simp [hidle, hpast])
  rw [hdue, hnext, find?_around c.isLt hup]

/-- The same of an Iguana unit (09 R276; log entry 46). -/
theorem execIguPeriodicTest_due {c : Fin 28} (hup : unitUp s (.igu c) = true) (hnext : s.eng.iguNext = c.val)
    (hpast : s.eng.iguLast + stPeriod s.eng.iguPeriod ≤ s.time.mono) (hidle : s.eng.iguWin.busy = false) :
    execIguPeriodicTest s = done (iguWindowAsk c { s with eng := { s.eng with iguNext := (c.val + 1) % 28, iguLast := s.time.mono } }) := by
  have hdue : execIguPeriodicTest s = _ := if_neg (by simp [hidle, hpast])
  dsimp only at hdue
  rw [hdue, hnext, find?_around c.isLt ((dif_pos c.isLt).trans hup)]

/-- A write of NEWT_WIN_CTRL that starts a test asks for its core (08 R236). -/
theorem execNewtWinStart_start (hw : s.takesWrites) (hidle : s.eng.newtWin.busy = false) {v : W32} (hstart : bitOf v.toNat 0 = true) :
    execNewtWinStart v s = done (newtWindowAsk (bitsOf v.toNat 11 8) (bitsOf v.toNat 2 1) s) := by
  rw [execNewtWinStart, served_takesWrites hw]
  simp only [hidle, hstart, Bool.false_eq_true, if_false, if_true]

/-- A write of IGU_WIN_CTRL that starts a test of a unit there is asks for it (09 R276, R284). -/
theorem execIguWinStart_start (hw : s.takesWrites) (hidle : s.eng.iguWin.busy = false) {v : W32} (hunit : bitsOf v.toNat 12 8 ≤ 27)
    (hstart : bitOf v.toNat 0 = true) : execIguWinStart v s = done (iguWindowAsk (bitsOf v.toNat 12 8) s) := by
  rw [execIguWinStart, served_takesWrites hw]
  simp [hidle, hunit, hstart]

/-- A window test that has held its core for 4 µs counts as failed (08 R236). -/
theorem execNewtWinTimeout_late {c : Fin 16} (hunit : s.eng.newtWin.unit = c.val) (hrunning : s.eng.newtWin.state = 2)
    (hlate : 4000 + s.eng.newtWin.since ≤ s.time.mono) :
    execNewtWinTimeout s = done (newtWindowEnd c false 2 (Nat.min 16383 ((s.time.mono - s.eng.newtWin.since) * 10 / 8)) s) := by
  have hlt : s.eng.newtWin.unit < 16 := hunit ▸ c.isLt
  have hc : (⟨s.eng.newtWin.unit, hlt⟩ : Fin 16) = c := Fin.ext hunit
  rw [execNewtWinTimeout, dif_pos hlt, if_pos ⟨hrunning, hlate⟩, hc]

/-- The test that a window runs on a Newt core ends there. -/
theorem execWindowTestDone_newtWindow {c : Fin 16} (hrunning : s.eng.newtWin.state = 2) (hunit : s.eng.newtWin.unit = c.val) (pass : Bool)
    (n : BitVec 14) : execWindowTestDone (.newt c) pass n s = done (newtWindowEnd c pass 1 n.toNat s) :=
  if_pos ⟨hrunning, hunit⟩

/-- With no window at work, a test that ends is one a Tarn clear or a divergence has started (17 R480). -/
theorem execWindowTestDone_listed {u : TestUnit} (hnewt : s.eng.newtWin.state ≠ 2) (higu : s.eng.iguWin.state ≠ 2) (hlisted : u ∈ s.eng.tests)
    (pass : Bool) (n : BitVec 14) :
    execWindowTestDone u pass n s = done (
      if pass then testPassed u { s with eng := { s.eng with tests := s.eng.tests.filter (· != u) } }
      else testFailed u 3 1 { s with eng := { s.eng with tests := s.eng.tests.filter (· != u) } }) := by
  have hlisted : s.eng.tests.contains u = true := List.contains_iff_mem.2 hlisted
  cases u <;> simp only [execWindowTestDone, hnewt, higu, false_and, if_false, hlisted, if_true]

end Sys2Proof.Machine
end

/-! ## The random service (10 R287 to R301) -/

section
namespace Sys2Proof.Machine

variable {s : State} {i : Fin 3}

section Startup
variable (hstate : (sourceAt s i).state = 0) (hagain : (sourceAt s i).again = false) (hon : domainOn s 6 = true)
include hstate hagain hon

/-- A source that passes its start-up test at power-up enters service (R287). -/
theorem execRngStartupTestDone_pass (hrng : s.rng.state = 0) :
    execRngStartupTestDone i true s = done (modSource i (fun x => { x with state := 1, since := s.time.mono }) s) := by
  have hother : (modSource i (fun x => { x with state := 1, since := s.time.mono }) s).rng.state ≠ 2 :=
    fun h => absurd (hrng.symm.trans h) (by decide)
  simp [execRngStartupTestDone, hstate, hagain, hon, hother]

/-- A first or second failure at power-up is tried again (R293). -/
theorem execRngStartupTestDone_retry (htries : (sourceAt s i).tries < 2) :
    execRngStartupTestDone i false s = done (note 0x1C2 16 [i, 3, (sourceAt s i).tries + 1]
      (modSource i (fun x => { x with tries := x.tries + 1, cause := 3 }) s)) := by
  simp [execRngStartupTestDone, hstate, hagain, hon, htries]

/-- A third failure at power-up takes the source out and stops the start (R293). -/
theorem execRngStartupTestDone_stop (htries : (sourceAt s i).tries = 2) :
    execRngStartupTestDone i false s = done (startStop 2 30 (sourceOut i 3 3 (modSource i (fun x => { x with tries := 3 }) s))) := by
  simp [execRngStartupTestDone, hstate, hagain, hon, htries]

end Startup

/-- A source in service that fails a test counts the failure and leaves service (R287). -/
theorem execRngSourceFail_inService (hstate : (sourceAt s i).state = 1) (hon : domainOn s 6 = true) (apt : Bool) :
    execRngSourceFail i apt s = done (sourceOut i (if apt then 2 else 1) 0 (modSource i (fun x => { x with
      rctFails := if apt then x.rctFails else satAdd 0xFFFF x.rctFails 1, aptFails := if apt then satAdd 0xFFF x.aptFails 1 else x.aptFails }) s)) :=
  if_neg (by simp [hstate, hon])

/-- A block that has its credit enters the pool, or is held while that is full (R289). -/
theorem execRngBlockClose_credited (hserves : s.rng.state = 1 ∨ s.rng.state = 2)
    (hcredit : 512 * 2000 ≤ ((List.range 3).map fun i => credit s i s.rng.blockAt s.time.mono).sum) (hheld : s.rng.heldBlock = none) (raw : Bytes) :
    execRngBlockClose raw s = done (if s.rng.pool.length < 16 then poolIn raw s else modRng (fun r => { r with heldBlock := some raw }) s) := by
  have hopen : ¬ ((s.rng.state ≠ 1 ∧ s.rng.state ≠ 2) ∨
      ((List.range 3).map fun i => credit s i s.rng.blockAt s.time.mono).sum < 512 * 2000 ∨ s.rng.heldBlock.isSome = true) := by
    rintro (⟨h1, h2⟩ | hshort | hsome)
    · exact hserves.elim h1 h2
    · exact Nat.not_lt.2 hcredit hshort
    · rw [hheld] at hsome
      cases hsome
  have hcloses : execRngBlockClose raw s = _ := if_neg hopen
  rw [hcloses]
  exact (apply_ite done _ _ _).symm

@[simp] theorem seedInst_pwr (s : State) (i : Nat) : (seedInst s i).pwr = s.pwr := by
  unfold seedInst
  split <;> rfl

theorem foldl_seedInst_pwr (l : List Nat) (s : State) : (l.foldl seedInst s).pwr = s.pwr :=
  List.foldlRecOn (motive := fun t => t.pwr = s.pwr) l seedInst rfl fun t ht i _ => (seedInst_pwr t i).trans ht

/-- With a full collection, generator 260 is set up from the pool and seeds every other (R291, R301). -/
theorem execRngReady_collected (hstate : s.rng.state = 0) (hpairs : pairsReady s = true) (hoff : (instAt s 260).up = false)
    (hready : s.pwr.ready = true) (raw : Bytes) :
    execRngReady raw s = done (
      let t := (List.range 260).foldl seedInst (setInst 260 (Drbg.instantiate (conditioned raw s.rng.counter) [])
        (modRng (fun r => { r with state := 1, counter := r.counter + 1, blockAt := s.time.mono }) s))
      note 0x1C1 16 [(t.time.mono - t.rng.began) / 1000, sourceBits t] t) := by
  have hcollected : execRngReady raw s = _ := if_neg (by simp [hstate, hpairs])
  simp only [hcollected, hoff, foldl_seedInst_pwr, setInst_pwr, modRng_pwr, hready, if_true, Bool.false_eq_true, if_false]

/-- A scheduled reseed takes the oldest block for the generator in turn (R297). -/
theorem execRngReseed_scheduled {k : Nat} (hserves : rngServing s = true) (hpool : s.rng.pool ≠ []) (hnext : reseedNext s = some k) :
    execRngReseed s = done (setInst k ((instAt (poolOut s).2 k).reseed (poolOut s).1) (poolOut s).2) := by
  have hreseeds : execRngReseed s = _ := if_neg (by simp [hserves, hpool])
  simp only [hreseeds, hnext]

/-- What RNG_CTRL_RESTART does with one source: it is restarted if its bit is set and it is out of service (R287). -/
def restartSource (v : W32) (s : State) (k : Nat) : State :=
  if bitOf v.toNat k && (sourceAt s k).state == 2 then modSource k (fun x => { x with state := 0, again := true }) s else s

/-- The bits of a word that names one source. -/
theorem bitOf_ofNat_two_pow (i : Fin 3) (k : Nat) : bitOf (BitVec.ofNat 32 (2 ^ i.val)).toNat k = decide (i.val = k) := by
  have hlt : 2 ^ i.val < 2 ^ 32 := Nat.pow_lt_pow_right (by decide) (by omega)
  rw [BitVec.toNat_ofNat, Nat.mod_eq_of_lt hlt, bitOf, Nat.testBit_two_pow]

theorem restartSource_other {k : Nat} (h : i.val ≠ k) (s : State) : restartSource (BitVec.ofNat 32 (2 ^ i.val)) s k = s := by
  rw [restartSource, bitOf_ofNat_two_pow, decide_eq_false h]
  rfl

theorem restartSource_named {k : Nat} (h : i.val = k) (hout : (sourceAt s i).state = 2) :
    restartSource (BitVec.ofNat 32 (2 ^ i.val)) s k = modSource i (fun x => { x with state := 0, again := true }) s := by
  rw [restartSource, bitOf_ofNat_two_pow, decide_eq_true h, ← h, hout]
  rfl

/-- Naming one source that is out of service restarts it alone (R287). -/
theorem foldl_restartSource (hout : (sourceAt s i).state = 2) :
    (List.range 3).foldl (restartSource (BitVec.ofNat 32 (2 ^ i.val))) s = modSource i (fun x => { x with state := 0, again := true }) s := by
  show restartSource _ (restartSource _ (restartSource _ s 0) 1) 2 = _
  rcases (by omega : i.val = 0 ∨ i.val = 1 ∨ i.val = 2) with h | h | h
  · rw [restartSource_named h hout, restartSource_other (k := 1) (by omega), restartSource_other (k := 2) (by omega)]
  · rw [restartSource_other (k := 0) (by omega), restartSource_named h hout, restartSource_other (k := 2) (by omega)]
  · rw [restartSource_other (k := 0) (by omega), restartSource_other (k := 1) (by omega), restartSource_named h hout]

/-- Unless the service has stopped, a restart of one source is all that the write does (R287, R301). -/
theorem execRngCtrlRestart_one (hw : s.takesWrites) (hrng : s.rng.state ≠ 3) (hout : (sourceAt s i).state = 2) :
    execRngCtrlRestart (BitVec.ofNat 32 (2 ^ i.val)) s = done (modSource i (fun x => { x with state := 0, again := true }) s) := by
  have hfold := foldl_restartSource hout
  unfold restartSource at hfold
  have hgoes : (modSource i (fun x => { x with state := 0, again := true }) s).rng.state ≠ 3 := hrng
  rw [execRngCtrlRestart, served_takesWrites hw]
  dsimp only
  rw [hfold, if_neg fun h => hgoes h.1]

/-- Settles O49: each fault, test and step of the random service by the case it falls in. -/
theorem unitsAndRandomServiceAct : Obligations.UnitsAndRandomServiceAct := by
  unfold Obligations.UnitsAndRandomServiceAct
  refine ⟨fun s => ⟨?pinvFault, ?newtFault, ?iguFault, ?newtPeriodic, ?iguPeriodic, ?newtStart, ?iguStart, ?newtTimeout, ?newtWindow, ?listed⟩,
    fun s => ⟨?startup, ?sourceFail, ?blockClose, ?ready, ?reseed, ?restart⟩⟩
  case pinvFault => exact fun u d i q howner => execPinvUnitFault_job howner d i
  case newtFault => exact fun c d i => rfl
  case iguFault => exact fun c d i hc => execIguUnitFault_core hc d i
  case newtPeriodic => exact fun c => execNewtPeriodicTest_due
  case iguPeriodic => exact fun c => execIguPeriodicTest_due
  case newtStart => exact fun v hw hidle => execNewtWinStart_start hw hidle
  case iguStart => exact fun v hw hidle => execIguWinStart_start hw hidle
  case newtTimeout => exact fun c => execNewtWinTimeout_late
  case newtWindow => exact fun c pass n hrunning hunit => execWindowTestDone_newtWindow hrunning hunit pass n
  case listed => exact fun u pass n hnewt higu hlisted => execWindowTestDone_listed hnewt higu hlisted pass n
  case startup =>
    exact fun i hstate hagain hon => ⟨execRngStartupTestDone_pass hstate hagain hon, execRngStartupTestDone_retry hstate hagain hon,
      execRngStartupTestDone_stop hstate hagain hon⟩
  case sourceFail => exact fun i apt hstate hon => execRngSourceFail_inService hstate hon apt
  case blockClose => exact fun raw hserves hcredit hheld => execRngBlockClose_credited hserves hcredit hheld raw
  case ready => exact fun raw hstate hpairs hoff hready => execRngReady_collected hstate hpairs hoff hready raw
  case reseed => exact fun k => execRngReseed_scheduled
  case restart => exact fun i hw hrng hout _ => execRngCtrlRestart_one hw hrng hout

end Sys2Proof.Machine
end

/-! ## FF1 (07 R201; SP 800-38G) -/

section
namespace Sys2Proof.Machine

/-- A string of `m` numerals of a radix. -/
def Numerals (r m : Nat) (x : List Nat) : Prop := x.length = m ∧ ∀ d ∈ x, d < r

section Strings
variable {r m v : Nat} {x : List Nat}

theorem numVal_snoc (r : Nat) (x : List Nat) (d : Nat) : numVal r (x ++ [d]) = r * numVal r x + d := by
  rw [numVal, List.foldl_append]
  rfl

theorem numStr_numerals (hr : 0 < r) (m v : Nat) : Numerals r m (numStr r m v) := by
  induction m generalizing v with
  | zero => exact ⟨rfl, by simp [numStr]⟩
  | succ m ih =>
    obtain ⟨hlen, hlt⟩ := ih (v / r)
    refine ⟨by simp [numStr, hlen], fun d hd => ?_⟩
    rcases List.mem_append.1 hd with hd | hd
    · exact hlt d hd
    · rw [List.mem_singleton.1 hd]
      exact Nat.mod_lt v hr

theorem numVal_numStr (hv : v < r ^ m) : numVal r (numStr r m v) = v := by
  induction m generalizing v with
  | zero => exact (Nat.lt_one_iff.1 hv).symm
  | succ m ih =>
    have hdiv : v / r < r ^ m := Nat.div_lt_of_lt_mul (by rwa [Nat.pow_succ'] at hv)
    rw [numStr, numVal_snoc, ih hdiv, Nat.div_add_mod]

/-- A string of numerals stands for a number below the power of its length. -/
theorem Numerals.numVal_lt (h : Numerals r m x) : numVal r x < r ^ m := by
  obtain ⟨rfl, hlt⟩ := h
  induction x using List.reverseRecOn with
  | nil => exact Nat.one_pos
  | append_singleton x d ih =>
    have hx : numVal r x < r ^ x.length := ih fun e he => hlt e (by simp [he])
    have hd : d < r := hlt d (by simp)
    rw [numVal_snoc, List.length_append, List.length_singleton, Nat.pow_succ']
    calc r * numVal r x + d < r * (numVal r x + 1) := by rw [Nat.mul_succ]; omega
      _ ≤ r * r ^ x.length := Nat.mul_le_mul_left r hx

/-- A string of numerals is read back from the number it stands for. -/
theorem Numerals.numStr_numVal (h : Numerals r m x) : numStr r m (numVal r x) = x := by
  obtain ⟨rfl, hlt⟩ := h
  induction x using List.reverseRecOn with
  | nil => rfl
  | append_singleton x d ih =>
    have hx : numStr r x.length (numVal r x) = x := ih fun e he => hlt e (by simp [he])
    have hd : d < r := hlt d (by simp)
    have hr : 0 < r := by omega
    rw [numVal_snoc, List.length_append, List.length_singleton, numStr, Nat.mul_add_mod, Nat.mod_eq_of_lt hd, Nat.mul_add_div hr,
      Nat.div_eq_of_lt hd, Nat.add_zero, hx]

end Strings

section Rounds
variable {key tweak : Bytes} {r n i : Nat} {ab : List Nat × List Nat}

/-- The length of the half that round `i` replaces. -/
def ff1Half (n i : Nat) : Nat := if i % 2 = 0 then n / 2 else n - n / 2

/-- The halves before round `i`: strings of numerals, of the lengths that the round's parity gives. -/
def Ff1Halves (r n i : Nat) (ab : List Nat × List Nat) : Prop := Numerals r (ff1Half n i) ab.1 ∧ Numerals r (ff1Half n (i + 1)) ab.2

theorem ff1Half_add_two (n i : Nat) : ff1Half n (i + 2) = ff1Half n i := by rw [ff1Half, ff1Half, Nat.add_mod_right]

/-- Taking away what was added to a number, modulo `m`, gives the number. -/
theorem sub_mod_of_add_mod {m a y : Nat} (ha : a < m) : ((a + y) % m + m - y % m) % m = a := by
  have hy : y % m < m := Nat.mod_lt y (by omega)
  rw [← Nat.add_mod_mod]
  rcases Nat.lt_or_ge (a + y % m) m with hlt | hge
  · rw [Nat.mod_eq_of_lt hlt, show a + y % m + m - y % m = a + m by omega, Nat.add_mod_right, Nat.mod_eq_of_lt ha]
  · rw [Nat.mod_eq_sub_mod hge, Nat.mod_eq_of_lt (by omega : a + y % m - m < m), show a + y % m - m + m - y % m = a by omega,
      Nat.mod_eq_of_lt ha]

/-- A round keeps the halves strings of numerals. -/
theorem ff1Enc1_halves (hr : 0 < r) (h : Ff1Halves r n i ab) : Ff1Halves r n (i + 1) (ff1Enc1 key tweak r n ab i) :=
  ⟨h.2, (ff1Half_add_two n i).symm ▸ numStr_numerals hr _ _⟩

/-- A round of decryption undoes the round of encryption. -/
theorem ff1Dec1_ff1Enc1 (h : Ff1Halves r n i ab) : ff1Dec1 key tweak r n (ff1Enc1 key tweak r n ab i) i = ab := by
  obtain ⟨a, b⟩ := ab
  have ha : numVal r a < r ^ ff1Half n i := h.1.numVal_lt
  have hstr : numVal r (numStr r (ff1Half n i) ((numVal r a + ff1Round key tweak r n i b) % r ^ ff1Half n i)) =
      (numVal r a + ff1Round key tweak r n i b) % r ^ ff1Half n i := numVal_numStr (Nat.mod_lt _ (by omega))
  refine Prod.ext ?_ rfl
  calc numStr r (ff1Half n i) ((numVal r (numStr r (ff1Half n i) ((numVal r a + ff1Round key tweak r n i b) % r ^ ff1Half n i)) +
          r ^ ff1Half n i - ff1Round key tweak r n i b % r ^ ff1Half n i) % r ^ ff1Half n i)
      = numStr r (ff1Half n i) (numVal r a) := by rw [hstr, sub_mod_of_add_mod ha]
    _ = a := h.1.numStr_numVal

/-- The first `k` rounds of encryption. -/
def ff1Rounds (key tweak : Bytes) (r n k : Nat) (ab : List Nat × List Nat) : List Nat × List Nat :=
  (List.range k).foldl (ff1Enc1 key tweak r n) ab

theorem ff1Rounds_succ (k : Nat) :
    ff1Rounds key tweak r n (k + 1) ab = ff1Enc1 key tweak r n (ff1Rounds key tweak r n k ab) k := by
  rw [ff1Rounds, List.range_succ, List.foldl_append]
  rfl

theorem ff1Rounds_halves (hr : 0 < r) (h : Ff1Halves r n 0 ab) (k : Nat) : Ff1Halves r n k (ff1Rounds key tweak r n k ab) := by
  induction k with
  | zero => exact h
  | succ k ih => exact ff1Rounds_succ k ▸ ff1Enc1_halves hr ih

/-- The rounds of decryption, last first, undo the rounds of encryption. -/
theorem foldl_ff1Dec1_ff1Rounds (hr : 0 < r) (h : Ff1Halves r n 0 ab) (k : Nat) :
    (List.range k).reverse.foldl (ff1Dec1 key tweak r n) (ff1Rounds key tweak r n k ab) = ab := by
  induction k with
  | zero => rfl
  | succ k ih =>
    rw [ff1Rounds_succ, List.range_succ, List.reverse_append, List.foldl_append, List.reverse_singleton, List.foldl_cons, List.foldl_nil,
      ff1Dec1_ff1Enc1 (ff1Rounds_halves hr h k), ih]

end Rounds

/-- A string of numerals is cut into the halves of the first round. -/
theorem ff1Halves_cut {r : Nat} {x : List Nat} (hx : ∀ d ∈ x, d < r) :
    Ff1Halves r x.length 0 (x.take (x.length / 2), x.drop (x.length / 2)) :=
  ⟨⟨List.length_take_of_le (Nat.div_le_self _ _), fun d hd => hx d (List.mem_of_mem_take hd)⟩,
    ⟨List.length_drop, fun d hd => hx d (List.mem_of_mem_drop hd)⟩⟩

/-- FF1 decryption of two halves put together. -/
theorem ff1_dec_append {key tweak : Bytes} {r n : Nat} {c : List Nat × List Nat} (h : Ff1Halves r n 0 c) :
    ff1 false key tweak r (c.1 ++ c.2) =
      ((List.range 10).reverse.foldl (ff1Dec1 key tweak r n) c).1 ++ ((List.range 10).reverse.foldl (ff1Dec1 key tweak r n) c).2 := by
  obtain ⟨⟨hleft, _⟩, hright, _⟩ := h
  have hleft : c.1.length = n / 2 := hleft
  have hright : c.2.length = n - n / 2 := hright
  have hlen : (c.1 ++ c.2).length = n := by
    rw [List.length_append]
    omega
  rw [ff1, hlen, ← hleft, List.take_left, List.drop_left]
  rfl

/-- Settles O23: after ten rounds the halves have the lengths they began with, and each round is undone, last first. -/
theorem ff1RoundTrip : Obligations.Ff1RoundTrip := by
  unfold Obligations.Ff1RoundTrip
  intro key tweak r x hr _ hx
  have hr : 0 < r := by omega
  have hcut := ff1Halves_cut hx
  have hten : Ff1Halves r x.length 0 (ff1Rounds key tweak r x.length 10 _) := ff1Rounds_halves hr hcut 10
  exact (ff1_dec_append hten).trans
    ((congrArg (fun c => c.1 ++ c.2) (foldl_ff1Dec1_ff1Rounds hr hcut 10)).trans (List.take_append_drop _ x))

end Sys2Proof.Machine
end

/-! ## What a run that succeeds has done -/

section
namespace Sys2Proof.Machine

variable {α β : Type} {s t : State} {a : α} {r : β × State} {f : α → Cmd β}

/-- A sequence of runs that succeeds: its first part has succeeded, and the rest from there. -/
theorem Cmd.exists_of_bind_ok {x : Cmd α} (h : (x >>= f) s = .ok r) : ∃ a t, x s = .ok (a, t) ∧ f a t = .ok r := by
  rw [Cmd.bind_apply] at h
  cases hx : x s with
  | error e => rw [hx] at h; cases h
  | ok y => rw [hx] at h; exact ⟨y.1, y.2, rfl, h⟩

theorem Cmd.of_bind_ok {e : Except W16 α} (h : (Cmd.of e >>= f) s = .ok r) : ∃ a, e = .ok a ∧ f a s = .ok r := by
  cases e with
  | error st => cases h
  | ok a => exact ⟨a, rfl, h⟩

theorem Cmd.some?_bind_ok {o : Option α} {st : W16} (h : (Cmd.some? o st >>= f) s = .ok r) : ∃ a, o = some a ∧ f a s = .ok r := by
  cases o with
  | none => cases h
  | some a => exact ⟨a, rfl, h⟩

theorem Cmd.get_bind_ok {g : State → Cmd β} (h : ((get : Cmd State) >>= g) s = .ok r) : g s s = .ok r := h

theorem Cmd.need_bind_ok {b : Bool} {st : W16} {g : Unit → Cmd β} (h : (Cmd.need b st >>= g) s = .ok r) : b = true ∧ g () s = .ok r := by
  cases b with
  | false => cases h
  | true => exact ⟨rfl, h⟩

end Sys2Proof.Machine
end

/-! ## TR34_IMPORT (07 R204 to R206) -/

section
namespace Sys2Proof.Machine

variable {s s₁ t : State} {j : Job} {a b : Binding} {c : Config.Cms}

/-- A vault master that a partition takes as a parent is its own at its generation (R123). -/
theorem masterRef_eq_ok {p : Nat} {parent : ParentRef} (h : masterRef s p = .ok parent) : parent = .master (vaultAt s p).gen := by
  cases hm : (vaultAt s p).master.isSome with
  | true => exact (Except.ok.inj ((masterRef_ok hm).symm.trans h)).symm
  | false => rw [masterRef, hm] at h; cases h

/-- A job's new node is made for some place (R113). -/
theorem newNode_eq_ok {persistent : Bool} {at_ : Attrs} {parent : ParentRef} {gcm i : Nat} {m : Bytes} {n : Node}
    (h : newNode j persistent at_ parent gcm m s = .ok ((i, n), t)) : ∃ w, n = nodeFor t j.part w persistent at_ parent gcm m := by
  obtain ⟨_, h⟩ := Cmd.need_bind_ok (Cmd.get_bind_ok h)
  obtain ⟨w, u, _, h⟩ := Cmd.exists_of_bind_ok h
  cases h
  exact ⟨w, rfl⟩

/-- What TR34_IMPORT gives for node `n` at index `i`: its key result, its node and the message's entry, and event 0x161 (R205, R206). -/
def trResult (j : Job) (c : Config.Cms) (i : Nat) (n : Node) : Run :=
  { Run.creates i n [] with
    commits := [.node i n, .tr34 j.part { time := c.signingTime, digest := sha256Head 16 j.input }],
    events := [⟨0x161, j.cluster, [j.part, (nodeHandle i n.gen).toNat, leNat n.check]⟩] }

/-- A message that is taken gives a node under the vault master (R205). -/
theorem trTake_eq_ok {r : Run} (h : trTake j a c s = .ok (r, t)) :
    ∃ i w at_ m, r = trResult j c i (nodeFor t j.part w (bitOf (j.desc.par 56) 0) at_ (.master (vaultAt s j.part).gen) 0 m) := by
  obtain ⟨cek, _, h⟩ := Cmd.some?_bind_ok h
  obtain ⟨_, h⟩ := Cmd.need_bind_ok h
  obtain ⟨plain, _, h⟩ := Cmd.some?_bind_ok h
  obtain ⟨kb, _, h⟩ := Cmd.some?_bind_ok h
  obtain ⟨at_, _, h⟩ := Cmd.of_bind_ok (Cmd.get_bind_ok h)
  obtain ⟨_, h⟩ := Cmd.need_bind_ok h
  obtain ⟨_, h⟩ := Cmd.need_bind_ok (Cmd.get_bind_ok h)
  obtain ⟨parent, hparent, h⟩ := Cmd.of_bind_ok (Cmd.get_bind_ok h)
  obtain ⟨⟨i, n⟩, u, hnode, h⟩ := Cmd.exists_of_bind_ok h
  cases h
  obtain ⟨w, rfl⟩ := newNode_eq_ok hnode
  rw [masterRef_eq_ok hparent]
  exact ⟨i, w, at_, kb.key, rfl⟩

/-- The message is for key A, by a scheme that the module takes (R204). -/
def TrAddressed (c : Config.Cms) (a : Binding) : Prop :=
  (c.scheme = 3 ∨ c.scheme = 4) ∧ c.recipient = (sha256B (publicKey a.attrs.code a.material)).take 20

theorem trAddressed_iff :
    ((c.scheme == 3 || c.scheme == 4) && c.recipient == (sha256B (publicKey a.attrs.code a.material)).take 20) = true ↔ TrAddressed c a := by
  simp only [TrAddressed, Bool.and_eq_true, Bool.or_eq_true, beq_iff_eq]

/-- The message verifies under key B (R204, R205). -/
def TrVerified (c : Config.Cms) (b : Binding) : Prop :=
  c.digestOk = true ∧ Config.pkVerify c.scheme 2 b.attrs.code (publicKey b.attrs.code b.material) [] c.signedBytes c.signature = true

theorem trVerified_iff :
    (c.digestOk && Config.pkVerify c.scheme 2 b.attrs.code (publicKey b.attrs.code b.material) [] c.signedBytes c.signature) = true ↔
      TrVerified c b := by
  rw [TrVerified, Bool.and_eq_true]

section Judged
variable (hA : j.keyA = some a) (hB : j.keyB = some b)
include hA hB

theorem tr34Run_unparsed (hparse : trParse j.input = none) : tr34Run j s = .error (.fail stFormat s) := by
  simp [tr34Run, hA, hB, hparse, Cmd.some?]

variable (hparse : trParse j.input = some c)
include hparse

theorem tr34Run_notAddressed (hno : ¬ TrAddressed c a) : tr34Run j s = .error (.fail stFormat s) := by
  simp only [tr34Run, Cmd.bind_apply, hA, hB, bound_some, Cmd.of_ok, hparse, Cmd.some?_some, Bool.eq_false_iff.2 (mt trAddressed_iff.1 hno),
    Cmd.need_false]

variable (haddressed : TrAddressed c a)
include haddressed

theorem tr34Run_notVerified (hno : ¬ TrVerified c b) : tr34Run j s = .error (.fail stVerifyFail s) := by
  simp only [tr34Run, Cmd.bind_apply, hA, hB, bound_some, Cmd.of_ok, hparse, Cmd.some?_some, trAddressed_iff.2 haddressed, Cmd.need_true,
    Bool.eq_false_iff.2 (mt trVerified_iff.1 hno), Cmd.need_false]

variable (hverified : TrVerified c b) {clk : Clock} (hclock : readClock j.seq s = .ok (clk, s₁))
include hverified hclock

/-- A stale message is refused, with event 0x162 (R206, R207). -/
theorem tr34Run_stale {cause : Nat} (hstale : staleCause clk (partAt s₁ j.part) c.signingTime (sha256Head 16 j.input) = some cause) :
    tr34Run j s = .error (.fail stVerifyFail (note 0x162 j.cluster [j.part, c.signingTime, cause] s₁)) := by
  simp only [tr34Run, Cmd.bind_apply, hA, hB, bound_some, Cmd.of_ok, hparse, Cmd.some?_some, trAddressed_iff.2 haddressed,
    trVerified_iff.2 hverified, Cmd.need_true, hclock, Cmd.get_apply, hstale, Cmd.modify_apply, Cmd.fail_apply]

/-- A fresh message is taken (R205). -/
theorem tr34Run_fresh (hfresh : staleCause clk (partAt s₁ j.part) c.signingTime (sha256Head 16 j.input) = none) :
    tr34Run j s = trTake j a c s₁ := by
  simp only [tr34Run, Cmd.bind_apply, hA, hB, bound_some, Cmd.of_ok, hparse, Cmd.some?_some, trAddressed_iff.2 haddressed,
    trVerified_iff.2 hverified, Cmd.need_true, hclock, Cmd.get_apply, hfresh]

end Judged

/-- Settles O31: the run by the first step of R205 that the message fails, and what the run of a fresh message has made when it succeeds. -/
theorem tr34Imports : Obligations.Tr34Imports := by
  unfold Obligations.Tr34Imports
  refine ⟨fun s s₁ q j a b clk h hA hB hclock => congrArg done ?judged, fun s j a c => ?taken⟩
  case judged =>
    split
    next hparse => exact h.runOp_fail anyJob rfl (tr34Run_unparsed hA hB hparse)
    next c hparse =>
    split
    next hno => exact h.runOp_fail anyJob rfl (tr34Run_notAddressed hA hB hparse hno)
    next haddressed =>
    have haddressed : TrAddressed c a := not_not.1 haddressed
    split
    next hno => exact h.runOp_fail anyJob rfl (tr34Run_notVerified hA hB hparse haddressed hno)
    next hverified =>
    have hverified : TrVerified c b := not_not.1 hverified
    split
    next cause hstale => exact h.runOp_fail anyJob rfl (tr34Run_stale hA hB hparse haddressed hverified hclock hstale)
    next hfresh =>
      exact (h.runOp anyJob rfl _).trans (congrArg (finish j · s) (tr34Run_fresh hA hB hparse haddressed hverified hclock hfresh))
  case taken =>
    split
    next r _ htake =>
      obtain ⟨i, w, at_, m, rfl⟩ := trTake_eq_ok htake
      exact ⟨i, _, rfl, rfl, List.append_nil _, rfl, rfl, rfl, rfl⟩
    next => trivial

end Sys2Proof.Machine
end

/-! ## ENCRYPT and DECRYPT (08 R217 to R229) -/

section
namespace Sys2Proof.Machine

variable {s : State} {op : W16} {q : Nat} {j : Job}

/-- A due command whose pure run gives an output or a status ends with the one or the other. -/
theorem Due.runPure_output (h : Due s op q j) {f : State → Job → Except W16 Run} (e : Except W16 Bytes) :
    f s j = e.map Run.output → Machine.runPure op f q s = match e with
      | .ok out => complete j (Run.output out) s
      | .error st => failedWith j st s := by
  intro hf
  cases e with
  | ok out => exact h.runPure_ok hf
  | error st =>
    rw [h.runPure, hf]
    exact failed_eq h.doom

/-- Where the data of ENCRYPT and DECRYPT begin, after the head and the AAD (R223). -/
def dataAt (j : Job) : Nat := 48 + leField j.input 16 4

/-- The input of ENCRYPT or DECRYPT is well-formed, and its output fits (R221 to R228). -/
structure DataInput (j : Job) (a : Binding) (enc : Bool) : Prop where
  /-- The head. -/
  head : dataHeadOk (j.desc.par 56) (j.desc.par 58) enc j.input = true
  /-- The IV field. -/
  iv : ivFieldOk (j.desc.par 56) (isTdes a.attrs) enc j.input = true
  /-- The length of the data. -/
  len : dataLenOk (j.desc.par 56) (j.desc.par 57) (blockSize (isTdes a.attrs)) (byteAt j.input 15).toNat (j.input.drop (dataAt j)).length enc =
    true
  /-- The output. -/
  fits : dataOutLen (j.desc.par 56) (j.desc.par 57) (blockSize (isTdes a.attrs)) (j.desc.par 58) (j.input.drop (dataAt j)).length enc ≤
    j.desc.outCap

/-- What the mode gives under key A. -/
def dataOut (j : Job) (a : Binding) (enc : Bool) : Except W16 Bytes :=
  (if enc then encryptOut else decryptOut) (j.desc.par 56) (j.desc.par 57) (j.desc.par 58) (isTdes a.attrs) a j.input
    (slice j.input 48 (leField j.input 16 4)) (j.input.drop (dataAt j))

/-- With a well-formed input, ENCRYPT and DECRYPT give what their mode gives (R217, R229). -/
theorem dataRun_eq {a : Binding} {enc : Bool} (s : State) (hA : j.keyA = some a) (hin : DataInput j a enc) :
    dataRun enc s j = (dataOut j a enc).map Run.output := by
  obtain ⟨hhead, hiv, hlen, hfits⟩ := hin
  rw [dataAt] at hlen hfits
  have hform : (dataHeadOk (j.desc.par 56) (j.desc.par 58) enc j.input && ivFieldOk (j.desc.par 56) (isTdes a.attrs) enc j.input) = true := by
    rw [hhead, hiv, Bool.and_self]
  simp only [dataRun, dataOut, dataAt, Bind.bind, Except.bind, hA, bound_some, hform, hlen, hfits, decide_true, Bool.and_self, need_true]
  cases enc
  · rfl
  · rfl

end Sys2Proof.Machine
end

/-! ## MAC_GENERATE, MAC_VERIFY, FF1_TOKENISE and FF1_DETOKENISE (07 R199 to R202) -/

section
namespace Sys2Proof.Machine

section Runs
variable {s : State} {j : Job} {a : Binding} (hA : j.keyA = some a)
include hA

/-- MAC_GENERATE gives the first bytes of the MAC of its input (R199). -/
theorem macRun_generate {m : Bytes} (hmac : macOf (j.desc.par 56) (j.desc.par 57) (isTdes a.attrs) a.material j.input = some m) :
    macRun false j s = .ok (Run.output (m.take (j.desc.par 58)), s) := by
  simp [macRun, hA, hmac]

/-- With a well-formed input, MAC_VERIFY compares the MAC of its message with the one given (R200). -/
theorem macRun_verify {m : Bytes} (hmac : macOf (j.desc.par 56) (j.desc.par 57) (isTdes a.attrs) a.material (j.input.drop 16) = some m)
    (hlen : 16 ≤ j.input.length) (hzero : zeroAt j.input (j.desc.par 58) 16 = true) :
    macRun true j s = (do
      Cmd.need (m.take (j.desc.par 58) == j.input.take (j.desc.par 58)) stVerifyFail
      return Run.output [] : Cmd Run) s := by
  simp [macRun, hA, hmac, hlen, hzero]

/-- Both FF1 commands give the characters of their numeral string enciphered or deciphered (R201, R202). -/
theorem ff1Run_ok {x : List Nat} (enc : Bool) (hx : (j.input.drop (j.desc.par 57)).mapM (numeral (radixOf (j.desc.par 56))) = some x) :
    ff1Run enc j s =
      .ok (Run.output ((ff1 enc a.material (j.input.take (j.desc.par 57)) (radixOf (j.desc.par 56)) x).map numChar), s) := by
  simp [ff1Run, hA, hx]

end Runs

/-- Settles O22: each command's run, from a due job. -/
theorem dataCommandsAnswer : Obligations.DataCommandsAnswer := by
  unfold Obligations.DataCommandsAnswer
  refine ⟨?modes, fun s q j a hA => ⟨?generate, ?verify, ?tokens⟩⟩
  case modes =>
    intro s q j a enc hA inp mode padding tag n data hhead hiv hlen hfits
    have hrun := dataRun_eq s hA ⟨hhead, hiv, hlen, hfits⟩
    constructor
    · rintro rfl h
      exact congrArg done (h.runPure_output _ hrun)
    · rintro rfl h
      exact congrArg done (h.runPure_output _ hrun)
  case generate => exact fun m hmac h => congrArg done (h.runOp_ok anyJob rfl (macRun_generate hA hmac))
  case verify => exact fun m hmac hlen hzero h => congrArg done (h.runOp_need (macRun_verify hA hmac hlen hzero) beq_iff_eq)
  case tokens =>
    intro x hx y
    exact ⟨fun h => congrArg done (h.runOp_ok anyJob rfl (ff1Run_ok hA true hx)),
      fun h => congrArg done (h.runOp_ok anyJob rfl (ff1Run_ok hA false hx))⟩

end Sys2Proof.Machine
end

/-! ## The DUKPT commands (07 R193 to R198) -/

section
namespace Sys2Proof.Machine

/-- The length and reserved bytes of a DUKPT data command are well-formed: the bytes after the IV are zero in CBC, the whole field in ECB
(R197). -/
def dukptDataForm (j : Job) (a : Binding) : Bool :=
  decide (32 ≤ j.input.length) &&
    (if j.desc.par 56 == 2 then zeroAt j.input (16 + blockSize (workTdes a j.input)) 32 else zeroAt j.input 16 32)

/-- What a DUKPT data command gives under a working key (R198). -/
def dukptDataOut (j : Job) (a : Binding) (enc t : Bool) (k : Bytes) : Bytes :=
  if j.desc.par 56 == 2 then
    (if enc then cbcEnc else cbcDec) t k (slice j.input 16 (blockSize (workTdes a j.input))) (j.input.drop 32)
  else (if enc then ecbEnc else ecbDec) t k (j.input.drop 32)

/-- The MAC algorithm and length of a DUKPT MAC command suit its working key (R198; log entry 43). -/
def dukptMacSuits (j : Job) (a : Binding) : Bool :=
  dukptMacFits (workTdes a j.input) (j.desc.par 56) (j.desc.par 57) (if isTdes a.attrs then 16 else workLen (byteAt j.input 13).toNat)

/-- The working key that the header asks for may be derived from key A (R196, R197): of a TDES key the bytes after its serial number are zero,
and of an AES key the algorithm is one that the partition may use or that is no stronger than the key. -/
def WorkingKeyAllowed (s : State) (j : Job) (a : Binding) : Prop :=
  if isTdes a.attrs then zeroAt j.input 10 12 = true
  else (byteAt j.input 13).toNat ≤ 4 ∧
    (if workTdes a j.input then (vaultAt s j.part).tdes = true else workLen (byteAt j.input 13).toNat ≤ a.material.length)

/-- The attributes of an exported initial key (R198). -/
def initialAttrs (a : Binding) : Attrs := { Attrs.none with
  usage := chars2 'B' '1', alg := a.attrs.alg, mode := chr 'X', exp := chr 'N', mask := BitVec.ofNat 16 mKdf, version := chars2 '0' '0' }

/-- The initial key of the serial number in a job's input, under key A (R193, R194). -/
def initialKey (j : Job) (a : Binding) : Cmd Bytes :=
  if isTdes a.attrs then derived j a 0x21 (ksnBase j.input) (tdesInitial a.material j.input)
  else derived j a 0x11 (slice j.input 0 8) (aesInitial a.material (slice j.input 0 8))

/-- The input of DUKPT_INIT_EXPORT is well-formed, key B may wrap the key, and the block fits (R198). -/
structure InitExportInput (j : Job) (a b : Binding) : Prop where
  /-- Its length. -/
  len : j.input.length = 16
  /-- The bytes after the serial number are zero, and so is the counter in it. -/
  form : if isTdes a.attrs then zeroAt j.input 10 16 = true ∧ ksnCounter true j.input = 0 else zeroAt j.input 8 16 = true
  /-- The strength of key B. -/
  wraps : mayWrap b.material (initialAttrs a) a.material.length = true
  /-- The output block. -/
  fits : blockLen a.material.length ≤ j.desc.outCap

section Runs
variable {s s₁ s₂ : State} {j : Job} {a : Binding} {t enc : Bool} {k : Bytes}

/-- The state in which a transaction counter outside its limits has been noted (R193). -/
def counterNoted (j : Job) (tdes : Bool) (ksn : Bytes) (s : State) : State :=
  note 0x163 j.cluster [j.part, j.desc.opcode.toNat, beField ksn 0 4, ksnCounter tdes ksn] s

theorem checkCounter_limit {tdes : Bool} {ksn : Bytes} (h : counterOk tdes (ksnCounter tdes ksn) = false) :
    checkCounter j tdes ksn s = .error (.fail stCounterLimit (counterNoted j tdes ksn s)) := by
  simp [checkCounter, counterNoted, h]

variable (hA : j.keyA = some a)
include hA

/-- A DUKPT command whose header is well-formed and whose key is allowed stops at a counter outside its limits (R193, R208). -/
theorem dukptKey_limit {u : DukptUse} {form : Bool} (hform : form = true) (hzero : byteAt j.input 15 = 0) (hkey : WorkingKeyAllowed s j a)
    (hcount : counterOk (isTdes a.attrs) (ksnCounter (isTdes a.attrs) (slice j.input 0 12)) = false) :
    dukptKey j u form true s = .error (.fail stCounterLimit (counterNoted j (isTdes a.attrs) (slice j.input 0 12) s)) := by
  have hlimit := checkCounter_limit (j := j) (s := s) hcount
  rw [WorkingKeyAllowed] at hkey
  split at hkey
  next htdes =>
    rw [htdes] at hlimit ⊢
    simp [dukptKey, hA, hform, htdes, hzero, hkey, hlimit]
  next haes =>
    obtain ⟨halg, hkey⟩ := hkey
    have haes : isTdes a.attrs = false := Bool.eq_false_iff.2 haes
    have hkey : (if workTdes a j.input then (vaultAt s j.part).tdes else decide (workLen (byteAt j.input 13).toNat ≤ a.material.length)) =
        true := by
      cases hw : workTdes a j.input <;> simpa [hw] using hkey
    rw [haes] at hlimit ⊢
    simp [dukptKey, hA, hform, haes, hzero, hkey, hlimit]

/-- With its working key at hand and whole blocks of data, a DUKPT data command gives them enciphered or deciphered (R198). -/
theorem dukptDataRun_ok (hkey : dukptKey j ⟨false, enc⟩ (dukptDataForm j a) true s = .ok ((t, k), s₁))
    (hlen : (j.input.drop 32).length % blockSize (workTdes a j.input) = 0) :
    dukptDataRun enc j s = .ok (Run.output (dukptDataOut j a enc t k), s₁) := by
  rw [dukptDataForm] at hkey
  simp only [dukptDataRun, dukptDataOut, Cmd.bind_apply, hA, bound_some, Cmd.of_ok, hkey, hlen, beq_self_eq_true, Cmd.need_true, Cmd.pure_apply]
  cases enc <;> rfl

/-- A DUKPT data command that comes by no working key ends as the search for it does. -/
theorem dukptDataRun_noKey {e : Stop} (hkey : dukptKey j ⟨false, enc⟩ (dukptDataForm j a) true s = .error e) :
    dukptDataRun enc j s = .error e := by
  rw [dukptDataForm] at hkey
  simp only [dukptDataRun, Cmd.bind_apply, hA, bound_some, Cmd.of_ok, hkey]

/-- With its working key at hand, DUKPT_MAC_GENERATE gives the MAC of its message (R198). -/
theorem dukptMacRun_generate {m : Bytes}
    (hkey : dukptKey j ⟨true, true⟩ (decide (32 ≤ j.input.length) && zeroAt j.input 16 32) (dukptMacSuits j a) s = .ok ((t, k), s₁))
    (hmac : dukptMac t k (j.input.drop 32) (byteAt j.input 14).toNat (j.desc.par 57) = some m) :
    dukptMacRun false j s = .ok (Run.output m, s₁) := by
  rw [dukptMacSuits] at hkey
  simp [dukptMacRun, hA, hkey, hmac]

/-- With its working key at hand, DUKPT_MAC_VERIFY compares the MAC of its message with the one given (R198). -/
theorem dukptMacRun_verify {m : Bytes}
    (hkey : dukptKey j ⟨true, false⟩ (decide (48 ≤ j.input.length) && zeroAt j.input 16 32) (dukptMacSuits j a) s = .ok ((t, k), s₁))
    (hzero : zeroAt j.input (32 + j.desc.par 57) 48 = true)
    (hmac : dukptMac t k (j.input.drop 48) (byteAt j.input 14).toNat (j.desc.par 57) = some m) :
    dukptMacRun true j s = (do
      Cmd.need (m == slice j.input 32 (j.desc.par 57)) stVerifyFail
      return Run.output [] : Cmd Run) s₁ := by
  rw [dukptMacSuits] at hkey
  simp [dukptMacRun, hA, hkey, hzero, hmac]

/-- DUKPT_INIT_EXPORT gives the initial key wrapped under key B (R198). -/
theorem dukptExportRun_ok {b : Binding} {ik out : Bytes} (hB : j.keyB = some b) (hin : InitExportInput j a b)
    (hkey : initialKey j a s = .ok (ik, s₁))
    (hwrap : wrapOut j.seq j.part b.material (initialAttrs a) 0 (.node a.node a.gen) false 0 (checkValue (initialAttrs a) ik) ik s₁ =
      .ok (out, s₂)) : dukptExportRun j s = .ok (Run.output out, s₂) := by
  obtain ⟨hlen, hform, hwraps, hfits⟩ := hin
  have hform : (if isTdes a.attrs then zeroAt j.input 10 16 && ksnCounter true j.input == 0 else zeroAt j.input 8 16) = true := by
    cases ht : isTdes a.attrs <;> simpa [ht] using hform
  rw [initialKey] at hkey
  rw [initialAttrs] at hwraps hwrap
  simp only [dukptExportRun, Cmd.bind_apply, hA, hB, bound_some, Cmd.of_ok, hlen, beq_self_eq_true, hform, Bool.and_self, Cmd.need_true,
    hwraps, hfits, decide_true, hkey, hwrap, Cmd.pure_apply]

end Runs

/-- Settles O27: each command's run, from a due job. -/
theorem dukptCommandsAnswer : Obligations.DukptCommandsAnswer := by
  unfold Obligations.DukptCommandsAnswer
  refine ⟨?underKey, ?limit⟩
  case underKey =>
    intro s s₁ s₂ q j a t k hA inp n cbc iv data form l wlen fits
    refine ⟨?encrypt, ?decrypt, ?generate, ?verify, ?initExport⟩
    case encrypt => exact fun h hkey hlen => congrArg done (h.runOp_ok anyJob rfl (dukptDataRun_ok hA hkey hlen))
    case decrypt => exact fun h hkey hlen => congrArg done (h.runOp_ok anyJob rfl (dukptDataRun_ok hA hkey hlen))
    case generate => exact fun m h hkey hmac => congrArg done (h.runOp_ok anyJob rfl (dukptMacRun_generate hA hkey hmac))
    case verify =>
      exact fun m h hkey hzero hmac => congrArg done (h.runOp_need (dukptMacRun_verify hA hkey hzero hmac) beq_iff_eq)
    case initExport =>
      intro b ik out h hB hlen tdes hform at_ hwraps hfits hkey hwrap
      exact congrArg done (h.runOp_ok anyJob rfl (dukptExportRun_ok hA hB ⟨hlen, hform, hwraps, hfits⟩ hkey hwrap))
  case limit =>
    intro s q j a h hA inp n cbc tdes ksn hlen hfield hzero hallowed hcount
    have hform : dukptDataForm j a = true := by
      rw [dukptDataForm, decide_eq_true hlen, Bool.true_and]
      exact hfield
    have hrun := h.runOp_fail anyJob rfl (dukptDataRun_noKey (enc := true) hA (dukptKey_limit hA hform hzero hallowed hcount))
    rw [counterNoted, h.opcode] at hrun
    exact congrArg done hrun

end Sys2Proof.Machine
end

/-! ## PART_FREEZE and PART_THAW (11 R323, R324) -/

section
namespace Sys2Proof.Machine

variable {s : State} {j : Job}

/-- PART_FREEZE, coming first to an ACTIVE partition or again after a wait, begins the freeze and looks whether the partition is quiet (R323). -/
theorem partFreezeRun_eq (hin : j.desc.inLen = 0) (hown : j.fwd = false)
    (hmay : j.phase = .waiting ∨ partState s (j.desc.par 56) = 1 ∧ j.desc.par 56 ≠ 0) :
    partFreezeRun j s =
      if partQuiet (beginFreeze (j.desc.par 56) s) (j.desc.par 56)
      then .ok (frozenRun (beginFreeze (j.desc.par 56) s) (j.desc.par 56), beginFreeze (j.desc.par 56) s)
      else .error (.hold (beginFreeze (j.desc.par 56) s)) := by
  have hmay : (j.phase == .waiting || (partState s (j.desc.par 56) == 1 && j.desc.par 56 != 0)) = true := by simpa using hmay
  simp only [partFreezeRun, Cmd.bind_apply, noInput_ok hin, Cmd.of_ok, Cmd.get_apply, hmay, Cmd.need_true, hown, Bool.false_eq_true, if_false,
    Cmd.modify_apply]
  split <;> rfl

/-- PART_THAW of a FROZEN partition that holds no restored image gives its record thawed, with event 0x1E6 (R324). -/
theorem partThawRun_ok (hin : j.desc.inLen = 0) (hfrozen : partState s (j.desc.par 56) = 3) (hmig : (vaultAt s (j.desc.par 56)).mig ≠ 3) :
    partThawRun j s = .ok ({ Run.output [] with
      commits := [.vault (j.desc.par 56) { vaultAt s (j.desc.par 56) with frozen := false, mig := 0, lost := false }]
      events := [⟨0x1E6, 17, [j.desc.par 56, (vaultAt s (j.desc.par 56)).mig]⟩] }, s) := by
  have hmig : ((vaultAt s (j.desc.par 56)).mig != 3) = true := bne_iff_ne.2 hmig
  simp [partThawRun, noInput_ok hin, hfrozen, hmig]

end Sys2Proof.Machine
end

/-! ## TDES_SET (08 R230, R231) -/

section
namespace Sys2Proof.Machine

variable {s : State} {j : Job}

/-- A run in two parts ends by its first part where that stops, and otherwise goes on from the state that the first part leaves. -/
theorem finish_bind {α : Type} (x : Cmd α) (f : α → Cmd Run) : finish j ((x >>= f) s) s = orEnd j s (x s) fun a t => finish j (f a t) s := by
  rw [Cmd.bind_apply]
  cases x s with
  | ok y => rfl
  | error e => rfl

/-- The partition that the command names is there, ACTIVE or FROZEN (11 R309). -/
abbrev NamedThere (s : State) (j : Job) : Prop := partState s (j.desc.par 56) = 1 ∨ partState s (j.desc.par 56) = 3

theorem namedThere_iff : (partState s (j.desc.par 56) == 1 || partState s (j.desc.par 56) == 3) = true ↔ NamedThere s j := by
  rw [Bool.or_eq_true, beq_iff_eq, beq_iff_eq]

/-- Both forms give the record with the new state; a disable waits afterwards for the jobs under TDES keys (R231). -/
theorem tdesSet_ok (on : Bool) (hthere : NamedThere s j) : tdesSet on j s = .ok ({ Run.output [] with
    commits := [.vault (j.desc.par 56) { vaultAt s (j.desc.par 56) with tdes := on }]
    drain := if on then .none else .tdes
    events := [⟨0x183, 6, [j.desc.par 56, b2n on, j.seq]⟩] }, s) := by
  simp only [tdesSet, namedThere, Cmd.bind_apply, Cmd.get_apply, namedThere_iff.2 hthere, Cmd.need_true, Cmd.pure_apply]

theorem tdesSet_notThere (on : Bool) (hno : ¬ NamedThere s j) : tdesSet on j s = .error (.fail stStateReject s) := by
  simp only [tdesSet, namedThere, Cmd.bind_apply, Cmd.get_apply, Bool.eq_false_iff.2 (mt namedThere_iff.1 hno), Cmd.need_false]

/-- Disabling asks for no authorisation (R230). -/
theorem tdesDisableRun_eq (hin : j.desc.inLen = 0) : tdesDisableRun j s = tdesSet false j s := by
  rw [tdesDisableRun, noInput_ok hin]
  exact Cmd.bind_ok rfl

/-- Settles O33: a freeze by whether the partition is quiet once the freeze has begun, an enable by its authorisations and then its partition,
and the two runs that give their result at once. -/
theorem partitionsFreezeThawAndSetTdes : Obligations.PartitionsFreezeThawAndSetTdes := by
  unfold Obligations.PartitionsFreezeThawAndSetTdes
  refine ⟨fun s q j hin => ⟨fun h hmay => congrArg done ?freeze, fun h hfrozen hmig => congrArg done ?thaw⟩,
    fun s q j => ⟨fun h hform => congrArg done ?enable, fun h hform hin hthere => congrArg done ?disable⟩⟩
  case freeze =>
    have hrun := partFreezeRun_eq hin h.own hmay
    dsimp only
    split
    next hquiet => exact h.runOp_ok anyJob rfl (hrun.trans (if_pos hquiet))
    next hbusy => exact h.runOp_hold anyJob rfl (hrun.trans (if_neg hbusy))
  case thaw => exact h.runOp_ok anyJob rfl (partThawRun_ok hin hfrozen hmig)
  case enable =>
    have hsel : (j.desc.par 57 == 1) = true := beq_iff_eq.2 hform
    refine (h.runOp _ hsel _).trans ((finish_bind _ _).trans (congrArg (orEnd j s _) ?_))
    funext _ t
    split
    next hthere => exact congrArg (finish j · s) (tdesSet_ok true hthere)
    next hno => exact (congrArg (finish j · s) (tdesSet_notThere true hno)).trans (failed_eq h.doom)
  case disable =>
    have hsel : (j.desc.par 57 == 0) = true := beq_iff_eq.2 hform
    exact h.runOp_ok _ hsel ((tdesDisableRun_eq hin).trans (tdesSet_ok false hthere))

end Sys2Proof.Machine
end

/-! ## Inputs outside their range (09 R264, R265, R285) -/

section
namespace Sys2Proof.Machine

variable {s t : State} {op : W16} {q : Nat} {j : Job}

/-- The state in which a job's input has been noted as outside its range (R285). -/
def inputNoted (j : Job) (s : State) : State := note 0x1A5 j.iguCluster [j.part, j.desc.opcode.toNat] s

@[simp] theorem rejectInput_apply {α : Type} (j : Job) (s : State) :
    (rejectInput j : Cmd α) s = .error (.fail stInputRejected (inputNoted j s)) := rfl

theorem valid_ok {b : Bool} (hb : b = true) (s : State) : valid j b s = .ok ((), s) := by
  rw [hb]
  rfl

/-- A sequence of runs whose first part is a validation that does not pass. -/
theorem valid_bind_fails {α : Type} {b : Bool} {x : Unit → Cmd α} (hb : b = false) (s : State) :
    (valid j b >>= x) s = .error (.fail stInputRejected (inputNoted j s)) := by
  rw [hb]
  rfl

/-- A due command whose run finds its input outside its range ends with ST_INPUT_REJECTED and event 0x1A5 (R264). -/
theorem Due.runOp_rejected (h : Due s op q j) {f : Job → Cmd Run} (hf : f j s = .error (.fail stInputRejected (inputNoted j t))) :
    Machine.runOp op anyJob f q s = failedWith j stInputRejected (note 0x1A5 j.iguCluster [j.part, op.toNat] t) := by
  rw [h.runOp_fail anyJob rfl hf, inputNoted, h.opcode]

end Sys2Proof.Machine
end

/-! ## PK_SIGN and PK_VERIFY (09 R256 to R258, R274) -/

section
namespace Sys2Proof.Machine

variable {s s₁ s₂ : State} {j : Job} {a : Binding} {k : PubKey} {ctx m : Bytes}

/-- The input of PK_SIGN is well-formed for its scheme, and its signature fits (R255, R257). -/
structure SignInput (j : Job) (a : Binding) (ctx m : Bytes) : Prop where
  /-- The signature. -/
  fits : sigLen (j.desc.par 56) a.pub ≤ j.desc.outCap
  /-- The header. -/
  head : headOk j.input (usesContext a.pub.alg) (usesPrehash (j.desc.par 56)) false = true
  /-- The context, and the message or its digest. -/
  part : signedPart (j.desc.par 56) (j.desc.par 57) j.input (j.input.drop 8) = some (ctx, m)

/-- What PK_SIGN does, by its scheme, once its input is judged: what it draws, and the signature (R256, R274). -/
def signUnder (j : Job) (a : Binding) (ctx m : Bytes) (scheme : Nat) : Cmd Run :=
  match scheme with
  | 1 => do
    let sig ← ecdsaSign j.seq j.part a.pub.weier (beNat (slice a.material 0 (weierLen a.material))) m 8
    drawBlind j.seq (weierLen a.material)
    return Run.output sig
  | 2 => do
    drawBlind j.seq (pubLen a.pub.alg)
    return Run.output (fit (sigLen scheme a.pub) (Config.pkSign 2 0 a.pub.alg a.material ctx m []))
  | 3 => do
    drawRsaBlind j.seq (rsaLen a.pub.alg)
    return Run.output (fit (sigLen scheme a.pub) (Config.pkSign 3 (j.desc.par 57) a.pub.alg a.material [] m []))
  | 4 => do
    let salt ← draw j.seq j.part (digestLen (j.desc.par 57))
    drawRsaBlind j.seq (rsaLen a.pub.alg)
    return Run.output (fit (sigLen scheme a.pub) (Config.pkSign 4 (j.desc.par 57) a.pub.alg a.material [] m salt))
  | _ => do
    let rnd ← draw j.seq j.part 32
    return Run.output (fit (sigLen scheme a.pub) (Config.pkSign 5 0 a.pub.alg a.material ctx m rnd))

/-- With a well-formed input, PK_SIGN goes on by its scheme (R256, R257). -/
theorem pkSignRun_eq (hA : j.keyA = some a) (hin : SignInput j a ctx m) : pkSignRun j s = signUnder j a ctx m (j.desc.par 56) s := by
  obtain ⟨hfits, hhead, hpart⟩ := hin
  simp only [pkSignRun, Cmd.bind_apply, hA, bound_some, Cmd.of_ok, hfits, decide_true, hhead, Cmd.need_true, hpart, Cmd.some?_some]
  rfl

/-- A command with key A works with that key (R251). -/
theorem keyOf_bound {fits : Nat → Bool} (hA : j.keyA = some a) : keyOf j fits = .ok a.pub := by
  rw [keyOf, hA]

/-- A command without key A works with a key of the code in its header (R251, R255). -/
theorem keyOf_input {fits : Nat → Bool} (hA : j.keyA = none) (h : keyOf j fits = .ok k) : k.alg = (byteAt j.input 2).toNat := by
  simp only [keyOf, hA, need, Bind.bind, Except.bind] at h
  split at h
  next => cases h
  next =>
    cases h
    rfl

/-- The input of PK_VERIFY is well-formed for its scheme and its key (R255, R258). -/
structure VerifyInput (j : Job) (k : PubKey) (ctx m : Bytes) : Prop where
  /-- The header. -/
  head : headOk j.input (usesContext k.alg) (usesPrehash (j.desc.par 56)) j.keyA.isNone = true
  /-- The key. -/
  key : keyOf j (schemeFits (j.desc.par 56)) = .ok k
  /-- The signature. -/
  len : sigLen (j.desc.par 56) k ≤ (afterKey j).length
  /-- The context, and the message or its digest. -/
  part : signedPart (j.desc.par 56) (j.desc.par 57) j.input ((afterKey j).drop (sigLen (j.desc.par 56) k)) = some (ctx, m)

/-- The signature in the input of PK_VERIFY (R258). -/
def givenSig (j : Job) (k : PubKey) : Bytes := (afterKey j).take (sigLen (j.desc.par 56) k)

/-- With a well-formed input, PK_VERIFY judges the ranges of R265 and then the signature (R258). -/
theorem pkVerifyRun_eq (hin : VerifyInput j k ctx m) :
    pkVerifyRun j s = (do
      valid j (verifyValid (j.desc.par 56) k (givenSig j k))
      Cmd.need (sigOk (j.desc.par 56) (j.desc.par 57) k ctx m (givenSig j k)) stVerifyFail
      return Run.output [] : Cmd Run) s := by
  obtain ⟨hhead, hkey, hlen, hpart⟩ := hin
  cases hA : j.keyA with
  | some b =>
    obtain rfl := Except.ok.inj ((keyOf_bound hA).symm.trans hkey)
    rw [hA, show b.pub.alg = b.attrs.code from rfl] at hhead
    simp only [pkVerifyRun, givenSig, Cmd.bind_apply, hA, hhead, hkey, hlen, hpart, Cmd.of_ok, decide_true, Cmd.need_true,
      Cmd.some?_some]
  | none =>
    rw [hA, keyOf_input hA hkey] at hhead
    simp only [pkVerifyRun, givenSig, Cmd.bind_apply, hA, hhead, hkey, hlen, hpart, Cmd.of_ok, decide_true, Cmd.need_true, Cmd.some?_some]

/-- Settles O29: PK_SIGN by its scheme, and PK_VERIFY by the ranges of its input and then by the signature. -/
theorem signaturesAreMadeAndVerified : Obligations.SignaturesAreMadeAndVerified := by
  unfold Obligations.SignaturesAreMadeAndVerified
  refine ⟨?sign, ?verify⟩
  case sign =>
    intro s s₁ s₂ q j a ctx m h hA scheme hash k hfits hhead hpart
    have hrun := pkSignRun_eq (s := s) hA ⟨hfits, hhead, hpart⟩
    have hscheme {n : Nat} (hn : scheme = n) : pkSignRun j s = signUnder j a ctx m n s := hn ▸ hrun
    refine ⟨fun hn => ?ecdsa, fun hn hblind => ?eddsa, fun hn hblind => ?pkcs1, fun salt hn hsalt hblind => ?pss, fun rnd hn hrnd => ?lattice⟩
    case ecdsa => exact congrArg done ((h.runOp anyJob rfl _).trans (congrArg (finish j · s) (hscheme hn)))
    case eddsa => exact congrArg done (h.runOp_ok anyJob rfl ((hscheme hn).trans (Cmd.bind_ok hblind)))
    case pkcs1 => exact congrArg done (h.runOp_ok anyJob rfl ((hscheme hn).trans (Cmd.bind_ok hblind)))
    case pss => exact congrArg done (h.runOp_ok anyJob rfl ((hscheme hn).trans ((Cmd.bind_ok hsalt).trans (Cmd.bind_ok hblind))))
    case lattice => exact congrArg done (h.runOp_ok anyJob rfl ((hscheme hn).trans (Cmd.bind_ok hrnd)))
  case verify =>
    intro s q j k ctx m h scheme hash rest sig hhead hkey hlen hpart
    have hrun := pkVerifyRun_eq (s := s) ⟨hhead, hkey, hlen, hpart⟩
    refine congrArg done ?_
    split
    next hvalid => exact h.runOp_need (hrun.trans (Cmd.bind_ok (valid_ok hvalid s))) Iff.rfl
    next hvalid => exact h.runOp_rejected (hrun.trans (valid_bind_fails (Bool.eq_false_iff.2 hvalid) s))

end Sys2Proof.Machine
end

/-! ## PK_KEYPAIR (09 R259) -/

section
namespace Sys2Proof.Machine

variable {s s₁ s₂ : State} {j : Job} {a : Attrs} {m block : Bytes} {i e c : Nat}

/-- The curve that the algorithm code of PK_KEYPAIR names in the job's own copy of the slots (R251, R269). -/
def pairCurve (j : Job) : Bytes := curveRaw j.curves (j.desc.par 56)

/-- The length of the key material that PK_KEYPAIR makes (R253). -/
def pairLen (j : Job) : Nat := materialLen (j.desc.par 56) (pairCurve j)

/-- The input of PK_KEYPAIR is well-formed, its curve is there, the new key may leave under key B, and the output fits (R259). -/
structure PairInput (j : Job) (a : Attrs) : Prop where
  /-- The template. -/
  template : pairTemplate (j.desc.par 56) j.input = .ok a
  /-- A loaded curve. -/
  curve : 0x10 ≤ j.desc.par 56 → j.desc.par 56 ≤ 0x13 → pairCurve j ≠ []
  /-- The exportability that a block asks for. -/
  exports : j.keyB.isSome = true → exportable a = true
  /-- The key result, the public key and the block. -/
  fits : 16 + pubLenOf (j.desc.par 56) (pairCurve j) + (if j.keyB.isSome then blockLen (pairLen j) else 0) ≤ j.desc.outCap

/-- The block of a new pair's key material under key B, and nothing without key B (R259). -/
def pairBlock (j : Job) (a : Attrs) (parent : ParentRef) (i : Nat) (n : Node) (m : Bytes) : Cmd Bytes :=
  match j.keyB with
  | some b => wrapOut j.seq j.part b.material a 0 parent n.persistent (nodeHandle i n.gen) n.check m
  | none => pure []

theorem pairBlock_ok {parent : ParentRef} {n : Node}
    (hwrap : ∀ b, j.keyB = some b →
      wrapOut j.seq j.part b.material a 0 parent n.persistent (nodeHandle i n.gen) n.check m s = .ok (block, s₁))
    (hnone : j.keyB = none → block = [] ∧ s₁ = s) : pairBlock j a parent i n m s = .ok (block, s₁) := by
  unfold pairBlock
  cases hB : j.keyB with
  | some b => exact hwrap b hB
  | none =>
    obtain ⟨rfl, rfl⟩ := hnone hB
    rfl

/-- What PK_KEYPAIR does once its input is judged: a place, the key material, a node, and its block (R259). -/
def pairNode (j : Job) (a : Attrs) (parent : ParentRef) : Cmd Run := do
  let w ← place j (pairLen j)
  let m ← drawMaterial j (j.desc.par 56) (pairCurve j)
  let n := nodeFor (← get) j.part w (bitOf (j.desc.par 57) 0) a parent 0 m
  let block ← pairBlock j a parent w.index n m
  return Run.creates w.index n (publicKey (j.desc.par 56) m ++ block)

/-- PK_KEYPAIR makes its node under the vault master (R259). -/
theorem pkKeypairRun_eq (hin : PairInput j a) (hmaster : (vaultAt s j.part).master.isSome = true) :
    pkKeypairRun j s = pairNode j a (.master (vaultAt s j.part).gen) s := by
  obtain ⟨htemplate, hcurve, hexports, hfits⟩ := hin
  rw [pairLen] at hfits
  rw [pairCurve] at hcurve hfits
  have hcurve : (!decide (0x10 ≤ j.desc.par 56 ∧ j.desc.par 56 ≤ 0x13) || curveRaw j.curves (j.desc.par 56) != []) = true := by
    simpa only [Bool.or_eq_true, Bool.not_eq_true', decide_eq_false_iff_not, bne_iff_ne, ← imp_iff_not_or, and_imp] using hcurve
  have hexports : (j.keyB.isNone || exportable a) = true := by
    cases hB : j.keyB with
    | none => rfl
    | some b => exact hexports (by rw [hB]; rfl)
  have hdepth : depthOk s (.master (vaultAt s j.part).gen) = true := depthOk_iff.2 (Nat.zero_lt_succ 7)
  simp only [pkKeypairRun, pairNode, pairLen, pairCurve, Cmd.bind_apply, htemplate, Cmd.of_ok, hcurve, Cmd.need_true, hexports, Cmd.get_apply,
    masterRef_ok hmaster, hfits, decide_true, hdepth]
  rfl

/-- The node takes the lowest free slots with the material drawn (R111, R259). -/
theorem pairNode_ok {parent : ParentRef} (hown : j.fwd = false) (hplace : placeNode s j.part (pairLen j) = .ok (i, e, c))
    (hdraw : drawMaterial j (j.desc.par 56) (pairCurve j) s = .ok (m, s₁)) :
    let n := nodeFor s₁ j.part ⟨i, slotGen s i, e, c⟩ (bitOf (j.desc.par 57) 0) a parent 0 m
    pairBlock j a parent i n m s₁ = .ok (block, s₂) →
    pairNode j a parent s = .ok (Run.creates i n (publicKey (j.desc.par 56) m ++ block), s₂) := fun hblock =>
  (Cmd.bind_ok (place_ok hown hplace)).trans ((Cmd.bind_ok hdraw).trans ((Cmd.bind_ok (Cmd.get_apply s₁)).trans (Cmd.bind_ok hblock)))

end Sys2Proof.Machine
end

/-! ## PK_AGREE (09 R260) -/

section
namespace Sys2Proof.Machine

variable {s s₁ : State} {j : Job} {a : Binding}

/-- The length of the peer's public key, which is of key A's algorithm (R260). -/
def peerLen (a : Binding) : Nat := pubLenOf a.pub.alg a.pub.curve

/-- The peer's public key in the input of PK_AGREE (R260). -/
def peerKey (j : Job) (a : Binding) : Bytes := slice j.input 8 (peerLen a)

/-- The length of the shared secret under key A (R260). -/
def secretLen (a : Binding) : Nat := if a.pub.alg = 8 then 32 else fieldBytes a.pub.alg a.pub.curve

/-- The input of PK_AGREE is well-formed, and a shared secret that is given whole fits (R260). -/
structure AgreeInput (j : Job) (a : Binding) : Prop where
  /-- The header. -/
  head : agreeHead j.input a.pub.alg (peerLen a) = true
  /-- The length, with the KDF's information or without it. -/
  len : if j.desc.par 56 == 1 then 8 + peerLen a ≤ j.input.length ∧ j.input.length ≤ 8 + peerLen a + 256
    else j.input.length = 8 + peerLen a ∧ secretLen a ≤ j.desc.outCap

/-- What PK_AGREE gives of a shared secret: the KDF's output, or the secret itself (R260). -/
def agreeOut (j : Job) (a : Binding) (z : Bytes) : Bytes :=
  if j.desc.par 56 == 1 then oneStepKdf z (j.input.drop (8 + peerLen a)) j.desc.outCap else z

/-- With a well-formed input, PK_AGREE judges the peer's key, blinds its own, and gives the secret unless that is at infinity (R260, R265). -/
theorem pkAgreeRun_eq (hA : j.keyA = some a) (hin : AgreeInput j a) :
    pkAgreeRun j s = (valid j (peerValid a.pub (peerKey j a)) >>= fun _ => do
      drawBlind j.seq (secretLen a)
      match sharedSecret a (peerKey j a) with
      | none => rejectInput j
      | some z => return Run.output (agreeOut j a z) : Cmd Run) s := by
  obtain ⟨hhead, hlen⟩ := hin
  rw [peerLen] at hhead hlen
  rw [secretLen] at hlen
  cases hkdf : j.desc.par 56 == 1 with
  | true =>
    rw [hkdf, if_pos rfl] at hlen
    simp only [pkAgreeRun, agreeOut, Cmd.bind_apply, hA, bound_some, Cmd.of_ok, hkdf, hhead, hlen, and_self, if_true, decide_true,
      Bool.and_self, Bool.true_or, Cmd.need_true]
    rfl
  | false =>
    rw [hkdf, if_neg Bool.false_ne_true] at hlen
    obtain ⟨hlen, hfits⟩ := hlen
    simp only [pkAgreeRun, agreeOut, Cmd.bind_apply, hA, bound_some, Cmd.of_ok, hkdf, hhead, hlen, hfits, Bool.false_eq_true, if_false,
      decide_true, Bool.and_self, Bool.false_or, Cmd.need_true]
    rfl

end Sys2Proof.Machine
end

/-! ## KEM_ENCAPS and KEM_DECAPS (09 R261) -/

section
namespace Sys2Proof.Machine

variable {s s₁ : State} {j : Job}

/-- The input of KEM_ENCAPS is well-formed: nothing but the header with key A, and an encapsulation key without it (R255, R261). -/
structure KemInput (j : Job) : Prop where
  /-- The header. -/
  head : headOk j.input false false true = true
  /-- Its algorithm code, which KEM_ENCAPS takes from parameter byte 56. -/
  code : byteAt j.input 2 = 0
  /-- The input key. -/
  key : if j.keyA.isSome then leField j.input 4 4 = 0 ∧ j.input.length = 8
    else leField j.input 4 4 = pubLen (j.desc.par 56) ∧ j.input.length = 8 + pubLen (j.desc.par 56)

/-- The encapsulation key of KEM_ENCAPS: that of key A, or the one in its input (R261). -/
def encapsKey (j : Job) : Bytes :=
  fit (pubLen (j.desc.par 56)) (match j.keyA with | some b => publicKey (j.desc.par 56) b.material | none => j.input.drop 8)

/-- With a well-formed input and a key in its range, KEM_ENCAPS gives a ciphertext and its secret from the bytes it draws (R261, R265). -/
theorem kemEncapsRun_ok {m : Bytes} (hin : KemInput j) (hkey : kemKeyOk (encapsKey j) = true) (hdraw : draw j.seq j.part 32 s = .ok (m, s₁)) :
    kemEncapsRun j s = .ok (Run.output (fit (kemLen (j.desc.par 56)) (Config.kemEncaps (j.desc.par 56) (encapsKey j) m).1 ++
      fit 32 (Config.kemEncaps (j.desc.par 56) (encapsKey j) m).2), s₁) := by
  obtain ⟨hhead, hcode, hform⟩ := hin
  unfold encapsKey at hkey ⊢
  cases hA : j.keyA
  all_goals
    rw [hA] at hkey hform
    obtain ⟨hfield, hlen⟩ := hform
    simp [kemEncapsRun, hA, hhead, hcode, hfield, hlen, hdraw, valid_ok hkey]

/-- KEM_DECAPS gives the secret of a ciphertext of the right length, whatever its bytes (R261). -/
theorem kemDecapsRun_ok {a : Binding} (s : State) (hA : j.keyA = some a) (hlen : j.desc.inLen = kemLen (j.desc.par 56)) :
    kemDecapsRun s j = .ok (Run.output (fit 32 (Config.kemDecaps (j.desc.par 56) a.material j.input))) := by
  simp only [kemDecapsRun, Bind.bind, Except.bind, hA, bound_some, hlen, beq_self_eq_true, need_true]
  rfl

end Sys2Proof.Machine
end

/-! ## RSA_ENCRYPT and RSA_DECRYPT (09 R262) -/

section
namespace Sys2Proof.Machine

variable {s : State} {j : Job}

/-- The length of the label of RSA_ENCRYPT and RSA_DECRYPT (R255, R262). -/
def labelLen (j : Job) : Nat := (byteAt j.input 0).toNat

/-- The length of the digests of the OAEP encoding (R262). -/
def oaepLen (j : Job) : Nat := digestLen (oaepHash j.desc)

/-- The input of RSA_ENCRYPT is well-formed for its key, the message fits the encoding, and the ciphertext fits (R255, R262). -/
structure EncryptInput (j : Job) (k : PubKey) : Prop where
  /-- The header. -/
  head : headOk j.input true false j.keyA.isNone = true
  /-- The key. -/
  key : keyOf j isRsa = .ok k
  /-- The label. -/
  label : labelLen j ≤ (afterKey j).length
  /-- The message. -/
  message : (afterKey j).length - labelLen j + 2 * oaepLen j + 2 ≤ rsaLen k.alg
  /-- The ciphertext. -/
  fits : rsaLen k.alg ≤ j.desc.outCap

/-- With a well-formed input, RSA_ENCRYPT judges its key and enciphers the message with a drawn seed (R262, R265). -/
theorem rsaEncryptRun_eq {k : PubKey} (hin : EncryptInput j k) :
    rsaEncryptRun j s = (valid j (rsaKeyOk k) >>= fun _ => do
      let seed ← draw j.seq j.part (oaepLen j)
      return Run.output (fit (rsaLen k.alg) (Config.oaepEncrypt (oaepHash j.desc) k.pub ((afterKey j).take (labelLen j))
        ((afterKey j).drop (labelLen j)) seed)) : Cmd Run) s := by
  obtain ⟨hhead, hkey, hlabel, hmessage, hfits⟩ := hin
  rw [labelLen] at hlabel
  rw [labelLen, oaepLen] at hmessage
  simp only [rsaEncryptRun, Cmd.bind_apply, hhead, Cmd.need_true, hkey, Cmd.of_ok, hlabel, hmessage, hfits, and_self, decide_true]
  rfl

/-- The length of the longest message that an OAEP encoding under an RSA key holds (R262). -/
def oaepRoom (j : Job) (k : PubKey) : Nat := rsaLen k.alg - 2 * oaepLen j - 2

/-- The ciphertext of RSA_DECRYPT, after its header and its label (R262). -/
def givenCiphertext (j : Job) : Bytes := j.input.drop (8 + labelLen j)

/-- The input of RSA_DECRYPT is well-formed, and the longest message fits (R255, R262). -/
structure DecryptInput (j : Job) (k : PubKey) : Prop where
  /-- The message. -/
  fits : oaepRoom j k ≤ j.desc.outCap
  /-- The header. -/
  head : headOk j.input true false false = true
  /-- Its length. -/
  len : j.input.length = 8 + labelLen j + rsaLen k.alg

/-- With a well-formed input, RSA_DECRYPT judges key and ciphertext, blinds its key, and gives the message where the encoding is right
(R262, R265). -/
theorem rsaDecryptRun_eq {a : Binding} (hA : j.keyA = some a) (hin : DecryptInput j a.pub) :
    rsaDecryptRun j s = (valid j (rsaKeyOk a.pub && rsaRange a.pub (givenCiphertext j)) >>= fun _ => do
      drawRsaBlind j.seq (rsaLen a.pub.alg)
      match Config.oaepDecrypt (oaepHash j.desc) a.material (slice j.input 8 (labelLen j)) (givenCiphertext j) with
      | some m => return Run.output (m.take (oaepRoom j a.pub))
      | none => rejectInput j : Cmd Run) s := by
  obtain ⟨hfits, hhead, hlen⟩ := hin
  rw [oaepRoom, oaepLen] at hfits
  rw [labelLen] at hlen
  simp only [rsaDecryptRun, Cmd.bind_apply, hA, bound_some, Cmd.of_ok, hfits, decide_true, Cmd.need_true, hhead, hlen, beq_self_eq_true,
    Bool.and_self]
  rfl

end Sys2Proof.Machine
end

/-! ## CURVE_LOAD (09 R267 to R269) -/

section
namespace Sys2Proof.Machine

variable {s : State} {j : Job}

/-- CURVE_LOAD with no field bits clears its slot, with event 0x1A6 (R269; log entry 104). -/
theorem curveLoadRun_clears (hbits : leField j.input 0 2 = 0) (hlen : j.input.length = 8) (hzero : zeroAt j.input 3 8 = true) :
    curveLoadRun j s = .ok ({ Run.output (sha256Head 8 (j.input.drop 8)) with
      commits := [.curve j.part (j.desc.par 56) none], events := [⟨0x1A6, j.iguCluster, [j.part, j.desc.par 56]⟩] }, s) := by
  simp only [curveLoadRun, hbits, hlen, and_self, if_true, Cmd.bind_apply, hzero, Cmd.need_true, Cmd.pure_apply]

section Judged
variable (hlayout : curveLayout j.input = true)
include hlayout

/-- A curve has field bits (R267). -/
theorem fieldBits_ne_zero_of_curveLayout : leField j.input 0 2 ≠ 0 := by
  rw [curveLayout, Bool.and_eq_true, decide_eq_true_iff] at hlayout
  obtain ⟨⟨hbits, -⟩, -⟩ := hlayout
  omega

/-- A curve that fails a check of R268 is refused, with event 0x1A4. -/
theorem curveLoadRun_refused {cause : Nat} (hcause : curveCause j.input = some cause) :
    curveLoadRun j s = .error (.fail stInputRejected (note 0x1A4 j.iguCluster [j.part, j.desc.par 56, cause] s)) := by
  simp only [curveLoadRun, fieldBits_ne_zero_of_curveLayout hlayout, false_and, if_false, Cmd.bind_apply, hlayout, Cmd.need_true, hcause,
    Cmd.modify_apply, Cmd.fail_apply]

/-- A curve that passes the checks of R268 goes into its slot, with event 0x1A3 (R267). -/
theorem curveLoadRun_loads (hpass : curveCause j.input = none) :
    curveLoadRun j s = .ok ({ Run.output (curveOf j.input).digest with
      commits := [.curve j.part (j.desc.par 56) (some (curveOf j.input))]
      events := [⟨0x1A3, j.iguCluster, [j.part, j.desc.par 56, leNat (curveOf j.input).digest]⟩] }, s) := by
  simp only [curveLoadRun, fieldBits_ne_zero_of_curveLayout hlayout, false_and, if_false, Cmd.bind_apply, hlayout, Cmd.need_true, hpass,
    Cmd.pure_apply]

end Judged

end Sys2Proof.Machine
end

/-! ## What the public-key commands answer -/

section
namespace Sys2Proof.Machine

/-- Settles O30: each command's run from a due job, by the checks of R265 where it has them. -/
theorem publicKeyCommandsAnswer : Obligations.PublicKeyCommandsAnswer := by
  unfold Obligations.PublicKeyCommandsAnswer
  refine ⟨fun s s₁ s₂ q j => ⟨?keypair, ?agree⟩, fun s s₁ q j => ⟨?encaps, ?decaps, ?rsaEncrypt, ?rsaDecrypt, ?curve⟩⟩
  case keypair =>
    intro a i e c m block h alg curve htemplate hcurve hexports hmaster hfits hplace hdraw n hwrap hnone
    have hrun := pkKeypairRun_eq ⟨htemplate, hcurve, hexports, hfits⟩ hmaster
    exact congrArg done (h.runOp_ok anyJob rfl (hrun.trans (pairNode_ok h.own hplace hdraw (pairBlock_ok hwrap hnone))))
  case agree =>
    intro a h hA n kdf1 zlen rejected hhead hlen hblind
    have hrun := pkAgreeRun_eq (s := s) hA ⟨hhead, hlen⟩
    refine congrArg done ?_
    split
    next hbad => exact h.runOp_rejected (hrun.trans (valid_bind_fails hbad s))
    next hgood =>
    have hrun := hrun.trans ((Cmd.bind_ok (valid_ok (Bool.of_not_eq_false hgood) s)).trans (Cmd.bind_ok hblind))
    split
    next hz =>
      have hz : sharedSecret a (peerKey j a) = none := hz
      rw [hz] at hrun
      exact h.runOp_rejected (hrun.trans (rejectInput_apply j s₁))
    next z hz =>
      have hz : sharedSecret a (peerKey j a) = some z := hz
      rw [hz] at hrun
      exact h.runOp_ok anyJob rfl hrun
  case encaps =>
    intro m h set n ek hhead hcode hform hkey hdraw
    exact congrArg done (h.runOp_ok anyJob rfl (kemEncapsRun_ok ⟨hhead, hcode, hform⟩ hkey hdraw))
  case decaps => exact fun a h hA hlen => congrArg done (h.runPure_ok (kemDecapsRun_ok s hA hlen))
  case rsaEncrypt =>
    intro k seed h rest l hl hhead hkey hlabel hmessage hfits hdraw
    have hrun := rsaEncryptRun_eq (s := s) ⟨hhead, hkey, hlabel, hmessage, hfits⟩
    refine congrArg done ?_
    split
    next hbad => exact h.runOp_rejected (hrun.trans (valid_bind_fails hbad s))
    next hgood =>
      exact h.runOp_ok anyJob rfl (hrun.trans ((Cmd.bind_ok (valid_ok (Bool.of_not_eq_false hgood) s)).trans (Cmd.bind_ok hdraw)))
  case rsaDecrypt =>
    intro a h hA n l ct room hfits hhead hlen hblind
    have hrun := rsaDecryptRun_eq (s := s) hA ⟨hfits, hhead, hlen⟩
    refine congrArg done ?_
    split
    next hbad => exact h.runOp_rejected (hrun.trans (valid_bind_fails hbad s))
    next hgood =>
    have hrun := hrun.trans ((Cmd.bind_ok (valid_ok (Bool.of_not_eq_false hgood) s)).trans (Cmd.bind_ok hblind))
    split
    next m hm =>
      have hm : Config.oaepDecrypt (oaepHash j.desc) a.material (slice j.input 8 (labelLen j)) (givenCiphertext j) = some m := hm
      rw [hm] at hrun
      exact h.runOp_ok anyJob rfl hrun
    next hm =>
      have hm : Config.oaepDecrypt (oaepHash j.desc) a.material (slice j.input 8 (labelLen j)) (givenCiphertext j) = none := hm
      rw [hm] at hrun
      exact h.runOp_rejected (hrun.trans (rejectInput_apply j s₁))
  case curve =>
    intro h raw slot bits cofactor
    refine ⟨fun hbits hlen hzero => ?clears, fun h224 h521 h1 h8 hlen hzero => congrArg done ?judged⟩
    case clears => exact congrArg done (h.runOp_ok anyJob rfl (curveLoadRun_clears hbits hlen hzero))
    case judged =>
      have hlayout : curveLayout j.input = true := by
        rw [curveLayout, Bool.and_eq_true, decide_eq_true_iff]
        exact ⟨⟨h224, h521, h1, h8, hlen⟩, hzero⟩
      split
      next cause hcause => exact h.runOp_fail anyJob rfl (curveLoadRun_refused hlayout hcause)
      next hpass => exact h.runOp_ok anyJob rfl (curveLoadRun_loads hlayout hpass)

end Sys2Proof.Machine
end

/-! ## PART_CREATE, PART_CONFIGURE and PART_DESTROY (11 R313 to R316, R322) -/

section
namespace Sys2Proof.Machine

variable {s : State} {op : W16} {q : Nat} {j : Job}

/-- A due command ends as its run does, whatever that is worked out to be. -/
theorem Due.runOp_eq (h : Due s op q j) {f : Job → Cmd Run} {r : Except Stop (Run × State)} (hf : f j s = r) :
    Machine.runOp op anyJob f q s = finish j r s := by
  rw [h.runOp anyJob rfl, hf]

/-- A run in two parts, whatever state it goes on from, ends by its first part where that stops, and otherwise goes on from the state that the
first part leaves. -/
theorem finish_bind_at {α : Type} (x : Cmd α) (f : α → Cmd Run) (s t : State) :
    finish j ((x >>= f) t) s = orEnd j s (x t) fun a u => finish j (f a u) s := by
  rw [Cmd.bind_apply]
  cases x t with
  | ok y => rfl
  | error e => rfl

/-! ### PART_CREATE -/

/-- What PART_CREATE gives for a record and a master: the partition at generation 1, with event 0x1E1 (R315). -/
def createdRun (j : Job) (c : PartCfg) (m : Bytes) : Run := { Run.output [] with
  commits := [.vault (j.desc.par 56) { VaultPart.absent with exists_ := true, master := some m, gen := 1 }, .config (j.desc.par 56) c]
  change := none
  events := [⟨0x1E1, 17, [j.desc.par 56, j.seq]⟩] }

/-- What is left of PART_CREATE once it is authorised: the record is judged and the master drawn. -/
def createAuthorised (j : Job) : Cmd Run := do
  let c ← Cmd.of (judgeCfg (← get) (j.desc.par 56) (j.input.take 64))
  let m ← draw j.seq 256 32
  return createdRun j c m

/-- PART_CREATE of an absent partition, with a whole record, is authorised first. -/
theorem partCreateRun_eq (habsent : existsPart s (j.desc.par 56) = false) (hlen : 64 ≤ j.input.length) :
    partCreateRun j s = (judge j 4 64 (actionDigest j 64) none >>= fun _ => createAuthorised j) s := by
  simp only [partCreateRun, createAuthorised, createdRun, Cmd.bind_apply, Cmd.get_apply, decide_eq_true hlen, Cmd.need_true, habsent, Bool.not_false]

/-- Authorised, PART_CREATE ends by its record, and by the draw of the master. -/
theorem finish_createAuthorised (hd : j.doom = none) (s t : State) :
    finish j (createAuthorised j t) s = match judgeCfg t (j.desc.par 56) (j.input.take 64) with
      | .error st => failedWith j st t
      | .ok c => orEnd j s (draw j.seq 256 32 t) fun m u => complete j (createdRun j c m) u := by
  rw [createAuthorised, Cmd.bind_apply, Cmd.get_apply]
  dsimp only
  cases judgeCfg t (j.desc.par 56) (j.input.take 64) with
  | error st => exact failed_eq hd
  | ok c => exact finish_bind_at (draw j.seq 256 32) (fun m => pure (createdRun j c m)) s t

/-! ### PART_CONFIGURE -/

/-- What PART_CONFIGURE gives for a record: it is committed, and the command completes once the jobs before have (R314). -/
def configuredRun (j : Job) (c : PartCfg) : Run := { Run.output [] with
  commits := [.config (j.desc.par 56) c], drain := .all
  events := [⟨0x1E3, 17, [j.desc.par 56, leField (sha256Head 4 j.input) 0 4]⟩] }

/-- PART_CONFIGURE of an ACTIVE partition, with a record of its length, ends by the record (R313, R314). -/
theorem partConfigureRun_eq (hactive : partState s (j.desc.par 56) = 1) (hlen : j.input.length = 64) :
    partConfigureRun j s = (Cmd.of (judgeCfg s (j.desc.par 56) j.input) >>= fun c => pure (configuredRun j c)) s := by
  simp only [partConfigureRun, namedThere, Cmd.bind_apply, Cmd.get_apply, hactive, hlen, beq_self_eq_true, Bool.true_or, Cmd.need_true]
  rfl

/-! ### PART_DESTROY -/

/-- Once its partition's work is stopped, PART_DESTROY ends, with the vault record gone, or waits until no job is left (R316, R322). -/
def destroyStopped (p : Nat) : Cmd Run := do
  let t ← get
  if partStopped t p then return destroyed t p VaultPart.absent [] else Cmd.hold

theorem finish_destroyStopped (p : Nat) (s t : State) :
    finish j (destroyStopped p t) s = if partStopped t p then complete j (destroyed t p VaultPart.absent []) t
      else modJob j.seq (fun x => { x with phase := .waiting }) t := by
  rw [destroyStopped, Cmd.bind_apply]
  dsimp only [Cmd.get_apply]
  split <;> rfl

/-- A PART_DESTROY that has waited looks again whether the work is stopped. -/
theorem partDestroyRun_waited (hwaits : j.phase = .waiting) (hbegun : (partAt s (j.desc.par 56)).destroying = true) :
    partDestroyRun j s = destroyStopped (j.desc.par 56) s := by
  simp only [partDestroyRun, destroyStopped, Cmd.bind_apply, Cmd.get_apply, hwaits, hbegun, beq_self_eq_true, Bool.and_self, if_true]

/-- A PART_DESTROY of an ACTIVE partition other than 0 that has not waited is authorised first, and then stops the partition's work. -/
theorem partDestroyRun_first (hfirst : j.phase ≠ .waiting) (hactive : partState s (j.desc.par 56) = 1) (hp : j.desc.par 56 ≠ 0)
    (hown : j.fwd = false) : partDestroyRun j s = (judge j 4 0 (actionDigest j 0) none >>= fun _ => do
      modify (beginDestroy (j.desc.par 56))
      destroyStopped (j.desc.par 56)) s := by
  simp only [partDestroyRun, destroyStopped, Cmd.bind_apply, Cmd.get_apply, beq_eq_false_iff_ne.2 hfirst, Bool.false_and, Bool.false_eq_true,
    if_false, hactive, beq_self_eq_true, bne_iff_ne.2 hp, Bool.and_self, Cmd.need_true, hown, Cmd.modify_apply]

/-- Settles O32: a creation by its authorisations, its record and the draw, a configuration by its record, and a destruction, once authorised, by
whether the work of the partition is stopped. -/
theorem partitionsAreMadeAndDestroyed : Obligations.PartitionsAreMadeAndDestroyed := by
  unfold Obligations.PartitionsAreMadeAndDestroyed
  refine ⟨fun s q j => ⟨fun h habsent hlen => congrArg done ?create, fun h hactive hlen => congrArg done ?configure⟩, ?destroy⟩
  case create =>
    refine (h.runOp_eq (partCreateRun_eq habsent hlen)).trans ((finish_bind _ _).trans (congrArg (orEnd j s _) ?_))
    exact funext fun _ => funext fun t => finish_createAuthorised h.doom s t
  case configure =>
    have hrun := partConfigureRun_eq hactive hlen
    dsimp only
    split
    next st hjudge => exact h.runOp_fail anyJob rfl (by rw [hrun, hjudge]; rfl)
    next c hjudge => exact h.runOp_ok anyJob rfl (by rw [hrun, hjudge]; rfl)
  case destroy =>
    intro s q j h p gone
    have hgone (t : State) : finish j (destroyStopped p t) s = gone t := by
      rw [finish_destroyStopped, h.seq]
    refine ⟨fun hwaits hbegun => congrArg done ?again, fun hfirst hactive hp => congrArg done ?first⟩
    case again => exact (h.runOp_eq (partDestroyRun_waited hwaits hbegun)).trans (hgone s)
    case first =>
      refine (h.runOp_eq (partDestroyRun_first hfirst hactive hp h.own)).trans ((finish_bind _ _).trans (congrArg (orEnd j s _) ?_))
      funext _ t
      exact (congrArg (finish j · s) (Cmd.bind_ok (Cmd.modify_apply _ t))).trans (hgone _)

end Sys2Proof.Machine
end

/-! ## Resets of partitions and functions, and the DMA of a function (11 R308, R319, R320; 20 R539) -/

section
namespace Sys2Proof.Machine

variable {s : State} {p : Fin 256}

/-- A function-level reset of a virtual function resets its partition (R319). -/
theorem execVfFlr_virtual (hp : p.val ≠ 0) : execVfFlr p s = done (startReset p 1 (resetFunction p s)) := if_neg hp

section RegisterWrites
variable {v : W32} (hw : s.takesWrites) (hreset : v.getLsbD 0 = true)
include hw hreset

/-- RESET, written by a function itself, resets its partition (R319). -/
theorem execPartVfCtrlReset_reset : execPartVfCtrlReset p v s = done (startReset p 2 s) := by
  rw [execPartVfCtrlReset, served_takesWrites hw, if_pos hreset]

/-- RESET, written by partition 0, resets the selected partition, if that is another (R319, R338). -/
theorem execPartCtrlReset_reset (hsel : s.sys.partSel ≠ 0) : execPartCtrlReset v s = done (startReset s.sys.partSel 2 s) := by
  rw [execPartCtrlReset, served_takesWrites hw, if_pos ⟨hreset, hsel⟩]

end RegisterWrites

/-- What the reset of partition `p` leaves of the partition's work: its cache entries are flushed, its rings return to their reset values, and a
dump that fell due is written (R320 steps 5 and 6; 18 R503). -/
def resetFlushed (p : Nat) (s : State) : State :=
  dropHalves p (owedDump p (resetRings p { s with mas := { s.mas with cache := s.mas.cache.filter fun e => e.part != p } }))

/-- With the partition's jobs stopped, a reset that no register write began is done, with event 0x1E4 and no error (R320). -/
theorem execPartResetDone_stopped {r : ResetRun} (hrun : (partAt s p).resetting = some r) (hstopped : partStopped s p = true)
    (hcause : r.cause ≠ 2) : execPartResetDone p s = done (
      let t := modPart p (fun x => { x.regsReset with resetting := none, errResetDone := false }) (resetFlushed p s)
      note 0x1E4 17 [p, r.cause, r.ended, (t.time.mono - r.t0) / 1000] t) := by
  simp only [execPartResetDone, hrun, hstopped, Bool.not_true, Bool.false_eq_true, if_false, beq_eq_false_iff_ne.2 hcause, if_neg hcause,
    resetFlushed]

end Sys2Proof.Machine
end

/-! ## Sessions, cell windows and the key store that run out (12 R340, R352, R358) -/

section
namespace Sys2Proof.Machine

variable {s : State}

/-- A session of 300 s is closed (R352). -/
theorem execSessionExpiry_old {c : Fin 32} {x : Session} (hopen : sessionAt s c = some x) (hold : 300 * 10 ^ 9 + x.opened ≤ s.time.mono) :
    execSessionExpiry c s = done (setSession c none s) := by
  simp only [execSessionExpiry, hopen, if_pos hold]

/-- With main power, a window that has run out closes with event 0x20A, and each cell of it that is away counts as removed with no window over
it (R358). -/
theorem execCellWindowExpiry_runOut {w : CellWindow} (hopen : s.vault.window = some w) (hold : w.until_ ≤ s.time.mono)
    (hmain : s.pwr.main = true) : execCellWindowExpiry s = done (
      let t := note 0x20A 18 [2, w.cells, w.secs] { s with vault := { s.vault with window := none } }
      let away (b : Bool) : Bool := w.cells.testBit (b2n b) && !(cellAt t b).present
      let u := if away false then oneAbsent t else t
      if away true then oneAbsent u else u) := by
  simp only [execCellWindowExpiry, hopen, if_neg (Nat.not_lt.2 hold), hmain, if_true]

/-- With main power, a key store that matches nothing is erased (R340). -/
theorem execCustodianKeyStoreErase_marked (hmarked : s.nv.keyStoreErase = true) (hmain : s.pwr.main = true) :
    execCustodianKeyStoreErase s = done { s with nv := { s.nv with keyStore := [], keyStoreErase := false } } := by
  rw [execCustodianKeyStoreErase, hmarked, hmain]
  rfl

/-- Settles O50: each reset by what begins it and by the end of the partition's work, each switch of a function's DMA, and each thing that runs
out by its moment. -/
theorem partitionsResetAndThingsExpire : Obligations.PartitionsResetAndThingsExpire := by
  unfold Obligations.PartitionsResetAndThingsExpire
  intro s
  refine ⟨fun _ => execVfFlr_virtual, ?pfFlr, ?vfEnableClear, fun _ _ => execPartVfCtrlReset_reset, fun _ => execPartCtrlReset_reset,
    fun _ _ => execPartResetDone_stopped, ?bmeClear, ?bmeSet, ?d3hotEntry, ?d3hotExit, ?challenges, fun _ _ => execSessionExpiry_old,
    fun _ => execCellWindowExpiry_runOut, execCustodianKeyStoreErase_marked⟩
  case pfFlr => rfl
  case vfEnableClear => rfl
  case bmeClear => exact fun _ => rfl
  case bmeSet => exact fun _ => rfl
  case d3hotEntry => exact fun _ => rfl
  case d3hotExit => exact fun _ => rfl
  case challenges => rfl

end Sys2Proof.Machine
end

/-! ## Accepted authorisation lists (12 R341 to R343, R349) -/

section
namespace Sys2Proof.Machine

variable {s t : State} {j : Job} {cls : Nat} {dig : Bytes} {new : Option (Nat × Byte × Bytes)}

@[simp] theorem scree_vault (e : Ev) (s : State) : (scree e s).vault = s.vault := by
  unfold scree
  dsimp only
  repeat' split
  all_goals rfl

@[simp] theorem note_vault (c k : Nat) (l : List Nat) (s : State) : (note c k l s).vault = s.vault := scree_vault _ s

/-- Any job's sharing, an own job's or a copy's, changes jobs and frames alone. -/
theorem share_eq_ok {q n : Nat} {f : State → Bytes} {b : Bytes} (h : share q n (fun s => (f s, s)) s = .ok (b, t)) : JobsAndFramesOnly s t := by
  unfold share at h
  split at h
  next => cases h
  next j hj =>
    split at h
    next =>
      cases h
      exact ⟨_, _, _, rfl⟩
    next =>
      split at h
      next =>
        split at h
        next => split at h <;> cases h
        next =>
          cases h
          exact (FramesOnly.refl s).modJob q _
      next =>
        cases h
        exact (sendRandom_framesOnly q j.part j.randomOff _ s).modJob q _

theorem readClock_eq_ok {q : Nat} {c : Clock} (h : readClock q s = .ok (c, t)) : JobsAndFramesOnly s t := by
  obtain ⟨b, u, hshare, hpure⟩ := Cmd.exists_of_bind_ok h
  have hu : u = t := congrArg Prod.snd (Except.ok.inj hpure)
  exact hu ▸ share_eq_ok hshare

/-! ### The statements counted (R349) -/

/-- A check that names a cause has passed when no cause is named, and the checks after it have too. -/
theorem of_ite_some_eq_none {α : Type} {p : Prop} [Decidable p] {a : α} {o : Option α} (h : (if p then some a else o) = none) :
    ¬ p ∧ o = none := by
  split at h
  next => cases h
  next hp => exact ⟨hp, h⟩

/-- A statement that counts names the class and the action, and verifies under its custodian's key; its custodian has not counted yet. -/
theorem stmtCause_eq_none {x : AuthCtx} {key : Nat → Option (Byte × Bytes)} {seen : List Nat} {b : Bytes} (h : stmtCause x key seen b = none) :
    (byteAt b 2).toNat = x.cls ∧ slice b 52 48 = x.dig ∧
      (∃ alg pub, key (byteAt b 3).toNat = some (alg, pub) ∧ custVerify alg pub (b.take 128) (b.drop 128) = true) ∧
      (byteAt b 3).toNat ∉ seen := by
  obtain ⟨hform, h⟩ := of_ite_some_eq_none h
  obtain ⟨_, h⟩ := of_ite_some_eq_none h
  obtain ⟨_, h⟩ := of_ite_some_eq_none h
  obtain ⟨hdig, h⟩ := of_ite_some_eq_none h
  obtain ⟨_, h⟩ := of_ite_some_eq_none h
  split at h
  next => cases h
  next alg pub hkey =>
    obtain ⟨hverify, h⟩ := of_ite_some_eq_none h
    obtain ⟨hseen, _⟩ := of_ite_some_eq_none h
    simp only [not_or, not_not] at hform hdig
    exact ⟨hform.2.2.1, hdig, ⟨alg, pub, hkey, by simpa using hverify⟩, by simpa using hseen⟩

/-- Distinct custodians, each with a statement of its own that counts under its key. -/
def Counted (x : AuthCtx) (key : Nat → Option (Byte × Bytes)) (l : List Nat) : Prop :=
  l.Nodup ∧ ∀ c ∈ l, ∃ alg pub b, key c = some (alg, pub) ∧ (byteAt b 3).toNat = c ∧ (byteAt b 2).toNat = x.cls ∧ slice b 52 48 = x.dig ∧
    custVerify alg pub (b.take 128) (b.drop 128) = true

theorem Counted.snoc {x : AuthCtx} {key : Nat → Option (Byte × Bytes)} {seen : List Nat} {b : Bytes} (h : Counted x key seen)
    (hb : stmtCause x key seen b = none) : Counted x key (seen ++ [(byteAt b 3).toNat]) := by
  obtain ⟨hdistinct, hseen⟩ := h
  obtain ⟨hcls, hdig, ⟨alg, pub, hkey, hverify⟩, hfresh⟩ := stmtCause_eq_none hb
  refine ⟨List.nodup_append.2 ⟨hdistinct, List.nodup_singleton _, ?_⟩, fun c hc => ?_⟩
  · rintro c hc _ hd rfl
    exact hfresh (List.mem_singleton.1 hd ▸ hc)
  · rcases List.mem_append.1 hc with hc | hc
    · exact hseen c hc
    · obtain rfl := List.mem_singleton.1 hc
      exact ⟨alg, pub, b, hkey, rfl, hcls, hdig, hverify⟩

theorem countStmts_counted {x : AuthCtx} {key : Nat → Option (Byte × Bytes)} (stmts : List Bytes) :
    ∀ {seen : List Nat} (first : Option Nat), Counted x key seen → Counted x key (countStmts x key seen first stmts).1 := by
  induction stmts with
  | nil => exact fun _ h => h
  | cons b r ih =>
    intro seen first h
    rw [countStmts]
    cases hcause : stmtCause x key seen b with
    | none => exact ih first (h.snoc hcause)
    | some c => exact ih _ h

/-! ### What a list is accepted for (R341 to R343) -/

/-- The key that a custodian's statement is checked with: the one being enrolled, or the one stored (R341). -/
def listKey (s : State) (new : Option (Nat × Byte × Bytes)) (c : Nat) : Option (Byte × Bytes) :=
  let own := (enrolled s c).map fun e => (e.alg, custPub s c)
  match new with
  | some (k, a, pub) => if c = k then some (a, pub) else own
  | none => own

/-- The custodians that count towards a rule: not the one whose key is being enrolled (R342). -/
def countingFor (new : Option (Nat × Byte × Bytes)) (l : List Nat) : List Nat :=
  match new with
  | some (k, _, _) => l.filter (· != k)
  | none => l

/-- Custodians who authorise an action of a class: they meet its rule, or, for an enrolment while too few are enrolled, they are all there are. -/
def Quorum (s : State) (cls : Nat) (new : Option (Nat × Byte × Bytes)) (l : List Nat) : Prop :=
  meets (ruleAt s cls) (l.filterMap fun c => (custEntry s c).map (·.group)) = true ∨
    cls = 1 ∧ bootstrap s = true ∧ ∀ e ∈ enrolledAll s, e.1 ∈ l ∨ new.map (·.1) = some e.1

theorem listKey_eq_some {c : Nat} {alg : Byte} {pub : Bytes} (hother : new.map (·.1) ≠ some c) (h : listKey s new c = some (alg, pub)) :
    ∃ e, enrolled s c = some e ∧ e.alg = alg ∧ custPub s c = pub := by
  have hown : (enrolled s c).map (fun e => (e.alg, custPub s c)) = some (alg, pub) := by
    rw [← h]
    rcases new with _ | ⟨k, a, p⟩
    · rfl
    · exact (if_neg fun hk => hother (congrArg some hk.symm)).symm
  obtain ⟨e, he, hpair⟩ := Option.map_eq_some_iff.1 hown
  exact ⟨e, he, congrArg Prod.fst hpair, congrArg Prod.snd hpair⟩

theorem mem_countingFor {c : Nat} {l : List Nat} : c ∈ countingFor new l ↔ c ∈ l ∧ new.map (·.1) ≠ some c := by
  rcases new with _ | ⟨k, a, p⟩
  · simp [countingFor]
  · simp only [countingFor, List.mem_filter, bne_iff_ne, Option.map_some, ne_eq, Option.some.injEq, eq_comm (a := k)]

theorem nodup_countingFor {l : List Nat} (h : l.Nodup) : (countingFor new l).Nodup := by
  rcases new with _ | ⟨k, a, p⟩
  · exact h
  · exact h.filter _

theorem mem_enrolledAll {c : Nat} {e : Custodian} : (c, e) ∈ enrolledAll s ↔ c < 32 ∧ enrolled s c = some e := by
  simp [enrolledAll, List.mem_filterMap, Option.map_eq_some_iff]

/-- How `judge` decides: by the rule of the class, or, for an enrolment while too few are enrolled, by each who is; `isNew` marks the one being
enrolled. -/
theorem Quorum.of_ite {l : List Nat} {isNew : Nat × Custodian → Bool} (hnew : ∀ e, isNew e = true → new.map (·.1) = some e.1)
    (h : (if cls = 1 ∧ bootstrap s = true then (enrolledAll s).all fun e => l.contains e.1 || isNew e
      else meets (ruleAt s cls) (l.filterMap fun c => (custEntry s c).map (·.group))) = true) : Quorum s cls new l := by
  by_cases hboot : cls = 1 ∧ bootstrap s = true
  · rw [if_pos hboot] at h
    exact .inr ⟨hboot.1, hboot.2, fun e he =>
      (Bool.or_eq_true_iff.1 (List.all_eq_true.1 h e he)).imp List.contains_iff_mem.1 (hnew e)⟩
  · rw [if_neg hboot] at h
    exact .inl h

/-- A list that is accepted leaves the vault, and its statements that count make a quorum. -/
theorem judge_eq_ok {off : Nat} {u : Unit} (h : judge j cls off dig new s = .ok (u, t)) :
    t.vault = s.vault ∧ ∃ x stmts, x.cls = cls ∧ x.dig = dig ∧
      Quorum s cls new (countingFor new (countStmts x (listKey s new) [] none stmts).1) := by
  unfold judge at h
  replace h := Cmd.get_bind_ok h
  obtain ⟨_, s₁, hconsume, h⟩ := Cmd.exists_of_bind_ok h
  obtain ⟨clk, s₂, hclock, h⟩ := Cmd.exists_of_bind_ok h
  obtain ⟨_, h⟩ := Cmd.need_bind_ok h
  obtain ⟨_, h⟩ := Cmd.need_bind_ok h
  obtain ⟨stmts, _, h⟩ := Cmd.some?_bind_ok h
  have hvault : s₂.vault = s.vault := by
    obtain ⟨_, _, _, rfl⟩ := readClock_eq_ok hclock
    obtain rfl : _ = s₁ := congrArg Prod.snd (Except.ok.inj hconsume)
    rfl
  generalize hx : AuthCtx.mk cls (jobSerial s j) _ _ dig clk = x at h
  generalize hcount : countStmts x _ [] none stmts = r at h
  obtain ⟨counted, cause⟩ := r
  have hcounted : (countStmts x (listKey s new) [] none stmts).1 = counted := congrArg Prod.fst hcount
  dsimp -zeta only at h
  extract_lets mine proved rule ok at h
  split at h
  next hok =>
    have hnoted : s₂.vault = t.vault := (note_vault _ _ _ s₂).symm.trans (congrArg (·.2.vault) (Except.ok.inj h))
    refine ⟨hnoted.symm.trans hvault, x, stmts, hx ▸ rfl, hx ▸ rfl, ?_⟩
    rw [hcounted]
    refine Quorum.of_ite (fun e he => ?_) (Bool.and_eq_true_iff.1 hok).1
    rcases new with _ | ⟨k, a, pub⟩
    · cases he
    · exact congrArg some (beq_iff_eq.1 he).symm
  next => cases h

/-- Settles O17: a list is accepted for a quorum of the statements that count, each of which names the class and the action and verifies under the
stored key of a custodian of its own. -/
theorem acceptedListsComeFromAQuorum : Obligations.AcceptedListsComeFromAQuorum := by
  unfold Obligations.AcceptedListsComeFromAQuorum
  intro s j cls off dig new
  split
  next => trivial
  next u t hjudge =>
    obtain ⟨hvault, x, stmts, rfl, rfl, hquorum⟩ := judge_eq_ok hjudge
    have hcounted : Counted x (listKey s new) (countStmts x (listKey s new) [] none stmts).1 :=
      countStmts_counted stmts none ⟨List.nodup_nil, fun _ h => absurd h List.not_mem_nil⟩
    refine ⟨hvault, _, nodup_countingFor hcounted.1, fun c hc => ?_, hquorum.imp_right fun h => ?_⟩
    · obtain ⟨hc, hother⟩ := mem_countingFor.1 hc
      obtain ⟨alg, pub, b, hkey, hb⟩ := hcounted.2 c hc
      obtain ⟨e, he, rfl, rfl⟩ := listKey_eq_some hother hkey
      exact ⟨hother, e, b, he, hb⟩
    · obtain ⟨hcls, hboot, hall⟩ := h
      exact ⟨hcls, hboot, fun c e he hlt hother => (hall (c, e) (mem_enrolledAll.2 ⟨hlt, he⟩)).resolve_right hother⟩

end Sys2Proof.Machine
end

/-! ## Runs that are judged first (12 R343) -/

section
namespace Sys2Proof.Machine

variable {s t : State} {op : W16} {q : Nat} {j : Job} {st : W16}

/-- A due command whose run comes to two parts ends by the first where that stops, and otherwise as the rest ends from there. -/
theorem Due.runOp_bind {α : Type} (h : Due s op q j) {sel : Job → Bool} (hs : sel j = true) {f : Job → Cmd Run} {x : Cmd α} {k : α → Cmd Run}
    {c : α → State → State} (hf : f j s = (x >>= k) t) (hk : ∀ a u, finish j (k a u) s = c a u) :
    Machine.runOp op sel f q s = orEnd j s (x t) c := by
  rw [h.runOp sel hs, hf, finish_bind_at, funext fun a => funext (hk a)]

/-- A test that is met lets the run go on. -/
theorem Cmd.need_bind_true {α : Type} {b : Bool} {k : Unit → Cmd α} (hb : b = true) : (Cmd.need b st >>= k) s = k () s := by
  rw [hb]
  rfl

/-- A test in a run ends it with its status where the test fails. -/
theorem finish_need_else (hd : j.doom = none) {b : Bool} {p : Prop} {_ : Decidable p} {k : Unit → Cmd Run} {u : State} (hb : b = false ↔ p)
    (hk : ¬ p → finish j (k () t) s = u) : finish j ((Cmd.need b st >>= k) t) s = if p then failedWith j st t else u := by
  cases b
  · exact (failed_eq hd).trans (if_pos (hb.1 rfl)).symm
  · have hp : ¬ p := fun h => Bool.true_eq_false_eq_False (hb.2 h)
    exact (hk hp).trans (if_neg hp).symm

/-- Two tests in turn with one status are one test. -/
theorem Cmd.need_bind_need {α : Type} (a b : Bool) (k : Unit → Cmd α) :
    (do Cmd.need a st; Cmd.need b st >>= k) s = (Cmd.need (a && b) st >>= k) s := by
  cases a <;> rfl

end Sys2Proof.Machine
end

/-! ## The 11 rules (12 R344) -/

section
namespace Sys2Proof

/-- A byte before the cut is the byte of the whole. -/
theorem byteAt_take {bs : Bytes} {i n : Nat} (h : i < n) : byteAt (bs.take n) i = byteAt bs i := by
  simp only [byteAt, List.getD_eq_getElem?_getD, List.getElem?_take_of_lt h]

theorem byteAt_drop (bs : Bytes) (i n : Nat) : byteAt (bs.drop n) i = byteAt bs (n + i) := by
  simp only [byteAt, List.getD_eq_getElem?_getD, List.getElem?_drop]

/-- A run of `k` pieces' length is cut into these pieces. -/
theorem chunksFuel_eq {n : Nat} (hn : 0 < n) : ∀ {k f : Nat} {bs : Bytes}, bs.length = n * k → k ≤ f →
    chunksFuel n f bs = (List.range k).map fun i => (bs.drop (n * i)).take n := by
  intro k
  induction k with
  | zero =>
    intro f bs hlen _
    obtain rfl := List.length_eq_zero_iff.1 hlen
    cases f <;> rfl
  | succ k ih =>
    intro f bs hlen hf
    obtain ⟨f, rfl⟩ : ∃ g, f = g + 1 := ⟨f - 1, by omega⟩
    have hrest : (bs.drop n).length = n * k := by rw [List.length_drop, hlen, Nat.mul_succ, Nat.add_sub_cancel]
    rw [List.range_succ_eq_map, List.map_cons, List.map_map]
    cases bs with
    | nil => simp [Nat.mul_succ] at hlen; omega
    | cons b r =>
      show List.take n (b :: r) :: chunksFuel n f (List.drop n (b :: r)) = _
      rw [ih hrest (by omega)]
      simp [Function.comp_def, List.drop_drop, Nat.mul_succ, Nat.add_comm]

/-- A map that may fail at each element, by a condition, gives all or nothing. -/
theorem mapM_ite {α β : Type} {p : α → Prop} [DecidablePred p] {g : α → β} (l : List α) :
    (l.mapM fun a => if p a then some (g a) else none) = if ∀ a ∈ l, p a then some (l.map g) else none := by
  induction l with
  | nil => simp
  | cons a r ih =>
    rw [List.mapM_cons, ih]
    by_cases ha : p a
    · by_cases hr : ∀ b ∈ r, p b
      · rw [if_pos ha, if_pos hr, if_pos (List.forall_mem_cons.2 ⟨ha, hr⟩)]
        rfl
      · rw [if_pos ha, if_neg hr, if_neg fun h => hr (List.forall_mem_cons.1 h).2]
        rfl
    · rw [if_neg ha, if_neg fun h => ha (List.forall_mem_cons.1 h).1]
      rfl

namespace Machine

variable {s t : State} {q : Nat} {j : Job} {b : Bytes} {i : Nat}

/-- Rule `i` of a POLICY_SET input (R344). -/
def givenRule (b : Bytes) (i : Nat) : Rule :=
  { m := (byteAt b (4 * i)).toNat, d := (byteAt b (4 * i + 1)).toNat, mask := byteAt b (4 * i + 2) }

/-- Its values are in range: M 2 to 8, D 1 to M, a mask that is not zero, a zero byte. -/
abbrev RuleInRange (b : Bytes) (i : Nat) : Prop :=
  2 ≤ (givenRule b i).m ∧ (givenRule b i).m ≤ 8 ∧ 1 ≤ (givenRule b i).d ∧ (givenRule b i).d ≤ (givenRule b i).m ∧ (givenRule b i).mask ≠ 0 ∧
    byteAt b (4 * i + 3) = 0

/-- Every rule of the input is in range. -/
abbrev RulesInRange (b : Bytes) : Prop := ∀ i : Nat, i < 11 → RuleInRange b i

/-- The four bytes of rule `i`. -/
def ruleBytesAt (b : Bytes) (i : Nat) : Bytes := ((b.take 44).drop (4 * i)).take 4

theorem byteAt_ruleBytesAt {k : Nat} (hi : i < 11) (hk : k < 4) : byteAt (ruleBytesAt b i) k = byteAt b (4 * i + k) := by
  rw [ruleBytesAt, byteAt_take hk, byteAt_drop, byteAt_take (by omega)]

theorem givenRule_ruleBytesAt (hi : i < 11) : givenRule (ruleBytesAt b i) 0 = givenRule b i := by
  simp only [givenRule, Nat.mul_zero, Nat.zero_add, byteAt_ruleBytesAt hi (by decide : 0 < 4), byteAt_ruleBytesAt hi (by decide : 1 < 4),
    byteAt_ruleBytesAt hi (by decide : 2 < 4), Nat.add_zero]

theorem ruleInRange_ruleBytesAt (hi : i < 11) : RuleInRange (ruleBytesAt b i) 0 ↔ RuleInRange b i := by
  simp only [RuleInRange, givenRule_ruleBytesAt hi, Nat.mul_zero, Nat.zero_add, byteAt_ruleBytesAt hi (by decide : 3 < 4)]

/-- The rules of an input are all 11 it gives, if each is in range. -/
theorem rulesOf_eq (hlen : 44 ≤ b.length) :
    rulesOf (b.take 44) = if RulesInRange b then some ((List.range 11).map (givenRule b)) else none := by
  have hcut : chunks 4 (b.take 44) = (List.range 11).map (ruleBytesAt b) :=
    chunksFuel_eq (by decide) (List.length_take_of_le hlen) (by rw [List.length_take_of_le hlen]; decide)
  have hparse : rulesOf (b.take 44) = ((List.range 11).map (ruleBytesAt b)).mapM fun r =>
      if RuleInRange r 0 then some (givenRule r 0) else none := by rw [← hcut]; rfl
  have hrange : (∀ r ∈ (List.range 11).map (ruleBytesAt b), RuleInRange r 0) ↔ RulesInRange b := by
    rw [List.forall_mem_map]
    exact forall_congr' fun i => (imp_congr List.mem_range Iff.rfl).trans (imp_congr_right ruleInRange_ruleBytesAt)
  have hvalues : ((List.range 11).map (ruleBytesAt b)).map (fun r => givenRule r 0) = (List.range 11).map (givenRule b) := by
    rw [List.map_map]
    exact List.map_congr_left fun i hi => givenRule_ruleBytesAt (List.mem_range.1 hi)
  rw [hparse, mapM_ite, hvalues]
  exact if_congr hrange rfl rfl

/-- The custodians enrolled meet every one of some rules. -/
def rulesMet (t : State) (rs : List Rule) : Bool := rs.all fun r => meets r ((enrolledAll t).map fun e => e.2.group)

/-- What POLICY_SET area 2 gives for 11 rules: all are committed, with event 0x209 (R344). -/
def rulesReplaced (t : State) (rs : List Rule) : Run := { Run.output [] with
  commits := [.rules rs], events := [⟨0x209, 18, [leField (setDigest (custTable t) rs) 0 4]⟩] }

/-- What is left of POLICY_SET area 2 once it is authorised: the rules are judged. -/
def rulesAuthorised (j : Job) : Cmd Run := do
  let rs ← Cmd.some? (rulesOf (j.input.take 44)) stFormat
  let t ← get
  Cmd.need (rulesMet t rs) stFormat
  return rulesReplaced t rs

/-- POLICY_SET area 2, with its 44 bytes, is authorised first. -/
theorem policyRulesRun_eq (hlen : 44 ≤ j.input.length) :
    policyRulesRun j s = (judge j 2 44 (actionDigest j 44) none >>= fun _ => rulesAuthorised j) s := by
  rw [policyRulesRun, decide_eq_true hlen]
  exact Cmd.bind_ok rfl

theorem finish_rulesAuthorised_none (hd : j.doom = none) (h : rulesOf (j.input.take 44) = none) :
    finish j (rulesAuthorised j t) s = failedWith j stFormat t := by
  rw [rulesAuthorised, h]
  exact failed_eq hd

theorem finish_rulesAuthorised_some (hd : j.doom = none) {rs : List Rule} (h : rulesOf (j.input.take 44) = some rs) :
    finish j (rulesAuthorised j t) s = if rulesMet t rs then complete j (rulesReplaced t rs) t else failedWith j stFormat t := by
  rw [rulesAuthorised, h]
  exact finish_need hd Iff.rfl stFormat (rulesReplaced t rs)

/-- An authorised POLICY_SET area 2 ends by its rules. -/
theorem Due.policySetRules (h : Due s 0x010D q j) (harea : j.desc.par 56 = 2) (hlen : 44 ≤ j.input.length) {c : Unit → State → State}
    (hc : ∀ a t, finish j (rulesAuthorised j t) s = c a t) :
    exec (.policySetRules q) s = .next (orEnd j s (judge j 2 44 (actionDigest j 44) none s) c) :=
  congrArg done (h.runOp_bind (sel := fun j => j.desc.par 56 == 2) (beq_iff_eq.2 harea) (policyRulesRun_eq hlen) hc)

/-- A table of values put at 1 to `n` holds them there. -/
theorem get_foldl_set_succ {α : Type} [DecidableEq α] {dflt : α} (v : Nat → α) (n : Nat) :
    let t := (List.range n).foldl (fun t i => Tab.set dflt t (i + 1) (v i)) []
    Tab.wf dflt t = true ∧ ∀ i < n, Tab.get dflt t (i + 1) = v i := by
  induction n with
  | zero => exact ⟨rfl, fun i hi => absurd hi (Nat.not_lt_zero i)⟩
  | succ n ih =>
    obtain ⟨hwf, hget⟩ := ih
    rw [List.range_succ, List.foldl_append, List.foldl_cons, List.foldl_nil]
    refine ⟨Tab.wf_set hwf, fun i hi => (Tab.get_set hwf).trans ?_⟩
    split
    next hn => rw [Nat.succ.inj hn]
    next hn => exact hget i (by omega)

/-- Each class's rule after a commit of rules is the one committed. -/
theorem ruleAt_rules {rs : List Rule} (hi : i < rs.length) : ruleAt (applyCommit q t (.rules rs)) (i + 1) = rs.getD i Rule.default_ :=
  (get_foldl_set_succ (fun i => rs.getD i Rule.default_) rs.length).2 i hi

/-- Settles O14: the authorised run by whether each rule is in range, and what the commit leaves. -/
theorem rulesAreReplaced : Obligations.RulesAreReplaced := by
  unfold Obligations.RulesAreReplaced
  intro s q j h harea hlen rule inRange rs met
  refine ⟨fun hgood => h.policySetRules harea hlen fun _ t => ?good, fun ⟨i, hi, hbad⟩ => h.policySetRules harea hlen fun _ t => ?bad,
    fun t i hi => ?committed⟩
  case good =>
    have hrs : rulesOf (j.input.take 44) = some rs := (rulesOf_eq hlen).trans (if_pos hgood)
    have hmet : met t = rulesMet t rs := by rw [rulesMet, List.all_map]; rfl
    rw [finish_rulesAuthorised_some h.doom hrs, ← hmet]
    rfl
  case bad => exact finish_rulesAuthorised_none h.doom ((rulesOf_eq hlen).trans (if_neg fun hgood => hbad (hgood i hi)))
  case committed =>
    have hrs : rs.length = 11 := by rw [List.length_map, List.length_range]
    rw [ruleAt_rules (hrs ▸ hi), List.getD_eq_getElem _ _ (hrs ▸ hi), List.getElem_map, List.getElem_range]

end Machine
end Sys2Proof
end

/-! ## CUSTODIAN_ENROL, MASTER_LOAD and POLICY_SET (12 R341, R342, R344, R357, R358; 13 R371) -/

section
namespace Sys2Proof.Machine

variable {s t : State} {q : Nat} {j : Job}

/-! ### CUSTODIAN_ENROL -/

/-- Length of the key that the input gives. -/
def enrolLen (j : Job) : Nat := leField j.input 4 4

/-- The key that the input gives. -/
def enrolKey (j : Job) : Bytes := slice j.input 8 (enrolLen j)

/-- An input of CUSTODIAN_ENROL: a removal without a key, or a key of its algorithm's length, all there (R341). -/
structure EnrolInput (j : Job) : Prop where
  /-- The algorithm and the length. -/
  alg : byteAt j.input 0 = 0 ∧ enrolLen j = 0 ∨ byteAt j.input 0 = 0x02 ∧ enrolLen j = 97 ∨ byteAt j.input 0 = 0x39 ∧ enrolLen j = 1952
  /-- The key is there. -/
  len : 8 + enrolLen j ≤ j.input.length
  /-- The zero bytes. -/
  zero : zeroAt j.input 1 4 = true

/-- The key being enrolled, for the proof that the new custodian has it; none for a removal. -/
def newKey (j : Job) : Option (Nat × Byte × Bytes) :=
  if byteAt j.input 0 = 0 then none else some (j.desc.par 56, byteAt j.input 0, enrolKey j)

/-- Another custodian enrolled has the key. -/
def keyTaken (t : State) (j : Job) : Bool :=
  (List.range 32).any fun k => k != j.desc.par 56 && (enrolled t k).isSome && custPub t k == enrolKey j

/-- The events of a removal: one, if there is an entry. -/
def removalEvents (t : State) (c : Nat) : List Ev :=
  match custEntry t c with
  | some e => [⟨0x202, 18, [c, e.group]⟩]
  | none => []

theorem removalEvents_eq (t : State) (c : Nat) : removalEvents t c = (custEntry t c).toList.map fun e => ⟨0x202, 18, [c, e.group]⟩ := by
  unfold removalEvents
  cases custEntry t c <;> rfl

/-- What a removal gives. -/
def custodianRemoved (t : State) (c : Nat) : Run := { Run.output [] with commits := [.custodian c none []], events := removalEvents t c }

/-- What the enrolment of a key gives. -/
def custodianEntered (j : Job) : Run := { Run.output [] with
  commits := [.custodian (j.desc.par 56) (some { alg := byteAt j.input 0, group := j.desc.par 57, digest := sha384B (enrolKey j) }) (enrolKey j)]
  events := [⟨0x201, 18, [j.desc.par 56, j.desc.par 57, (byteAt j.input 0).toNat, leField (sha384B (enrolKey j)) 0 2]⟩] }

/-- What is left of CUSTODIAN_ENROL once it is authorised: a key of another custodian and a rule that could no longer be met are refused. -/
def enrolAuthorised (j : Job) : Cmd Run := do
  Cmd.need (zeroAt j.input 1 4) stFormat
  let t ← get
  Cmd.need (byteAt j.input 0 == 0 || !keyTaken t j) stFormat
  Cmd.need (rulesKept t (j.desc.par 56) (if byteAt j.input 0 = 0 then none else some (j.desc.par 57))) stFormat
  if byteAt j.input 0 = 0 then return custodianRemoved t (j.desc.par 56) else return custodianEntered j

/-- CUSTODIAN_ENROL, with a whole input, is authorised first, a new key being proved with it. -/
theorem custodianEnrolRun_eq (hin : EnrolInput j) :
    custodianEnrolRun j s = (judge j 1 (8 + enrolLen j) (actionDigest j (8 + enrolLen j)) (newKey j) >>= fun _ => enrolAuthorised j) s := by
  refine (Cmd.need_bind_true ?form).trans ?rest
  case form =>
    have hlen := hin.len
    have hthere : 8 ≤ j.input.length := (Nat.le_add_right 8 _).trans hlen
    unfold enrolLen at hlen
    rcases hin.alg with ⟨halg, hn⟩ | ⟨halg, hn⟩ | ⟨halg, hn⟩
    all_goals
      unfold enrolLen at hn
      simp [halg, hthere, hn, hn ▸ hlen]
  case rest => rfl

/-- An authorised removal has to leave the rules that can be met so. -/
theorem finish_enrolAuthorised_removes (hd : j.doom = none) (hin : EnrolInput j) (halg : byteAt j.input 0 = 0) :
    finish j (enrolAuthorised j t) s =
      if rulesKept t (j.desc.par 56) none = false then failedWith j stFormat t else complete j (custodianRemoved t (j.desc.par 56)) t := by
  have hrun : enrolAuthorised j t = (do
      Cmd.need (rulesKept t (j.desc.par 56) none) stFormat
      return custodianRemoved t (j.desc.par 56) : Cmd Run) t := by
    simp only [enrolAuthorised, halg, hin.zero, beq_self_eq_true, Bool.true_or, if_true, Cmd.bind_apply, Cmd.need_true, Cmd.get_apply]
  rw [hrun]
  exact finish_need_else hd Iff.rfl fun _ => rfl

/-- An authorised key must be no other custodian's, and leave the rules that can be met so. -/
theorem finish_enrolAuthorised_enters (hd : j.doom = none) (hin : EnrolInput j) (halg : byteAt j.input 0 ≠ 0) :
    finish j (enrolAuthorised j t) s =
      if keyTaken t j = true ∨ rulesKept t (j.desc.par 56) (some (j.desc.par 57)) = false then failedWith j stFormat t
      else complete j (custodianEntered j) t := by
  have hrun : enrolAuthorised j t = (do
      Cmd.need (!keyTaken t j && rulesKept t (j.desc.par 56) (some (j.desc.par 57))) stFormat
      return custodianEntered j : Cmd Run) t := by
    rw [← Cmd.need_bind_need]
    simp only [enrolAuthorised, hin.zero, beq_eq_false_iff_ne.2 halg, Bool.false_or, if_neg halg, Cmd.bind_apply, Cmd.need_true, Cmd.get_apply]
  rw [hrun]
  refine finish_need_else hd ?_ fun _ => rfl
  rw [Bool.and_eq_false_iff, Bool.not_eq_false']

/-! ### MASTER_LOAD -/

/-- A master may be loaded for partition 0, and for one that is there. -/
abbrev MasterPlace (t : State) (m : Nat) : Prop := m = 0 ∨ partState t m = 1 ∨ partState t m = 3

/-- The components that are pending suit the command: at least two, for the partition named, in slots 1 to the number named (R357). -/
abbrev ComponentsSuit (j : Job) (l : PendingLoad) : Prop :=
  2 ≤ j.desc.par 57 ∧ l.master = j.desc.par 56 ∧ slotsFilled l (j.desc.par 57) = true

/-- What MASTER_LOAD gives for the components loaded, whose XOR has the check value `check`. -/
def masterLoaded (t : State) (j : Job) (l : PendingLoad) (check : Bytes) : Run :=
  let m := j.desc.par 56
  let n := j.desc.par 57
  let v := vaultAt t m
  { Run.output [] with
    commits := [.vault m { v with master := some (masterOf l n), gen := nextGen v.gen }, .pendingLoad none]
    change := some (0x20000 + m), drain := .bound
    events := [⟨0x103, 4, [m, v.gen, nextGen v.gen]⟩,
      ⟨0x208, 18, [m, n, (l.slots.map fun x => 2 ^ x.2.2).sum, leNat check]⟩] }

/-- What is left of MASTER_LOAD with the components that are pending. -/
def masterOfComponents (j : Job) (t : State) (l : PendingLoad) : Cmd Run := do
  Cmd.need (decide (2 ≤ j.desc.par 57) && l.master == j.desc.par 56 && slotsFilled l (j.desc.par 57)) stFormat
  let check := (cmac false (masterOf l (j.desc.par 57)) (zeros 16)).take 5
  Cmd.need (check == slice j.input 1 5) stKeyVerifyFail
  return masterLoaded t j l check

/-- What is left of MASTER_LOAD once it is authorised. -/
def masterAuthorised (j : Job) : Cmd Run := do
  let t ← get
  Cmd.need (j.desc.par 56 == 0 || partState t (j.desc.par 56) == 1 || partState t (j.desc.par 56) == 3) stStateReject
  Cmd.need (byteAt j.input 0 == 5 && zeroAt j.input 6 8) stFormat
  let l ← Cmd.some? t.vault.load stFormat
  masterOfComponents j t l

/-- MASTER_LOAD, with its 8 bytes, is authorised first. -/
theorem masterLoadRun_eq (hlen : 8 ≤ j.input.length) :
    masterLoadRun j s = (judge j 3 8 (actionDigest j 8) none >>= fun _ => masterAuthorised j) s :=
  Cmd.need_bind_true (decide_eq_true hlen)

/-- The components give the master named by its check value, or the command ends by the first test that fails. -/
theorem finish_masterOfComponents (hd : j.doom = none) {l : PendingLoad} :
    finish j (masterOfComponents j t l t) s =
      if ¬ ComponentsSuit j l then failedWith j stFormat t
      else if (cmac false (masterOf l (j.desc.par 57)) (zeros 16)).take 5 ≠ slice j.input 1 5 then failedWith j stKeyVerifyFail t
      else complete j (masterLoaded t j l (slice j.input 1 5)) t := by
  refine finish_need_else hd ?suit fun _ => ?check
  case check =>
    refine finish_need_else hd ?_ fun hcheck => congrArg (fun c => complete j (masterLoaded t j l c) t) (not_not.1 hcheck)
    exact beq_eq_false_iff_ne
  case suit => simp [ComponentsSuit, ← Bool.not_eq_true, and_assoc]

/-- Authorised, MASTER_LOAD needs a partition that is there and components that are pending. -/
theorem finish_masterAuthorised (hd : j.doom = none) (hkind : byteAt j.input 0 = 5) (hzero : zeroAt j.input 6 8 = true) :
    finish j (masterAuthorised j t) s =
      if ¬ MasterPlace t (j.desc.par 56) then failedWith j stStateReject t
      else match t.vault.load with
        | none => failedWith j stFormat t
        | some l =>
          if ¬ ComponentsSuit j l then failedWith j stFormat t
          else if (cmac false (masterOf l (j.desc.par 57)) (zeros 16)).take 5 ≠ slice j.input 1 5 then failedWith j stKeyVerifyFail t
          else complete j (masterLoaded t j l (slice j.input 1 5)) t := by
  rw [masterAuthorised, Cmd.bind_apply, Cmd.get_apply]
  refine finish_need_else hd ?place fun _ => ?there
  case place => simp [MasterPlace, ← Bool.not_eq_true, or_assoc]
  case there =>
    rw [Cmd.need_bind_true (by rw [hkind, hzero]; rfl)]
    cases t.vault.load with
    | none => exact failed_eq hd
    | some l => exact finish_masterOfComponents hd

/-! ### POLICY_SET areas 1 and 3 -/

/-- Entry `i` of the tamper policy in the input. -/
def policyEntryBytes (j : Job) (i : Nat) : Bytes := slice j.input (8 * i) 8

/-- The policy that the input gives. -/
def givenPolicy (j : Job) : List Policy := ((List.range 7).map (policyEntryBytes j)).map policyEntry

/-- The entries have their permitted and certified values, and the zero bytes (13 R371). -/
def policyGood (j : Job) : Bool :=
  zeroAt j.input 56 64 && ((List.range 7).map (policyEntryBytes j)).all (fun e => zeroAt e 2 4) &&
    (List.range 7).all fun i => policyOk i ((givenPolicy j).getD i (policyDefault 5))

/-- What POLICY_SET area 1 gives: the policy is committed, with event 0x226. -/
def policyReplaced (j : Job) : Run := { Run.output [] with
  commits := [.policy (givenPolicy j)], events := [⟨0x226, 19, [leField (sha256Head 4 (j.input.take 56)) 0 4]⟩] }

/-- POLICY_SET area 1, with its 64 bytes, is authorised first, and then its entries are judged. -/
theorem policyTamperRun_eq (hlen : 64 ≤ j.input.length) :
    policyTamperRun j s = (judge j 6 64 (actionDigest j 64) none >>= fun _ => do
      Cmd.need (policyGood j) stFormat
      return policyReplaced j) s :=
  Cmd.need_bind_true (decide_eq_true hlen)

/-- Duration of the cell-service window that the input asks for, in seconds. -/
def windowSecs (j : Job) : Nat := leField j.input 0 2

/-- Cells that it covers. -/
def windowCells (j : Job) : Nat := (byteAt j.input 2).toNat

/-- A cell-service window's input: 60 to 3,600 s, of one cell or both (R358). -/
abbrev WindowInput (j : Job) : Prop :=
  60 ≤ windowSecs j ∧ windowSecs j ≤ 3600 ∧ 1 ≤ windowCells j ∧ windowCells j ≤ 3 ∧ zeroAt j.input 3 8 = true

/-- What POLICY_SET area 3 gives: the window is committed, with event 0x20A. -/
def windowOpened (j : Job) : Run := { Run.output [] with
  commits := [.window (windowCells j) (windowSecs j)], events := [⟨0x20A, 18, [1, windowCells j, windowSecs j]⟩] }

/-- POLICY_SET area 3, with its 8 bytes, is authorised first, and then its window is judged. -/
theorem policyWindowRun_eq (hlen : 8 ≤ j.input.length) :
    policyWindowRun j s = (judge j 7 8 (actionDigest j 8) none >>= fun _ => do
      Cmd.need (decide (60 ≤ windowSecs j ∧ windowSecs j ≤ 3600 ∧ 1 ≤ windowCells j ∧ windowCells j ≤ 3) && zeroAt j.input 3 8) stFormat
      return windowOpened j) s :=
  Cmd.need_bind_true (decide_eq_true hlen)

theorem windowInput_iff :
    (decide (60 ≤ windowSecs j ∧ windowSecs j ≤ 3600 ∧ 1 ≤ windowCells j ∧ windowCells j ≤ 3) && zeroAt j.input 3 8) = true ↔
      WindowInput j := by
  simp only [WindowInput, Bool.and_eq_true, decide_eq_true_eq, and_assoc]

/-- Settles O36: each command is authorised first; an authorised one ends by its tests in turn, and commits what its input gives. -/
theorem custodianCommandsCommit : Obligations.CustodianCommandsCommit := by
  unfold Obligations.CustodianCommandsCommit
  refine ⟨fun s q j h hlen hzero => ⟨fun halg hn => congrArg done ?remove, fun halg => congrArg done ?enter⟩,
    fun s q j h hlen hkind hzero => congrArg done ?master,
    fun s q j h => ⟨fun harea hlen => congrArg done ?tamper, fun harea hlen => h.policySetRules harea hlen fun _ t => ?rules,
      fun harea hlen => congrArg done ?window⟩⟩
  case remove =>
    have hin : EnrolInput j := ⟨.inl ⟨halg, hn⟩, hlen, hzero⟩
    have hrun := custodianEnrolRun_eq (s := s) hin
    have hlen0 : enrolLen j = 0 := hn
    rw [hlen0, newKey, if_pos halg] at hrun
    refine h.runOp_bind (sel := anyJob) rfl hrun fun _ t => ?_
    rw [finish_enrolAuthorised_removes h.doom hin halg, custodianRemoved, removalEvents_eq]
  case enter =>
    have halg0 : byteAt j.input 0 ≠ 0 := by
      rcases halg with ⟨h2, _⟩ | ⟨h39, _⟩
      · exact h2 ▸ by decide
      · exact h39 ▸ by decide
    have hin : EnrolInput j := ⟨.inr halg, hlen, hzero⟩
    have hrun := custodianEnrolRun_eq (s := s) hin
    rw [newKey, if_neg halg0] at hrun
    exact h.runOp_bind (sel := anyJob) rfl hrun fun _ t => finish_enrolAuthorised_enters h.doom hin halg0
  case master =>
    exact h.runOp_bind (sel := anyJob) rfl (masterLoadRun_eq hlen) fun _ t => finish_masterAuthorised h.doom hkind hzero
  case tamper =>
    exact h.runOp_bind (sel := fun j => j.desc.par 56 == 1) (beq_iff_eq.2 harea) (policyTamperRun_eq hlen) fun _ t =>
      finish_need h.doom Iff.rfl stFormat (policyReplaced j)
  case rules =>
    cases hrs : rulesOf (j.input.take 44) with
    | none => exact finish_rulesAuthorised_none h.doom hrs
    | some rs => exact finish_rulesAuthorised_some h.doom hrs
  case window =>
    exact h.runOp_bind (sel := fun j => j.desc.par 56 == 3) (beq_iff_eq.2 harea) (policyWindowRun_eq hlen) fun _ t =>
      finish_need h.doom windowInput_iff stFormat (windowOpened j)

end Sys2Proof.Machine
end

/-! ## FW_UPDATE, DEBUG_CERT_ACCEPT and ATTEST (12 R359, R361; 14 R402, R403, R407) -/

section
namespace Sys2Proof.Machine

variable {s s₁ t : State} {q : Nat} {j : Job} {own b : Bytes}

/-! ### FW_UPDATE -/

/-- The slot that is not running with the input written into it, erased first at offset 0, and the mark cleared (R407). -/
def slotLoaded (j : Job) (off : Nat) (s : State) : State :=
  let b := !s.pwr.running
  let t := { s with nv := { s.nv with pending := false } }
  slotWrite b off j.input (if off = 0 then slotErase b t else t)

theorem fwLoadRun_eq : fwLoadRun j s =
    if leField j.desc.params 4 4 + j.input.length ≤ slotSize then .ok (Run.output [], slotLoaded j (leField j.desc.params 4 4) s)
    else .error (.fail stFormat s) := by
  split
  next hfits => exact Cmd.need_bind_true (decide_eq_true hfits)
  next hover =>
    rw [fwLoadRun, decide_eq_false hover]
    rfl

/-- What an activation gives: event 0x247 of the slot marked. -/
def slotMarked (t : State) (b : Bool) : Run := { Run.output [] with
  events := [⟨0x247, 20, [b2n b, slotVersion t b, leField (slotHeader t b) 16 4]⟩] }

/-- What is left of an activation once it is authorised: the slot that is not running is marked, if its image verifies. -/
def activateAuthorised : Cmd Run := do
  let t ← get
  Cmd.need (slotVerifies t (!t.pwr.running)) stVerifyFail
  modify fun t => { t with nv := { t.nv with pending := true } }
  return slotMarked t (!t.pwr.running)

theorem fwActivateRun_eq : fwActivateRun j s = (judge j 9 0 (actionDigest j 0) none >>= fun _ => activateAuthorised) s := rfl

theorem finish_activateAuthorised (hd : j.doom = none) :
    finish j (activateAuthorised t) s = if slotVerifies t (!t.pwr.running) = false then failedWith j stVerifyFail t
      else complete j (slotMarked t (!t.pwr.running)) { t with nv := { t.nv with pending := true } } := by
  rw [activateAuthorised, Cmd.bind_apply, Cmd.get_apply]
  exact finish_need_else hd Iff.rfl fun _ => rfl

/-! ### DEBUG_CERT_ACCEPT -/

/-- Rights that the certificate gives. -/
def certRights (j : Job) : Nat := leField j.input 68 4

/-- They include one of the secret-adjacent class (R402). -/
def certSecret (j : Job) : Bool := secretRights (BitVec.ofNat 11 (certRights j))

/-- The open session. -/
def sessionOpened (j : Job) (t : State) : State :=
  complete j { Run.output [] with events := [⟨0x244, 20, [certRights j, leField j.input 60 8, b2n (certSecret j)]⟩] }
    (openDebug (certRights j) (leField j.input 60 8) t)

/-- The session opens, or waits for the read-back of the zeroisation that comes before it (R403). -/
theorem finish_debugOpen : finish j (debugOpen j t) s =
    if certSecret j && erasing t then modJob j.seq (fun x => { x with phase := .waiting }) t else sessionOpened j t := by
  rw [debugOpen, Cmd.bind_apply, Cmd.get_apply]
  by_cases hwait : (certSecret j && erasing t) = true
  · exact (congrArg (fun m : Cmd Run => finish j (m t) s) (if_pos hwait)).trans (if_pos hwait).symm
  · exact (congrArg (fun m : Cmd Run => finish j (m t) s) (if_neg hwait)).trans (if_neg hwait).symm

/-- What is left of DEBUG_CERT_ACCEPT, once its certificate is accepted, for the module's own job. -/
def certAccepted (j : Job) : Cmd Run := do
  Cmd.need (rightsKnown (certRights j)) stFormat
  if certSecret j then do
    modify (applyResponse 4)
    Cmd.hold
  else debugOpen j

theorem finish_certAccepted (hd : j.doom = none) : finish j (certAccepted j t) s =
    if rightsKnown (certRights j) = false then failedWith j stFormat t
    else if certSecret j then modJob j.seq (fun x => { x with phase := .waiting }) (applyResponse 4 t) else sessionOpened j t := by
  refine finish_need_else hd Iff.rfl fun _ => ?_
  cases hsecret : certSecret j
  · simp only [Bool.false_eq_true, if_false, finish_debugOpen, hsecret, Bool.false_and]
  · rfl

/-- A DEBUG_CERT_ACCEPT that has waited goes on to open the session. -/
theorem debugCertRun_waited (hwaits : j.phase = .waiting) : debugCertRun j s = debugOpen j s := by
  rw [debugCertRun, hwaits]
  rfl

section FirstRun
variable (hfirst : j.phase ≠ .waiting) (hown : j.fwd = false)
    (hshare : share j.seq 1 (fun s => ([BitVec.ofNat 8 (lcCode s)], s)) s = .ok (own, s₁))
include hfirst hown hshare

/-- Where the state asks for them, authorisations come first (R403). -/
theorem debugCertRun_listed (hstate : byteAt own 0 = 2 ∨ byteAt own 0 = 3) (hlen : certLen < j.input.length) :
    debugCertRun j s = (judge j 0x0B certLen (actionDigest j certLen) none >>= fun _ =>
      certCheck j (j.input.take certLen) 0x32 0 >>= fun _ => certAccepted j) s₁ := by
  rw [debugCertRun, beq_eq_false_iff_ne.2 hfirst]
  refine (Cmd.bind_ok hshare).trans ?_
  have hlisted : (byteAt own 0 == 2 || byteAt own 0 == 3) = true := by
    rwa [Bool.or_eq_true, beq_iff_eq, beq_iff_eq]
  rw [hlisted]
  refine (Cmd.need_bind_true (decide_eq_true hlen)).trans ?_
  rw [hown]
  rfl

/-- Otherwise the certificate alone does. -/
theorem debugCertRun_alone (h2 : byteAt own 0 ≠ 2) (h3 : byteAt own 0 ≠ 3) (hlen : j.input.length = certLen) :
    debugCertRun j s = (certCheck j (j.input.take certLen) 0x32 0 >>= fun _ => certAccepted j) s₁ := by
  rw [debugCertRun, beq_eq_false_iff_ne.2 hfirst]
  refine (Cmd.bind_ok hshare).trans ?_
  have hlisted : (byteAt own 0 == 2 || byteAt own 0 == 3) = false := by
    rw [beq_eq_false_iff_ne.2 h2, beq_eq_false_iff_ne.2 h3, Bool.or_false]
  rw [hlisted]
  refine (Cmd.need_bind_true (beq_iff_eq.2 hlen)).trans ?_
  rw [hown]
  rfl

end FirstRun

/-! ### ATTEST -/

theorem attestRun_eq (hlen : j.input.length = 32) (hshare : share j.seq 256 (fun s => (attestation s j j.input, s)) s = .ok (b, s₁)) :
    attestRun j s = (hybridSign j b >>= fun sig => pure (Run.output (b ++ sig))) s₁ :=
  (Cmd.need_bind_true (beq_iff_eq.2 hlen)).trans (Cmd.bind_ok hshare)

/-- Settles O38: a load by whether it fits, an activation once authorised; a certificate with and without authorisations before it, and after its
wait; an attestation by its statement and the signature over it. -/
theorem firmwareDebugAndAttestation : Obligations.FirmwareDebugAndAttestation := by
  unfold Obligations.FirmwareDebugAndAttestation
  refine ⟨fun s q j h => ⟨fun hstage => congrArg done ?load, fun hstage => congrArg done ?activate⟩,
    fun s s₁ q j own h => ?debug, fun s s₁ q j b h hlen hshare => congrArg done ?attest⟩
  case load =>
    have hsel : (j.desc.par 56 == 1) = true := beq_iff_eq.2 hstage
    have hrun := fwLoadRun_eq (j := j) (s := s)
    dsimp only
    split
    next hfits => exact h.runOp_ok _ hsel (hrun.trans (if_pos hfits))
    next hover => exact h.runOp_fail _ hsel (hrun.trans (if_neg hover))
  case activate =>
    exact h.runOp_bind (sel := fun j => j.desc.par 56 == 2) (beq_iff_eq.2 hstage) fwActivateRun_eq fun _ t => finish_activateAuthorised h.doom
  case debug =>
    intro rights secret waits opens checks
    have hwaits (t : State) : modJob j.seq (fun x => { x with phase := .waiting }) t = waits t := by rw [h.seq]
    have hchecks (t : State) : finish j ((certCheck j (j.input.take certLen) 0x32 0 >>= fun _ => certAccepted j) t) s = checks t := by
      rw [finish_bind_at]
      refine congrArg (orEnd j s _) (funext fun _ => funext fun u => ?_)
      rw [finish_certAccepted h.doom, hwaits]
      rfl
    refine ⟨fun hphase => congrArg done ?waited, fun hfirst hshare => ⟨fun hstate hlen => congrArg done ?listed,
      fun h2 h3 hlen => congrArg done ?alone⟩⟩
    case waited =>
      refine (h.runOp_eq (debugCertRun_waited hphase)).trans ?_
      rw [finish_debugOpen, hwaits]
      rfl
    case listed =>
      exact h.runOp_bind (sel := anyJob) rfl (debugCertRun_listed hfirst h.own hshare hstate hlen) fun _ t => hchecks t
    case alone => exact (h.runOp_eq (debugCertRun_alone hfirst h.own hshare h2 h3 hlen)).trans (hchecks s₁)
  case attest => exact h.runOp_bind (sel := anyJob) rfl (attestRun_eq hlen hshare) fun _ t => rfl

end Sys2Proof.Machine
end

/-! ## Tamper monitors, the resume, the evidence register and the backup cells (13 R366 to R373, R380 to R383; 12 R358) -/

section
namespace Sys2Proof.Machine

variable {s : State}

/-! ### Monitors and the tamper clocks (R366, R367, R369) -/

/-- Trips of a monitor within the window of its policy, the one now among them. -/
def recentTrips (s : State) (m : Nat) : List Nat :=
  ((monAt s m).times.filter fun t => decide (s.time.mono < t + 1000 * (policyAt s m).w)) ++ [s.time.mono]

section Watched
variable {m : Fin 5} {a b : Bool} (hwatched : monWatched s m = true)
include hwatched

/-- The trip that makes N within W is an event with the policy's response; fewer are counted. -/
theorem execMonitorExcursion_trip (htrip : (a || b) = true) : execMonitorExcursion m a b s =
    if (recentTrips s m).length < (policyAt s m).n then done (modMon m (fun _ => { a := a, b := b, times := recentTrips s m }) s)
    else done (tamperEvent m (policyAt s m).response (tamperEv m a b (policyAt s m).response)
      (modMon m (fun _ => { a := a, b := b, times := [] }) s)) := by
  have hquiet : (!a && !b) = false := by rw [← Bool.not_or, htrip]; rfl
  simp only [execMonitorExcursion, hwatched, hquiet, Bool.not_true, Bool.false_eq_true, if_false]
  rfl

theorem execMonitorExcursion_quiet : execMonitorExcursion m false false s = done (modMon m (fun x => { x with a := false, b := false }) s) := by
  rw [execMonitorExcursion, hwatched]
  rfl

end Watched

/-- A detector of a pair tripped alone for longer than the agreement time is a monitor fault. -/
theorem execDetectorDisagreement_watched {m : Fin 6} (hwatched : monWatched s m = true) (a : Bool) :
    execDetectorDisagreement m a s = done
      (monitorFault m (if a then 0 else 1) (agreeMs m) (modMon m (fun x => { x with a := a, b := !a }) s)) := by
  rw [execDetectorDisagreement, hwatched]
  rfl

/-- The loss of clock A is a monitor fault, and the controller runs on clock B. -/
theorem execTamperClockFault_clockA (halive : vaultAlive s = true) (hclock : s.tmp.clockA = true) :
    execTamperClockFault false s = done (monitorFault 6 0 0 { s with tmp := { s.tmp with clockA := false } }) := by
  simp only [execTamperClockFault, halive, hclock, Bool.false_eq_true, if_false, Bool.not_true, Bool.or_self]
  rfl

theorem execTamperClockFault_clockB (halive : vaultAlive s = true) (hclock : s.tmp.clockB = true) :
    execTamperClockFault true s = done (monitorFault 6 1 0 { s with tmp := { s.tmp with clockB := false } }) := by
  simp only [execTamperClockFault, halive, hclock, if_true, Bool.not_true, Bool.or_self]
  rfl

/-! ### The read-back, the resume and the evidence register (R373, R375, R380) -/

/-- The read-back ends a zeroisation with event 0x223; one that fails is a fault as well. -/
theorem execZeroiseReadbackDone_zeroising {k t c : Nat} (hon : domainOn s 4 = true) (hrun : s.tmp.zeroising = some (k, t, c)) (ok : Bool) :
    execZeroiseReadbackDone ok s = done (
      let u := note 0x223 19 [k, (s.time.mono - t) / 1000, b2n ok, c]
        { s with tmp := { s.tmp with zeroising := none }, vault := { s.vault with zeroisePending := false } }
      if ok then u else tarnOpen 37 1 0 false u) := by
  simp only [execZeroiseReadbackDone, hon, hrun, Bool.not_true, Bool.false_eq_true, if_false]

theorem openTo_open (hlc : lcCode s ≠ 5) (n : Next) : openTo s n = n := if_neg hlc

section Open
variable (hlc : lcCode s ≠ 5)
include hlc

/-- With nothing tripped, owed or under way, the module leaves its tamper state. -/
theorem execTmpCtrlResume_resumes (htrip : anyTripped s = false) (hburn : pendingBurns s = 0) (hzero : s.tmp.zeroising = none)
    (hdebug : (s.dbg.open_ && s.dbg.restart) = false) : execTmpCtrlResume s = done (note 0x227 19 [s.tmp.level] { s with tmp := { s.tmp with
      suspended := false, alarm := false, refused := false, level := 0, monFault := false } }) := by
  rw [execTmpCtrlResume, openTo_open hlc]
  exact if_neg (by simp [htrip, hburn, hzero, hdebug])

/-- A detector that is tripped refuses it. -/
theorem execTmpCtrlResume_refused (htrip : anyTripped s = true) :
    execTmpCtrlResume s = done { s with tmp := { s.tmp with refused := true } } := by
  rw [execTmpCtrlResume, openTo_open hlc]
  exact if_pos (.inl htrip)

/-- A read of an entry gives four of its bytes and marks it read. -/
theorem execTmpEvregDataRead_entry {e : Evidence} (hentry : s.nv.evreg[s.tmp.evSel]? = some e) (w : Fin 4) :
    execTmpEvregDataRead w s = done { emit (.read 0 (0xA0030 + 4 * w.val) (leField (evBytes e) (4 * w.val) 4)) s with
      nv := { s.nv with evreg := s.nv.evreg.modify s.tmp.evSel fun e => { e with unread := false } } } := by
  rw [execTmpEvregDataRead, if_neg hlc]
  simp only [hentry]
  rfl

end Open

/-! ### The backup cells (R368, R382, R383; 12 R358) -/

section Cells
variable {b : Bool}

/-- The bay once a cell has been removed, with its record. -/
def cellGone (b : Bool) (s : State) : State := noteCell b 1 (bayTrips (setCell b { state := 1, volts := 0, since := s.time.mono } s))

/-- A removal is the last cell's, or one inside a service window, or one outside it. -/
theorem execCellRemoval_present (hthere : (cellAt s b).state ≠ 1) (halive : vaultAlive s = true) :
    execCellRemoval b s = done (
      if (cellAt (cellGone b s) (!b)).present = false then bothAbsent (cellGone b s)
      else if windowCovers (cellGone b s) b then tamperEvent 8 0 (tamperEv 8 true true 0) (cellGone b s)
      else oneAbsent (cellGone b s)) := by
  rw [execCellRemoval, if_neg (by simp [hthere, halive])]
  rw [apply_ite done, apply_ite done]
  exact if_congr (Iff.of_eq (Bool.not_eq_true' _)) rfl rfl

/-- A cell inserted above 1.5 V settles, and takes over from the holdup capacitor. -/
theorem execCellInsertion_settles (hgone : (cellAt s b).state = 1) {v : Byte} (hv : 75 < v.toNat) :
    execCellInsertion b v s = done (noteCell b 2 (bayTrips (
      let t := setCell b { state := 3, volts := v, since := s.time.mono } s
      { t with tmp := { t.tmp with holdup := none } }))) := by
  simp only [execCellInsertion, hgone, ne_eq, not_true_eq_false, if_false, decide_eq_true hv, if_true]

theorem execCellSettled_inRange (hsettling : (cellAt s b).state = 3) (hold : (cellAt s b).since + 10 ^ 9 ≤ s.time.mono) :
    execCellSettled b s = done (judgeCell b s) := if_pos ⟨hsettling, hold⟩

theorem execCellLow_present (hthere : (cellAt s b).present = true) {v : Byte} (hv : 75 < v.toNat) :
    execCellLow b v s = done (judgeCell b (setCell b { cellAt s b with volts := v } s)) :=
  if_neg (by simp [hthere, hv])

end Cells

/-- 90 s after its last supply the vault die loses power, and what its SRAM held is gone. -/
theorem execHoldupExpiry_late {t : Nat} (hholdup : s.tmp.holdup = some t) (hmain : s.pwr.main = false)
    (hlate : 90 * 10 ^ 9 + t ≤ s.time.mono) : execHoldupExpiry s = done
      { s with vault := Vault.factory, tmp := { Tamper.reset with cellA := s.tmp.cellA, cellB := s.tmp.cellB } } := by
  simp only [execHoldupExpiry, hholdup, hmain, Bool.false_eq_true, false_or, if_neg (Nat.not_lt.2 hlate)]

/-- Settles O51: each command by what it finds of its monitor, its zeroisation, its register or its cell. -/
theorem tamperIsAnswered : Obligations.TamperIsAnswered := by
  unfold Obligations.TamperIsAnswered
  refine ⟨fun s => ⟨fun m a b hw htrip =>
      ⟨fun hmany => (execMonitorExcursion_trip hw htrip).trans (if_neg (Nat.not_lt.2 hmany)),
        fun hfew => (execMonitorExcursion_trip hw htrip).trans (if_pos hfew)⟩,
    fun m => execMonitorExcursion_quiet, fun m a hw => execDetectorDisagreement_watched hw a, execTamperClockFault_clockA,
    execTamperClockFault_clockB, fun k t c ok hon hrun => execZeroiseReadbackDone_zeroising hon hrun ok, execTmpCtrlResume_resumes,
    execTmpCtrlResume_refused, fun hlc => openTo_open hlc _, fun w e hlc hentry => execTmpEvregDataRead_entry hlc hentry w⟩,
    fun s b => ⟨execCellRemoval_present, fun v hgone => execCellInsertion_settles hgone, execCellSettled_inRange,
    fun v hthere => execCellLow_present hthere, fun t => execHoldupExpiry_late⟩⟩

end Sys2Proof.Machine
end

/-! ## What is to last (13 R381, 14 R398, R408) -/

section
namespace Sys2Proof.Machine

variable {a s t : State}

/-- A next state comes by a tick or by the command at the front of the queue. -/
theorem step_next_cases (h : step s = .next t) :
    s.pending = [] ∧ t = clockTick s ∨ ∃ c rest, s.pending = c :: rest ∧ exec c { s with pending := rest } = .next t := by
  unfold step at h
  split at h
  next hq => exact .inl ⟨hq, (Host.Outcome.next.inj h).symm⟩
  next c rest hq => exact .inr ⟨c, rest, hq, h⟩

theorem Lasting.kept (h : Lasting a s) : a.Kept s := ⟨h.otpA, h.otpB, h.rollback, h.scrapped⟩

/-- What is to last stands in the nonvolatile block alone: states with the same blocks keep it alike. -/
theorem State.Kept.of_nv {a' s' : State} (h : a'.Kept s') (ha : a'.nv = a.nv) (hs : s'.nv = s.nv) : a.Kept s where
  copyA := ha ▸ hs ▸ h.copyA
  copyB := ha ▸ hs ▸ h.copyB
  rollback := ha ▸ hs ▸ h.rollback
  scrapped := ha ▸ hs ▸ h.scrapped

/-- A tick keeps what is to last, of which the time it moves on is no part. -/
theorem clockTick_kept (s : State) : s.Kept (clockTick s) := (tickRest_lasting (Lasting.rfl' s)).kept.of_nv rfl rfl

/-- A command keeps what is to last, of which the queue is no part. -/
theorem exec_front_kept {c : Instr} {rest : List Instr} (h : exec c { s with pending := rest } = .next t) : s.Kept t :=
  ((exec_lasting c (Lasting.rfl' _)).keep t h).kept.of_nv rfl rfl

/-- Settles O7: a step is a tick or a command, and each keeps what is to last. -/
theorem stepKeepsEvidence : Obligations.StepKeepsEvidence := by
  unfold Obligations.StepKeepsEvidence
  intro s t ht
  rcases step_next_cases ht with ⟨_, rfl⟩ | ⟨c, rest, _, hc⟩
  case inl => exact clockTick_kept s
  case inr => exact exec_front_kept hc

end Sys2Proof.Machine
end

/-! ## The tamper policy (13 R371, R386) -/

section
namespace Sys2Proof

variable {b : Bytes} {i k n m : Nat}

theorem byteAt_slice (h : k < n) : byteAt (slice b i n) k = byteAt b (i + k) := by
  simp [slice, byteAt, List.getD_eq_getElem?_getD, h]

theorem slice_slice (h : k + m ≤ n) : slice (slice b i n) k m = slice b (i + k) m := by
  refine List.map_congr_left fun x hx => ?_
  rw [byteAt_slice (Nat.lt_of_lt_of_le (Nat.add_lt_add_left (List.mem_range.1 hx) k) h), Nat.add_assoc]

theorem leField_slice (h : k + m ≤ n) : leField (slice b i n) k m = leField b (i + k) m := congrArg leNat (slice_slice h)

theorem zeroAt_two : zeroAt b i (i + 2) = true ↔ byteAt b i = 0 ∧ byteAt b (i + 1) = 0 := by
  simp [zeroAt, allZero, slice, List.range_succ]

/-- A table of values put at 0 to `n - 1` holds them there. -/
theorem get_foldl_set {α : Type} [DecidableEq α] {dflt : α} (v : Nat → α) (n : Nat) :
    let t := (List.range n).foldl (fun t i => Tab.set dflt t i (v i)) []
    Tab.wf dflt t = true ∧ ∀ i < n, Tab.get dflt t i = v i := by
  induction n with
  | zero => exact ⟨rfl, fun i hi => absurd hi (Nat.not_lt_zero i)⟩
  | succ n ih =>
    obtain ⟨hwf, hget⟩ := ih
    rw [List.range_succ, List.foldl_append, List.foldl_cons, List.foldl_nil]
    refine ⟨Tab.wf_set hwf, fun i hi => (Tab.get_set hwf).trans ?_⟩
    split
    next hn => rw [hn]
    next hn => exact hget i (by omega)

/-- A table whose values are all changed reads as changed, if an unlisted index reads as before. -/
theorem Tab.get_map {α : Type} {dflt : α} {f : α → α} (hf : f dflt = dflt) (t : Tab α) (k : Nat) :
    Tab.get dflt (t.map fun x => (x.1, f x.2)) k = f (Tab.get dflt t k) := by
  induction t with
  | nil => exact hf.symm
  | cons x r ih =>
    simp only [List.map_cons, Tab.get, ih]
    split <;> rfl

namespace Machine

variable {s t : State} {q : Nat} {j : Job} {ps : List Policy}

/-- Entry `i` of the tamper policy that an input gives (R386). -/
def givenPolicyEntry (b : Bytes) (i : Nat) : Policy :=
  { response := (byteAt b (8 * i)).toNat, n := (byteAt b (8 * i + 1)).toNat, w := leField b (8 * i + 4) 4 }

/-- It has its permitted and certified values, and its zero bytes (R371). -/
abbrev PolicyEntryGood (b : Bytes) (i : Nat) : Prop :=
  policyOk i (givenPolicyEntry b i) = true ∧ byteAt b (8 * i + 2) = 0 ∧ byteAt b (8 * i + 3) = 0

theorem policyEntry_policyEntryBytes : policyEntry (policyEntryBytes j i) = givenPolicyEntry j.input i := by
  rw [policyEntry, policyEntryBytes, byteAt_slice (by decide), byteAt_slice (by decide), leField_slice (by decide)]
  rfl

theorem givenPolicy_eq : givenPolicy j = (List.range 7).map (givenPolicyEntry j.input) := by
  rw [givenPolicy, List.map_map]
  exact List.map_congr_left fun i _ => policyEntry_policyEntryBytes

theorem givenPolicy_getD (hi : i < 7) (d : Policy) : (givenPolicy j).getD i d = givenPolicyEntry j.input i := by
  rw [givenPolicy_eq, List.getD_eq_getElem _ _ (by rwa [List.length_map, List.length_range]), List.getElem_map, List.getElem_range]

theorem zeroAt_policyEntryBytes :
    zeroAt (policyEntryBytes j i) 2 4 = true ↔ byteAt j.input (8 * i + 2) = 0 ∧ byteAt j.input (8 * i + 3) = 0 := by
  rw [zeroAt_two, policyEntryBytes, byteAt_slice (by decide), byteAt_slice (by decide)]

/-- The test of POLICY_SET area 1 is met by seven good entries and 8 zero bytes. -/
theorem policyGood_iff : policyGood j = true ↔ (∀ i < 7, PolicyEntryGood j.input i) ∧ zeroAt j.input 56 64 = true := by
  have hvalues : ((List.range 7).all fun i => policyOk i ((givenPolicy j).getD i (policyDefault 5))) = true ↔
      ∀ i < 7, policyOk i (givenPolicyEntry j.input i) = true := by
    simp only [List.all_eq_true, List.mem_range]
    exact forall₂_congr fun i hi => by rw [givenPolicy_getD hi]
  have hzeros : ((List.range 7).map (policyEntryBytes j)).all (fun e => zeroAt e 2 4) = true ↔
      ∀ i < 7, byteAt j.input (8 * i + 2) = 0 ∧ byteAt j.input (8 * i + 3) = 0 := by
    simp only [List.all_map, List.all_eq_true, List.mem_range, Function.comp_apply, zeroAt_policyEntryBytes]
  simp only [policyGood, Bool.and_eq_true, hvalues, hzeros, PolicyEntryGood, forall_and]
  tauto

/-- Each entry in force after a commit of a policy is the one committed. -/
theorem policyAt_policy (hi : i < ps.length) : policyAt (applyCommit q t (.policy ps)) i = ps[i] := by
  have h : Tab.get none (policyTab ps) i = ps[i]? := (get_foldl_set (fun i => ps[i]?) ps.length).2 i hi
  show (Tab.get none (policyTab ps) i).getD _ = _
  rw [h, List.getElem?_eq_getElem hi, Option.getD_some]

/-- A commit of a policy clears the excursion counts, and leaves the levels of the monitors. -/
theorem monAt_policy (m : Nat) : monAt (applyCommit q t (.policy ps)) m = { monAt t m with times := [] } :=
  Tab.get_map (f := fun x : Monitor => { x with times := [] }) rfl t.tmp.mons m

/-- An authorised POLICY_SET area 1 ends by its policy. -/
theorem Due.policySetTamper (h : Due s 0x010D q j) (harea : j.desc.par 56 = 1) (hlen : 64 ≤ j.input.length) {c : Unit → State → State}
    (hc : ∀ a t, (if policyGood j then complete j (policyReplaced j) t else failedWith j stFormat t) = c a t) :
    exec (.policySetTamper q) s = .next (orEnd j s (judge j 6 64 (actionDigest j 64) none s) c) :=
  congrArg done (h.runOp_bind (sel := fun j => j.desc.par 56 == 1) (beq_iff_eq.2 harea) (policyTamperRun_eq hlen) fun a t =>
    (finish_need h.doom Iff.rfl stFormat (policyReplaced j)).trans (hc a t))

/-- Settles O15: the authorised run by whether the policy is good, and what the commit leaves. -/
theorem tamperPolicyIsReplaced : Obligations.TamperPolicyIsReplaced := by
  unfold Obligations.TamperPolicyIsReplaced
  intro s q j h harea hlen entry good ps
  have hps : givenPolicy j = ps := givenPolicy_eq
  refine ⟨fun hgood => h.policySetTamper harea hlen fun _ t => ?good, fun hbad => h.policySetTamper harea hlen fun _ t => ?bad,
    fun t i hi => ⟨?entry, ?count⟩⟩
  case good => rw [if_pos (policyGood_iff.2 hgood), policyReplaced, hps]
  case bad => exact if_neg fun hgood => hbad (policyGood_iff.1 hgood)
  case entry =>
    have hlength : ps.length = 7 := by rw [List.length_map, List.length_range]
    rw [policyAt_policy (hlength ▸ hi), List.getElem_map, List.getElem_range]
  case count => rw [monAt_policy]

end Machine
end Sys2Proof
end

/-! ## The byte memories stay canonical (14 R406, 16 R458) -/

section
namespace Sys2Proof.Machine

variable {a s t : State}

/-- What a command keeps holds the form of the byte memories. -/
theorem Lasting.memWf (h : Lasting a s) (ha : a.memWf) : s.memWf := by
  obtain ⟨hring, hslotA, hslotB⟩ := ha
  exact ⟨h.ring hring, h.slotA hslotA, h.slotB hslotB⟩

/-- A tick keeps the byte memories canonical: they are no part of the time it moves on. -/
theorem clockTick_memWf (h : s.memWf) : (clockTick s).memWf := (tickRest_lasting (Lasting.rfl' s)).memWf h

/-- A command keeps the byte memories canonical: they are no part of the queue. -/
theorem exec_front_memWf {c : Instr} {rest : List Instr} (h : s.memWf) (ht : exec c { s with pending := rest } = .next t) : t.memWf :=
  ((exec_lasting c (Lasting.rfl' _)).keep t ht).memWf h

/-- Settles O6: a step is a tick or a command, and each keeps the byte memories canonical. -/
theorem stepKeepsMemoryCanonical : Obligations.StepKeepsMemoryCanonical := by
  unfold Obligations.StepKeepsMemoryCanonical
  intro s t h ht
  rcases step_next_cases ht with ⟨_, rfl⟩ | ⟨c, rest, _, hc⟩
  case inl => exact clockTick_memWf h
  case inr => exact exec_front_memWf h hc

/-- Settles O5: at reset each byte memory is the empty table. -/
theorem resetMemoryCanonical : Obligations.ResetMemoryCanonical := by
  unfold Obligations.ResetMemoryCanonical
  exact ⟨rfl, rfl, rfl⟩

/-- Settles O3: the table gives no row bits, so its decoder finds no command in any word, and the fetch leaves the queue alone. -/
theorem noWordSpellsACommand : Obligations.NoWordSpellsACommand := by
  unfold Obligations.NoWordSpellsACommand
  intro nbits w
  have hnone : decodeTableWord nbits w = none := rfl
  refine ⟨hnone, fun s => ?_⟩
  unfold State.withFetchWord
  rw [hnone]

end Sys2Proof.Machine
end

/-! ## Every command answers a next state -/

section
namespace Sys2Proof.Machine

/-- The outcome is a next state. -/
def Answers (n : Next) : Prop := ∃ t, n = .next t

section Outcomes
variable {s : State} {m n : Next} {f g : State → Next}

@[simp] theorem answers_done (s : State) : Answers (done s) := ⟨s, rfl⟩

/-- A choice between two next states is one. -/
@[simp] theorem answers_ite {p : Prop} [Decidable p] (hm : Answers m) (hn : Answers n) : Answers (if p then m else n) := by
  split
  · exact hm
  · exact hn

@[simp] theorem served_answers (hn : Answers n) : Answers (served s n) := answers_ite hn (answers_done s)

@[simp] theorem openTo_answers (hn : Answers n) : Answers (openTo s n) := answers_ite (answers_done s) hn

theorem andThen_answers (hn : Answers n) (hf : ∀ t, Answers (f t)) : Answers (andThen n f) := by
  obtain ⟨t, rfl⟩ := hn
  exact hf t

theorem ctrlBits_answers (hf : ∀ t, Answers (f t)) (hg : ∀ t, Answers (g t)) (v : Nat) (s : State) : Answers (ctrlBits v f g s) :=
  andThen_answers (answers_ite (hf s) (answers_done s)) fun t => answers_ite (hg t) (answers_done t)

end Outcomes

/-! ### Commands that registers give too -/

section Registers
variable (s : State) (p : Fin 256) (r : Fin 16) (word : Bool) (v : W32) (m g : W64)

@[simp] theorem execSqTail_answers : Answers (execSqTail p r word v s) := served_answers (answers_done _)

@[simp] theorem execCqHead_answers : Answers (execCqHead p r word v s) := served_answers (answers_done _)

@[simp] theorem execRingEnable_answers : Answers (execRingEnable p r s) := served_answers (answers_done _)

@[simp] theorem execRingDisable_answers : Answers (execRingDisable p r s) := served_answers (answers_done _)

@[simp] theorem execMsixVectorUnmask_answers (n : Fin 64) : Answers (execMsixVectorUnmask p n s) := answers_ite (answers_done _) (answers_done _)

@[simp] theorem execSysLockWrite_answers : Answers (execSysLockWrite v s) := served_answers (answers_done _)

@[simp] theorem execTimeCfgWrite_answers : Answers (execTimeCfgWrite v s) := served_answers (answers_done _)

@[simp] theorem execAcceptFree_answers : Answers (execAcceptFree s) := served_answers (answers_done _)

@[simp] theorem execTimePair_answers : Answers (execTimePair v s) := served_answers (answers_done _)

@[simp] theorem execMasKsHeadWrite_answers : Answers (execMasKsHeadWrite p v s) := served_answers (answers_ite (answers_done _) (answers_done _))

@[simp] theorem execNewtWinStart_answers : Answers (execNewtWinStart v s) :=
  served_answers (answers_ite (answers_done _) (answers_ite (answers_done _) (answers_done _)))

@[simp] theorem execIguWinStart_answers : Answers (execIguWinStart v s) :=
  served_answers (answers_ite (answers_done _) (answers_ite (answers_done _) (answers_done _)))

@[simp] theorem execRngCtrlRestart_answers : Answers (execRngCtrlRestart v s) := served_answers (answers_ite (answers_done _) (answers_done _))

@[simp] theorem execPartCtrlReset_answers : Answers (execPartCtrlReset v s) := served_answers (answers_done _)

@[simp] theorem execPartVfCtrlReset_answers : Answers (execPartVfCtrlReset p v s) := served_answers (answers_done _)

@[simp] theorem execCustCertSelWrite_answers : Answers (execCustCertSelWrite v s) := served_answers (answers_done _)

@[simp] theorem execCustCertDataRead_answers : Answers (execCustCertDataRead s) := answers_ite (answers_done _) (answers_done _)

@[simp] theorem execTmpEvregDataRead_answers (w : Fin 4) : Answers (execTmpEvregDataRead w s) := answers_ite (answers_done _) (answers_done _)

@[simp] theorem execTmpCtrlResume_answers : Answers (execTmpCtrlResume s) := openTo_answers (answers_ite (answers_done _) (answers_done _))

@[simp] theorem execTmpCtrlEvregClear_answers : Answers (execTmpCtrlEvregClear s) := openTo_answers (answers_done _)

@[simp] theorem execPairCtrlDetach_answers : Answers (execPairCtrlDetach s) := by
  refine served_answers ?_
  dsimp only
  split <;> exact answers_done _

@[simp] theorem execScrCtrlFreeze_answers : Answers (execScrCtrlFreeze s) := openTo_answers (answers_ite (answers_done _) (answers_done _))

@[simp] theorem execScrCtrlThaw_answers : Answers (execScrCtrlThaw s) := openTo_answers (answers_done _)

@[simp] theorem execScrAckWrite_answers : Answers (execScrAckWrite v s) := openTo_answers (answers_done _)

@[simp] theorem execJrnHrCfgWrite_answers : Answers (execJrnHrCfgWrite p v s) := served_answers (answers_done _)

@[simp] theorem execJrnWinSeqWrite_answers : Answers (execJrnWinSeqWrite p v s) := served_answers (answers_done _)

@[simp] theorem execJrnWinEntryRead_answers : Answers (execJrnWinEntryRead p s) := served_answers (answers_done _)

@[simp] theorem execTarnStatusClear_answers : Answers (execTarnStatusClear m g s) := openTo_answers (answers_done _)

@[simp] theorem execTarnSevWrite_answers (high : Bool) : Answers (execTarnSevWrite high m s) :=
  openTo_answers (answers_ite (answers_done _) (answers_ite (answers_done _) (answers_done _)))

@[simp] theorem execTarnInject_answers : Answers (execTarnInject v s) := openTo_answers (answers_ite (answers_done _) (answers_done _))

@[simp] theorem execPmcClearAll_answers : Answers (execPmcClearAll s) := served_answers (answers_done _)

@[simp] theorem execPmcSrCfgWrite_answers : Answers (execPmcSrCfgWrite v s) := served_answers (answers_done _)

@[simp] theorem execPmcPDumpCfgWrite_answers : Answers (execPmcPDumpCfgWrite p v s) := served_answers (answers_done _)

@[simp] theorem execPwrCtrlQuiesce_answers : Answers (execPwrCtrlQuiesce s) := openTo_answers (answers_ite (answers_done _) (answers_done _))

@[simp] theorem execPwrCtrlUnquiesce_answers : Answers (execPwrCtrlUnquiesce s) := openTo_answers (answers_ite (answers_done _) (answers_done _))

@[simp] theorem execDbgCtrlClose_answers : Answers (execDbgCtrlClose s) := served_answers (answers_done _)

/-! ### Reads and writes of registers (21 R555 to R566) -/

variable (off size n : Nat)

@[simp] theorem ringWrite32_answers : Answers (ringWrite32 p off n s) := by
  fun_cases ringWrite32 p off n s <;> simp

@[simp] theorem msixWrite_answers : Answers (msixWrite p off n s) := by
  fun_cases msixWrite p off n s
  case case5 => exact execMsixVectorUnmask_answers s p _
  all_goals exact answers_done _

@[simp] theorem pfWrite32_answers : Answers (pfWrite32 off n s) := by
  fun_cases pfWrite32 off n s <;> simp +zetaDelta [ctrlBits_answers]

@[simp] theorem write32_answers : Answers (write32 p off n s) := by
  fun_cases write32 p off n s <;> simp

@[simp] theorem write64_answers : Answers (write64 p off n s) := by
  fun_cases write64 p off n s <;> simp

@[simp] theorem writeHalf_answers (upper : Bool) : Answers (writeHalf p off upper n s) := by
  fun_cases writeHalf p off upper n s <;> simp

@[simp] theorem writeWord_answers : Answers (writeWord p off n s) := by
  fun_cases writeWord p off n s <;> simp

@[simp] theorem doorbellWrite_answers : Answers (doorbellWrite p off size n s) := by
  fun_cases doorbellWrite p off size n s <;> simp

@[simp] theorem execRegisterWrite_answers : Answers (execRegisterWrite p off size m s) := by
  fun_cases execRegisterWrite p off size m s <;> simp [andThen_answers]

theorem readWord_answers : Answers (readWord p off s) := by
  fun_cases readWord p off s <;> simp

@[simp] theorem execLowerWordRead_answers : Answers (execLowerWordRead p off s) :=
  answers_ite (answers_done _) (answers_ite (answers_done _) (readWord_answers s p off))

theorem smbAnswer_answers (pec : Bool) (f : State → Bytes × State) : Answers (smbAnswer pec f s) :=
  answers_ite (answers_done _) (answers_ite (answers_done _) (answers_done _))

end Registers

/-- Each meaning ends every branch it has in a next state. -/
theorem exec_answers (c : Instr) (s : State) : Answers (exec c s) := by
  cases c
  all_goals dsimp only [exec]
  -- The command path (03, 04).
  case descriptorFetch => fun_cases execDescriptorFetch <;> exact answers_done _
  case descriptorArrival => fun_cases execDescriptorArrival <;> exact answers_done _
  case jobInputArrival => fun_cases execJobInputArrival <;> exact answers_done _
  case blobLoad => fun_cases execBlobLoad <;> exact answers_done _
  case hostReadTimeout => fun_cases execHostReadTimeout <;> exact answers_done _
  case newtGrant => fun_cases execNewtGrant <;> exact answers_done _
  case iguanaGrant => fun_cases execIguanaGrant <;> exact answers_done _
  case pinvGrant => fun_cases execPinvGrant <;> exact answers_done _
  case unitGrant => fun_cases execUnitGrant <;> exact answers_done _
  case yieldPoint => fun_cases execYieldPoint <;> exact answers_done _
  case bankZeroiseDone => fun_cases execBankZeroiseDone <;> exact answers_done _
  case jobRetire => fun_cases execJobRetire <;> exact answers_done _
  case completionWrite => fun_cases execCompletionWrite <;> exact answers_done _
  case cursorAdvance => fun_cases execCursorAdvance <;> exact answers_done _
  case serviceWindow => fun_cases execServiceWindow <;> exact answers_done _
  -- Massif, and the units with their tests and the random service (05, 06, 08 to 10).
  case sweepVisit => fun_cases execSweepVisit <;> exact answers_done _
  case generationChangeCommit => fun_cases execGenerationChangeCommit <;> exact answers_done _
  case keystoreRecordWrite => fun_cases execKeystoreRecordWrite <;> exact answers_done _
  case newtPeriodicTest => fun_cases execNewtPeriodicTest <;> exact answers_done _
  case iguPeriodicTest => fun_cases execIguPeriodicTest <;> exact answers_done _
  case newtWinTimeout => fun_cases execNewtWinTimeout <;> exact answers_done _
  case windowTestDone => fun_cases execWindowTestDone <;> exact answers_done _
  case rngStartupTestDone => fun_cases execRngStartupTestDone <;> exact answers_done _
  case rngSourceFail => fun_cases execRngSourceFail <;> exact answers_done _
  case rngBlockClose => fun_cases execRngBlockClose <;> exact answers_done _
  case rngReady => fun_cases execRngReady <;> exact answers_done _
  case rngReseed => fun_cases execRngReseed <;> exact answers_done _
  -- Partitions, custodians and tamper (11 to 13).
  case vfFlr => fun_cases execVfFlr <;> exact answers_done _
  case partResetDone => fun_cases execPartResetDone <;> exact answers_done _
  case sessionExpiry => fun_cases execSessionExpiry <;> exact answers_done _
  case cellWindowExpiry => fun_cases execCellWindowExpiry <;> exact answers_done _
  case custodianKeyStoreErase => fun_cases execCustodianKeyStoreErase <;> exact answers_done _
  case monitorExcursion => fun_cases execMonitorExcursion <;> exact answers_done _
  case detectorDisagreement => fun_cases execDetectorDisagreement <;> exact answers_done _
  case tamperClockFault => fun_cases execTamperClockFault <;> exact answers_done _
  case zeroiseReadbackDone => fun_cases execZeroiseReadbackDone <;> exact answers_done _
  case cellRemoval => fun_cases execCellRemoval <;> exact answers_done _
  case cellInsertion => fun_cases execCellInsertion <;> exact answers_done _
  case cellSettled => fun_cases execCellSettled <;> exact answers_done _
  case cellLow => fun_cases execCellLow <;> exact answers_done _
  case holdupExpiry => fun_cases execHoldupExpiry <;> exact answers_done _
  -- The debug port and the start of an image (14, 17).
  case debugSessionExpiry => fun_cases execDebugSessionExpiry <;> exact answers_done _
  case debugPageRefresh => fun_cases execDebugPageRefresh <;> exact answers_done _
  case debugAccess => fun_cases execDebugAccess <;> exact answers_done _
  case grdCommit => fun_cases execGrdCommit <;> exact answers_done _
  case grdCommitApply => fun_cases execGrdCommitApply <;> exact answers_done _
  case fwBootTimeout => fun_cases execFwBootTimeout <;> exact answers_done _
  -- The pair (15).
  case pairClaim => fun_cases execPairClaim <;> exact answers_done _
  case claimCheck => fun_cases execClaimCheck <;> exact answers_done _
  case pairInhibitChange => fun_cases execPairInhibitChange <;> exact answers_done _
  case linkTraining => fun_cases execLinkTraining <;> exact answers_done _
  case handshakeRetry => fun_cases execHandshakeRetry <;> exact answers_done _
  case cert => fun_cases execCert <;> exact answers_done _
  case hello => fun_cases execHello <;> exact answers_done _
  case keyx => fun_cases execKeyx <;> exact answers_done _
  case confirm => fun_cases execConfirm <;> exact answers_done _
  case heartbeat => fun_cases execHeartbeat <;> exact answers_done _
  case heartbeatSend => fun_cases execHeartbeatSend <;> exact answers_done _
  case sidebandCharacter => fun_cases execSidebandCharacter <;> exact answers_done _
  case pathLost => fun_cases execPathLost <;> exact answers_done _
  case linkAckTimeout => fun_cases execLinkAckTimeout <;> exact answers_done _
  case admitFrame => fun_cases execAdmit <;> exact answers_done _
  case dispatchFrame => fun_cases execDispatchFrame <;> exact answers_done _
  case dataFrame => fun_cases execDataFrame <;> exact answers_done _
  case randomFrame => fun_cases execRandomFrame <;> exact answers_done _
  case commitFrame => fun_cases execCommitFrame <;> exact answers_done _
  case doneFrame => fun_cases execDoneFrame <;> exact answers_done _
  case resultFrame => fun_cases execResultFrame <;> exact answers_done _
  case jack => fun_cases execJack <;> exact answers_done _
  case handover => fun_cases execHandover <;> exact answers_done _
  case handoverDrained => fun_cases execHandoverDrained <;> exact answers_done _
  case snapshot => fun_cases execSnapshot <;> exact answers_done _
  case snapshotEnd => fun_cases execSnapshotEnd <;> exact answers_done _
  case catchupInStep => fun_cases execCatchupInStep <;> exact answers_done _
  case detach => fun_cases execDetach <;> exact answers_done _
  -- The journal, Scree and Tarn (16, 17).
  case markRaise => fun_cases execMarkRaise <;> exact answers_done _
  case jrnSearchDone => fun_cases execJrnSearchDone <;> exact answers_done _
  case screeRecordClose => fun_cases execScreeRecordClose <;> exact answers_done _
  case tokenRefill => fun_cases execTokenRefill <;> exact answers_done _
  case suppressed => fun_cases execSuppressed <;> exact answers_done _
  case freezeMaxExpiry => fun_cases execFreezeMaxExpiry <;> exact answers_done _
  case tarnErrorEvent => fun_cases execTarnErrorEvent <;> exact answers_done _
  case tarnEscalation => fun_cases execTarnEscalation <;> exact answers_done _
  case errReadbackMismatch => fun_cases execErrReadbackMismatch <;> exact answers_done _
  -- The counters, and power (18, 19).
  case pmcDump => fun_cases execPmcDump <;> exact answers_done _
  case perstNRelease => fun_cases execPerstNRelease <;> exact answers_done _
  case perstNAssert => fun_cases execPerstNAssert <;> exact answers_done _
  case powerDomainSlot => fun_cases execPowerDomainSlot <;> exact answers_done _
  case domainRegulationTimeout => fun_cases execDomainRegulationTimeout <;> exact answers_done _
  case startUpComplete => fun_cases execStartUpComplete <;> exact answers_done _
  case startFault => fun_cases execStartFault <;> exact answers_done _
  case mainPowerLoss => fun_cases execMainPowerLoss <;> exact answers_done _
  case auxChange => fun_cases execAuxChange <;> exact answers_done _
  case autoOffIdle => fun_cases execAutoOffIdle <;> exact answers_done _
  case domainWake => fun_cases execDomainWake <;> exact answers_done _
  case domainSwitchOn => fun_cases execDomainSwitchOn <;> exact answers_done _
  case quiesceReqNRelease => fun_cases execQuiesceReqNRelease <;> exact answers_done _
  case quiesceDrained => fun_cases execQuiesceDrained <;> exact answers_done _
  case quiesceMaxExpiry => fun_cases execQuiesceMaxExpiry <;> exact answers_done _
  case alertResponseRead => fun_cases execAlertResponseRead <;> exact answers_done _
  case mainPowerGood => fun_cases execMainPowerGood <;> exact answers_done _
  case linkTrainingLost => fun_cases execLinkTrainingLost <;> exact answers_done _
  -- Registers, and SMBus (20, 21).
  case smbStatus | smbHealth | smbTemperature | smbEvidence | smbInventory | smbQuiesceState =>
    exact smbAnswer_answers _ _ _
  case sqTail | cqHead | msixVectorUnmask | ringEnable | ringDisable | timePair | acceptFree | timeCfgWrite | masKsHeadWrite |
      newtWinStart | iguWinStart | rngCtrlRestart | partVfCtrlReset | partCtrlReset | tmpCtrlResume | tmpCtrlEvregClear |
      tmpEvregDataRead | dbgCtrlClose | pairCtrlDetach | jrnHrCfgWrite | jrnWinSeqWrite | jrnWinEntryRead | scrCtrlFreeze |
      scrCtrlThaw | scrAckWrite | tarnStatusClear | tarnSevWrite | tarnInject | pmcClearAll | pmcSrCfgWrite | pmcPDumpCfgWrite |
      pwrCtrlQuiesce | pwrCtrlUnquiesce | sysLockWrite | custCertSelWrite | custCertDataRead | lowerWordRead | registerWrite =>
    simp
  -- What every other command does is one change of the state.
  all_goals exact answers_done _

/-- Settles O9: by the meaning of each command. -/
theorem everyCommandAnswersNext : Obligations.EveryCommandAnswersNext := by
  unfold Obligations.EveryCommandAnswersNext
  exact exec_answers

end Sys2Proof.Machine
end

/-! ## LC_TRANSITION (14 R394 to R398) -/

section
namespace Sys2Proof.Machine

variable {s s₁ t : State} {q : Nat} {j : Job} {own : Bytes}

/-- The state in which the command of job `j` waits. -/
def waitingIn (j : Job) (t : State) : State := modJob j.seq (fun x => { x with phase := .waiting }) t

/-- The rest of a transition: the read-back is awaited, then the stage word is written, then the transition ends (R394, R396). -/
def transitionRest (j : Job) (u : State) : State :=
  let dst := j.desc.par 56
  if erasing u then waitingIn j u
  else match u.nv.writing with
    | none => waitingIn j { lcAfterErase dst u with nv := { (lcAfterErase dst u).nv with writing := some (dst - 1, (lcAfterErase dst u).time.mono) } }
    | some (_, t) => if u.time.mono < 160000 + t then waitingIn j u
      else complete j { Run.output [] with events := [⟨0x241, 20, [lcCode u, dst, j.seq]⟩] } (lcWrite dst u)

theorem finish_lcFinish (u : State) : finish j (lcFinish j u) s = transitionRest j u := by
  unfold lcFinish transitionRest
  rw [Cmd.bind_apply, Cmd.get_apply]
  dsimp only
  split
  next => rfl
  next =>
    cases u.nv.writing with
    | none => rfl
    | some w =>
      dsimp only
      split <;> rfl

/-- What an authorised transition comes to: its conditions are judged, then it is recorded and its erase begun (R395, R396). -/
def transitionBegun (j : Job) (t : State) : State :=
  let dst := j.desc.par 56
  if dst = 3 ∧ deployable t = false then failedWith j stStateReject t
  else
    let u := lcErase dst j.seq (setTransition (some dst) t)
    if dst = 2 ∨ dst = 4 ∨ dst = 5 then waitingIn j u else transitionRest j u

/-- What is left of the module's own LC_TRANSITION once it is authorised. -/
def transitionAuthorised (j : Job) : Cmd Run := do
  let dst := j.desc.par 56
  let s ← get
  Cmd.need (dst != 3 || deployable s) stStateReject
  set (lcErase dst j.seq (setTransition (some dst) s))
  if dst = 2 ∨ dst = 4 ∨ dst = 5 then Cmd.hold else lcFinish j

theorem finish_transitionAuthorised (hd : j.doom = none) : finish j (transitionAuthorised j t) s = transitionBegun j t := by
  unfold transitionAuthorised
  rw [Cmd.bind_apply, Cmd.get_apply]
  refine finish_need_else hd (by simp) fun _ => ?_
  rw [Cmd.bind_apply, Cmd.set_apply]
  dsimp only
  split
  next => rfl
  next => exact finish_lcFinish _

/-- A LC_TRANSITION that has waited goes on with the rest. -/
theorem lcTransitionRun_waited (hwaits : j.phase = .waiting) : lcTransitionRun j s = lcFinish j s := by
  rw [lcTransitionRun, hwaits]
  rfl

/-- What judges the authority of a transition: custodian authorisations, or a certificate (R395, R400). -/
def transitionJudged (j : Job) (own : Bytes) : Cmd Unit :=
  let src := (byteAt own 0).toNat
  if (byteAt j.input 0).toNat = 1 then judge j 0x0A 8 (actionDigest j 8) none
  else certCheck j (j.input.drop 8) (if src = 4 ∨ src = 0xFF then 0x31 else 0x30) (j.desc.par 56)

/-- A LC_TRANSITION of a permitted move, in its form, is authorised first. -/
theorem lcTransitionRun_first (hfirst : j.phase ≠ .waiting) (hown : j.fwd = false)
    (hshare : share j.seq 2 (fun s => ([BitVec.ofNat 8 (lcCode s), BitVec.ofNat 8 (b2n (bootstrap s))], s)) s = .ok (own, s₁))
    (hlen : 8 ≤ j.input.length) (hzero : zeroAt j.input 1 8 = true)
    (hmove : lcAuthority (byteAt own 0).toNat (j.desc.par 56) (byteAt j.input 0).toNat (byteAt own 1 == 1) = true)
    (hauth : (byteAt j.input 0).toNat = 1 ∨ (byteAt j.input 0).toNat = 2) :
    lcTransitionRun j s = (transitionJudged j own >>= fun _ => transitionAuthorised j) s₁ := by
  rw [lcTransitionRun, beq_eq_false_iff_ne.2 hfirst]
  refine (Cmd.bind_ok hshare).trans ?_
  refine (Cmd.need_bind_true (by rw [hmove, Bool.or_true])).trans ?_
  refine (Cmd.need_bind_true (by simp [hauth, hzero, hlen])).trans ?_
  rw [hown, transitionJudged]
  split <;> rfl

/-- Settles O37: the first run by its authority and then the conditions of the move, a later one by what the transition waits for. -/
theorem transitionsGoByStages : Obligations.TransitionsGoByStages := by
  unfold Obligations.TransitionsGoByStages
  intro s s₁ q j own h
  obtain rfl := h.seq
  intro dst auth src waits ends starts
  have hends (u : State) : transitionRest j u = ends u := rfl
  have hstarts (t : State) : transitionBegun j t = starts t := rfl
  refine ⟨fun hfirst hshare hlen hzero hmove => ⟨fun hauth => congrArg done ?listed, fun hauth => congrArg done ?certified⟩,
    fun hphase => congrArg done ?waited⟩
  case listed =>
    refine (h.runOp_bind (sel := anyJob) rfl (lcTransitionRun_first hfirst h.own hshare hlen hzero hmove (.inl hauth)) fun _ t =>
      (finish_transitionAuthorised h.doom).trans (hstarts t)).trans ?_
    rw [transitionJudged, if_pos hauth]
  case certified =>
    refine (h.runOp_bind (sel := anyJob) rfl (lcTransitionRun_first hfirst h.own hshare hlen hzero hmove (.inr hauth)) fun _ t =>
      (finish_transitionAuthorised h.doom).trans (hstarts t)).trans ?_
    have hcert : (byteAt j.input 0).toNat ≠ 1 := fun h1 => absurd (h1.symm.trans hauth) (by decide)
    rw [transitionJudged, if_neg hcert]
  case waited => exact (h.runOp_eq (lcTransitionRun_waited hphase)).trans ((finish_lcFinish s).trans (hends s))

end Sys2Proof.Machine
end

/-! ## PAIR_STATUS (15 R433, R438, R439, R442) -/

section
namespace Sys2Proof.Machine

variable {s s₁ t : State} {q : Nat} {j : Job} {b : Bytes}

/-- A command with no input, as it asks, goes on. -/
theorem noInput_bind {α : Type} (hin : j.desc.inLen = 0) (k : Unit → Cmd α) : (Cmd.of (noInput j) >>= k) s = k () s := by
  rw [noInput_ok hin]
  rfl

/-- The read gives the status, and tells a diverged pair by its own status (R433). -/
theorem pairReadRun_ok (hin : j.desc.inLen = 0) (hshare : share j.seq 64 (fun s => (pairStatusBytes s, s)) s = .ok (b, s₁)) :
    pairReadRun j s = .ok ({ Run.output b with st := if byteAt b 0 = 5 then stDiverged else stOk }, s₁) :=
  (noInput_bind hin _).trans (Cmd.bind_ok hshare)

/-! ### The hand-over (R438) -/

/-- What is left of a hand-over that waits. -/
theorem handoverRun_waited (hin : j.desc.inLen = 0) (hown : j.fwd = false) (hwaits : j.phase = .waiting) : handoverRun j s =
    if s.pair.handing = some j.seq ∧ s.pair.handover = true then .ok (Run.output [], s) else .error (.hold s) := by
  refine (noInput_bind hin _).trans ?_
  rw [Cmd.bind_apply, Cmd.get_apply, hown, hwaits]
  dsimp only
  rw [if_neg Bool.false_ne_true, if_pos rfl]
  split <;> rfl

/-- An active in step, with no other hand-over under way, begins one. -/
theorem handoverRun_first (hin : j.desc.inLen = 0) (hown : j.fwd = false) (hfirst : j.phase ≠ .waiting) : handoverRun j s =
    (Cmd.need (s.pair.role == 1 && s.pair.state == .inStep && s.pair.handing.isNone) stStateReject >>= fun _ => do
      modify (modPair fun p => { p with handing := some j.seq, handover := false })
      Cmd.hold) s := by
  refine (noInput_bind hin _).trans ?_
  rw [Cmd.bind_apply, Cmd.get_apply, hown]
  exact congrArg (fun m : Cmd Run => m s) (if_neg hfirst)

theorem mayHandOver_iff : (s.pair.role == 1 && s.pair.state == .inStep && s.pair.handing.isNone) = false ↔
    ¬ (s.pair.role = 1 ∧ s.pair.state = .inStep ∧ s.pair.handing = none) := by
  rw [← Bool.not_eq_true, Bool.and_eq_true, Bool.and_eq_true, beq_iff_eq, beq_iff_eq, Option.isNone_iff_eq_none, and_assoc]

theorem finish_handoverRun (hd : j.doom = none) (hin : j.desc.inLen = 0) (hown : j.fwd = false) : finish j (handoverRun j s) s =
    if j.phase = .waiting then
      (if s.pair.handing = some j.seq ∧ s.pair.handover = true then complete j (Run.output []) s else waitingIn j s)
    else if s.pair.role = 1 ∧ s.pair.state = .inStep ∧ s.pair.handing = none then
      waitingIn j (modPair (fun p => { p with handing := some j.seq, handover := false }) s)
    else failedWith j stStateReject s := by
  split
  next hwaits =>
    rw [handoverRun_waited hin hown hwaits]
    split <;> rfl
  next hfirst =>
    rw [handoverRun_first hin hown hfirst, ← ite_not]
    exact finish_need_else hd mayHandOver_iff fun _ => rfl

/-! ### The repair (R439, R442) -/

theorem repairRun_waited (hwaits : j.phase = .waiting) : repairRun j s =
    if s.pair.state = .inStep then .ok (Run.output [], s) else .error (.hold s) := by
  rw [repairRun, Cmd.bind_apply, Cmd.get_apply, hwaits]
  dsimp only
  rw [if_pos rfl]
  split <;> rfl

/-- What is left of a repair of a peer that has none of the vault: it is copied under authorisations of class 8. -/
def repairByCopy (j : Job) : Cmd Run := do
  let boot ← freeBit
  Cmd.need boot stAuthRequired
  judge j 8 0 (actionDigest j 0) none
  modify (startCatchup (some j.seq) true)
  Cmd.hold

/-- What is left of a repair, once the checks of both modules' states hold. -/
def repairChecked (j : Job) : Cmd Run := do
  let same ← freeBit
  Cmd.need same stStateReject
  let matching ← freeBit
  if matching then do
    Cmd.of (noInput j)
    modify (startCatchup (some j.seq) false)
    Cmd.hold
  else repairByCopy j

theorem repairRun_first (hfirst : j.phase ≠ .waiting) : repairRun j s =
    (Cmd.need (mayRepair s && repairOk s) stStateReject >>= fun _ => repairChecked j) s := by
  rw [repairRun, Cmd.bind_apply, Cmd.get_apply]
  exact congrArg (fun m : Cmd Run => m s) (if_neg hfirst)

/-- The state in which a repair has begun its catch-up, and waits for its end. -/
def repairBegun (j : Job) (copy : Bool) (t : State) : State := waitingIn j (startCatchup (some j.seq) copy t)

theorem freeBit_bind {α : Type} (k : Bool → Cmd α) : (freeBit >>= k) t = k ((freeBelow 2 t).1 == 1) (freeBelow 2 t).2 := rfl

theorem finish_noInput (hd : j.doom = none) {k : Unit → Cmd Run} :
    finish j ((Cmd.of (noInput j) >>= k) t) s = if j.desc.inLen = 0 then finish j (k () t) s else failedWith j stFormat t := by
  split
  next hin => rw [noInput_bind hin]
  next hin => exact (congrArg (finish j · s) (by rw [noInput, beq_eq_false_iff_ne.2 hin]; rfl)).trans (failed_eq hd)

/-- What a repair with a copy comes to. -/
def copiedRepair (j : Job) (s t : State) : State :=
  if (freeBelow 2 t).1 ≠ 1 then failedWith j stAuthRequired (freeBelow 2 t).2
  else orEnd j s (judge j 8 0 (actionDigest j 0) none (freeBelow 2 t).2) fun _ u => repairBegun j true u

theorem finish_repairByCopy (hd : j.doom = none) : finish j (repairByCopy j t) s = copiedRepair j s t := by
  rw [repairByCopy, freeBit_bind]
  exact finish_need_else hd beq_eq_false_iff_ne fun _ => finish_bind_at _ _ _ _

/-- What a repair comes to by what it finds of the peer: it needs its firmware to be the same, and copies the vault where the peer has none. -/
def checkedRepair (j : Job) (s t : State) : State :=
  let u := (freeBelow 2 t).2
  if (freeBelow 2 t).1 ≠ 1 then failedWith j stStateReject u
  else if (freeBelow 2 u).1 = 1 then
    (if j.desc.inLen = 0 then repairBegun j false (freeBelow 2 u).2 else failedWith j stFormat (freeBelow 2 u).2)
  else copiedRepair j s (freeBelow 2 u).2

theorem finish_repairChecked (hd : j.doom = none) : finish j (repairChecked j t) s = checkedRepair j s t := by
  rw [repairChecked, freeBit_bind]
  refine finish_need_else hd beq_eq_false_iff_ne fun _ => ?_
  rw [freeBit_bind]
  split
  next hmatch => exact (finish_noInput hd).trans (if_pos (beq_iff_eq.1 hmatch)).symm
  next hmatch => exact (finish_repairByCopy hd).trans (if_neg fun h => hmatch (beq_iff_eq.2 h)).symm

theorem finish_repairRun (hd : j.doom = none) : finish j (repairRun j s) s =
    if j.phase = .waiting then (if s.pair.state = .inStep then complete j (Run.output []) s else waitingIn j s)
    else if mayRepair s = false ∨ repairOk s = false then failedWith j stStateReject s
    else checkedRepair j s s := by
  split
  next hwaits =>
    rw [repairRun_waited hwaits]
    split <;> rfl
  next hfirst =>
    rw [repairRun_first hfirst]
    exact finish_need_else hd Bool.and_eq_false_iff fun _ => finish_repairChecked hd

/-- Settles O39: the read; a hand-over and a repair, each by whether it has waited, and by what it finds. -/
theorem pairStatusAnswers : Obligations.PairStatusAnswers := by
  unfold Obligations.PairStatusAnswers
  intro s s₁ q j b h
  obtain rfl := h.seq
  refine ⟨fun hsel hin hshare => congrArg done ?read, fun hsel hin => congrArg done ?handover, fun hsel => congrArg done ?repair⟩
  case read => exact h.runOp_ok (fun j => j.desc.par 56 == 0) (beq_iff_eq.2 hsel) (pairReadRun_ok hin hshare)
  case handover =>
    exact (h.runOp (fun j => j.desc.par 56 == 2) (beq_iff_eq.2 hsel) handoverRun).trans (finish_handoverRun h.doom hin h.own)
  case repair => exact (h.runOp (fun j => j.desc.par 56 == 1) (beq_iff_eq.2 hsel) repairRun).trans (finish_repairRun h.doom)

end Sys2Proof.Machine
end

/-! ## Debug sessions and accesses, Guard map commits and the boot time-out (14 R402 to R408; 17 R488, R491; 19 R518) -/

section
namespace Sys2Proof.Machine

variable {s : State}

/-- A session ends once NTB has reached its certificate's not-after. -/
theorem execDebugSessionExpiry_late (hopen : s.dbg.open_ = true) (hlate : s.dbg.notAfter ≤ ntbNow s) :
    execDebugSessionExpiry s = done (closeDebug 1 s) := if_pos (by simp [hopen, hlate])

/-- The status page of a session with the right to read it is written again 100 µs after the last time. -/
theorem execDebugPageRefresh_due (b : Bytes) (hopen : s.dbg.open_ = true) (hright : s.dbg.rights.getLsbD 0 = true)
    (hdue : 100000 + s.dbg.refreshed ≤ s.time.mono) : execDebugPageRefresh b s = done { s with dbg := { s.dbg with
      page := (statusRegs.flatMap fun x => blockPage s x.1 x.2) ++ fit 16384 (b.drop (b.length - 16384)), refreshed := s.time.mono } } :=
  if_neg (by simp [hopen, hright, hdue])

/-! ### Accesses through the port -/

/-- No access without main power, an open port and a right to the fabric. -/
theorem execDebugAccess_none (k : AccessKind) (a : W32) (hnone : s.pwr.main = false ∨ debugPortOpen s = false ∨ debugFabric s = false) :
    execDebugAccess k a s = done s := by
  refine if_pos ?_
  rcases hnone with h | h | h <;> simp [h]

/-- What the port is given: nothing on a write. -/
def debugReply (k : AccessKind) (b : Bytes) (t : State) : State := if k = .write then t else emit (.debug b) t

/-- The access is counted. -/
def debugCounted (a : W32) (s : State) : State :=
  pmc { code := 0x12, n := 1, cls := 0, master := 0x30, world := debugWorld s, addr := a.toNat, stage := 0, job := none } s

/-- An admitted access is made. -/
def debugAdmitted (k : AccessKind) (a : W32) (t : State) : State :=
  if k = .write then t else emit (.debug (debugRead a t).1) (debugRead a t).2

/-- The open session is marked. -/
def debugMarked (t : State) : State := { t with dbg := if t.dbg.open_ then { t.dbg with marked := true } else t.dbg }

/-- The region that decided, or 32 for none. -/
def decidingRegion (t : State) (u a : Nat) : Nat := match decidingNow t u a with | some (r, _) => r | none => 32

/-- A refused access is a violation, with event 0x246 naming the region that decided (R405). -/
def debugViolates (k : AccessKind) (a : W32) (u w : Nat) (t : State) : State :=
  note 0x246 20 [a.toNat, accessCode k, u, decidingRegion t u a.toNat]
    (violation u 0x30 w (accessCode k) a true t)

/-- An access that is counted is made if the Guard map admits it; otherwise it is a violation, which marks the session. -/
def debugAnswer (k : AccessKind) (a : W32) (u w : Nat) (t : State) : State :=
  if guardAdmits t u w a.toNat then debugAdmitted k a t else debugReply k (zeros 4) (debugMarked (debugViolates k a u w t))

theorem execDebugAccess_open (k : AccessKind) (a : W32) (hmain : s.pwr.main = true) (hopen : debugPortOpen s = true)
    (hfabric : debugFabric s = true) :
    execDebugAccess k a s = done (debugAnswer k a (Config.fabricUnit a).val (debugWorld s) (debugCounted a s)) := by
  rw [execDebugAccess, if_neg (by simp [hmain, hopen, hfabric])]
  extract_lets u w t region violated noted dbg marked
  have hcounted : debugCounted a s = t := rfl
  rw [hcounted]
  clear_value t
  have hnoted : debugViolates k a u w t = noted := rfl
  clear_value noted
  have hmarked : debugMarked (debugViolates k a u w t) = marked := hnoted ▸ rfl
  rw [debugAnswer, hmarked]
  clear_value marked
  refine Eq.trans (if_congr Iff.rfl ?admitted ?refused) (apply_ite done _ _ _).symm
  case admitted => cases k <;> rfl
  case refused => cases k <;> rfl

/-! ### Map commits and the boot time-out -/

theorem execGrdCommit_staged (hnone : s.grd.staged = none) (m : List (Fin 8 × Fin 32 × GuardRegion)) :
    execGrdCommit m s = done { s with grd := { s.grd with staged := some m, since := s.time.mono } } := if_neg (by simp [hnone])

/-- The map staged takes effect under the next epoch, with event 0x2B2. -/
theorem execGrdCommitApply_staged (hstaged : s.grd.staged.isSome = true) : execGrdCommitApply s = done (
    note 0x2B2 24 [s.grd.epoch.toNat, (s.grd.epoch + 1).toNat, s.time.mono - s.grd.since]
      { s with grd := { s.grd with regions := stagedMap s, boot := false, staged := none, epoch := s.grd.epoch + 1 } }) := by
  obtain ⟨m, hm⟩ := Option.isSome_iff_exists.1 hstaged
  rw [execGrdCommitApply, hm]

/-- An image that has not called in within 1 s gives way to the other slot, if it was a pending one, and otherwise stops the start. -/
theorem execFwBootTimeout_late (hstart : starting s = true) (hlc : lcCode s ≠ 5) (hlate : s.pwr.bootAt + 10 ^ 9 ≤ s.time.mono) :
    execFwBootTimeout s = done (if s.pwr.pendingRun then fallback 3 s else startStop 7 63 s) := by
  rw [execFwBootTimeout, if_neg (by simpa [hstart, hlc] using hlate), apply_ite done]

/-- Settles O52: each command by the state it finds of the session, of the port and its map, or of the start. -/
theorem debugAndGuardAct : Obligations.DebugAndGuardAct := by
  unfold Obligations.DebugAndGuardAct
  refine fun s => ⟨fun hw => served_takesWrites hw _, execDebugSessionExpiry_late, execDebugPageRefresh_due, execDebugAccess_none, ?access,
    fun m hnone => execGrdCommit_staged hnone m, execGrdCommitApply_staged, execFwBootTimeout_late⟩
  case access =>
    intro k a hmain hopen hfabric u w t reply
    refine (execDebugAccess_open k a hmain hopen hfabric).trans (congrArg done ?_)
    have hcounted : debugCounted a s = t := rfl
    rw [hcounted]
    clear_value t
    refine if_congr Iff.rfl rfl ?_
    extract_lets violated noted
    have hnoted : debugViolates k a u w t = noted := rfl
    rw [hnoted]
    clear_value noted
    rfl

end Sys2Proof.Machine
end

/-! ## Scree (16 R458 to R472) -/

section
namespace Sys2Proof.Machine

variable {s : State}

/-! ### Records are closed in turn (R461, R466) -/

theorem execScreeRecordClose_frozen (h : s.scr.frozen.isSome = true) : execScreeRecordClose s = done s := if_pos h

section Thawed
variable (hthawed : s.scr.frozen = none)
include hthawed

/-- The record of a freeze goes first. -/
theorem execScreeRecordClose_thaw {x : ScreeItem} (hx : s.scr.thawRecord = some x) :
    execScreeRecordClose s = done (closeRecord x (modScr (fun c => { c with thawRecord := none }) s)) := by
  rw [execScreeRecordClose, hthawed, hx]
  rfl

/-- Then comes the oldest item of the next FIFO. -/
theorem execScreeRecordClose_next {c : Nat} {x : ScreeItem} {r : List ScreeItem} (hnone : s.scr.thawRecord = none) (hnext : nextFifo s = some c)
    (hitems : (fifoAt s c).items = x :: r) : execScreeRecordClose s = done (closeRecord x
      (modScr (fun y => { y with fifos := Tab.modify Fifo.empty y.fifos c (fifoTake c), last := c }) s)) := by
  simp only [execScreeRecordClose, hthawed, hnone, hnext, hitems]
  rfl

end Thawed

/-! ### Rate limits (R462, R463) -/

/-- A bucket below its capacity gains a token once its time has come. -/
theorem execTokenRefill_due {k : BitVec 12} (hspent : (codeAt s k.toNat).spent ≠ 0)
    (hdue : (codeAt s k.toNat).refilled + tokenNs (codeAt s k.toNat) ≤ s.time.mono) : execTokenRefill k s =
      done (modCode k.toNat (fun c => { c with spent := c.spent - 1, refilled := c.refilled + tokenNs c }) s) :=
  if_neg (not_or.2 ⟨hspent, Nat.not_lt.2 hdue⟩)

/-- The summary of an episode enters its FIFO 10 ms after the episode opened, if there is room. -/
theorem execSuppressed_due {k : BitVec 12} {t n cl : Nat} {a b : W64} (hopen : (codeAt s k.toNat).episode = some (t, n, a, b, cl))
    (hdue : 10000000 + t ≤ s.time.mono) (hroom : (fifoAt s cl).items.length < 16) (hlost : (fifoAt s cl).lost = 0) :
    execSuppressed k s = done (screePut cl
      { code := 2, stamp := a, cluster := 0xFF, payload := leBytes 2 k.toNat ++ zeros 2 ++ leBytes 4 n ++ leBytes 8 b.toNat }
      (modCode k.toNat (fun c => { c with episode := none }) s)) := by
  have hgo : ¬ (s.time.mono < 10000000 + t ∨ 16 ≤ (fifoAt s cl).items.length ∨ (fifoAt s cl).lost ≠ 0) := by omega
  simp only [execSuppressed, hopen, if_neg hgo]

/-! ### The freeze and the acknowledgement (R468) -/

theorem execScrCtrlFreeze_open (hlc : lcCode s ≠ 5) (hthawed : s.scr.frozen = none) :
    execScrCtrlFreeze s = done (modScr (fun c => { c with frozen := some (s.time.mono, stamp s) }) s) := by
  rw [execScrCtrlFreeze, openTo_open hlc, hthawed]
  rfl

/-- A freeze ends by itself when its longest time is over. -/
theorem execFreezeMaxExpiry_late {t : Nat} {x : W64} (hfrozen : s.scr.frozen = some (t, x))
    (hlate : t + 1000000 * clampTo 1 1000 s.scr.freezeMax ≤ s.time.mono) : execFreezeMaxExpiry s = done (endFreeze 2 s) := by
  simp only [execFreezeMaxExpiry, hfrozen, if_neg (Nat.not_lt.2 hlate)]

/-- Settles O54: each command by what it finds of the freeze, the FIFOs or its code's limiter. -/
theorem screeIsServed : Obligations.ScreeIsServed := by
  unfold Obligations.ScreeIsServed
  exact fun s => ⟨execScreeRecordClose_frozen, fun _ hthawed => execScreeRecordClose_thaw hthawed,
    fun _ _ _ hthawed => execScreeRecordClose_next hthawed, fun _ => execTokenRefill_due, fun _ _ _ _ _ _ => execSuppressed_due,
    execScrCtrlFreeze_open, fun hlc => openTo_open hlc _, fun _ _ => execFreezeMaxExpiry_late, fun _ hlc => openTo_open hlc _⟩

end Sys2Proof.Machine
end

/-! ## The journal (16 R446, R451 to R456) and the performance counters (18 R494, R500, R503, R505) -/

section
namespace Sys2Proof.Machine

variable {s : State} {p : Fin 256}

/-! ### The mark, the host ring and the window -/

theorem execMarkRaise_near (h : s.nv.mark.toNat ≤ 2 ^ 31 + s.jrn.next) :
    execMarkRaise s = done { s with nv := { s.nv with mark := s.nv.mark + 0x100000000 } } := if_pos h

theorem execMarkRaise_far (h : 2 ^ 31 + s.jrn.next < s.nv.mark.toNat) : execMarkRaise s = done s := if_neg (Nat.not_le.2 h)

/-- The host ring after a write of its configuration that switches it off. -/
def hostRingAfter (s : State) (p : Fin 256) (v : W32) : HostRing :=
  let x := partAt s p
  let k := bitsOf v.toNat 4 0
  ringCfg (hostRingOk x.cfg p 10 24 k x.jrn.base.toNat 32) ((p.val == 0 && v.getLsbD 9) == x.jrnAll) k false x.jrn

/-- Switched off, a host ring keeps its scope, with event 0x282 if it has gone off. -/
theorem execJrnHrCfgWrite_off (hw : s.takesWrites) (hon : (partAt s p).jrn.en = true) {v : W32} (hoff : v.getLsbD 8 = false) :
    execJrnHrCfgWrite p v s = done (
      let t := modPart p (fun y => { y with jrn := hostRingAfter s p v }) s
      if (hostRingAfter s p v).en = true then t
      else note 0x282 22 [p, 2, (hostRingAfter s p v).log2, b2n (partAt s p).jrnAll] t) := by
  rw [execJrnHrCfgWrite, served_takesWrites hw]
  simp only [hon, hoff, Bool.not_true, Bool.false_eq_true, and_false, if_false, if_true, and_true]
  have hring : ringCfg (hostRingOk (partAt s p).cfg p 10 24 (bitsOf v.toNat 4 0) (partAt s p).jrn.base.toNat 32)
      ((p.val == 0 && v.getLsbD 9) == (partAt s p).jrnAll) (bitsOf v.toNat 4 0) false (partAt s p).jrn = hostRingAfter s p v := rfl
  rw [hring]
  cases (hostRingAfter s p v).en <;> rfl

section Searching
variable (hbusy : (partAt s p).winBusy = true)
include hbusy

theorem execJrnSearchDone_found {e : Entry}
    (hfound : s.jrn.entries.find? (fun e => decide ((partAt s p).winSeq.toNat ≤ e.seq) && readable s p e) = some e) :
    execJrnSearchDone p s = done (modPart p (fun x => { x with
      winBusy := false, winEntry := entryBytes e
      winResult := if (match s.jrn.entries with | e :: _ => decide ((partAt s p).winSeq.toNat < e.seq) | [] => false) then 1 else 0 }) s) := by
  cases hentries : s.jrn.entries with
  | nil => simp only [hentries, List.find?_nil, reduceCtorEq] at hfound
  | cons newest older =>
    rw [hentries] at hfound
    simp only [execJrnSearchDone, hbusy, hentries, hfound, Bool.not_true, Bool.false_eq_true, if_false]

theorem execJrnSearchDone_none
    (hnone : s.jrn.entries.find? (fun e => decide ((partAt s p).winSeq.toNat ≤ e.seq) && readable s p e) = none) :
    execJrnSearchDone p s = done (modPart p (fun x => { x with winBusy := false, winResult := 2, winEntry := [] }) s) := by
  simp only [execJrnSearchDone, hbusy, hnone, Bool.not_true, Bool.false_eq_true, if_false]

end Searching

/-! ### The counters, samples and dumps -/

/-- Cleared, every counter that is not as at reset reads 0. -/
theorem execPmcClearAll_clears (hw : s.takesWrites) : ∃ t, execPmcClearAll s = done t ∧ (∀ x ∈ t.pmc.counters, x.2.value = 0) ∧
    t = { s with pmc := { s.pmc with counters := t.pmc.counters } } := by
  refine ⟨_, served_takesWrites hw _, fun x hx => ?_, rfl⟩
  obtain ⟨y, _, rfl⟩ := List.mem_map.1 (List.mem_of_mem_filter hx)
  rfl

theorem execPmcPDumpCfgWrite_off (hw : s.takesWrites) (hoff : (partAt s p).dump.en = false) (v : W32) :
    execPmcPDumpCfgWrite p v s = done (
      let x := partAt s p
      let h := ringCfg (hostRingOk x.cfg p 4 16 (bitsOf v.toNat 4 0) x.dump.base.toNat 128) (bitsOf v.toNat 31 20 == x.dumpPeriod)
        (bitsOf v.toNat 4 0) (v.getLsbD 8) x.dump
      modPart p (fun y => { y with dump := h, dumpPeriod := bitsOf v.toNat 31 20, dumpLast := if h.en then s.time.mono else y.dumpLast }) s) := by
  rw [execPmcPDumpCfgWrite, served_takesWrites hw]
  simp only [hoff, Bool.not_false, and_true, Bool.false_eq_true, if_false]

/-- A dump due goes into its ring, or is owed while the partition is being reset. -/
theorem execPmcDump_due (hon : (partAt s p).dump.en = true) (hquiet : s.pwr.quiesce ≠ 3)
    (hdue : (partAt s p).dumpLast + dumpNs (partAt s p) ≤ s.time.mono) : execPmcDump p s = done (
      let t := modPart p (fun y => { y with dumpLast := y.dumpLast + dumpNs (partAt s p) }) s
      if (partAt s p).resetting.isSome then modPart p (fun y => { y with dumpOwed := some (partAt s p).dump }) t
      else modPart p (fun y => { y with dump := (dumpInto p (partAt s p).dump t).1 }) (dumpInto p (partAt s p).dump t).2) := by
  rw [execPmcDump, if_neg (by simp [hon, hquiet, hdue])]
  exact (apply_ite done _ _ _).symm

/-- Settles O53: each command by what it finds of the mark, the ring, the window or the dump. -/
theorem journalAndCountersAreServed : Obligations.JournalAndCountersAreServed := by
  unfold Obligations.JournalAndCountersAreServed
  exact ⟨fun s => ⟨execMarkRaise_near, execMarkRaise_far, fun p v hw hon hoff => execJrnHrCfgWrite_off hw hon hoff,
      fun p v hw => served_takesWrites hw _, fun p e hbusy => execJrnSearchDone_found hbusy, fun p hbusy => execJrnSearchDone_none hbusy,
      fun p hw => served_takesWrites hw _⟩,
    fun s => ⟨execPmcClearAll_clears, fun v hw => served_takesWrites hw _, fun p v hw hoff => execPmcPDumpCfgWrite_off hw hoff v,
      fun p => execPmcDump_due⟩⟩

end Sys2Proof.Machine
end

/-! ## Tarn (17 R476 to R490) -/

section
namespace Sys2Proof.Machine

variable {s : State}

/-! ### Errors, the Guard units' reports and escalation (R476 to R479, R488) -/

section Reports
variable (hmain : s.pwr.main = true) (hperst : s.pwr.perst = false) (n : Fin 60) (k : BitVec 6) (u : Byte) (i : W32)
include hmain hperst

/-- An error is raised by its source's kind. -/
theorem execTarnErrorEvent_error (hn : n.val < 48 ∨ 55 < n.val) : execTarnErrorEvent n k u i s = done (
    if srcKindC n then raiseC n k.toNat u.toNat i s else tarnRaise n k.toNat u.toNat i false s) := by
  have hguard : ¬ (48 ≤ n.val ∧ n.val ≤ 55) := by omega
  rw [execTarnErrorEvent, apply_ite done]
  simp only [hmain, hperst, hguard, Bool.not_true, Bool.or_self, Bool.false_eq_true, if_false]

/-- A Guard unit's report is a violation, unless the map admits the access. -/
theorem execTarnErrorEvent_guard (hlow : 48 ≤ n.val) (hhigh : n.val ≤ 55) : execTarnErrorEvent n k u i s = done (
    if guardAdmits s (n.val - 48) (masterWorld u.toNat) i.toNat then s
    else violation (n.val - 48) u.toNat (masterWorld u.toNat) k.toNat i false s) := by
  rw [execTarnErrorEvent, apply_ite done]
  simp only [hmain, hperst, hlow, hhigh, Bool.not_true, Bool.or_self, Bool.false_eq_true, if_false, and_self, if_true]

end Reports

/-- A bit still set when its timer has run out takes the next severity. -/
theorem execTarnEscalation_due {n : Fin 60} {t : Nat} (htimer : (srcAt s n).timer = some t) (hset : (srcAt s n).set = true)
    (hdue : t + escNs s ≤ s.time.mono) : execTarnEscalation n s = done (
      let l := nextSeverity n (srcAt s n).eff
      let u := sendMsix 0 48 (note 0x2A2 23 [n, (srcAt s n).eff, l] s)
      raiseTo n l (modSrc n (fun y => { y with timer := some u.time.mono }) u)) := by
  have hgo : ¬ ((!(srcAt s n).set) = true ∨ s.time.mono < t + escNs s) := by simp [hset, hdue]
  simp only [execTarnEscalation, htimer, if_neg hgo]

/-! ### Bits are cleared, severities set and errors injected (R476, R481, R482, R490) -/

theorem srcAt_sev0 (x : W64) (n : Nat) : srcAt (modTarn (fun t => { t with sev0 := x }) s) n = srcAt s n := rfl

/-- With no bit set, a change of severities raises none. -/
theorem severitiesRaised_none {t : State} (hclear : ∀ n ∈ tarnNos, (srcAt t n).set = false) :
    tarnNos.foldl (fun s n => if (srcAt s n).set && decide ((srcAt s n).eff < sevOf s n) then raiseTo n (sevOf s n) s else s) t = t := by
  refine List.foldlRecOn tarnNos _ (motive := fun u => u = t) rfl fun u hu n hn => ?_
  rw [hu, hclear n hn]
  rfl

section Open
variable (hlc : lcCode s ≠ 5)
include hlc

/-- A change of severities under the lock is an access error. -/
theorem execTarnSevWrite_locked {v : W64} (hchange : sevMerge s.tarn.sev1 v 32 28 ≠ s.tarn.sev1) (hlock : s.tarn.lock = true) :
    execTarnSevWrite true v s = done (accError 2 0xF0030 s) := by
  rw [execTarnSevWrite, openTo_open hlc]
  simp only [if_true, if_neg hchange, hlock]

/-- A change of severities with no bit set is stored, with event 0x2A5. -/
theorem execTarnSevWrite_clear {v : W64} (hchange : sevMerge s.tarn.sev0 v 0 32 ≠ s.tarn.sev0) (hlock : s.tarn.lock = false)
    (hclear : ∀ n ∈ tarnNos, (srcAt s n).set = false) : execTarnSevWrite false v s = done (
      let t := modTarn (fun t => { t with sev0 := sevMerge s.tarn.sev0 v 0 32 }) s
      note 0x2A5 23 [leField (sha256Head 4 (leBytes 8 t.tarn.sev0.toNat ++ leBytes 8 t.tarn.sev1.toNat)) 0 4] t) := by
  rw [execTarnSevWrite, openTo_open hlc]
  simp only [Bool.false_eq_true, if_false, if_neg hchange, hlock]
  rw [severitiesRaised_none fun n hn => (congrArg TarnSrc.set (srcAt_sev0 _ n)).trans (hclear n hn)]

theorem execTarnInject_go {v : W32} (hgo : v.getLsbD 8 = true) (hn : bitsOf v.toNat 5 0 < 60) :
    execTarnInject v s = done (tarnOpen (bitsOf v.toNat 5 0) 63 0 true (note 0x2A6 23 [bitsOf v.toNat 5 0] s)) := by
  rw [execTarnInject, openTo_open hlc]
  exact if_neg (by simp [hgo, hn])

end Open

/-- Pins that read back other than driven raise source 57. -/
theorem execErrReadbackMismatch_differs {p n a b : Bool} (hpair : s.tarn.errPair = some (p, n)) (hdiffer : (a, b) ≠ (p, n)) :
    execErrReadbackMismatch a b s =
      done (raiseC 57 (if a = p then 2 else 1) 0 (Config.freeWord s.freeCtr) { s with freeCtr := s.freeCtr + 1 }) := by
  have hno : ¬ (a = p ∧ b = n) := fun h => hdiffer (Prod.ext h.1 h.2)
  simp only [execErrReadbackMismatch, hpair, if_neg hno]

/-- Settles O55: each command by its source's kind, by its timer, by the lock or by the pins. -/
theorem tarnActs : Obligations.TarnActs := by
  unfold Obligations.TarnActs
  refine fun s => ⟨fun n k u i hmain hperst => ⟨execTarnErrorEvent_error hmain hperst n k u i, execTarnErrorEvent_guard hmain hperst n k u i⟩,
    fun n t => execTarnEscalation_due, fun m g hlc => openTo_open hlc _, fun v hlc => execTarnSevWrite_locked hlc,
    fun v hlc => execTarnSevWrite_clear hlc, fun v hlc => execTarnInject_go hlc, fun p n a b => execErrReadbackMismatch_differs⟩

end Sys2Proof.Machine
end

/-! ## Starts, losses of power, power domains and the quiesce (19 R509 to R523) -/

section
namespace Sys2Proof.Machine

variable {s : State}

/-! ### PERST# and the supplies (R508 to R510, R520, R525) -/

/-- Released with 12 V, PERST# begins a start. -/
theorem execPerstNRelease_powered (hperst : s.pwr.perst = true) (hmain : s.pwr.main = true) (a b c : Bool) :
    execPerstNRelease a b c s = done (beginStart a b c s) := by
  rw [execPerstNRelease, hperst, hmain]
  rfl

theorem execPerstNRelease_unpowered (hperst : s.pwr.perst = true) (hmain : s.pwr.main = false) (a b c : Bool) :
    execPerstNRelease a b c s = done (modPwr (fun p => { p with perst := false }) s) := by
  rw [execPerstNRelease, hperst, hmain]
  rfl

/-- Asserted, PERST# clears the main domain, the loss being noted where work was in flight. -/
theorem execPerstNAssert_powered (hperst : s.pwr.perst = false) (hmain : s.pwr.main = true) : execPerstNAssert s =
    done (modPwr (fun p => { p with perst := true }) (coldMain (if inFlightWork s then noteLoss 2 s else s))) := by
  rw [execPerstNAssert, hperst, hmain]
  rfl

/-- The main domain after a loss of 12 V that is noted. -/
def mainLost (s : State) : State := modPwr (fun p => { p with main := false }) (coldMain (noteLoss 1 s))

/-- A loss of 12 V clears the main domain; with no cell present the vault die lives on its capacitor. -/
theorem execMainPowerLoss_running (hmain : s.pwr.main = true) (hperst : s.pwr.perst = false) : execMainPowerLoss s = done (
    if (mainLost s).tmp.cellA.state = 1 ∧ (mainLost s).tmp.cellB.state = 1 then
      { mainLost s with tmp := { (mainLost s).tmp with holdup := some (mainLost s).time.mono } }
    else mainLost s) := by
  rw [execMainPowerLoss, hmain, hperst, apply_ite done]
  rfl

/-- 12 V good with PERST# released begins a start. -/
theorem execMainPowerGood_off (hmain : s.pwr.main = false) (a b c : Bool) : execMainPowerGood a b c s = done (
    let t := modPwr (fun p => { p with main := true }) { s with tmp := { s.tmp with holdup := none } }
    if s.pwr.perst then t else beginStart a b c t) := by
  rw [execMainPowerGood, hmain]
  exact (apply_ite done _ _ _).symm

theorem execAuxChange_changes {g : Bool} (h : s.pwr.aux ≠ g) : execAuxChange g s = done (
    let t := modPwr (fun p => { p with aux := g }) s
    if (t.pwr.main && domainOn t 4) = true then note 0x2E5 33 [if g then 2 else 1] t else t) := by
  rw [execAuxChange, if_neg h]
  exact (apply_ite done _ _ _).symm

/-! ### The start (R510, R511, R516, R519) -/

section Starting
variable (hstart : starting s = true)
include hstart

/-- A slot that is reached switches its domain on; only slots 2 to 8 may bring work of the boot ROM as well. -/
theorem execPowerDomainSlot_plain (hslot : s.pwr.slot < 58) (hdue : s.pwr.t0 + 25000 * s.pwr.slot ≤ s.time.mono)
    (hplain : s.pwr.slot < 2 ∨ 8 < s.pwr.slot) :
    execPowerDomainSlot s = done (switchOn (s.pwr.slot + 2) (modPwr (fun p => { p with slot := s.pwr.slot + 1 }) s)) := by
  have hgo : ¬ ((!starting s) = true ∨ 58 ≤ s.pwr.slot ∨ s.time.mono < s.pwr.t0 + 25000 * s.pwr.slot) := by
    rw [hstart]
    simp only [Bool.not_true, Bool.false_eq_true, false_or]
    omega
  rw [execPowerDomainSlot, if_neg hgo]
  split
  case h_5 => rfl
  all_goals omega

theorem execStartUpComplete_due (hslots : 58 ≤ s.pwr.slot) (hphase : 7 ≤ s.pwr.phase) (hrng : rngServing s = true) (hlc : lcCode s ≠ 5) :
    execStartUpComplete s = done (if slotVerifies s s.pwr.running = false then imageFails s else bootReady (bootRestore s)) := by
  have hgo : ¬ ((!starting s) = true ∨ s.pwr.slot < 58 ∨ s.pwr.phase < 7 ∨ (!rngServing s) = true ∨ lcCode s = 5) := by
    rw [hstart, hrng]
    simp only [Bool.not_true, Bool.false_eq_true, false_or]
    omega
  rw [execStartUpComplete, if_neg hgo, apply_ite done]
  exact if_congr (Iff.of_eq (Bool.not_eq_true' _)) rfl rfl

/-- The random service that does not come up stops the start. -/
theorem execStartFault_random : execStartFault 2 s = done (startStop 2 30 s) := by
  rw [execStartFault, hstart]
  rfl

/-- So does a root that cannot be read. -/
theorem execStartFault_root : execStartFault 1 s = done (startStop 1 9 (note 0x102 4 [3] s)) := by
  rw [execStartFault, hstart]
  rfl

end Starting

/-! ### Domains switched off and on (R511, R512) -/

/-- A domain of a started module that no longer regulates is an error of the power controller. -/
theorem execDomainRegulationTimeout_started {d : Fin 60} (hmain : s.pwr.main = true) (hperst : s.pwr.perst = false)
    (hon : domainOn s d = true) (hd : 2 ≤ d.val) (hstarted : starting s = false) :
    execDomainRegulationTimeout d s = done (tarnOpen 42 1 d false s) := by
  have hmonitored : decide (d.val < 2) = false := decide_eq_false (Nat.not_lt.2 hd)
  simp only [execDomainRegulationTimeout, hmain, hperst, hon, hmonitored, hstarted, Bool.not_true, Bool.or_self, Bool.false_eq_true, if_false]

/-- An idle engine domain is switched off where its class stays on. -/
theorem execAutoOffIdle_idle {d : Fin 60} {c : Nat} (hclass : domainClass d = some c) (hc : c ≠ 6) (hready : s.pwr.ready = true)
    (hauto : s.pwr.autoOff = true) (hon : domainOn s d = true)
    (hdue : Tab.get 0 s.pwr.idleSince d + 100000 * Nat.max 1 s.pwr.idle ≤ s.time.mono) (hfree : (domainUnits d).any (unitBusy s) = false)
    (hstays : classStaysOn s c d = true) :
    execAutoOffIdle d s = done (modPwr (fun p => { p with domains := p.domains &&& ~~~(BitVec.ofNat 64 (2 ^ d.val)) }) s) := by
  have hlate : decide (s.time.mono < Tab.get 0 s.pwr.idleSince d + 100000 * Nat.max 1 s.pwr.idle) = false := decide_eq_false (Nat.not_lt.2 hdue)
  simp only [execAutoOffIdle, hclass, hready, hauto, hon, hlate, hfree, hc, hstays, Bool.not_true, Bool.or_self, Bool.false_eq_true, if_false]

/-- Work that waits for a class wakes a domain of it, ahead of the domains woken for reserve. -/
theorem execDomainWake_work {d : Fin 60} {c : Nat} (hclass : domainClass d = some c) (hc : c ≠ 6) (hready : s.pwr.ready = true)
    (hoff : domainOn s d = false) (hqueued : s.pwr.queue.any (fun x => x.1 == d.val) = false) (hwork : workWaits s c d = true) :
    execDomainWake d s = done (modPwr (fun p => { p with queue := (p.queue.filter (!·.2)) ++ [(d.val, false)] ++ p.queue.filter (·.2) }) s) := by
  simp only [execDomainWake, hclass, hready, hoff, hqueued, hc, hwork, Bool.not_true, Bool.or_self, Bool.false_eq_true, if_false, if_true]

/-- The first domain of the queue is switched on, at most two in 25 µs. -/
theorem execDomainSwitchOn_next {d : Nat} {x : Bool} {r : List (Nat × Bool)} (hqueue : s.pwr.queue = (d, x) :: r) (hready : s.pwr.ready = true)
    (hfew : (s.pwr.switched.filter fun t => decide (s.time.mono < 25000 + t)).length < 2) : execDomainSwitchOn s = done (
      let t := switchOn d s
      modPwr (fun p => { p with
        queue := r, switched := (s.pwr.switched.filter fun t => decide (s.time.mono < 25000 + t)) ++ [t.time.mono]
        idleSince := Tab.set 0 p.idleSince d t.time.mono }) t) := by
  have hroom : decide (2 ≤ (s.pwr.switched.filter fun t => decide (s.time.mono < 25000 + t)).length) = false :=
    decide_eq_false (Nat.not_le.2 hfew)
  simp only [execDomainSwitchOn, hqueue, hready, hroom, Bool.not_true, Bool.or_self, Bool.false_eq_true, if_false]

/-! ### The quiesce (R521 to R523) -/

theorem execQuiesceReqNRelease_low (hpin : s.pwr.qPin = true) : execQuiesceReqNRelease s = done (
    let t := modPwr (fun p => { p with qPin := false }) s
    if s.pwr.qReg then t else endQuiesce 1 t) := by
  rw [execQuiesceReqNRelease, hpin]
  rfl

section Open
variable (hlc : lcCode s ≠ 5)
include hlc

theorem execPwrCtrlQuiesce_on (hon : domainOn s 4 = true) :
    execPwrCtrlQuiesce s = done (beginQuiesce (modPwr (fun p => { p with qReg := true }) s)) := by
  rw [execPwrCtrlQuiesce, openTo_open hlc, hon]
  rfl

theorem execPwrCtrlUnquiesce_set (hreg : s.pwr.qReg = true) : execPwrCtrlUnquiesce s = done (
    let t := modPwr (fun p => { p with qReg := false }) s
    if s.pwr.qPin then t else endQuiesce 2 t) := by
  rw [execPwrCtrlUnquiesce, openTo_open hlc, hreg]
  rfl

end Open

section Drained
variable (hquiesce : s.pwr.quiesce = 1 ∨ s.pwr.quiesce = 2) (hdrained : inFlightWork s = false)
include hquiesce hdrained

/-- Nothing stands against a quiesce with nothing in flight. -/
theorem quiesceGuard_false : ¬ ((s.pwr.quiesce ≠ 1 ∧ s.pwr.quiesce ≠ 2) ∨ inFlightWork s = true) := by
  rw [hdrained]
  simp only [Bool.false_eq_true, or_false]
  omega

/-- The active of a pair in step hands over first. -/
theorem execQuiesceDrained_handsOver (hrole : s.pair.role = 1) (hstate : s.pair.state = .inStep) (hhanding : s.pair.handing = none) :
    execQuiesceDrained s = done (modPwr (fun p => { p with quiesce := 2 }) { s with pair := { s.pair with handing := some 0 } }) := by
  rw [execQuiesceDrained, if_neg (quiesceGuard_false hquiesce hdrained), if_pos ⟨hrole, hstate⟩, hhanding]
  rfl

/-- A standby, or a module with no role, detaches, and the quiesce is complete. -/
theorem execQuiesceDrained_detaches (hrole : s.pair.role ≠ 1) : execQuiesceDrained s = done (quiesceComplete (detach 4 s)) := by
  rw [execQuiesceDrained, if_neg (quiesceGuard_false hquiesce hdrained), if_neg (fun h => hrole h.1), if_neg hrole]

end Drained

/-- The jobs that a quiesce at its longest time stops: neither ended, nor copied, nor cancelled, nor past stopping. -/
def leftRunning (s : State) : List Job := s.jobs.filter fun j => !j.ended && !j.copied && !j.cancel && !j.pastStop

/-- With every job dispatched, a quiesce at its longest time cancels none at once, and marks what still runs. -/
theorem execQuiesceMaxExpiry_late (hquiesce : s.pwr.quiesce = 1) (hlate : s.pwr.qSince + quiesceNs s ≤ s.time.mono)
    (hran : ∀ j ∈ s.jobs, j.ran = true) : execQuiesceMaxExpiry s = done
      { modPwr (fun p => { p with qEnded := p.qEnded + (leftRunning s).length }) s with
        jobs := s.jobs.map fun j => if (leftRunning s).any (fun k => k.seq == j.seq) then { j with cancel := true } else j } := by
  have hgo : ¬ (s.pwr.quiesce ≠ 1 ∨ s.time.mono < s.pwr.qSince + quiesceNs s) := by omega
  have hnone : ((leftRunning s).filter fun j => !j.ran) = [] := by
    refine List.filter_eq_nil_iff.2 fun j hj => ?_
    simp [hran j (List.mem_of_mem_filter hj)]
  have hmarks : (s.jobs.map fun j => if (leftRunning s).any (fun k => k.seq == j.seq) && j.ran then { j with cancel := true } else j) =
      s.jobs.map fun j => if (leftRunning s).any (fun k => k.seq == j.seq) then { j with cancel := true } else j :=
    List.map_congr_left fun j hj => by rw [hran j hj, Bool.and_true]
  rw [execQuiesceMaxExpiry, if_neg hgo, ← hmarks]
  unfold leftRunning at hnone ⊢
  dsimp only
  rw [hnone]
  rfl

/-- Settles O56: each command by what it finds of the supplies, the start, the domain or the quiesce. -/
theorem powerActs : Obligations.PowerActs := by
  unfold Obligations.PowerActs
  refine ⟨fun s => ⟨fun a b c hperst hmain => execPerstNRelease_powered hperst hmain a b c,
      fun a b c hperst hmain => execPerstNRelease_unpowered hperst hmain a b c, execPerstNAssert_powered, execPowerDomainSlot_plain,
      fun d => execDomainRegulationTimeout_started, execStartUpComplete_due, execStartFault_random, execStartFault_root,
      execMainPowerLoss_running, fun a b c hmain => execMainPowerGood_off hmain a b c, fun g => execAuxChange_changes⟩,
    fun s => ⟨fun d c => execAutoOffIdle_idle, fun d c => execDomainWake_work, fun d x r hqueue hready => execDomainSwitchOn_next hqueue hready,
      rfl, execQuiesceReqNRelease_low, execPwrCtrlQuiesce_on, execPwrCtrlUnquiesce_set, execQuiesceDrained_handsOver,
      execQuiesceDrained_detaches, execQuiesceMaxExpiry_late⟩⟩

end Sys2Proof.Machine
end

/-! ## What a standby does with frames of its active, and the active with those of its standby (15 R420, R422 to R431, R440) -/

section
namespace Sys2Proof.Machine

variable {s : State} {f : Bytes}

/-- A command that a frame brings does nothing on a frame that is discarded, and otherwise what the frame's bytes bring. -/
theorem eq_done_onFrame {type : Nat} {k : Bytes → State → State} (n : Next) (hnone : receive type f s = none → n = done s)
    (hsome : ∀ b t, receive type f s = some (b, t) → n = done (k b t)) : n = done (onFrame type f s k) := by
  unfold onFrame
  cases h : receive type f s with
  | none => exact hnone h
  | some x => exact hsome x.1 x.2 h

/-- Settles O59: a frame that is discarded brings nothing; one that is received, what the module's role, the forwarded job it names or the job
of its own says. -/
theorem standbyFollows : Obligations.StandbyFollows := by
  unfold Obligations.StandbyFollows
  intro s f
  refine ⟨eq_done_onFrame (execAdmit f s) (fun h => by rw [execAdmit, h]) fun b t h => ?admission,
    eq_done_onFrame (execDispatchFrame f s) (fun h => by rw [execDispatchFrame, h]) fun b t h => ?dispatch,
    eq_done_onFrame (execDataFrame f s) (fun h => by rw [execDataFrame, h]) fun b t h => ?data,
    eq_done_onFrame (execRandomFrame f s) (fun h => by rw [execRandomFrame, h]) fun b t h => ?random,
    eq_done_onFrame (execCommitFrame f s) (fun h => by rw [execCommitFrame, h]) fun b t h => ?commit,
    eq_done_onFrame (execDoneFrame f s) (fun h => by rw [execDoneFrame, h]) fun b t h => ?done,
    eq_done_onFrame (execResultFrame f s) (fun h => by rw [execResultFrame, h]) fun b t h => ?result,
    eq_done_onFrame (execJack f s) (fun h => by rw [execJack, h]) fun b t h => ?jack,
    eq_done_onFrame (execSnapshot f s) (fun h => by rw [execSnapshot, h]) fun b t h => ?snapshot,
    eq_done_onFrame (execSnapshotEnd f s) (fun h => by rw [execSnapshotEnd, h]) fun b t h => ?snapshotEnd⟩
  case admission => simp only [execAdmit, h, ← apply_ite done, Bool.not_eq_true']
  case dispatch =>
    simp only [execDispatchFrame, h]
    cases (if standsBy t then fwdOf t (leField b 0 8) else none) with
    | none => rfl
    | some x => simp only [← apply_ite done]
  case data => simp only [execDataFrame, h, ← apply_ite done, Bool.not_eq_true']
  case random => simp only [execRandomFrame, h, ← apply_ite done, Bool.not_eq_true']
  case commit =>
    simp only [execCommitFrame, h, apply_ite done]
    cases fwdOf t (leField b 0 8) with
    | none => simp only [apply_ite done]
    | some x =>
      cases findJob t (leField b 0 8) with
      | none => simp only [apply_ite done]
      | some j => simp only [apply_ite done]
  case done =>
    simp only [execDoneFrame, h]
    cases (if standsBy t then fwdOf t (leField b 0 8) else none) <;> rfl
  case result =>
    simp only [execResultFrame, h]
    cases findJob t (leField b 0 8) with
    | none => rfl
    | some j =>
      cases t.pair.digests.find? (fun x => x.1 == leField b 0 8) with
      | none => simp only [← apply_ite done, Bool.not_eq_true']
      | some d => simp only [← apply_ite done, Bool.not_eq_true']
  case jack => rw [execJack, h]
  case snapshot => simp only [execSnapshot, h, ← apply_ite done, Bool.not_eq_true']
  case snapshotEnd => simp only [execSnapshotEnd, h, ← apply_ite done]

end Sys2Proof.Machine
end

/-! ## The pair's role (15 R412 to R416, R433, R438, R440) -/

section
namespace Sys2Proof.Machine

variable {s : State}

/-! ### The claim and its interlock (R414 to R416) -/

/-- A module that may claim the role raises PAIR_ACT_OUT. -/
theorem execPairClaim_may (hlow : s.pair.actOut = false) (hmay : mayClaim s = true) : execPairClaim s = done (modPair (fun p => { p with
    actOut := true, claimedAt := s.time.mono, claims := p.claims + 1
    claimCause := if s.pair.handover then 2 else if s.pair.role = 0 ∨ s.pair.claims ≠ 0 then 1 else 3 }) s) :=
  if_neg (by simp [hlow, hmay])

section Claimed
variable (hout : s.pair.actOut = true) (heff : s.pair.effective = false) (hdue : s.pair.claimedAt + 2000 ≤ s.time.mono)
include hout heff hdue

/-- 2 µs after the claim nothing stands against the judgement of PAIR_INHIBIT_IN. -/
theorem claimGuard_false : (!s.pair.actOut || s.pair.effective || decide (s.time.mono < 2000 + s.pair.claimedAt)) = false := by
  rw [hout, heff, decide_eq_false (by omega)]
  rfl

/-- With the level high, position B gives way. -/
theorem execClaimCheck_yields (hhigh : s.pair.inhibit = true) (hpos : s.pair.posB = true) : execClaimCheck s = done (
    note 0x262 21 [if s.pair.role = 1 then 2 else s.pair.role, 4]
      (modPair (fun p => { p with actOut := false, role := if p.role = 1 then 2 else p.role }) s)) := by
  simp only [execClaimCheck, claimGuard_false hout heff hdue, hhigh, hpos, Bool.false_eq_true, if_false, if_true]

/-- Position A holds its claim. -/
theorem execClaimCheck_holds (hhigh : s.pair.inhibit = true) (hpos : s.pair.posB = false) : execClaimCheck s = done s := by
  simp only [execClaimCheck, claimGuard_false hout heff hdue, hhigh, hpos, Bool.false_eq_true, if_false, if_true]

/-- With the level low for 2 µs, the module becomes active. -/
theorem execClaimCheck_becomesActive (hlow : s.pair.inhibit = false) (hlong : s.pair.inhibitAt + 2000 ≤ s.time.mono) :
    execClaimCheck s = done (becomeActive s) := by
  have hgo : ¬ s.time.mono < 2000 + s.pair.inhibitAt := by omega
  simp only [execClaimCheck, claimGuard_false hout heff hdue, hlow, Bool.false_eq_true, if_false, if_neg hgo]

end Claimed

theorem execPairInhibitChange_changes {h : Bool} (hne : s.pair.inhibit ≠ h) : execPairInhibitChange h s = done (modPair (fun p => { p with
    inhibit := h, inhibitAt := s.time.mono, effective := p.effective && !h }) s) := if_neg hne

/-! ### The hand-over once everything has drained (R438) -/

/-- No job but the one that asked for it, and no refused descriptor, holds the hand-over up. -/
theorem nothingElseLeft {q : Nat} (hrefused : s.refused = []) (hdrained : ∀ j ∈ s.jobs, j.seq = q ∨ j.copied = true) :
    (s.jobs.any (fun j => j.seq != q && !j.copied) || decide (s.refused ≠ [])) = false := by
  rw [Bool.or_eq_false_iff, List.any_eq_false, decide_eq_false_iff_not]
  refine ⟨fun j hj => ?_, fun h => h hrefused⟩
  rcases hdrained j hj with h | h <;> simp [h]

section Drained
variable {q : Nat} (hhanding : s.pair.handing = some q) (hrefused : s.refused = [])
    (hdrained : ∀ j ∈ s.jobs, j.seq = q ∨ j.copied = true)
include hhanding hrefused hdrained

/-- A hand-over that no command asked for sends HANDOVER and lets the role go. -/
theorem execHandoverDrained_unasked (hq : q = 0) : execHandoverDrained s = done (letGo (sendHandover s)) := by
  simp only [execHandoverDrained, hhanding, nothingElseLeft hrefused hdrained, Bool.false_eq_true, if_false, if_pos hq]

/-- One asked for sends HANDOVER and lets its command end first. -/
theorem execHandoverDrained_asked (hq : q ≠ 0) (hsent : s.pair.handover = false) :
    execHandoverDrained s = done (modPair (fun p => { p with handover := true }) (sendHandover s)) := by
  simp only [execHandoverDrained, hhanding, nothingElseLeft hrefused hdrained, Bool.false_eq_true, if_false, if_neg hq, hsent,
    Bool.not_false, if_true]

theorem execHandoverDrained_ended (hq : q ≠ 0) (hsent : s.pair.handover = true) (hended : ∀ j ∈ s.jobs, j.seq = q → j.live = false) :
    execHandoverDrained s = done (letGo s) := by
  have hnone : s.jobs.any (fun j => j.seq == q && j.live) = false := by
    refine List.any_eq_false.2 fun j hj => ?_
    rw [Bool.and_eq_true, beq_iff_eq]
    exact fun h => Bool.false_ne_true ((hended j hj h.1).symm.trans h.2)
  simp only [execHandoverDrained, hhanding, nothingElseLeft hrefused hdrained, Bool.false_eq_true, if_false, if_neg hq, hsent,
    Bool.not_true, hnone]

end Drained

/-! ### The detachment and the catch-up's end (R433, R440, R442) -/

/-- A member in step detaches; a standby's main domain is cleared then. -/
theorem execPairCtrlDetach_inStep (hw : s.takesWrites) (hstate : s.pair.state = .inStep) :
    execPairCtrlDetach s = done (if s.pair.role = 0 then clearMain (detach 1 s) else detach 1 s) := by
  rw [execPairCtrlDetach, served_takesWrites hw, hstate]

/-- A module that is in no pair, or alone, has nothing to detach from. -/
theorem execPairCtrlDetach_alone (hw : s.takesWrites) (hstate : s.pair.state = .solo ∨ s.pair.state = .alone) :
    execPairCtrlDetach s = done s := by
  rw [execPairCtrlDetach, served_takesWrites hw]
  rcases hstate with h | h <;> rw [h]

/-- A catch-up ends once every job up to the cut has ended. -/
theorem execCatchupInStep_caughtUp {c : Nat} (hcut : s.pair.cut = some c) (hrole : s.pair.role = 1) (hstate : s.pair.state = .catchingUp)
    (hended : ∀ j ∈ s.jobs, j.seq ≤ c → s.pair.catchJob = some j.seq ∨ j.phase = .retired ∨ j.phase = .lag ∨ j.copied = true) :
    execCatchupInStep s = done (
      let t := modPair (fun p => { p with
        cut := none, catchJob := none, divSeq := 0, divPart := 0, divOpcode := 0, inStepSeq := s.jrn.next - 1 }) s
      note 0x267 21 [2, b2n t.pair.vaultCopy] (pairTo .inStep 0 t)) := by
  have hnone : (s.jobs.any fun j =>
      decide (j.seq ≤ c) && s.pair.catchJob != some j.seq && j.phase != .retired && j.phase != .lag && !j.copied) = false := by
    refine List.any_eq_false.2 fun j hj => ?_
    by_cases hle : j.seq ≤ c
    · rcases hended j hj hle with h | h | h | h <;> simp [h]
    · simp [hle]
  have hgo : ¬ (s.pair.role ≠ 1 ∨ s.pair.state ≠ .catchingUp ∨ false = true) := by simp [hrole, hstate]
  simp only [execCatchupInStep, hcut, hnone, if_neg hgo]

end Sys2Proof.Machine
end

/-! ## The pair's link (15 R417 to R421, R434) -/

section
namespace Sys2Proof.Machine

variable {s : State}

/-! ### Training and the handshake's retry (R417, R418) -/

/-- Training of fewer than all lanes, and of a link that was up, is an error each; a handshake starts (R417). -/
theorem execLinkTraining_paired (hpaired : s.pair.paired = true) (hon : domainOn s 59 = true) (n : BitVec 4) : execLinkTraining n s = done (
    let t := setLanes (usableLanes n) s
    let t := modPair (fun p => { p with
      trained := p.lanes != 0, retrains := if s.pair.lanes != 0 then satAdd 0xFFFF p.retrains 1 else p.retrains }) t
    let t := if n = 15 then t else tarnOpen 36 1 0 false t
    startHandshake (if s.pair.lanes != 0 then tarnOpen 36 2 0 false t else t)) := by
  rw [execLinkTraining, hpaired, hon]
  rfl

theorem execLinkTrainingLost_paired (hpaired : s.pair.paired = true) : execLinkTrainingLost s =
    done (endSession (tarnOpen 36 1 0 false (modPair (fun p => { p with trained := false }) (setLanes 0 s)))) := by
  rw [execLinkTrainingLost, hpaired]
  rfl

theorem execHandshakeRetry_due {t : Nat} (hretry : s.pair.retryAt = some t) (hdue : t + 10 ^ 9 ≤ s.time.mono) :
    execHandshakeRetry s = done (startHandshake s) := by
  simp only [execHandshakeRetry, hretry, if_pos hdue]

/-! ### Heartbeats, and the two paths (R419, R421, R434) -/

/-- A heartbeat goes out on both paths each 19 µs. -/
theorem execHeartbeatSend_due (hpaired : s.pair.paired = true) (hon : domainOn s 4 = true) (hdue : s.pair.hbSent + 19000 ≤ s.time.mono) :
    execHeartbeatSend s = done (
      let r := reportedRole s
      let t := emit (.sideband s.pair.hbCounter r) (modPair (fun p => { p with hbSent := s.time.mono, hbCounter := (p.hbCounter + 1) % 64 }) s)
      sendFrame 0x10 ([BitVec.ofNat 8 r, BitVec.ofNat 8 t.pair.state.code, BitVec.ofNat 8 t.time.state.code, BitVec.ofNat 8 t.tmp.level] ++
        zeros 4 ++ leBytes 8 (t.jrn.next - 1) ++ leBytes 8 (stamp t).toNat ++ zeros 8) t) := by
  have hgo : decide (s.time.mono < 19000 + s.pair.hbSent) = false := decide_eq_false (by omega)
  rw [execHeartbeatSend, hpaired, hon, hgo]
  rfl

section Sideband
variable {c : BitVec 6} {r : BitVec 2} {k : Nat} (hpaired : s.pair.paired = true) (hup : s.pair.sidebandOk = true)
    (hcounter : s.pair.sideCounter = some k)
include hpaired hcounter

include hup in
/-- The next character tells the peer's role. -/
theorem execSidebandCharacter_next (hnext : c.toNat = (k + 1) % 64) : execSidebandCharacter c r s =
    done (noteActive r.toNat (modPair (fun p => { p with
      sideCounter := some c.toNat, sidebandAt := some s.time.mono, sideRole := r.toNat }) s)) := by
  have hkept (f : Pair → Pair) (hf : (f s.pair).sidebandOk = s.pair.sidebandOk) (t : State) :
      (if (modPair f s).pair.sidebandOk then modPair f s else t) = modPair f s := if_pos (hf.trans hup)
  simp only [execSidebandCharacter, hpaired, hcounter, decide_eq_true hnext, Bool.not_true, Bool.or_self, Bool.false_eq_true, if_false]
  rw [hkept _ rfl]

/-- A character out of its turn counts for nothing. -/
theorem execSidebandCharacter_skips (hskips : c.toNat ≠ (k + 1) % 64) : execSidebandCharacter c r s = done s := by
  simp only [execSidebandCharacter, hpaired, hcounter, decide_eq_false hskips, Bool.not_true, Bool.not_false, Bool.or_true, if_true]

end Sideband

/-- A path with nothing valid for 100 µs is lost. -/
theorem execPathLost_sideband (hup : s.pair.sidebandOk = true) (hquiet : s.pair.sidebandAt.getD 0 + 100000 ≤ s.time.mono) :
    execPathLost true s = done (losePath true s) := if_pos (by simp [hup]; omega)

theorem execPathLost_inband (hup : s.pair.inbandOk = true) (hquiet : s.pair.inbandAt.getD 0 + 100000 ≤ s.time.mono) :
    execPathLost false s = done (losePath false s) := if_pos (by simp [hup]; omega)

/-- Frames that are sent leave what the link knows of the peer, and the time. -/
theorem emitted_pair_time {α : Type} (g : α → Output) (l : List α) (s : State) :
    (l.foldl (fun s x => emit (g x) s) s).pair = s.pair ∧ (l.foldl (fun s x => emit (g x) s) s).time = s.time :=
  List.foldlRecOn l _ (motive := fun t : State => t.pair = s.pair ∧ t.time = s.time) ⟨rfl, rfl⟩ fun _ h _ _ => h

/-- Frames not acknowledged for 4 µs are sent again. -/
theorem execLinkAckTimeout_resends (hframes : s.pair.replay ≠ []) (hdue : s.pair.ackAt + 4000 ≤ s.time.mono)
    (halive : s.time.mono < s.pair.ackAt + 100000) (htrained : s.pair.trained = true) :
    execLinkAckTimeout s = done (s.pair.replay.foldl (fun s x => emit (.frame x.2) s) s) := by
  have hgo : ¬ (s.pair.replay = [] ∨ s.time.mono < 4000 + s.pair.ackAt) := by
    rw [not_or]
    exact ⟨hframes, by omega⟩
  have hheld : decide (100000 + s.pair.ackAt ≤ s.time.mono) = false := decide_eq_false (by omega)
  obtain ⟨hpair, htime⟩ := emitted_pair_time (fun x : Nat × Bytes => Output.frame x.2) s.pair.replay s
  simp only [execLinkAckTimeout, if_neg hgo, htrained, if_true, hpair, htime, hheld, Bool.and_false, Bool.false_eq_true, if_false]

/-! ### The frames of the handshake and of the pair (R418, R419, R433, R438) -/

section Frames
variable {f b : Bytes} {t : State}

theorem execHandover_received (h : receive 0x40 f s = some (b, t)) : execHandover f s = done (
    if t.pair.role = 0 ∧ t.pair.state = .inStep then
      modPair (fun p => { p with handover := true, highest := Nat.max p.highest (leField b 0 8) })
        { t with jrn := { t.jrn with next := Nat.max t.jrn.next (leField b 0 8 + 1) } }
    else t) := by
  simp only [execHandover, h, ← apply_ite done, ← not_and_or, ne_eq, ite_not]

theorem execDetach_received (h : receive 0x44 f s = some (b, t)) : execDetach f s = done (
    if t.pair.state = .solo ∨ t.pair.state = .alone ∨ t.pair.state = .diverged then t
    else if byteAt b 0 = 2 then diverge 0 0 0 (zeros 16) (zeros 16) t else becomeAlone (byteAt b 0).toNat t) := by
  have hcause : (byteAt b 0).toNat = 2 ↔ byteAt b 0 = 2 := BitVec.toNat_inj (y := 2)
  simp only [execDetach, h, ← apply_ite done, hcause]

/-- A frame of the peer's certificate chain is taken in its place (R418). -/
theorem execCert_received (hstarted : ¬ (s.pair.txSeq = 1 ∧ s.pair.rxSeq = 0 ∧ s.pair.failed = false)) (h : receive 0x04 f s = some (b, t)) :
    execCert f s = done (
      let off := leField b 0 4
      let total := leField b 4 4
      let n := Nat.min 4096 (total - off)
      if t.pair.paired = true ∧ t.pair.peerSerial = [] ∧ off = t.pair.chain.length ∧ (off = 0 ∨ total = t.pair.chainLen) ∧
          8 + n ≤ b.length then
        let u := modPair (fun p => { p with chain := p.chain ++ slice b 8 n, chainLen := total }) t
        if off + n = total then chainArrived (byteAt f 3 == 1) u else u
      else t) := by
  have hin (off total n : Nat) : (!t.pair.paired || t.pair.peerSerial != [] || off != t.pair.chain.length || (off != 0 && total != t.pair.chainLen) ||
      decide (b.length < 8 + n)) = true ↔
      ¬ (t.pair.paired = true ∧ t.pair.peerSerial = [] ∧ off = t.pair.chain.length ∧ (off = 0 ∨ total = t.pair.chainLen) ∧
        8 + n ≤ b.length) := by
    simp only [Bool.or_eq_true, Bool.and_eq_true, Bool.not_eq_true', bne_iff_ne, decide_eq_true_eq, ← Nat.not_le, ← Bool.not_eq_true]
    tauto
  simp only [execCert, Bool.not_eq_true', if_neg hstarted, h, ← apply_ite done, hin, ite_not]

/-- HELLO is answered by position B, if its offer is good. -/
theorem execHello_received (h : receive 0x01 f s = some (b, t)) : execHello f s = done (
    match peerKeys t with
    | none => t
    | some k => if t.pair.posB = false ∨ t.pair.keys.isSome = true then t
      else if offerOk t b k = false then failHandshake 3 t else orStand (answerHello b) t) := by
  simp only [execHello, h]
  cases peerKeys t with
  | none => rfl
  | some k => simp only [← apply_ite done, Bool.not_eq_true']

theorem execConfirm_received (h : receive 0x03 f s = some (b, t)) : execConfirm f s = done (
    match t.pair.transcript with
    | none => t
    | some x => if b.take 48 ≠ x then failHandshake 3 t
      else autoJoin (modPair (fun p => { p with session := true, offer := none, chain := [], chainLen := 0, retryAt := none }) t)) := by
  simp only [execConfirm, h]
  cases t.pair.transcript with
  | none => rfl
  | some x => simp only [← apply_ite done]

theorem execKeyx_received (h : receive 0x02 f s = some (b, t)) : execKeyx f s = done (
    match peerKeys t, t.pair.offer with
    | some k, some (o, seed, ec) =>
      if t.pair.keys.isSome then t
      else if ¬ (byteAt b 0 = 1 ∧ byteAt b 1 = 0x23 ∧ zeroAt b 2 8 = true ∧ slice b 8 32 = slice o 20 32 ∧ zeroAt b 1225 1280 = true ∧
          hybridVerify k.1 k.2 (b.take 1280) (slice b 1280 3405) = true) then failHandshake 3 t
      else match p384Agree (beNat ec) (slice b 1128 97) with
        | none => failHandshake 3 t
        | some z =>
          let x := sha384B (o ++ b.take 1232)
          sendFrame 0x03 x (modPair (fun p => { p with
            keys := some (directionKeys (fit 32 (Config.kemDecaps 0x31 seed (slice b 40 1088))) z x), transcript := some x }) t)
    | _, _ => t) := by
  simp only [execKeyx, h]
  cases peerKeys t with
  | none => rfl
  | some k =>
    cases t.pair.offer with
    | none => rfl
    | some x =>
      obtain ⟨o, seed, ec⟩ := x
      simp only [Bool.not_eq_true', ← Bool.not_eq_true, Bool.and_eq_true, beq_iff_eq, and_assoc, apply_ite done]
      cases p384Agree (beNat ec) (slice b 1128 97) <;> rfl

theorem execHeartbeat_received (h : receive 0x10 f s = some (b, t)) : execHeartbeat f s = done (
    let role := (byteAt b 0).toNat
    let u := noteActive role (modPair (fun p => { p with
      peerRole := role, peerLevel := leField b 1 3, highest := if p.role = 1 ∧ role = 0 then leField b 8 8 else p.highest }) t)
    if u.pair.role = 1 ∧ u.pair.state = .catchingUp ∧ (byteAt b 1).toNat = 2 ∧ u.pair.replay = [] then
      streamAll (note 0x267 21 [3, b2n u.pair.vaultCopy] u)
    else peerState (byteAt b 1).toNat u) := by
  simp only [execHeartbeat, h, ← apply_ite done]

end Frames

/-- Settles O58: the commands of the role by what they find of it, those of the link by what they find of it, and the frames by what is received. -/
theorem pairRoleAndLinkAct : Obligations.PairRoleAndLinkAct := by
  unfold Obligations.PairRoleAndLinkAct
  refine ⟨fun s => ⟨execPairClaim_may, fun hout heff hdue => ⟨execClaimCheck_yields hout heff hdue, execClaimCheck_holds hout heff hdue,
        execClaimCheck_becomesActive hout heff hdue⟩, fun h => execPairInhibitChange_changes, rfl, fun f => ?handover,
      fun q hhanding hrefused hdrained => ⟨execHandoverDrained_unasked hhanding hrefused hdrained,
        execHandoverDrained_asked hhanding hrefused hdrained, execHandoverDrained_ended hhanding hrefused hdrained⟩,
      fun f => ?detach, execPairCtrlDetach_inStep, execPairCtrlDetach_alone, fun c => execCatchupInStep_caughtUp⟩,
    fun s => ⟨fun n hpaired hon => execLinkTraining_paired hpaired hon n, execLinkTrainingLost_paired, fun t => execHandshakeRetry_due,
      fun f hstarted => ?cert, fun f => ?hello, fun f => ?keyx, fun f => ?confirm, fun f => ?heartbeat, execHeartbeatSend_due,
      fun c r k hpaired hup hcounter => ⟨execSidebandCharacter_next hpaired hup hcounter, execSidebandCharacter_skips hpaired hcounter⟩,
      execPathLost_sideband, execPathLost_inband, execLinkAckTimeout_resends⟩⟩
  case handover => exact eq_done_onFrame (execHandover f s) (fun h => by rw [execHandover, h]) fun b t => execHandover_received
  case detach => exact eq_done_onFrame (execDetach f s) (fun h => by rw [execDetach, h]) fun b t => execDetach_received
  case cert =>
    refine eq_done_onFrame (execCert f s) (fun h => ?discarded) fun b t => execCert_received hstarted
    simp only [execCert, Bool.not_eq_true', if_neg hstarted, h]
  case hello => exact eq_done_onFrame (execHello f s) (fun h => by rw [execHello, h]) fun b t => execHello_received
  case keyx => exact eq_done_onFrame (execKeyx f s) (fun h => by rw [execKeyx, h]) fun b t => execKeyx_received
  case confirm => exact eq_done_onFrame (execConfirm f s) (fun h => by rw [execConfirm, h]) fun b t => execConfirm_received
  case heartbeat => exact eq_done_onFrame (execHeartbeat f s) (fun h => by rw [execHeartbeat, h]) fun b t => execHeartbeat_received

end Sys2Proof.Machine
end
